-- ==== Sys2Proof/Word.lean ====
section
/-!
DEFINITION. The word types of the MW-48 (R9, R13, R98, R111) and their plainest arithmetic (R11).
-/

namespace Sys2Proof

abbrev Byte := BitVec 8
abbrev Half := BitVec 16
abbrev Word32 := BitVec 32
abbrev Word := BitVec 64
/-- A number of an s register (R36). -/
abbrev Reg := BitVec 6
/-- A number of a condition register or of a predicate (R36, R102). -/
abbrev Bit3 := BitVec 3

/-- `bits(x, hi, lo)` of R11, as a natural number. -/
def bitsNat (x hi lo : Nat) : Nat := (x / 2 ^ lo) % 2 ^ (hi + 1 - lo)

/-- `sext(x, n)` of R11: bits [n-1:0] of `x` as a signed number. -/
def sextNat (x n : Nat) : Int :=
  if x % 2 ^ n < 2 ^ (n - 1) then ((x % 2 ^ n : Nat) : Int) else ((x % 2 ^ n : Nat) : Int) - 2 ^ n

/-- Bit `i` of a natural number. -/
def bitAt (x i : Nat) : Bool := x / 2 ^ i % 2 == 1

/-- 1 for true, 0 for false. -/
def b2n (b : Bool) : Nat := if b then 1 else 0

/-- The number of set bits among the lowest `n`. -/
def popcount : Nat → Nat → Nat
  | _, 0 => 0
  | x, n + 1 => b2n (bitAt x n) + popcount x n

/-- The number of leading zero bits of an `n`-bit number. -/
def clz : Nat → Nat → Nat
  | _, 0 => 0
  | x, n + 1 => if bitAt x n then 0 else 1 + clz x n

end Sys2Proof
end

