-- ==== Sys2Proof/Syntax.lean ====
section
/-!
DEFINITION. The instructions of the MW-48, one constructor for each row of the opcode table: the scalar
instructions (R38, R300), the SWR forms of registers with a row of their own (R62, R132, R211), the lane
instructions (R116), the steps and host commands of the device (95_what_each_step_holds), and the Sumac
instructions (R407). Register and field numbers of an encoding stay bit vectors of their width; operation
codes are names. The data a step of the outside world brings in are arguments of its constructor.
-/

namespace Sys2Proof

/-- Condition codes of R39 and R115. -/
inductive Cond where
  | eq | ne | lt | le | gt | ge | ltn | len | gtn | gen | unord | ord
  deriving DecidableEq, Repr

/-- ORD of R40 and R115. -/
inductive Ordering4 where
  | relaxed | acq | rel | acqrel
  deriving DecidableEq, Repr

/-- OP of SATOM (R40). -/
inductive AtomOp where
  | add | and | or | xor | min | max | minn | maxn | swap | cas
  deriving DecidableEq, Repr

/-- WHICH of TWAIT (R300). -/
inductive WaitSel where
  | matrix | mover | both
  deriving DecidableEq, Repr

/-- SCOPE of BARX (R300). -/
inductive BarScope where
  | sett | package | domain
  deriving DecidableEq, Repr

/-- SIZE of PGMAP (R68). -/
inductive PageSize where
  | k64 | m2 | g1
  deriving DecidableEq, Repr

/-- The loop registers of R16. -/
inductive LoopReg where
  | ls (n : BitVec 2) | le (n : BitVec 2) | lc (n : BitVec 2) | lstat
  deriving DecidableEq, Repr

/-- The lane types of R114. -/
inductive LType where
  | i32 | n32 | i64 | n64 | i16x2 | n16x2 | i8x4 | n8x4 | f32 | f16 | bf16 | f16x2 | bf16x2
  | e4m3 | e5m2 | e2m3 | e3m2 | e2m1 | e8m0 | b32 | b64 | b128
  deriving DecidableEq, Repr

/-- The read-only values of class 5 (R104). -/
inductive Special where
  | lane | glane | group | col | pass | teamid | gtclo
  deriving DecidableEq, Repr

/-- An operand of a lane word (R98, R103 to R105, R111). -/
inductive Operand where
  | v (i : BitVec 9) | w (i : BitVec 9) | q (i : BitVec 9)
  | m (view : BitVec 2) (frag : BitVec 7)
  | s (i : Reg) | special (x : Special) | imm (x : BitVec 9) | none
  deriving DecidableEq, Repr

/-- GUARD (R111, R112). -/
structure Guard where
  neg : Bool
  pred : Bit3
  deriving DecidableEq, Repr

/-- The fields every lane word has (R111); `ty` is I32, code 0, where an instruction has no type. -/
structure LaneHead where
  g : Guard
  ty : LType
  d : Operand
  a : Operand
  b : Operand
  c : Operand
  deriving DecidableEq, Repr

/-- RND of layout A (R115). -/
inductive Rnd where
  | dyn | rne | rtz | rdn | rup | sr
  deriving DecidableEq, Repr

/-- AUX layout A (R115). -/
structure AuxA where
  imm12 : BitVec 12
  stype : BitVec 6
  sat : Bool
  satf : Bool
  rnd : Rnd
  deriving DecidableEq, Repr

/-- AUX layout C (R115). -/
structure AuxC where
  pfn : BitVec 4
  pb : Bit3
  pa : Bit3
  pd : Bit3
  cond : Cond
  deriving DecidableEq, Repr

/-- AOP of layout M (R115). -/
inductive Aop where
  | add | and | or | xor | min | max | swap
  deriving DecidableEq, Repr

/-- CACHE of layout M (R115). -/
inductive Cache where
  | default | stream | keep | noL1
  deriving DecidableEq, Repr

/-- SCOPE of layout M (R115, R222). -/
inductive Scope where
  | lane | team | core | cluster | sett | package | domain
  deriving DecidableEq, Repr

/-- AUX layout M (R115); `narrow` is 0 to 2. -/
structure AuxM where
  narrow : BitVec 2
  aop : Aop
  cache : Cache
  ord : Ordering4
  scope : Scope
  off : BitVec 13
  deriving DecidableEq, Repr

/-- AUX layout X (R115). -/
structure AuxX where
  pa : Bit3
  imm12 : BitVec 12
  xop : BitVec 4
  deriving DecidableEq, Repr

/-- AUX layout B (R115). -/
structure AuxB where
  pack : Bool
  imm16 : BitVec 16
  deriving DecidableEq, Repr

/-- T of KADD, KMAX and KMIN (R407). -/
inductive KType where
  | f32 | bf16 | i32
  deriving DecidableEq, Repr

/-- DT and ST of KCVT (R407). -/
inductive KFmt where
  | f32 | bf16 | e4m3
  deriving DecidableEq, Repr

/-- Conditions of XCMP (R407). -/
inductive XCond where
  | eq | ne | lt | ge | ltn | gen
  deriving DecidableEq, Repr

/-- A sector that a reply carries for the L1 (R211, R231): its address, its bytes, and the KEY, RD and W of its page. -/
structure Fill where
  addr : Nat
  data : List Byte
  key : Nat
  rd : Bool
  w : Bool
  deriving DecidableEq, Repr

/-- What another package answers for one lane of a request (R212): a fault code, or 0 and the bytes read, with the sectors
they lie in. -/
structure Answer where
  lane : Nat
  code : Nat
  data : List Byte
  fills : List Fill := []
  deriving DecidableEq, Repr

/-- The body of a class-0 message (R377, R319, R321, R384, R406, R420). -/
inductive CtlBody where
  /-- A counter increment for counter `idx` of context `ctx`. -/
  | increment (ctx idx inc : Nat)
  /-- A release flag: `value` is stored at `addr` once the writes up to `cover` are performed. -/
  | flag (ctx : Nat) (addr : Word) (value : Word) (cover : BitVec 32)
  /-- A barrier arrival (R321) of member `index`, from the team numbered `team` where it is of this package. -/
  | arrival (ctx idx members index lag : Nat) (record : Word) (team : Nat)
  /-- The answer to an arrival: the counter value before it, or none where the index was out of range. -/
  | arrived (ctx team : Nat) (v : Option Nat)
  /-- A Sumac trap record (R406). -/
  | record (ctx : Nat) (addr : Word) (bytes : List Byte) (ctr : Nat)
  /-- An abort of a collective run (R420). -/
  | abort (ctx group : Nat)
  deriving DecidableEq, Repr

/-- A class-0 message (R383, R426): its source, its CSEQ and its SGTC. -/
structure CtlMsg where
  srcPkg : Nat
  srcSett : Nat
  cseq : Nat
  sgtc : Nat
  body : CtlBody
  deriving DecidableEq, Repr

/-- A host access through the device memory window (R438). -/
inductive HostAccess where
  | read (n : Nat)
  | write (data : List Byte)
  deriving DecidableEq, Repr

/-- A command of the host command ring (R439): the site, its CTX field and its seven parameter fields. -/
structure HostCmd where
  site : Nat
  ctx : Nat
  params : List Word
  deriving DecidableEq, Repr

/-- One item the sett's regulator reports at an energy charge (R441): the share of a team, or of a context
where `team` is none, in units of 1 / 1,000 of a µJ. -/
structure Charge where
  ctx : Nat
  team : Option Nat
  amount : Nat
  deriving DecidableEq, Repr

/-- An entry of a defect map (R372). -/
structure Defect where
  kind : Nat
  sett : Nat
  prow : Nat
  pcol : Nat
  index : Nat
  deriving DecidableEq, Repr

/-- Delivery modes of Ultra Ethernet (R385). -/
inductive UeMode where
  | rod | rud | rudi | uud
  deriving DecidableEq, Repr

/-- An inbound Ultra Ethernet operation of a context (R385). -/
inductive UeOp where
  | write (ctx : Nat) (addr : Word) (data : List Byte)
  | read (ctx : Nat) (addr : Word) (n : Nat)
  | fetchAdd (ctx : Nat) (addr : Word) (x : Word)
  | compareSwap (ctx : Nat) (addr : Word) (expect new : Word)
  | send (ctx : Nat) (tag : Option Word) (data : List Byte)
  deriving DecidableEq, Repr

/-- An operation that arrives over an endpoint of a sett (R385). -/
structure UeArrival where
  sett : Nat
  endpoint : Nat
  op : UeOp
  deriving DecidableEq, Repr

/-- The part of a request that its owner performs in one step (R223): the granules whose number modulo 16 is a set bit of
`part`. -/
structure ReqPart where
  tag : Nat
  part : Nat
  deriving DecidableEq, Repr

/-- What a two-step IEEE 1588 exchange gives the servo (R424): the four time stamps. -/
structure PtpMsg where
  t1 : Nat
  t2 : Nat
  t3 : Nat
  t4 : Nat
  deriving DecidableEq, Repr

/-- The instructions and steps of the device. A host command names no fields: its slot stands in `State.hcmd`. The
constructors without fields come last (compiled Lean gives a constructor with fields a tag below 245). -/
inductive Instr where
  /-- SADD (R49). -/
  | sadd (d a b : Reg)
  /-- SSUB (R49). -/
  | ssub (d a b : Reg)
  /-- SMUL (R49). -/
  | smul (d a b : Reg)
  /-- SMULH (R49). -/
  | smulh (d a b : Reg)
  /-- SMULHN (R49). -/
  | smulhn (d a b : Reg)
  /-- SDIV (R49). -/
  | sdiv (d a b : Reg)
  /-- SDIVN (R49). -/
  | sdivn (d a b : Reg)
  /-- SREM (R49). -/
  | srem (d a b : Reg)
  /-- SREMN (R49). -/
  | sremn (d a b : Reg)
  /-- SAND (R49). -/
  | sand (d a b : Reg)
  /-- SOR (R49). -/
  | sor (d a b : Reg)
  /-- SXOR (R49). -/
  | sxor (d a b : Reg)
  /-- SSHL (R49). -/
  | sshl (d a b : Reg)
  /-- SSHR (R49). -/
  | sshr (d a b : Reg)
  /-- SSRA (R49). -/
  | ssra (d a b : Reg)
  /-- SMIN (R49). -/
  | smin (d a b : Reg)
  /-- SMAX (R49). -/
  | smax (d a b : Reg)
  /-- SMINN (R49). -/
  | sminn (d a b : Reg)
  /-- SMAXN (R49). -/
  | smaxn (d a b : Reg)
  /-- SCMP (R50). -/
  | scmp (k : Cond) (c : Bit3) (a b : Reg)
  /-- SSEL (R50). -/
  | ssel (d a b : Reg) (c : Bit3)
  /-- SCLZ (R50). -/
  | sclz (d a : Reg)
  /-- SPOPC (R50). -/
  | spopc (d a : Reg)
  /-- SADDI (R51). -/
  | saddi (d a : Reg) (i : BitVec 13)
  /-- SANDI (R51). -/
  | sandi (d a : Reg) (i : BitVec 13)
  /-- SORI (R51). -/
  | sori (d a : Reg) (i : BitVec 13)
  /-- SXORI (R51). -/
  | sxori (d a : Reg) (i : BitVec 13)
  /-- SSHLI (R51). -/
  | sshli (d a : Reg) (n : BitVec 6)
  /-- SSHRI (R51). -/
  | sshri (d a : Reg) (n : BitVec 6)
  /-- SSRAI (R51). -/
  | ssrai (d a : Reg) (n : BitVec 6)
  /-- SCMPI (R51). -/
  | scmpi (k : Cond) (c : Bit3) (a : Reg) (i : BitVec 13)
  /-- SLI (R52). -/
  | sli (d : Reg) (i : BitVec 19)
  /-- SEXT (R31). -/
  | sext (i : BitVec 25)
  /-- SBR (R54). -/
  | sbr (c : Bit3) (neg : Bool) (o : BitVec 21)
  /-- SJMP (R54). -/
  | sjmp (o : BitVec 21)
  /-- SCALL (R54). -/
  | scall (o : BitVec 21)
  /-- SRET (R54). -/
  | sret (a : Reg)
  /-- SJMPR (R54). -/
  | sjmpr (d a : Reg)
  /-- SLOOP (R26). -/
  | sloop (l : BitVec 2) (c : Reg) (o : BitVec 17)
  /-- SLDW (R56). -/
  | sldw (d a : Reg) (i : BitVec 13)
  /-- SLDD (R56). -/
  | sldd (d a : Reg) (i : BitVec 13)
  /-- SSTW (R56). -/
  | sstw (d a : Reg) (i : BitVec 13)
  /-- SSTD (R56). -/
  | sstd (d a : Reg) (i : BitVec 13)
  /-- SATOM (R57). -/
  | satom (d a b : Reg) (ord : Ordering4) (word : Bool) (op : AtomOp)
  /-- LGO (R59). -/
  | lgo (i : BitVec 19)
  /-- SRD (R62). -/
  | srd (d : Reg) (n : BitVec 12)
  /-- SWR (R62). -/
  | swr (a : Reg) (n : BitVec 12)
  /-- TRAP (R64). -/
  | trap (n : BitVec 16)
  /-- WAITT (R61). -/
  | waitt (a : Reg)
  /-- CHDEF (R301). -/
  | chdef (a b : Reg) (l : BitVec 4) (h : BitVec 5)
  /-- CHADV_P (R302). -/
  | chadvP (a : Reg) (h : BitVec 5)
  /-- CHADV_C (R302). -/
  | chadvC (a : Reg) (h : BitVec 5)
  /-- CHWAIT_CNT (R303). -/
  | chwaitCnt (a : Reg) (h : BitVec 5)
  /-- CHWAIT_ROOM (R303). -/
  | chwaitRoom (a : Reg) (h : BitVec 5)
  /-- MVCOPY (R305). -/
  | mvcopy (a : Reg) (dec : Bool)
  /-- MVGATH (R306). -/
  | mvgath (a : Reg)
  /-- MVFILL (R307). -/
  | mvfill (a : Reg)
  /-- TMMA (R309). -/
  | tmma (a : Reg) (bord aord zero : Bool) (hb ha : BitVec 5)
  /-- TACC_ZERO (R310). -/
  | taccZero (a : Reg)
  /-- TACC_LOAD (R310). -/
  | taccLoad (a : Reg) (h : BitVec 5)
  /-- TACC_STORE (R310). -/
  | taccStore (a : Reg) (h : BitVec 5)
  /-- TACC_STORE_BF16 (R310). -/
  | taccStoreBf16 (a : Reg) (h : BitVec 5)
  /-- TACC_STORE_E4M3 (R310). -/
  | taccStoreE4m3 (a : Reg) (satf : Bool) (h : BitVec 5)
  /-- TWAIT (R312). -/
  | twait (d : Reg) (w : WaitSel)
  /-- SPANOPEN (R313). -/
  | spanopen (a : Reg)
  /-- SPANMMA (R314). -/
  | spanmma (a : Reg) (keep zero : Bool) (ha hb : BitVec 5)
  /-- DFENCE (R316). -/
  | dfence (a b : Reg)
  /-- QPOST (R317). -/
  | qpost (a : Reg) (arrive : Bool)
  /-- CNTSET (R318). -/
  | cntset (a b : Reg)
  /-- CNTADD (R319). -/
  | cntadd (a b : Reg) (arrive remote : Bool)
  /-- CNTWAIT (R320). -/
  | cntwait (a b : Reg)
  /-- CNTWAIT_NOWAIT (R320). -/
  | cntwaitNowait (a b : Reg) (c : Bit3)
  /-- BARX (R321). -/
  | barx (a : Reg) (sc : BarScope)
  /-- SPMAP (R322). -/
  | spmap (a b : Reg) (we : Bool)
  /-- SPUNMAP (R323). -/
  | spunmap (a b : Reg)
  /-- SPMIG (R324). -/
  | spmig (a : Reg) (c : Bit3)
  /-- TLAUNCH (R325). -/
  | tlaunch (a : Reg)
  /-- PHINT (R67). -/
  | phint (i : BitVec 19)
  /-- PGMAP (R68). -/
  | pgmap (a b : Reg) (x w r : Bool) (key : BitVec 5) (size : PageSize)
  /-- ENRES (R69). -/
  | enres (a : Reg)
  /-- ENRES_NOWAIT (R69). -/
  | enresNowait (a : Reg) (c : Bit3)
  /-- FSTAT_WRITE (R135). -/
  | fstatWrite (a : Reg)
  /-- FMODE_WRITE (R132). -/
  | fmodeWrite (a : Reg)
  /-- SRSEED_WRITE (R129). -/
  | srseedWrite (a : Reg)
  /-- PKR_WRITE (R211). -/
  | pkrWrite (a : Reg)
  /-- LOOP_REGISTER_WRITE (R62). -/
  | loopRegisterWrite (a : Reg) (r : LoopReg)
  /-- VADD (R145). -/
  | vadd (h : LaneHead) (x : AuxA)
  /-- VSUB (R145). -/
  | vsub (h : LaneHead) (x : AuxA)
  /-- VMUL (R145). -/
  | vmul (h : LaneHead) (x : AuxA)
  /-- VMULH (R145). -/
  | vmulh (h : LaneHead)
  /-- VMAD (R145). -/
  | vmad (h : LaneHead) (x : AuxA)
  /-- VMIN (R145). -/
  | vmin (h : LaneHead)
  /-- VMAX (R145). -/
  | vmax (h : LaneHead)
  /-- VABS (R145). -/
  | vabs (h : LaneHead) (x : AuxA)
  /-- VNEG (R145). -/
  | vneg (h : LaneHead) (x : AuxA)
  /-- VAND (R147). -/
  | vand (h : LaneHead)
  /-- VOR (R147). -/
  | vor (h : LaneHead)
  /-- VXOR (R147). -/
  | vxor (h : LaneHead)
  /-- VNOT (R147). -/
  | vnot (h : LaneHead)
  /-- VSHL (R148). -/
  | vshl (h : LaneHead)
  /-- VSHR (R148). -/
  | vshr (h : LaneHead)
  /-- VSRA (R148). -/
  | vsra (h : LaneHead)
  /-- VROL (R148). -/
  | vrol (h : LaneHead)
  /-- VCLZ (R149). -/
  | vclz (h : LaneHead)
  /-- VPOPC (R149). -/
  | vpopc (h : LaneHead)
  /-- VBFX (R150). -/
  | vbfx (h : LaneHead)
  /-- VBFI (R150). -/
  | vbfi (h : LaneHead)
  /-- VDOT4 (R146). -/
  | vdot4 (h : LaneHead) (x : AuxA)
  /-- VCMP (R151). -/
  | vcmp (h : LaneHead) (x : AuxC)
  /-- VSEL (R152). -/
  | vsel (h : LaneHead) (x : AuxC)
  /-- PLOP (R153). -/
  | plop (h : LaneHead) (x : AuxC)
  /-- VMOV (R152). -/
  | vmov (h : LaneHead)
  /-- VLI (R154). -/
  | vli (g : Guard) (t : LType) (d : Operand) (i : BitVec 32)
  /-- VSHFL (R156). -/
  | vshfl (h : LaneHead) (x : AuxX)
  /-- VBCAST (R157). -/
  | vbcast (h : LaneHead) (x : AuxX)
  /-- VREDUCE (R158). -/
  | vreduce (h : LaneHead) (x : AuxX)
  /-- VSCAN (R160). -/
  | vscan (h : LaneHead) (x : AuxX)
  /-- VVOTE (R161). -/
  | vvote (h : LaneHead) (x : AuxX)
  /-- BRA (R162). -/
  | bra (g : Guard) (target : BitVec 32) (d : Operand) (x : AuxB)
  /-- BRX (R162). -/
  | brx (h : LaneHead) (x : AuxB)
  /-- SKIP (R163). -/
  | skip (h : LaneHead) (x : AuxB)
  /-- JOIN (R164). -/
  | join (h : LaneHead)
  /-- LEND (R164). -/
  | lend (h : LaneHead)
  /-- YIELDL (R164). -/
  | yieldl (h : LaneHead)
  /-- LTRAP (R165). -/
  | ltrap (h : LaneHead) (x : AuxB)
  /-- VFADD (R168). -/
  | vfadd (h : LaneHead) (x : AuxA)
  /-- VFSUB (R168). -/
  | vfsub (h : LaneHead) (x : AuxA)
  /-- VFMUL (R168). -/
  | vfmul (h : LaneHead) (x : AuxA)
  /-- VFMA (R168). -/
  | vfma (h : LaneHead) (x : AuxA)
  /-- VFMIN (R170). -/
  | vfmin (h : LaneHead)
  /-- VFMAX (R170). -/
  | vfmax (h : LaneHead)
  /-- VFDIV (R171). -/
  | vfdiv (h : LaneHead) (x : AuxA)
  /-- VFSQRT (R171). -/
  | vfsqrt (h : LaneHead) (x : AuxA)
  /-- VFRCP (R172). -/
  | vfrcp (h : LaneHead)
  /-- VFRSQ (R172). -/
  | vfrsq (h : LaneHead)
  /-- VFEXP2 (R172). -/
  | vfexp2 (h : LaneHead)
  /-- VFLOG2 (R172). -/
  | vflog2 (h : LaneHead)
  /-- VFSIN (R172). -/
  | vfsin (h : LaneHead)
  /-- VFCOS (R172). -/
  | vfcos (h : LaneHead)
  /-- VFCLASS (R175). -/
  | vfclass (h : LaneHead)
  /-- VFRND (R173). -/
  | vfrnd (h : LaneHead) (x : AuxA)
  /-- VFSGN (R174). -/
  | vfsgn (h : LaneHead) (x : AuxA)
  /-- VFEXPO (R176). -/
  | vfexpo (h : LaneHead)
  /-- VCVT (R179). -/
  | vcvt (h : LaneHead) (x : AuxA)
  /-- VPACK (R181). -/
  | vpack (h : LaneHead) (x : AuxA)
  /-- VUNPK (R181). -/
  | vunpk (h : LaneHead) (x : AuxA)
  /-- VLD (R247). -/
  | vld (h : LaneHead) (x : AuxM)
  /-- VST (R248). -/
  | vst (h : LaneHead) (x : AuxM)
  /-- VATOM (R249). -/
  | vatom (h : LaneHead) (x : AuxM)
  /-- VCAS (R251). -/
  | vcas (h : LaneHead) (x : AuxM)
  /-- VPREF (R252). -/
  | vpref (h : LaneHead) (x : AuxM)
  /-- FENCE (R253). -/
  | fence (h : LaneHead) (x : AuxM)
  /-- BAR (R254). -/
  | bar (h : LaneHead) (x : AuxX)
  /-- FMMA (R186). -/
  | fmma (h : LaneHead)
  /-- FLD (R188). -/
  | fld (h : LaneHead) (x : AuxM)
  /-- FST (R188). -/
  | fst (h : LaneHead) (x : AuxM)
  /-- WATCHDOG_FIRE (R90). -/
  | watchdogFire (path : Nat)
  /-- LINE_ARRIVAL (R201). -/
  | lineArrival (frame line : Nat)
  /-- GLOBAL_REQUEST (R207), for the granules of its line that the bits of `part` name (R223). -/
  | globalRequest (r : ReqPart)
  /-- GLOBAL_REPLY (R244). -/
  | globalReply (tag : Nat) (ext : List Answer)
  /-- ENGINE_COMMAND_FIRE (R265). -/
  | engineCommandFire (matrix : Bool)
  /-- MOVER_OPERATION_COMPLETE (R307). -/
  | moverOperationComplete (op : Nat) (ext : List Answer)
  /-- MATRIX_OPERATION_COMPLETE (R274). -/
  | matrixOperationComplete (op : Nat)
  /-- SPAN_ROUND_COMPLETE (R279). -/
  | spanRoundComplete (op : Nat)
  /-- CLE_ENTRY_COMPLETE (R292). -/
  | cleEntryComplete (sett entry : Nat) (ext : List Answer)
  /-- CLE_ENTRY_FAULTED (R296). -/
  | cleEntryFaulted (sett entry : Nat)
  /-- REMOTE_COUNTER_INCREMENT (R319). -/
  | remoteCounterIncrement (sett : Nat)
  /-- BARX_ARRIVAL (R321). -/
  | barxArrival (sett : Nat)
  /-- RELEASE_FLAG_APPLY (R384). -/
  | releaseFlagApply (sett : Nat)
  /-- CONTROL_MESSAGE_RECEIVED (R383). -/
  | controlMessageReceived (sett : Nat) (m : CtlMsg)
  /-- FAULT_EVENT_POST (R345). -/
  | faultEventPost (ctx : Nat)
  /-- FAULT_COMPLETION_ENTRY (R348). -/
  | faultCompletionEntry (ctx : Nat)
  /-- STOP_CUT (R352). -/
  | stopCut (ctx : Nat)
  /-- SAVE (R358). -/
  | save (ctx : Nat)
  /-- USER_QUEUE_DOORBELL (R285). -/
  | userQueueDoorbell (site queue value : Nat)
  /-- PACKET_START (R287). -/
  | packetStart (site : Nat)
  /-- GANG_PLACEMENT (R94). -/
  | gangPlacement (grid : Nat)
  /-- GRID_COMPLETE (R287). -/
  | gridComplete (grid : Nat)
  /-- TAIL_CHILD_START (R97). -/
  | tailChildStart (grid : Nat)
  /-- HOST_MEMORY_ACCESS (R438). -/
  | hostMemoryAccess (site off : Nat) (acc : HostAccess)
  /-- HOST_RING_DOORBELL (R439). -/
  | hostRingDoorbell (site value : Nat)
  /-- ENERGY_CHARGE (R441). -/
  | energyCharge (sett : Nat) (bill : List Charge)
  /-- CLUSTER_POWER_DOWN (R442). -/
  | clusterPowerDown (sett cluster : Nat)
  /-- INRUSH_TOKEN_RELEASE (R442). -/
  | inrushTokenRelease (sett : Nat)
  /-- COLLECTIVE_RUN_START (R415). -/
  | collectiveRunStart (group : Nat)
  /-- CHUNK_COMMIT (R415). -/
  | chunkCommit (group : Nat)
  /-- COLLECTIVE_DEADLINE_EXPIRY (R417). -/
  | collectiveDeadlineExpiry (group : Nat)
  /-- COLLECTIVE_LOSS_END (R418). -/
  | collectiveLossEnd (group : Nat)
  /-- COLLECTIVE_RECOVERY (R419). -/
  | collectiveRecovery (group : Nat)
  /-- ABORT_APPLY (R420). -/
  | abortApply (group sett : Nat)
  /-- ABORT_FINISH (R420). -/
  | abortFinish (group : Nat)
  /-- LINK_FLIT_RECEIVED (R381). -/
  | linkFlitReceived (link : Nat) (flit : List Byte)
  /-- LINK_DOWN (R381). -/
  | linkDown (link : Nat)
  /-- LINK_LOSS_OF_LOCK (R381). -/
  | linkLossOfLock (link : Nat)
  /-- RETRAIN_REQUEST (R382). -/
  | retrainRequest (sett port rate mask : Nat)
  /-- RETRAIN_COMPLETE (R382). -/
  | retrainComplete (sett port rate mask fabric : Nat)
  /-- DELIVERY_TIMEOUT (R379). -/
  | deliveryTimeout (tag : Nat)
  /-- CONTROL_MESSAGE_TIMEOUT (R383). -/
  | controlMessageTimeout (sett : Nat) (m : CtlMsg)
  /-- FLIT_TRAVERSAL (R387). -/
  | flitTraversal (chip port : Nat) (flit : List Byte)
  /-- VOQ_TRANSMIT (R389). -/
  | voqTransmit (chip port : Nat)
  /-- CIRCUIT_LIT (R396). -/
  | circuitLit (pkg : Nat)
  /-- SLOT_UNLOAD_TAKES_EFFECT (R398). -/
  | slotUnloadTakesEffect (chip slot : Nat)
  /-- LDP (R408). -/
  | ldp (d : BitVec 4) (w : BitVec 3)
  /-- LDP_H (R408). -/
  | ldpH (d : BitVec 4) (f w : BitVec 3)
  /-- STP (R408). -/
  | stp (r : BitVec 4) (w : BitVec 3)
  /-- LDF (R408). -/
  | ldf (d : BitVec 4) (f : BitVec 3) (n : BitVec 7)
  /-- STF (R408). -/
  | stf (r : BitVec 4) (f : BitVec 3) (n : BitVec 7)
  /-- LDH (R409). -/
  | ldh (d : BitVec 3) (f : BitVec 8)
  /-- XADD (R408). -/
  | xadd (d a b : BitVec 3)
  /-- XADD_IMM (R408). -/
  | xaddImm (d a : BitVec 3) (i : BitVec 16)
  /-- XSUB (R408). -/
  | xsub (d a b : BitVec 3)
  /-- XSUB_IMM (R408). -/
  | xsubImm (d a : BitVec 3) (i : BitVec 16)
  /-- XAND (R408). -/
  | xand (d a b : BitVec 3)
  /-- XAND_IMM (R408). -/
  | xandImm (d a : BitVec 3) (i : BitVec 16)
  /-- XLI (R408). -/
  | xli (d : BitVec 3) (u : Bool) (i : BitVec 16)
  /-- XCMP (R408). -/
  | xcmp (k : XCond) (a b : BitVec 3)
  /-- XCMP_IMM (R408). -/
  | xcmpImm (k : XCond) (a : BitVec 3) (i : BitVec 16)
  /-- BRF (R408). -/
  | brf (n : Bool) (o : BitVec 10)
  /-- REPEAT (R408). -/
  | repeatN (c : BitVec 5) (l : BitVec 10)
  /-- KADD (R410). -/
  | kadd (d a b : BitVec 4) (t : KType)
  /-- KMAX (R410). -/
  | kmax (d a b : BitVec 4) (t : KType)
  /-- KMIN (R410). -/
  | kmin (d a b : BitVec 4) (t : KType)
  /-- KCVT (R410). -/
  | kcvt (d a : BitVec 4) (dt st : KFmt) (p : BitVec 2)
  /-- FWD_C (R404). -/
  | fwdC (f : BitVec 3)
  /-- DROP_C (R404). -/
  | dropC (f : BitVec 3)
  /-- EMIT (R408). -/
  | emit (a : BitVec 3)
  /-- HOLD (R404). -/
  | hold (f : BitVec 3)
  /-- KTRAP (R406). -/
  | ktrap (c : BitVec 16)
  /-- INBOUND_UE_OPERATION (R385). -/
  | inboundUeOperation (arrival : UeArrival)
  /-- UE_CONNECTION_SETUP (R385). -/
  | ueConnectionSetup (sett endpoint : Nat) (mode : UeMode)
  /-- PTP_MESSAGE (R424). -/
  | ptpMessage (p : PtpMsg)
  /-- GTCSKEW_RECOMPUTE (R425). -/
  | gtcskewRecompute (asymmetry : Nat)
  /-- SETT_RESET (R374). -/
  | settReset (sett : Nat) (selfTest : List Defect)
  /-- REGISTER_WORD_CORRECTION_LIMIT (R110). -/
  | registerWordCorrectionLimit (sett core column bank : Nat)
  /-- SEAM_LINK_LOCK_LOSS (R373). -/
  | seamLinkLockLoss (seam link : Nat)
  /-- UCIE_LINK_UP (R440). -/
  | ucieLinkUp (site lo hi : Nat)
  /-- REGISTER_WORD_ERROR (R108). -/
  | registerWordError (lane : Nat) (word : Option Nat) (double : Bool)
  /-- POWER_ON (R446): what the setts' self-tests find. -/
  | powerOn (selfTest : List Defect)
  /-- POWER_LOSS (R374): the setts whose last append was still without its trailer. -/
  | powerLoss (torn : List Nat)
  /-- SLEAVE (R29). -/
  | sleave
  /-- SHALT (R55). -/
  | shalt
  /-- LWAIT (R60). -/
  | lwait
  /-- TRET (R342). -/
  | tret
  /-- TFENCE (R66). -/
  | tfence
  /-- TARRIVE (R311). -/
  | tarrive
  /-- SPANCLOSE (R315). -/
  | spanclose
  /-- SLICE_EXPIRY (R87). -/
  | sliceExpiry
  /-- SPIN_DETECTOR_FLAG (R87). -/
  | spinDetectorFlag
  /-- SPAN_RENDEZVOUS (R278). -/
  | spanRendezvous
  /-- SPAN_ROUND_FIRE (R279). -/
  | spanRoundFire
  /-- HANDLER_ENTRY (R338). -/
  | handlerEntry
  /-- CTX_CREATE (R439). -/
  | ctxCreate
  /-- CTX_DESTROY (R439). -/
  | ctxDestroy
  /-- BIND (R439). -/
  | bind
  /-- PAGETABLE (R439). -/
  | pagetable
  /-- POOL_ADD (R439). -/
  | poolAdd
  /-- QUEUE (R439). -/
  | queue
  /-- HANDLERS (R439). -/
  | handlers
  /-- EVENTQ (R439). -/
  | eventq
  /-- COMPLQ (R439). -/
  | complq
  /-- STOP (R351). -/
  | stop
  /-- RESTORE (R360). -/
  | restore
  /-- TIMETABLE (R393). -/
  | timetable
  /-- SUMAC_LOAD (R397). -/
  | sumacLoad
  /-- SUMAC_UNLOAD (R398). -/
  | sumacUnload
  /-- COLLECTIVE (R412). -/
  | collective
  /-- ABORT (R420). -/
  | abort
  /-- GRANDMASTER (R447). -/
  | grandmaster
  /-- GRANT (R441). -/
  | grant
  /-- SNAPSHOT (R444). -/
  | snapshot
  /-- STATEMENT (R444). -/
  | statement
  /-- QUOTE (R445). -/
  | quote
  /-- WATCHDOG (R439). -/
  | watchdog
  /-- HAREA (R439). -/
  | harea
  /-- TIMETABLE_TAKES_EFFECT (R393). -/
  | timetableTakesEffect
  /-- PHASE_CHANGE (R392). -/
  | phaseChange
  /-- FWD (R404). -/
  | fwd
  /-- DROP (R404). -/
  | drop
  /-- PTP_LOCK_LOST (R425). -/
  | ptpLockLost
  /-- GTCSKEW_HOLDOVER (R425). -/
  | gtcskewHoldover
  /-- WAITT_GTC_REACHED (R61). -/
  | waittGtcReached
  deriving DecidableEq, Repr

end Sys2Proof
end

