-- ==== Sys2Proof/WellFormed.lean ====
section
/-!
DEFINITION. Which instructions an encoding can give: the field rules of R38 to R40 and R300 for scalar words,
the checks of R117 on lane words that need nothing but the word (R103 to R106, R115, R116 and the entries), and
R399's field rules for Sumac words. Checks that need the kernel object or the state are made where the word runs.
-/

namespace Sys2Proof

/-- Code of a condition (R39, R115). -/
def Cond.code : Cond → Nat
  | .eq => 0 | .ne => 1 | .lt => 2 | .le => 3 | .gt => 4 | .ge => 5 | .ltn => 6 | .len => 7 | .gtn => 8 | .gen => 9
  | .unord => 10 | .ord => 11

/-- Code of a type (R114). -/
def LType.code : LType → Nat
  | .i32 => 0 | .n32 => 1 | .i64 => 2 | .n64 => 3 | .i16x2 => 4 | .n16x2 => 5 | .i8x4 => 6 | .n8x4 => 7 | .f32 => 8
  | .f16 => 9 | .bf16 => 10 | .f16x2 => 11 | .bf16x2 => 12 | .e4m3 => 13 | .e5m2 => 14 | .e2m3 => 15 | .e3m2 => 16
  | .e2m1 => 17 | .e8m0 => 18 | .b32 => 19 | .b64 => 20 | .b128 => 21

/-- The type with a code (R114). -/
def LType.ofCode : Nat → Option LType
  | 0 => some .i32 | 1 => some .n32 | 2 => some .i64 | 3 => some .n64 | 4 => some .i16x2 | 5 => some .n16x2
  | 6 => some .i8x4 | 7 => some .n8x4 | 8 => some .f32 | 9 => some .f16 | 10 => some .bf16 | 11 => some .f16x2
  | 12 => some .bf16x2 | 13 => some .e4m3 | 14 => some .e5m2 | 15 => some .e2m3 | 16 => some .e3m2 | 17 => some .e2m1
  | 18 => some .e8m0 | 19 => some .b32 | 20 => some .b64 | 21 => some .b128 | _ => none

/-- How many bits of a register an operand of the type takes (R106); 0 for the element formats. -/
def LType.bits : LType → Nat
  | .i64 | .n64 | .b64 => 64
  | .b128 => 128
  | .e4m3 | .e5m2 | .e2m3 | .e3m2 | .e2m1 | .e8m0 => 0
  | _ => 32

def Operand.isV : Operand → Bool | .v _ => true | _ => false
def Operand.isW : Operand → Bool | .w _ => true | _ => false
def Operand.isQ : Operand → Bool | .q _ => true | _ => false
def Operand.isM : Operand → Bool | .m _ _ => true | _ => false
def Operand.isS : Operand → Bool | .s _ => true | _ => false
def Operand.isSpecial : Operand → Bool | .special _ => true | _ => false
def Operand.isImm : Operand → Bool | .imm _ => true | _ => false
def Operand.isNone : Operand → Bool | .none => true | _ => false

/-- A destination of the type (R106). -/
def dstOk (t : LType) (o : Operand) : Bool :=
  match t.bits with
  | 32 => o.isV
  | 64 => o.isW
  | 128 => o.isQ
  | _ => false

/-- A source of the type (R106). -/
def srcOk (t : LType) (o : Operand) : Bool :=
  match t.bits with
  | 32 => o.isV || o.isS || o.isSpecial || o.isImm
  | 64 => o.isW || o.isS || o.isSpecial || o.isImm
  | 128 => o.isQ
  | _ => false

/-- A count operand (R143). -/
def countOk (o : Operand) : Bool := o.isV || o.isS || o.isSpecial || o.isImm

/-- The base and index of a memory word (R241). -/
def addrOk (a b : Operand) : Bool := a.isW && (b.isS || b.isNone)

def Guard.always (g : Guard) : Bool := !g.neg && g.pred == 7
/-- Every guard but 0b1111 (R112). -/
def Guard.ok (g : Guard) : Bool := !(g.neg && g.pred == 7)

def intTypes : List LType := [.i32, .n32, .i64, .n64, .i16x2, .n16x2, .i8x4, .n8x4]
def mulTypes : List LType := [.i32, .n32, .i64, .n64]
def signedTypes : List LType := [.i32, .i64, .i16x2, .i8x4]
def fpsTypes : List LType := [.f32, .f16, .bf16, .f16x2, .bf16x2]
def fpTypes : List LType := [.f32, .f16, .bf16]
def bitTypes : List LType := [.b32, .b64, .b128]
def bit2Types : List LType := [.b32, .b64]
def redTypes : List LType := [.i32, .n32, .i64, .n64, .f32, .b32, .b64]
def memTypes : List LType := [.i32, .n32, .b32, .b64, .b128]

/-- AUX of layout A with only the named fields in use. -/
def AuxA.only (x : AuxA) (imm sat rnd : Bool) : Bool :=
  (imm || x.imm12 == 0) && x.stype == 0 && (sat || !x.sat) && !x.satf && (rnd || x.rnd == .dyn)

/-- RND may be SR only in narrowing conversions (R133). -/
def AuxA.noSr (x : AuxA) : Bool := x.rnd != .sr

/-- The operands of a word with a type: which of D, A, B and C it uses, each of the type (R116). -/
def ops (h : LaneHead) (d a b c : Bool) : Bool :=
  h.g.ok && (if d then dstOk h.ty h.d else h.d.isNone) && (if a then srcOk h.ty h.a else h.a.isNone)
    && (if b then srcOk h.ty h.b else h.b.isNone) && (if c then srcOk h.ty h.c else h.c.isNone)

/-- A word with no type and no operands. -/
def bare (h : LaneHead) : Bool :=
  h.g.ok && h.ty == .i32 && h.d.isNone && h.a.isNone && h.b.isNone && h.c.isNone

/-- The conditions VCMP takes for a type (R151). -/
def condOk (t : LType) (k : Cond) : Bool :=
  match t with
  | .i32 | .i64 | .i16x2 | .i8x4 => decide (k.code ≤ 5)
  | .n32 | .n64 | .n16x2 | .n8x4 => decide (k.code ≤ 9)
  | _ => decide (k.code ≤ 5) || k == .unord || k == .ord

/-- The pairs of type and operation of VREDUCE and VSCAN (R158). -/
def redOk (t : LType) (xop : BitVec 4) : Bool :=
  match t with
  | .i32 | .n32 | .i64 | .n64 => decide (xop.toNat ≤ 5)
  | .b32 | .b64 => decide (3 ≤ xop.toNat) && decide (xop.toNat ≤ 5)
  | .f32 => decide (xop.toNat ≤ 2)
  | _ => false

/-- An element format that takes a scale (R178). -/
def LType.scaledElem : LType → Bool
  | .e4m3 | .e5m2 | .e2m3 | .e3m2 | .e2m1 => true
  | _ => false

def LType.isInt : LType → Bool
  | .i32 | .n32 | .i64 | .n64 | .i16x2 | .n16x2 | .i8x4 | .n8x4 => true
  | _ => false

/-- F32, F16 and BF16. -/
def LType.isWideFp : LType → Bool
  | .f32 | .f16 | .bf16 => true
  | _ => false

/-- The scalar set of R177. -/
def LType.inScalarSet : LType → Bool
  | .i32 | .n32 | .i64 | .n64 | .f32 | .f16 | .bf16 | .e4m3 | .e5m2 | .e2m3 | .e3m2 | .e2m1 | .e8m0 => true
  | _ => false

def LType.inPacked16 : LType → Bool
  | .i16x2 | .n16x2 | .f16x2 | .bf16x2 => true
  | _ => false

def LType.inPacked8 : LType → Bool
  | .i8x4 | .n8x4 => true
  | _ => false

/-- The pairs VCVT converts (R177). -/
def cvtPairOk (dt st : LType) : Bool :=
  dt != st && ((dt.inScalarSet && st.inScalarSet) || (dt.inPacked16 && st.inPacked16) || (dt.inPacked8 && st.inPacked8))

/-- A scaled pair (R178). -/
def scaledPair (x y : LType) : Bool := (x.scaledElem && y.isWideFp) || (y.scaledElem && x.isWideFp)

/-- The pairs of the table of R180, source first: they are not narrowing. -/
def exactPair (st dt : LType) : Bool :=
  match st with
  | .i32 => dt == .i64
  | .n32 => dt == .i64 || dt == .n64
  | .f16 | .bf16 => dt == .f32
  | .e4m3 | .e5m2 => dt.isWideFp
  | .e2m3 => dt.isWideFp || dt == .e4m3
  | .e3m2 => dt.isWideFp || dt == .e4m3 || dt == .e5m2
  | .e2m1 => dt.isWideFp || dt == .e4m3 || dt == .e5m2 || dt == .e2m3 || dt == .e3m2
  | .e8m0 => dt == .f32 || dt == .bf16
  | _ => false

/-- Classes of VCVT's A and D for a type of R177. -/
def cvtSrcOk (t : LType) (o : Operand) : Bool := if t.bits = 0 then o.isV || o.isS else srcOk t o
def cvtDstOk (t : LType) (o : Operand) : Bool := if t.bits = 0 then o.isV else dstOk t o

/-- The scale operand, or 0xC7F where the pair takes none (R178). -/
def scaleOk (scaled : Bool) (b : Operand) : Bool := if scaled then countOk b else b == .imm 127

def cvtOk (h : LaneHead) (x : AuxA) : Bool :=
  match LType.ofCode x.stype.toNat with
  | Option.none => false
  | some st =>
    h.g.ok && decide (x.stype.toNat ≤ 18) && decide (h.ty.code ≤ 18) && cvtPairOk h.ty st && cvtDstOk h.ty h.d
      && cvtSrcOk st h.a && scaleOk (scaledPair h.ty st) h.b && h.c.isNone && x.imm12 == 0
      && (if h.ty.isInt then !x.satf && (if st.isInt then x.rnd == .dyn else !x.sat) else !x.sat)
      && (x.rnd != .sr || !exactPair st h.ty)

/-- The pairs of R181: the number of elements, the bits of a packed element, whether the pair is scaled, and
whether the packed operand is a w. -/
def packPair (p wide : LType) : Option (Nat × Nat × Bool × Bool) :=
  match p, wide with
  | .f16, .f32 | .bf16, .f32 => some (4, 16, false, true)
  | .e8m0, .f32 => some (4, 8, false, false)
  | .e4m3, .f32 | .e5m2, .f32 | .e2m3, .f32 | .e3m2, .f32 => some (4, 8, true, false)
  | .e4m3, .f16 | .e5m2, .f16 | .e2m3, .f16 | .e3m2, .f16 => some (8, 8, true, true)
  | .e4m3, .bf16 | .e5m2, .bf16 | .e2m3, .bf16 | .e3m2, .bf16 => some (8, 8, true, true)
  | .e2m1, .f32 => some (4, 4, true, false)
  | .e2m1, .f16 | .e2m1, .bf16 => some (8, 4, true, false)
  | _, _ => none

def packOk (h : LaneHead) (x : AuxA) (pack : Bool) : Bool :=
  match LType.ofCode x.stype.toNat with
  | Option.none => false
  | some wide =>
    match packPair h.ty wide with
    | Option.none => false
    | some (_, _, scaled, inW) =>
      h.g.ok && x.imm12 == 0 && !x.sat && scaleOk scaled h.b && h.c.isNone
        && (if pack then h.a.isQ && (if inW then h.d.isW else h.d.isV)
            else h.d.isQ && x.noSr && (if inW then h.a.isW else h.a.isV || h.a.isS))

/-- AUX of layout M with only the named fields in use. -/
def AuxM.only (x : AuxM) (narrow aop cache ord scope off : Bool) : Bool :=
  (narrow || x.narrow == 0) && (aop || x.aop == .add) && (cache || x.cache == .default) && (ord || x.ord == .relaxed)
    && (scope || x.scope == .lane) && (off || x.off == 0)

/-- NARROW of VLD and VST (R242). -/
def narrowOk (t : LType) (n : BitVec 2) : Bool := n == 0 || ((t == .i32 || t == .n32) && n != 3)

/-- The static checks of R117 for a lane word; true for every other instruction that its decoder can give. -/
def wf : Instr → Bool
  | .scmp k _ _ _ => decide (k.code ≤ 9)
  | .scmpi k _ _ _ => decide (k.code ≤ 7)
  | .swr _ n => !((0x020 ≤ n.toNat && n.toNat ≤ 0x023 && n.toNat != 0x021) || n == 0x030
      || (0x070 ≤ n.toNat && n.toNat ≤ 0x07C))
  | .chdef _ _ l _ => decide (1 ≤ l.toNat) && decide (l.toNat ≤ 8)
  | .vadd h x | .vsub h x | .vmul h x => ops h true true true false && intTypes.contains h.ty && x.only false true false
  | .vmulh h => ops h true true true false && mulTypes.contains h.ty
  | .vmad h x => ops h true true true true && mulTypes.contains h.ty && x.only false true false
  | .vmin h | .vmax h => ops h true true true false && intTypes.contains h.ty
  | .vabs h x | .vneg h x => ops h true true false false && signedTypes.contains h.ty && x.only false true false
  | .vand h | .vor h | .vxor h => ops h true true true false && bitTypes.contains h.ty
  | .vnot h | .vmov h => ops h true true false false && bitTypes.contains h.ty
  | .vshl h | .vshr h | .vsra h | .vrol h =>
    h.g.ok && bit2Types.contains h.ty && dstOk h.ty h.d && srcOk h.ty h.a && countOk h.b && h.c.isNone
  | .vclz h | .vpopc h => ops h true true false false && bit2Types.contains h.ty
  | .vbfx h => h.g.ok && mulTypes.contains h.ty && dstOk h.ty h.d && srcOk h.ty h.a && countOk h.b && countOk h.c
  | .vbfi h => h.g.ok && bit2Types.contains h.ty && dstOk h.ty h.d && srcOk h.ty h.a && srcOk h.ty h.b && countOk h.c
  | .vdot4 h x => ops h true true true true && (h.ty == .i8x4 || h.ty == .n8x4) && x.only false true false
  | .vcmp h x =>
    ops h false true true false && decide (h.ty.code ≤ 12) && condOk h.ty x.cond && x.pfn == 0 && x.pb == 0 && x.pa == 0
  | .vsel h x =>
    ops h true true true false && bitTypes.contains h.ty && x.pfn == 0 && x.pb == 0 && x.pd == 0 && x.cond == .eq
  | .plop h x => bare h && x.cond == .eq
  | .vli g t d _ => g.ok && bit2Types.contains t && dstOk t d
  | .vshfl h x =>
    h.g.ok && bit2Types.contains h.ty && dstOk h.ty h.d && srcOk h.ty h.a && countOk h.b && h.c.isNone
      && decide (x.xop.toNat ≤ 3) && x.pa == 0
  | .vbcast h x =>
    h.g.ok && bit2Types.contains h.ty && dstOk h.ty h.d && srcOk h.ty h.a && (h.b.isS || h.b.isImm) && h.c.isNone
      && x.xop == 0 && x.pa == 0
  | .vreduce h x =>
    h.g.ok && redTypes.contains h.ty && redOk h.ty x.xop && (dstOk h.ty h.d || h.d.isS) && srcOk h.ty h.a && h.b.isNone
      && h.c.isNone && x.pa == 0 && x.imm12 == 0
  | .vscan h x =>
    h.g.ok && redTypes.contains h.ty && redOk h.ty x.xop && dstOk h.ty h.d && srcOk h.ty h.a && h.b.isNone
      && h.c.isNone && x.pa == 0 && x.imm12 == 0
  | .vvote h x =>
    h.g.ok && bit2Types.contains h.ty && (dstOk h.ty h.d || h.d.isS) && h.a.isNone && h.b.isNone && h.c.isNone
      && decide (x.xop.toNat ≤ 2) && x.imm12 == 0
  | .bra g _ d x => g.ok && d.isNone && x.imm16 == 0
  | .brx h x => h.g.ok && h.ty == .i32 && h.d.isNone && countOk h.a && h.b.isNone && h.c.isNone && x.imm16 == 0
  | .skip h x => bare h && !x.pack && decide (1 ≤ x.imm16.toNat) && decide (x.imm16.toNat ≤ 7)
  | .join h | .lend h | .yieldl h => bare h && h.g.always
  | .ltrap h x => bare h && !x.pack
  | .vfadd h x | .vfsub h x | .vfmul h x =>
    ops h true true true false && fpsTypes.contains h.ty && x.only false false true && x.noSr
  | .vfma h x => ops h true true true true && fpsTypes.contains h.ty && x.only false false true && x.noSr
  | .vfmin h | .vfmax h => ops h true true true false && fpsTypes.contains h.ty
  | .vfdiv h x => ops h true true true false && fpTypes.contains h.ty && x.only false false true && x.noSr
  | .vfsqrt h x => ops h true true false false && fpTypes.contains h.ty && x.only false false true && x.noSr
  | .vfrcp h | .vfrsq h | .vfexp2 h | .vflog2 h | .vfsin h | .vfcos h => ops h true true false false && h.ty == .f32
  | .vfclass h | .vfexpo h => ops h true true false false && fpTypes.contains h.ty
  | .vfrnd h x => ops h true true false false && fpsTypes.contains h.ty && x.only false false true && x.noSr
  | .vfsgn h x =>
    ops h true true true false && fpsTypes.contains h.ty && x.only true false false && decide (x.imm12.toNat ≤ 2)
  | .vcvt h x => cvtOk h x
  | .vpack h x => packOk h x true
  | .vunpk h x => packOk h x false
  | .vld h x =>
    h.g.ok && memTypes.contains h.ty && dstOk h.ty h.d && addrOk h.a h.b && h.c.isNone && narrowOk h.ty x.narrow
      && x.only true false true true true true && (x.ord == .relaxed || x.ord == .acq)
  | .vst h x =>
    h.g.ok && memTypes.contains h.ty && h.d.isNone && addrOk h.a h.b && srcOk h.ty h.c && narrowOk h.ty x.narrow
      && x.only true false true true true true && (x.ord == .relaxed || x.ord == .rel)
  | .vatom h x =>
    h.g.ok && [LType.i32, .n32, .i64, .n64, .f32].contains h.ty && dstOk h.ty h.d && addrOk h.a h.b && srcOk h.ty h.c
      && x.only false true false true true true && !(h.ty == .f32 && (x.aop == .and || x.aop == .or || x.aop == .xor))
  | .vcas h x =>
    h.g.ok && bit2Types.contains h.ty && dstOk h.ty h.d && addrOk h.a h.b && (dstOk h.ty h.c || h.c.isS)
      && x.only false false false true true true
  | .vpref h x =>
    h.g.ok && h.ty == .i32 && h.d.isNone && addrOk h.a h.b && h.c.isNone && x.only false false true false false true
  | .fence h x => bare h && x.only false false false true true false && x.ord != .relaxed
  | .bar h x => bare h && h.g.always && decide (x.xop.toNat ≤ 1) && x.pa == 0 && x.imm12 == 0
  | .fmma h => h.g.ok && (h.ty == .f32 || h.ty == .i32) && h.d.isM && h.a.isM && h.b.isM && h.c.isM
  | .fld h x =>
    h.g.ok && h.ty == .i32 && h.d.isM && addrOk h.a h.b && h.c.isNone && x.only false false true false false true
  | .fst h x =>
    h.g.ok && h.ty == .i32 && h.d.isNone && addrOk h.a h.b && h.c.isM && x.only false false true false false true
  | .ldh _ f => decide (f.toNat ≤ 15)
  | .brf _ o => decide (1 ≤ o.toNat)
  | .repeatN c l => decide (1 ≤ c.toNat) && decide (c.toNat ≤ 16) && decide (1 ≤ l.toNat)
  | .kcvt _ _ dt st p =>
    match dt, st with
    | .bf16, .f32 | .f32, .bf16 | .e4m3, .bf16 | .bf16, .e4m3 => decide (p.toNat ≤ 1)
    | .e4m3, .f32 | .f32, .e4m3 => true
    | .f32, .f32 | .bf16, .bf16 | .e4m3, .e4m3 => false
  | _ => true

end Sys2Proof
end

