-- ==== Sys2Proof/Machine/Float.lean ====
section
/-!
DEFINITION. Number formats and arithmetic: the floating formats (R121, R122), `round` (R125 to R128), exact sums and
products (R168, R169), division and square root (R171), the transcendental functions (R136, R137), and the chunk
rule (R138 to R140). An exact value is a sign, a natural number and a power of two; a sticky mark says that the true
value lies strictly between that number and its successor.
-/

namespace Sys2Proof.Machine

/-- The flags of FSTAT (R132): NX, UF, OF, DZ and IV from bit 0. -/
abbrev Flags5 := BitVec 5

def flagNX : Flags5 := 1
def flagUF : Flags5 := 2
def flagOF : Flags5 := 4
def flagDZ : Flags5 := 8
def flagIV : Flags5 := 16

/-- What the all-ones exponent of a format means (R121). -/
inductive Specials where
  | ieee | nanOnly | finite | power
  deriving DecidableEq, Repr

/-- A floating format (R121). -/
structure Fmt where
  width : Nat
  eb : Nat
  mb : Nat
  bias : Int
  sp : Specials
  deriving DecidableEq, Repr

def fmtF32 : Fmt := ⟨32, 8, 23, 127, .ieee⟩
def fmtF16 : Fmt := ⟨16, 5, 10, 15, .ieee⟩
def fmtBF16 : Fmt := ⟨16, 8, 7, 127, .ieee⟩
def fmtE4M3 : Fmt := ⟨8, 4, 3, 7, .nanOnly⟩
def fmtE5M2 : Fmt := ⟨8, 5, 2, 15, .ieee⟩
def fmtE2M3 : Fmt := ⟨6, 2, 3, 1, .finite⟩
def fmtE3M2 : Fmt := ⟨6, 3, 2, 3, .finite⟩
def fmtE2M1 : Fmt := ⟨4, 2, 1, 1, .finite⟩
def fmtE8M0 : Fmt := ⟨8, 8, 0, 127, .power⟩

/-- The element format of a type (R114); integer and bit types have none. -/
def fmtOf : LType → Option Fmt
  | .f32 => some fmtF32
  | .f16 | .f16x2 => some fmtF16
  | .bf16 | .bf16x2 => some fmtBF16
  | .e4m3 => some fmtE4M3
  | .e5m2 => some fmtE5M2
  | .e2m3 => some fmtE2M3
  | .e3m2 => some fmtE3M2
  | .e2m1 => some fmtE2M1
  | .e8m0 => some fmtE8M0
  | _ => none

/-- Largest finite magnitude, as bits (R122). -/
def Fmt.maxBits (f : Fmt) : Nat :=
  match f.sp with
  | .ieee => (2 ^ f.eb - 1) * 2 ^ f.mb - 1
  | .nanOnly => 2 ^ (f.eb + f.mb) - 2
  | .finite => 2 ^ (f.eb + f.mb) - 1
  | .power => 0xFE

/-- Infinity, as bits. -/
def Fmt.infBits (f : Fmt) : Nat := (2 ^ f.eb - 1) * 2 ^ f.mb

/-- Canonical NaN (R122); 0 for a format without NaN. -/
def Fmt.nanBits (f : Fmt) : Nat :=
  match f.sp with
  | .ieee => f.infBits + 2 ^ (f.mb - 1)
  | .nanOnly => 2 ^ (f.eb + f.mb) - 1
  | .finite => 0
  | .power => 0xFF

/-- Smallest exponent of a normal value. -/
def Fmt.emin (f : Fmt) : Int := match f.sp with | .power => -127 | _ => 1 - f.bias

/-- The sign bit put on a magnitude. -/
def Fmt.signed (f : Fmt) (neg : Bool) (x : Nat) : Nat := if neg then 2 ^ (f.width - 1) + x else x

/-- A floating value: NaN, an infinity, or m x 2^e with a sign; m = 0 is a signed zero. -/
inductive FV where
  | nan
  | inf (neg : Bool)
  | fin (neg : Bool) (m : Nat) (e : Int)
  deriving DecidableEq, Repr

def FV.isNan : FV → Bool | .nan => true | _ => false
def FV.isInf : FV → Bool | .inf _ => true | _ => false
def FV.isZero : FV → Bool | .fin _ m _ => m == 0 | _ => false
def FV.neg? : FV → Bool | .nan => false | .inf n => n | .fin n _ _ => n

/-- The value an encoding has (R121); higher bits of `x` are ignored (R123). -/
def Fmt.value (f : Fmt) (x : Nat) : FV :=
  match f.sp with
  | .power => if x % 256 = 255 then .nan else .fin false 1 ((x % 256 : Nat) - 127)
  | sp =>
    let neg := bitAt x (f.width - 1)
    let ex := x / 2 ^ f.mb % 2 ^ f.eb
    let m := x % 2 ^ f.mb
    let fin : FV := if ex = 0 then .fin neg m (1 - f.bias - f.mb) else .fin neg (2 ^ f.mb + m) (ex - f.bias - f.mb)
    match sp with
    | .ieee => if ex = 2 ^ f.eb - 1 then (if m = 0 then .inf neg else .nan) else fin
    | .nanOnly => if ex = 2 ^ f.eb - 1 ∧ m = 2 ^ f.mb - 1 then .nan else fin
    | _ => fin

/-- floor(log2 |x|) of a nonzero finite value. -/
def exponentOf (m : Nat) (e : Int) : Int := (Nat.log2 m : Int) + e

/-- Rounding modes (R125); `sr` carries the lane's advanced state and the exponent of the source spacing (R128). -/
inductive RMode where
  | rne | rtz | rdn | rup | sr (sigma : Nat) (gs : Int)
  deriving DecidableEq, Repr

/-- `m x 2^(e - g)` as a whole number and a remainder state: whether it is inexact, and how the discarded part
compares with one half (0 below, 1 equal, 2 above). -/
def splitAt (m : Nat) (e g : Int) (sticky : Bool) : Nat × Bool × Nat :=
  if g ≤ e then (m * 2 ^ (e - g).toNat, sticky, 0)
  else
    let sh := (g - e).toNat
    let r := m % 2 ^ sh
    let half := 2 ^ (sh - 1)
    (m / 2 ^ sh, sticky || r != 0, if half < r then 2 else if r = half then (if sticky then 2 else 1) else 0)

/-- The lane's random bits added before truncation (R128). -/
def srRound (m : Nat) (e g gs : Int) (sigma : Nat) : Nat :=
  let d := g - gs
  let k : Nat := if d < 16 then d.toNat else 16
  let r := sigma / 2 ^ (32 - k)
  let c := min e (g - k)
  (m * 2 ^ (e - c).toNat + r * 2 ^ (g - k - c).toNat) / 2 ^ (g - c).toNat

/-- Whether a mode takes the neighbour away from zero. -/
def roundsUp (mode : RMode) (neg inexact : Bool) (half : Nat) (odd : Bool) : Bool :=
  match mode with
  | .rne => half == 2 || (half == 1 && odd)
  | .rtz => false
  | .rdn => inexact && neg
  | .rup => inexact && !neg
  | .sr _ _ => false

/-- A mode that rounds a value of this sign toward zero on overflow (R126). -/
def towardZero (mode : RMode) (neg : Bool) : Bool :=
  match mode with
  | .rtz => true
  | .rdn => !neg
  | .rup => neg
  | _ => false

/-- Finite overflow (R126). -/
def Fmt.overflow (f : Fmt) (neg : Bool) (mode : RMode) (satf : Bool) : Nat × Flags5 :=
  let flags := flagOF ||| flagNX
  if towardZero mode neg || satf then (f.signed neg f.maxBits, flags)
  else match f.sp with
    | .ieee => (f.signed neg f.infBits, flags)
    | .nanOnly | .power => (f.nanBits, flags)
    | .finite => (f.signed neg f.maxBits, flags)

/-- R125 for a nonzero finite value of a format with subnormals. -/
def Fmt.roundFin (f : Fmt) (neg : Bool) (m : Nat) (e : Int) (sticky : Bool) (mode : RMode) (satf : Bool) : Nat × Flags5 :=
  let ex := exponentOf m e
  let g := max ex f.emin - f.mb
  let (n, inexact, half) := splitAt m e g sticky
  let base : Int := (g + f.mb + f.bias) * 2 ^ f.mb - 2 ^ f.mb
  let odd := (base + n) % 2 == 1
  let n' := match mode with
    | .sr sigma gs => if g - gs ≤ 0 then n else srRound m e g gs sigma
    | mode => if roundsUp mode neg inexact half odd then n + 1 else n
  let bits := (base + n').toNat
  if f.maxBits < bits then f.overflow neg mode satf
  else
    (f.signed neg bits,
      (if inexact then flagNX else 0) ||| (if inexact && decide (ex < f.emin) then flagUF else 0))

/-- `round` of R125 and R126. -/
def Fmt.round (f : Fmt) (x : FV) (sticky : Bool) (mode : RMode) (satf : Bool) : Nat × Flags5 :=
  match x with
  | .nan => if f.sp = .finite then (0, flagIV) else (f.nanBits, 0)
  | .inf neg =>
    (match f.sp with
     | .ieee => if satf then (f.signed neg f.maxBits, flagOF) else (f.signed neg f.infBits, 0)
     | .nanOnly => (if satf then f.signed neg f.maxBits else f.nanBits, flagOF)
     | .finite => (f.signed neg f.maxBits, flagOF)
     | .power => if neg then (0xFF, flagIV) else (if satf then 0xFE else 0xFF, flagOF))
  | .fin neg m e =>
    if f.sp = .power then
      if m = 0 ∨ neg then (0xFF, flagIV)
      else if exponentOf m e < -127 then (0, flagUF ||| flagNX)
      else f.roundFin false m e sticky mode satf
    else if m = 0 then (f.signed neg 0, 0)
    else f.roundFin neg m e sticky mode satf

/-- FTZ of an operand (R131): a subnormal is a zero of its sign. -/
def Fmt.ftzIn (f : Fmt) (ftz : Bool) (x : FV) : FV :=
  match x with
  | .fin neg m e => if ftz && m != 0 && decide (exponentOf m e < f.emin) then .fin neg 0 0 else x
  | x => x

/-- FTZ of a result (R131). -/
def Fmt.ftzOut (f : Fmt) (ftz : Bool) (r : Nat × Flags5) : Nat × Flags5 :=
  let mag := r.1 % 2 ^ (f.width - 1)
  if ftz && mag != 0 && decide (mag < 2 ^ f.mb) then (f.signed (bitAt r.1 (f.width - 1)) 0, r.2 ||| flagUF ||| flagNX)
  else r

/-- The formats FTZ applies to (R131). -/
def Fmt.isWide (f : Fmt) : Bool := f == fmtF32 || f == fmtF16 || f == fmtBF16

/-! ### Integer results (R127) -/

/-- `round` to an integer between `lo` and `hi` (R127). -/
def roundInt (x : FV) (lo hi : Int) (mode : RMode) : Int × Flags5 :=
  match x with
  | .nan => (0, flagIV)
  | .inf neg => (if neg then lo else hi, flagIV)
  | .fin neg m e =>
    let (n, inexact, half) := splitAt m e 0 false
    let n' := match mode with
      | .sr sigma gs => if -gs ≤ 0 then n else srRound m e 0 gs sigma
      | mode => if roundsUp mode neg inexact half (n % 2 == 1) then n + 1 else n
    let r : Int := if neg then -(n' : Int) else n'
    if r < lo then (lo, flagIV) else if hi < r then (hi, flagIV) else (r, if inexact then flagNX else 0)

/-! ### Exact arithmetic -/

/-- An integer times a power of two. -/
structure Dy where
  n : Int
  e : Int
  deriving DecidableEq, Repr

/-- A finite value as an integer times a power of two. -/
def FV.dy : FV → Dy
  | .fin neg m e => ⟨if neg then -(m : Int) else m, e⟩
  | _ => ⟨0, 0⟩

def Dy.add (x y : Dy) : Dy :=
  let c := min x.e y.e
  ⟨x.n * 2 ^ (x.e - c).toNat + y.n * 2 ^ (y.e - c).toNat, c⟩

/-- A nonzero integer times a power of two as a value. -/
def Dy.fv (x : Dy) : FV := .fin (decide (x.n < 0)) x.n.natAbs x.e

def Dy.mul (x y : Dy) : Dy := ⟨x.n * y.n, x.e + y.e⟩

/-- x < y as real numbers. -/
def Dy.lt (x y : Dy) : Bool := decide ((Dy.add x ⟨-y.n, y.e⟩).n < 0)

/-- A product of two values that is not 0 x infinity (R168). -/
def FV.mul (x y : FV) : FV :=
  match x, y with
  | .nan, _ => .nan
  | _, .nan => .nan
  | .inf a, y => .inf (a != y.neg?)
  | x, .inf b => .inf (x.neg? != b)
  | .fin a m e, .fin b n f => .fin (a != b) (m * n) (e + f)

def FV.negate : FV → FV
  | .nan => .nan
  | .inf n => .inf !n
  | .fin n m e => .fin (!n) m e

/-- 0 x infinity (R134). -/
def zeroTimesInf (x y : FV) : Bool := (x.isZero && y.isInf) || (x.isInf && y.isZero)

/-- The zero of R169 for an exact sum of zero. -/
def zeroSign (mode : RMode) (ts : List FV) : Bool :=
  if ts.all (fun t => t.isZero && t.neg?) then true
  else if ts.all (fun t => t.isZero && !t.neg?) then false
  else mode == .rdn

/-- R168 and R169 over the terms: the sum, rounded once. -/
def Fmt.sum (f : Fmt) (ts : List FV) (mode : RMode) : Nat × Flags5 :=
  if ts.any FV.isNan then (f.nanBits, 0)
  else if ts.any (fun t => t == .inf false) && ts.any (fun t => t == .inf true) then (f.nanBits, flagIV)
  else match ts.find? FV.isInf with
    | some t => (f.signed t.neg? f.infBits, 0)
    | none =>
      let x := ts.foldl (fun acc t => Dy.add acc t.dy) ⟨0, 0⟩
      if x.n = 0 then (f.signed (zeroSign mode ts) 0, 0) else f.round x.fv false mode false

/-- VFADD (R168). -/
def Fmt.add (f : Fmt) (x y : FV) (mode : RMode) : Nat × Flags5 := f.sum [x, y] mode

/-- VFMUL (R168). -/
def Fmt.mul (f : Fmt) (x y : FV) (mode : RMode) : Nat × Flags5 :=
  if zeroTimesInf x y then (f.nanBits, flagIV) else f.sum [x.mul y] mode

/-- VFMA (R168). The product's sign is its zero's sign (R169). -/
def Fmt.fma (f : Fmt) (x y z : FV) (mode : RMode) : Nat × Flags5 :=
  if zeroTimesInf x y then (f.nanBits, flagIV) else f.sum [x.mul y, z] mode

/-- Order by real value with -0 below +0 (R170). -/
def FV.below (x y : FV) : Bool :=
  match x, y with
  | .inf true, .inf true => false
  | .inf true, _ => true
  | _, .inf true => false
  | .inf false, _ => false
  | _, .inf false => true
  | x, y => if x.isZero && y.isZero then x.neg? && !y.neg? else Dy.lt x.dy y.dy

/-- VFMIN and VFMAX on operands as read under FTZ, with their patterns (R170). -/
def Fmt.minMax (f : Fmt) (isMax : Bool) (x y : FV) (bx bzy : Nat) : Nat :=
  if x.isNan && y.isNan then f.nanBits
  else if x.isNan then bzy
  else if y.isNan then bx
  else if (if isMax then x.below y else y.below x) then bzy else bx

/-- VFDIV (R171). -/
def Fmt.div (f : Fmt) (x y : FV) (mode : RMode) : Nat × Flags5 :=
  match x, y with
  | .nan, _ => (f.nanBits, 0)
  | _, .nan => (f.nanBits, 0)
  | .inf _, .inf _ => (f.nanBits, flagIV)
  | .inf a, y => (f.signed (a != y.neg?) f.infBits, 0)
  | x, .inf b => (f.signed (x.neg? != b) 0, 0)
  | .fin a m e, .fin b n g =>
    if n = 0 then (if m = 0 then (f.nanBits, flagIV) else (f.signed (a != b) f.infBits, flagDZ))
    else if m = 0 then (f.signed (a != b) 0, 0)
    else
      let k := 64 + Nat.log2 n
      let q := m * 2 ^ k / n
      f.round (.fin (a != b) q (e - g - k)) (m * 2 ^ k % n != 0) mode false

/-- The integer square root, one bit at a time from bit `n - 1`. -/
def isqrtFrom : Nat → Nat → Nat → Nat
  | 0, _, r => r
  | n + 1, x, r => if (r + 2 ^ n) * (r + 2 ^ n) ≤ x then isqrtFrom n x (r + 2 ^ n) else isqrtFrom n x r

def isqrt (x : Nat) : Nat := isqrtFrom (Nat.log2 x / 2 + 1) x 0

/-- VFSQRT (R171). -/
def Fmt.sqrt (f : Fmt) (x : FV) (mode : RMode) : Nat × Flags5 :=
  match x with
  | .nan => (f.nanBits, 0)
  | .inf neg => if neg then (f.nanBits, flagIV) else (f.infBits, 0)
  | .fin neg m e =>
    if m = 0 then (f.signed neg 0, 0)
    else if neg then (f.nanBits, flagIV)
    else
      let m' := if e % 2 = 0 then m * 2 ^ 128 else 2 * m * 2 ^ 128
      let e' := if e % 2 = 0 then e - 128 else e - 1 - 128
      let r := isqrt m'
      f.round (.fin false r (e' / 2)) (r * r != m') mode false

/-- VFRND (R173). -/
def Fmt.rint (f : Fmt) (x : FV) (mode : RMode) : Nat × Flags5 :=
  match x with
  | .nan => (f.nanBits, 0)
  | .inf neg => (f.signed neg f.infBits, 0)
  | .fin neg m e =>
    if m = 0 then (f.signed neg 0, 0)
    else
      let (n, inexact, half) := splitAt m e 0 false
      let n := if roundsUp mode neg inexact half (n % 2 == 1) then n + 1 else n
      let r := if n = 0 then f.signed neg 0 else (f.round (.fin neg n 0) false .rne false).1
      (r, if inexact then flagNX else 0)

/-- VFCLASS (R175), on the operand as read under FTZ. -/
def Fmt.classBit (f : Fmt) (x : FV) : Nat :=
  match x with
  | .nan => 256
  | .inf neg => if neg then 1 else 128
  | .fin neg m e =>
    if m = 0 then (if neg then 8 else 16)
    else if exponentOf m e < f.emin then (if neg then 4 else 32)
    else (if neg then 2 else 64)

/-- VFEXPO (R176), as a 32-bit pattern. -/
def expoBits (x : FV) : Nat :=
  match x with
  | .fin _ m e => if m = 0 then 0x80000000 else (exponentOf m e % 2 ^ 32).toNat
  | _ => 0x7FFFFFFF

/-! ### Transcendental functions (R136, R137) -/

/-- Bits after the point in the fixed-point series. -/
abbrev fxBits : Nat := 256
abbrev fxOne : Nat := 2 ^ 256

/-- ln 2 in fixed point. -/
def fxLn2 : Nat := 0xb17217f7d1cf79abc9e3b39803f2f6af40f343267298b62d8a0d175b8baafa2b

/-- Terms of the exponential summed: `t` is the term x^i / i!. -/
def expSeries : Nat → Nat → Nat → Nat → Nat
  | 0, _, _, _ => 0
  | fuel + 1, x, i, t => t + expSeries fuel x (i + 1) (t * x / fxOne / (i + 1))

/-- e^x for 0 <= x < 1 in fixed point. -/
def fxExp (x : Nat) : Nat := expSeries 80 x 0 fxOne

/-- Terms with alternating sign and steps of two, for sine and cosine: `t` is the term x^i / i!. -/
def trigSeries : Nat → Nat → Nat → Nat → Int
  | 0, _, _, _ => 0
  | fuel + 1, xx, i, t => (t : Int) - trigSeries fuel xx (i + 2) (t * xx / fxOne / ((i + 1) * (i + 2)))

/-- Odd terms z^i / i summed, for the inverse hyperbolic tangent. -/
def atanhSeries : Nat → Nat → Nat → Nat → Nat
  | 0, _, _, _ => 0
  | fuel + 1, zz, i, t => t / i + atanhSeries fuel zz (i + 2) (t * zz / fxOne)

/-- |x| in fixed point, for |x| < 2^8 and a spacing of at least 2^-256. -/
def fxOf (m : Nat) (e : Int) : Nat := if 0 ≤ e + fxBits then m * 2 ^ (e + fxBits).toNat else m / 2 ^ (-(e + fxBits)).toNat

/-- A fixed-point result rounded to FP32 under RNE; `exact` says that it is the true value. -/
def fxRound (x : Int) (ex : Int) (exact : Bool) : Nat × Flags5 :=
  fmtF32.round (.fin (decide (x < 0)) x.natAbs (ex - fxBits)) (!exact) .rne false

/-- VFRCP (R136, R137). -/
def fRcp (x : FV) : Nat × Flags5 := fmtF32.div (.fin false 1 0) x .rne

/-- VFRSQ (R136, R137). -/
def fRsq (x : FV) : Nat × Flags5 :=
  match x with
  | .nan => (fmtF32.nanBits, 0)
  | .inf neg => if neg then (fmtF32.nanBits, flagIV) else (0, 0)
  | .fin neg m e =>
    if m = 0 then (fmtF32.signed neg fmtF32.infBits, flagDZ)
    else if neg then (fmtF32.nanBits, flagIV)
    else
      let m' := if e % 2 = 0 then m else 2 * m
      let e' := if e % 2 = 0 then e else e - 1
      let r := isqrt (2 ^ 256 / m')
      fmtF32.round (.fin false r (-128 - e' / 2)) (r * r * m' != 2 ^ 256) .rne false

/-- VFEXP2 (R136, R137). -/
def fExp2 (x : FV) : Nat × Flags5 :=
  match x with
  | .nan => (fmtF32.nanBits, 0)
  | .inf neg => if neg then (0, 0) else (fmtF32.infBits, 0)
  | .fin neg m e =>
    if m = 0 then (0x3F800000, 0)
    else if 8 ≤ exponentOf m e then
      fmtF32.round (.fin false 1 (if neg then -300 else 300)) true .rne false
    else
      let fx := fxOf m e
      let ip := fx / fxOne
      let fr := fx % fxOne
      if fr = 0 then fmtF32.round (.fin false 1 (if neg then -(ip : Int) else ip)) false .rne false
      else
        let n : Int := if neg then -(ip : Int) - 1 else ip
        let f := if neg then fxOne - fr else fr
        fxRound (fxExp (f * fxLn2 / fxOne)) n false

/-- VFLOG2 (R136, R137). -/
def fLog2 (x : FV) : Nat × Flags5 :=
  match x with
  | .nan => (fmtF32.nanBits, 0)
  | .inf neg => if neg then (fmtF32.nanBits, flagIV) else (fmtF32.infBits, 0)
  | .fin neg m e =>
    if m = 0 then (fmtF32.signed true fmtF32.infBits, flagDZ)
    else if neg then (fmtF32.nanBits, flagIV)
    else
      let ex := exponentOf m e
      if m = 2 ^ Nat.log2 m then
        (if ex = 0 then (0, 0) else fmtF32.round (.fin (decide (ex < 0)) ex.natAbs 0) false .rne false)
      else
        let mx := m * 2 ^ fxBits / 2 ^ Nat.log2 m
        let z := (mx - fxOne) * fxOne / (mx + fxOne)
        let ln := 2 * atanhSeries 90 (z * z / fxOne) 1 z
        fxRound (ex * fxOne + ln * fxOne / fxLn2) 0 false

/-- The domain test of VFSIN and VFCOS: |x| at most the FP32 value of pi (R136, R137). -/
def trigDomain (m : Nat) (e : Int) : Bool := !(Dy.lt ((fmtF32.value 0x40490FDB).dy) ⟨(m : Int), e⟩)

/-- VFSIN (R136, R137). A small x has its sine between x and the next number below it at 64 more bits. -/
def fSin (x : FV) : Nat × Flags5 :=
  match x with
  | .nan => (fmtF32.nanBits, 0)
  | .inf _ => (fmtF32.nanBits, flagIV)
  | .fin neg m e =>
    if m = 0 then (fmtF32.signed neg 0, 0)
    else if !trigDomain m e then (fmtF32.nanBits, flagIV)
    else if exponentOf m e < -60 then fmtF32.round (.fin neg (m * 2 ^ 64 - 1) (e - 64)) true .rne false
    else
      let fx := fxOf m e
      let y := trigSeries 90 (fx * fx / fxOne) 1 fx
      fxRound (if neg then -y else y) 0 false

/-- VFCOS (R136, R137). -/
def fCos (x : FV) : Nat × Flags5 :=
  match x with
  | .nan => (fmtF32.nanBits, 0)
  | .inf _ => (fmtF32.nanBits, flagIV)
  | .fin _ m e =>
    if m = 0 then (0x3F800000, 0)
    else if !trigDomain m e then (fmtF32.nanBits, flagIV)
    else
      let fx := fxOf m e
      fxRound (trigSeries 90 (fx * fx / fxOne) 0 fxOne) 0 false

/-! ### Comparison (R151) -/

/-- A comparison of two floating values: 0 below, 1 equal, 2 above; none where one is NaN. -/
def FV.cmp (x y : FV) : Option Nat :=
  if x.isNan || y.isNan then none
  else if x.isZero && y.isZero then some 1
  else if x.below y then some 0
  else if y.below x then some 2
  else some 1

/-! ### The chunk rule (R138 to R140) -/

/-- sign(t) x floor(|t| / u) for u = 2^g, and whether the floor discarded anything (R139). -/
def truncUnits (t : Dy) (g : Int) : Int × Bool :=
  if g ≤ t.e then (t.n * 2 ^ (t.e - g).toNat, false)
  else
    let sh := (g - t.e).toNat
    let q := t.n.natAbs / 2 ^ sh
    (if t.n < 0 then -(q : Int) else q, t.n.natAbs % 2 ^ sh != 0)

/-- R139: one chunk over the incoming accumulator and the element pairs. -/
def chunkF32 (a0 : FV) (pairs : List (FV × FV)) : Nat × Flags5 :=
  let zi := pairs.any (fun p => !p.1.isNan && !p.2.isNan && zeroTimesInf p.1 p.2)
  let prods := pairs.map (fun p => p.1.mul p.2)
  let ts := a0 :: prods
  if zi then (fmtF32.nanBits, flagIV)
  else if ts.any FV.isNan then (fmtF32.nanBits, 0)
  else if ts.any (fun t => t == .inf false) && ts.any (fun t => t == .inf true) then (fmtF32.nanBits, flagIV)
  else match ts.find? FV.isInf with
    | some t => (fmtF32.signed t.neg? fmtF32.infBits, 0)
    | none =>
      let nz := (ts.filter (fun t => !t.isZero)).map FV.dy
      match nz with
      | [] => (0, 0)
      | d :: ds =>
        let e := ds.foldl (fun acc t => max acc (exponentOf t.n.natAbs t.e)) (exponentOf d.n.natAbs d.e)
        let g := e - 40
        let parts := nz.map (fun t => truncUnits t g)
        let s : Int := parts.foldl (fun (acc : Int) p => acc + p.1) 0
        let lost := parts.any (fun p => p.2)
        let r := if s = 0 then (0, 0) else fmtF32.round (.fin (decide (s < 0)) s.natAbs g) false .rne false
        (r.1, r.2 ||| (if lost then flagNX else 0))

/-- R140: one chunk of integer products, modulo 2^32. -/
def chunkI32 (a0 : Nat) (pairs : List (Int × Int)) : Nat :=
  (((a0 : Int) + (pairs.map (fun (p : Int × Int) => p.1 * p.2)).sum) % 2 ^ 32).toNat

end Sys2Proof.Machine
end

