-- ==== Sys2Proof/Decode.lean ====
section
/-!
DEFINITION. The decoders, total on any bits and rejecting by name: scalar words (R36 to R43, R300), lane words
(R111 to R117), Sumac words (R407, with the field rules of R399). After them the encoders, written from the same
tables. Every refusal of a scalar or lane word is the ILLEGAL of R42 or R117.
-/

namespace Sys2Proof

/-- Why a word is no instruction (R42, R117, R407). -/
inductive DecodeError where
  | reservedOpcode | reservedType | reservedGuard | reservedField | reservedCode | badOperand
  deriving DecidableEq, Repr

/-- An instruction whose must-be-zero fields are zero. -/
def needZero (b : Bool) (i : Instr) : Except DecodeError Instr := if b then .ok i else .error .reservedField

/-- An instruction that passes the static checks. -/
def checked (r : Except DecodeError Instr) : Except DecodeError Instr :=
  match r with
  | .ok i => if wf i then .ok i else .error .reservedCode
  | .error e => .error e

/-! ### Scalar words -/

/-- The condition with a code (R39). -/
def Cond.ofCode : Nat → Option Cond
  | 0 => some .eq | 1 => some .ne | 2 => some .lt | 3 => some .le | 4 => some .gt | 5 => some .ge | 6 => some .ltn
  | 7 => some .len | 8 => some .gtn | 9 => some .gen | 10 => some .unord | 11 => some .ord | _ => none

/-- ORD of R40 and R115. -/
def Ordering4.ofBits (x : BitVec 2) : Ordering4 :=
  if x = 0 then .relaxed else if x = 1 then .acq else if x = 2 then .rel else .acqrel

/-- OP of R40. -/
def AtomOp.ofCode : Nat → Option AtomOp
  | 0 => some .add | 1 => some .and | 2 => some .or | 3 => some .xor | 4 => some .min | 5 => some .max
  | 6 => some .minn | 7 => some .maxn | 8 => some .swap | 9 => some .cas | _ => none

/-- The register an SWR number with a row of its own names (R16). -/
def LoopReg.ofNumber (n : BitVec 12) : LoopReg :=
  if n.toNat < 0x074 then .ls (n.extractLsb' 0 2)
  else if n.toNat < 0x078 then .le (n.extractLsb' 0 2)
  else if n.toNat < 0x07C then .lc (n.extractLsb' 0 2)
  else .lstat

/-- SWR by register number (R16, R62): the registers with a row of their own, and the others. -/
def swrForm (a : Reg) (n : BitVec 12) : Instr :=
  if n = 0x020 then .fstatWrite a
  else if n = 0x022 then .fmodeWrite a
  else if n = 0x023 then .srseedWrite a
  else if n = 0x030 then .pkrWrite a
  else if 0x070 ≤ n.toNat ∧ n.toNat ≤ 0x07C then .loopRegisterWrite a (LoopReg.ofNumber n)
  else .swr a n

/-- R36 to R42 for one scalar word, the SE rows as R300 lists them. -/
def decodeScalarRaw (w : BitVec 32) : Except DecodeError Instr :=
  let f1 : Reg := w.extractLsb' 19 6
  let f2 : Reg := w.extractLsb' 13 6
  let f3 : Reg := w.extractLsb' 7 6
  let sub : BitVec 7 := w.extractLsb' 0 7
  let i13 : BitVec 13 := w.extractLsb' 0 13
  let i19 : BitVec 19 := w.extractLsb' 0 19
  match (w.extractLsb' 25 7).toNat with
  | 0x00 => needZero (sub == 0) (.sadd f1 f2 f3)
  | 0x01 => needZero (sub == 0) (.ssub f1 f2 f3)
  | 0x02 => needZero (sub == 0) (.smul f1 f2 f3)
  | 0x03 => needZero (sub == 0) (.smulh f1 f2 f3)
  | 0x04 => needZero (sub == 0) (.smulhn f1 f2 f3)
  | 0x05 => needZero (sub == 0) (.sdiv f1 f2 f3)
  | 0x06 => needZero (sub == 0) (.sdivn f1 f2 f3)
  | 0x07 => needZero (sub == 0) (.srem f1 f2 f3)
  | 0x08 => needZero (sub == 0) (.sremn f1 f2 f3)
  | 0x09 => needZero (sub == 0) (.sand f1 f2 f3)
  | 0x0A => needZero (sub == 0) (.sor f1 f2 f3)
  | 0x0B => needZero (sub == 0) (.sxor f1 f2 f3)
  | 0x0C => needZero (sub == 0) (.sshl f1 f2 f3)
  | 0x0D => needZero (sub == 0) (.sshr f1 f2 f3)
  | 0x0E => needZero (sub == 0) (.ssra f1 f2 f3)
  | 0x0F => needZero (sub == 0) (.smin f1 f2 f3)
  | 0x10 => needZero (sub == 0) (.smax f1 f2 f3)
  | 0x11 => needZero (sub == 0) (.sminn f1 f2 f3)
  | 0x12 => needZero (sub == 0) (.smaxn f1 f2 f3)
  | 0x13 =>
    match Cond.ofCode sub.toNat with
    | some k => needZero (w.extractLsb' 22 3 == (0 : BitVec 3)) (.scmp k (w.extractLsb' 19 3) f2 f3)
    | none => .error .reservedCode
  | 0x14 => needZero (w.extractLsb' 3 4 == (0 : BitVec 4)) (.ssel f1 f2 f3 (w.extractLsb' 0 3))
  | 0x15 => needZero (i13 == 0) (.sclz f1 f2)
  | 0x16 => needZero (i13 == 0) (.spopc f1 f2)
  | 0x20 => .ok (.saddi f1 f2 i13)
  | 0x21 => .ok (.sandi f1 f2 i13)
  | 0x22 => .ok (.sori f1 f2 i13)
  | 0x23 => .ok (.sxori f1 f2 i13)
  | 0x24 => needZero (w.extractLsb' 6 7 == (0 : BitVec 7)) (.sshli f1 f2 (w.extractLsb' 0 6))
  | 0x25 => needZero (w.extractLsb' 6 7 == (0 : BitVec 7)) (.sshri f1 f2 (w.extractLsb' 0 6))
  | 0x26 => needZero (w.extractLsb' 6 7 == (0 : BitVec 7)) (.ssrai f1 f2 (w.extractLsb' 0 6))
  | 0x27 =>
    match Cond.ofCode (w.extractLsb' 22 3).toNat with
    | some k => .ok (.scmpi k (w.extractLsb' 19 3) f2 i13)
    | none => .error .reservedCode
  | 0x28 => .ok (.sli f1 i19)
  | 0x29 => .ok (.sext (w.extractLsb' 0 25))
  | 0x40 => .ok (.sbr (w.extractLsb' 22 3) (w.extractLsb' 21 1 == (1 : BitVec 1)) (w.extractLsb' 0 21))
  | 0x41 => needZero (w.extractLsb' 21 4 == (0 : BitVec 4)) (.sjmp (w.extractLsb' 0 21))
  | 0x42 => needZero (w.extractLsb' 21 4 == (0 : BitVec 4)) (.scall (w.extractLsb' 0 21))
  | 0x43 => needZero (f1 == 0 && i13 == 0) (.sret f2)
  | 0x44 => needZero (i13 == 0) (.sjmpr f1 f2)
  | 0x45 => .ok (.sloop (w.extractLsb' 23 2) (w.extractLsb' 17 6) (w.extractLsb' 0 17))
  | 0x46 => needZero (w.extractLsb' 0 25 == (0 : BitVec 25)) .sleave
  | 0x47 => needZero (w.extractLsb' 0 25 == (0 : BitVec 25)) .shalt
  | 0x50 => .ok (.sldw f1 f2 i13)
  | 0x51 => .ok (.sldd f1 f2 i13)
  | 0x52 => .ok (.sstw f1 f2 i13)
  | 0x53 => .ok (.sstd f1 f2 i13)
  | 0x54 =>
    match AtomOp.ofCode (w.extractLsb' 0 4).toNat with
    | some op => .ok (.satom f1 f2 f3 (Ordering4.ofBits (w.extractLsb' 5 2)) (w.extractLsb' 4 1 == (1 : BitVec 1)) op)
    | none => .error .reservedCode
  | 0x58 => needZero (f1 == 0) (.lgo i19)
  | 0x59 => needZero (w.extractLsb' 0 25 == (0 : BitVec 25)) .lwait
  | 0x5A => needZero (f2 == 0 && w.extractLsb' 12 1 == (0 : BitVec 1)) (.srd f1 (w.extractLsb' 0 12))
  | 0x5B => needZero (f1 == 0 && w.extractLsb' 12 1 == (0 : BitVec 1)) (swrForm f2 (w.extractLsb' 0 12))
  | 0x5C => needZero (w.extractLsb' 16 9 == (0 : BitVec 9)) (.trap (w.extractLsb' 0 16))
  | 0x5D => needZero (w.extractLsb' 0 25 == (0 : BitVec 25)) .tret
  | 0x5E => needZero (w.extractLsb' 0 25 == (0 : BitVec 25)) .tfence
  | 0x5F => needZero (f1 == 0 && i13 == 0) (.waitt f2)
  | 0x60 =>
    needZero (w.extractLsb' 9 4 == (0 : BitVec 4)) (.chdef f1 f2 (w.extractLsb' 5 4) (w.extractLsb' 0 5))
  | 0x61 =>
    needZero (f2 == 0 && w.extractLsb' 6 7 == (0 : BitVec 7))
      (if w.extractLsb' 5 1 == (1 : BitVec 1) then .chadvC f1 (w.extractLsb' 0 5) else .chadvP f1 (w.extractLsb' 0 5))
  | 0x62 =>
    needZero (f2 == 0 && w.extractLsb' 6 7 == (0 : BitVec 7))
      (if w.extractLsb' 5 1 == (1 : BitVec 1) then .chwaitRoom f1 (w.extractLsb' 0 5)
       else .chwaitCnt f1 (w.extractLsb' 0 5))
  | 0x63 =>
    needZero (f2 == 0 && w.extractLsb' 1 12 == (0 : BitVec 12)) (.mvcopy f1 (w.extractLsb' 0 1 == (1 : BitVec 1)))
  | 0x64 => needZero (f2 == 0 && i13 == 0) (.mvgath f1)
  | 0x65 => needZero (f2 == 0 && i13 == 0) (.mvfill f1)
  | 0x66 =>
    needZero (f2 == 0)
      (.tmma f1 (w.extractLsb' 12 1 == (1 : BitVec 1)) (w.extractLsb' 11 1 == (1 : BitVec 1))
        (w.extractLsb' 10 1 == (1 : BitVec 1)) (w.extractLsb' 5 5) (w.extractLsb' 0 5))
  | 0x67 =>
    match (w.extractLsb' 0 3).toNat with
    | 0 => needZero (f2 == 0 && w.extractLsb' 3 10 == (0 : BitVec 10)) (.taccZero f1)
    | 1 => needZero (f2 == 0 && w.extractLsb' 8 5 == (0 : BitVec 5)) (.taccLoad f1 (w.extractLsb' 3 5))
    | 2 => needZero (f2 == 0 && w.extractLsb' 8 5 == (0 : BitVec 5)) (.taccStore f1 (w.extractLsb' 3 5))
    | 3 => needZero (f2 == 0 && w.extractLsb' 8 5 == (0 : BitVec 5)) (.taccStoreBf16 f1 (w.extractLsb' 3 5))
    | 4 =>
      needZero (f2 == 0 && w.extractLsb' 9 4 == (0 : BitVec 4))
        (.taccStoreE4m3 f1 (w.extractLsb' 8 1 == (1 : BitVec 1)) (w.extractLsb' 3 5))
    | _ => .error .reservedCode
  | 0x68 => needZero (w.extractLsb' 0 25 == (0 : BitVec 25)) .tarrive
  | 0x69 =>
    match (w.extractLsb' 0 2).toNat with
    | 1 => needZero (f2 == 0 && w.extractLsb' 2 11 == (0 : BitVec 11)) (.twait f1 .matrix)
    | 2 => needZero (f2 == 0 && w.extractLsb' 2 11 == (0 : BitVec 11)) (.twait f1 .mover)
    | 3 => needZero (f2 == 0 && w.extractLsb' 2 11 == (0 : BitVec 11)) (.twait f1 .both)
    | _ => .error .reservedCode
  | 0x6A => needZero (f2 == 0 && i13 == 0) (.spanopen f1)
  | 0x6B =>
    needZero (f2 == 0 && w.extractLsb' 12 1 == (0 : BitVec 1))
      (.spanmma f1 (w.extractLsb' 11 1 == (1 : BitVec 1)) (w.extractLsb' 10 1 == (1 : BitVec 1)) (w.extractLsb' 5 5)
        (w.extractLsb' 0 5))
  | 0x6C => needZero (w.extractLsb' 0 25 == (0 : BitVec 25)) .spanclose
  | 0x6D => needZero (i13 == 0) (.dfence f1 f2)
  | 0x70 =>
    needZero (f2 == 0 && w.extractLsb' 1 12 == (0 : BitVec 12)) (.qpost f1 (w.extractLsb' 0 1 == (1 : BitVec 1)))
  | 0x71 => needZero (i13 == 0) (.cntset f1 f2)
  | 0x72 =>
    needZero (w.extractLsb' 2 11 == (0 : BitVec 11))
      (.cntadd f1 f2 (w.extractLsb' 1 1 == (1 : BitVec 1)) (w.extractLsb' 0 1 == (1 : BitVec 1)))
  | 0x73 =>
    if w.extractLsb' 0 1 == (1 : BitVec 1) then
      needZero (w.extractLsb' 4 9 == (0 : BitVec 9)) (.cntwaitNowait f1 f2 (w.extractLsb' 1 3))
    else needZero (i13 == 0) (.cntwait f1 f2)
  | 0x74 =>
    match (w.extractLsb' 0 3).toNat with
    | 4 => needZero (f2 == 0 && w.extractLsb' 3 10 == (0 : BitVec 10)) (.barx f1 .sett)
    | 5 => needZero (f2 == 0 && w.extractLsb' 3 10 == (0 : BitVec 10)) (.barx f1 .package)
    | 6 => needZero (f2 == 0 && w.extractLsb' 3 10 == (0 : BitVec 10)) (.barx f1 .domain)
    | _ => .error .reservedCode
  | 0x78 => needZero (w.extractLsb' 1 12 == (0 : BitVec 12)) (.spmap f1 f2 (w.extractLsb' 0 1 == (1 : BitVec 1)))
  | 0x79 => needZero (i13 == 0) (.spunmap f1 f2)
  | 0x7A =>
    needZero (f2 == 0 && w.extractLsb' 0 1 == (0 : BitVec 1) && w.extractLsb' 4 9 == (0 : BitVec 9))
      (.spmig f1 (w.extractLsb' 1 3))
  | 0x7B => needZero (f2 == 0 && i13 == 0) (.tlaunch f1)
  | 0x7C => needZero (f1 == 0) (.phint i19)
  | 0x7D =>
    match (w.extractLsb' 0 2).toNat with
    | 0 =>
      needZero (w.extractLsb' 10 3 == (0 : BitVec 3))
        (.pgmap f1 f2 (w.extractLsb' 9 1 == (1 : BitVec 1)) (w.extractLsb' 8 1 == (1 : BitVec 1))
          (w.extractLsb' 7 1 == (1 : BitVec 1)) (w.extractLsb' 2 5) .k64)
    | 1 =>
      needZero (w.extractLsb' 10 3 == (0 : BitVec 3))
        (.pgmap f1 f2 (w.extractLsb' 9 1 == (1 : BitVec 1)) (w.extractLsb' 8 1 == (1 : BitVec 1))
          (w.extractLsb' 7 1 == (1 : BitVec 1)) (w.extractLsb' 2 5) .m2)
    | 2 =>
      needZero (w.extractLsb' 10 3 == (0 : BitVec 3))
        (.pgmap f1 f2 (w.extractLsb' 9 1 == (1 : BitVec 1)) (w.extractLsb' 8 1 == (1 : BitVec 1))
          (w.extractLsb' 7 1 == (1 : BitVec 1)) (w.extractLsb' 2 5) .g1)
    | _ => .error .reservedCode
  | 0x7E =>
    if w.extractLsb' 0 1 == (1 : BitVec 1) then
      needZero (f2 == 0 && w.extractLsb' 4 9 == (0 : BitVec 9)) (.enresNowait f1 (w.extractLsb' 1 3))
    else needZero (f2 == 0 && i13 == 0) (.enres f1)
  | _ => .error .reservedOpcode

/-- The scalar instruction of a word, or why it is none (R42). -/
def decodeScalar (w : BitVec 32) : Except DecodeError Instr := checked (decodeScalarRaw w)

/-! ### Lane words -/

/-- The special value with an index (R104). -/
def Special.ofCode : Nat → Option Special
  | 0 => some .lane | 1 => some .glane | 2 => some .group | 3 => some .col | 4 => some .pass | 5 => some .teamid
  | 6 => some .gtclo | _ => none

/-- An operand field: class [11:9] and index [8:0] (R111, R103 to R105). -/
def Operand.ofBits (x : BitVec 12) : Option Operand :=
  let i : BitVec 9 := x.extractLsb' 0 9
  match (x.extractLsb' 9 3).toNat with
  | 0 => some (.v i)
  | 1 => some (.w i)
  | 2 => some (.q i)
  | 3 => some (.m (x.extractLsb' 7 2) (x.extractLsb' 0 7))
  | 4 => if i.toNat < 64 then some (.s (x.extractLsb' 0 6)) else none
  | 5 => (Special.ofCode i.toNat).map .special
  | 6 => some (.imm i)
  | _ => if i == 0 then some .none else none

/-- GUARD (R111). -/
def Guard.ofBits (x : BitVec 4) : Guard := ⟨x.extractLsb' 3 1 == (1 : BitVec 1), x.extractLsb' 0 3⟩

/-- RND (R115). -/
def Rnd.ofCode : Nat → Option Rnd
  | 0 => some .dyn | 1 => some .rne | 2 => some .rtz | 3 => some .rdn | 4 => some .rup | 5 => some .sr | _ => none

/-- Layout A (R115). -/
def AuxA.ofBits (x : BitVec 28) : Option AuxA :=
  match Rnd.ofCode (x.extractLsb' 0 3).toNat with
  | some r =>
    if x.extractLsb' 11 5 == (0 : BitVec 5) then
      some ⟨x.extractLsb' 16 12, x.extractLsb' 5 6, x.extractLsb' 4 1 == (1 : BitVec 1),
        x.extractLsb' 3 1 == (1 : BitVec 1), r⟩
    else none
  | none => none

/-- Layout C (R115). -/
def AuxC.ofBits (x : BitVec 28) : Option AuxC :=
  match Cond.ofCode (x.extractLsb' 0 4).toNat with
  | some k =>
    if x.extractLsb' 17 11 == (0 : BitVec 11) then
      some ⟨x.extractLsb' 13 4, x.extractLsb' 10 3, x.extractLsb' 7 3, x.extractLsb' 4 3, k⟩
    else none
  | none => none

/-- AOP (R115). -/
def Aop.ofCode : Nat → Option Aop
  | 0 => some .add | 1 => some .and | 2 => some .or | 3 => some .xor | 4 => some .min | 5 => some .max
  | 6 => some .swap | _ => none

/-- CACHE (R115). -/
def Cache.ofBits (x : BitVec 2) : Cache :=
  if x = 0 then .default else if x = 1 then .stream else if x = 2 then .keep else .noL1

/-- SCOPE (R115). -/
def Scope.ofCode : Nat → Option Scope
  | 0 => some .lane | 1 => some .team | 2 => some .core | 3 => some .cluster | 4 => some .sett | 5 => some .package
  | 6 => some .domain | _ => none

/-- Layout M (R115). -/
def AuxM.ofBits (x : BitVec 28) : Option AuxM :=
  match Aop.ofCode (x.extractLsb' 22 4).toNat, Scope.ofCode (x.extractLsb' 15 3).toNat with
  | some a, some sc =>
    if x.extractLsb' 13 2 == (0 : BitVec 2) && x.extractLsb' 26 2 != (3 : BitVec 2) then
      some ⟨x.extractLsb' 26 2, a, Cache.ofBits (x.extractLsb' 20 2), Ordering4.ofBits (x.extractLsb' 18 2), sc,
        x.extractLsb' 0 13⟩
    else none
  | _, _ => none

/-- Layout X (R115). -/
def AuxX.ofBits (x : BitVec 28) : Option AuxX :=
  if x.extractLsb' 19 9 == (0 : BitVec 9) then some ⟨x.extractLsb' 16 3, x.extractLsb' 4 12, x.extractLsb' 0 4⟩ else none

/-- Layout B (R115). -/
def AuxB.ofBits (x : BitVec 28) : Option AuxB :=
  if x.extractLsb' 16 11 == (0 : BitVec 11) then
    some ⟨x.extractLsb' 27 1 == (1 : BitVec 1), x.extractLsb' 0 16⟩
  else none

/-- What an opcode makes of the head and the AUX field (R115, R116). -/
inductive LaneForm where
  | bare (f : LaneHead → Instr)
  | a (f : LaneHead → AuxA → Instr)
  | c (f : LaneHead → AuxC → Instr)
  | m (f : LaneHead → AuxM → Instr)
  | x (f : LaneHead → AuxX → Instr)
  | b (f : LaneHead → AuxB → Instr)
  | vli
  | bra

/-- The lane opcode map (R116). -/
def laneForm : Nat → Option LaneForm
  | 0x000 => some (.a .vadd) | 0x001 => some (.a .vsub) | 0x002 => some (.a .vmul) | 0x003 => some (.bare .vmulh)
  | 0x004 => some (.a .vmad) | 0x005 => some (.bare .vmin) | 0x006 => some (.bare .vmax) | 0x007 => some (.a .vabs)
  | 0x008 => some (.a .vneg) | 0x009 => some (.bare .vand) | 0x00A => some (.bare .vor) | 0x00B => some (.bare .vxor)
  | 0x00C => some (.bare .vnot) | 0x00D => some (.bare .vshl) | 0x00E => some (.bare .vshr)
  | 0x00F => some (.bare .vsra) | 0x010 => some (.bare .vrol) | 0x011 => some (.bare .vclz)
  | 0x012 => some (.bare .vpopc) | 0x013 => some (.bare .vbfx) | 0x014 => some (.bare .vbfi) | 0x015 => some (.a .vdot4)
  | 0x040 => some (.c .vcmp) | 0x041 => some (.c .vsel) | 0x042 => some (.c .plop) | 0x043 => some (.bare .vmov)
  | 0x044 => some .vli
  | 0x080 => some (.x .vshfl) | 0x081 => some (.x .vbcast) | 0x082 => some (.x .vreduce) | 0x083 => some (.x .vscan)
  | 0x084 => some (.x .vvote)
  | 0x0C0 => some .bra | 0x0C1 => some (.b .brx) | 0x0C2 => some (.b .skip) | 0x0C3 => some (.bare .join)
  | 0x0C4 => some (.bare .lend) | 0x0C5 => some (.bare .yieldl) | 0x0C6 => some (.b .ltrap)
  | 0x100 => some (.a .vfadd) | 0x101 => some (.a .vfsub) | 0x102 => some (.a .vfmul) | 0x103 => some (.a .vfma)
  | 0x104 => some (.bare .vfmin) | 0x105 => some (.bare .vfmax) | 0x106 => some (.a .vfdiv) | 0x107 => some (.a .vfsqrt)
  | 0x108 => some (.bare .vfrcp) | 0x109 => some (.bare .vfrsq) | 0x10A => some (.bare .vfexp2)
  | 0x10B => some (.bare .vflog2) | 0x10C => some (.bare .vfsin) | 0x10D => some (.bare .vfcos)
  | 0x10E => some (.bare .vfclass) | 0x10F => some (.a .vfrnd) | 0x110 => some (.a .vfsgn) | 0x111 => some (.bare .vfexpo)
  | 0x200 => some (.a .vcvt) | 0x201 => some (.a .vpack) | 0x202 => some (.a .vunpk)
  | 0x300 => some (.m .vld) | 0x301 => some (.m .vst) | 0x302 => some (.m .vatom) | 0x303 => some (.m .vcas)
  | 0x304 => some (.m .vpref) | 0x305 => some (.m .fence) | 0x306 => some (.x .bar)
  | 0x380 => some (.bare .fmma) | 0x381 => some (.m .fld) | 0x382 => some (.m .fst)
  | _ => none

/-- A lane instruction whose AUX field reads in its layout. -/
def withAux {α : Type} (x : Option α) (f : α → Instr) : Except DecodeError Instr :=
  match x with
  | some a => .ok (f a)
  | none => .error .reservedField

/-- An instruction whose AUX field is zero. -/
def auxZero (x : BitVec 28) (i : Instr) : Except DecodeError Instr := if x = 0 then .ok i else .error .reservedField

/-- R111 and R117 for one lane word. -/
def decodeLaneRaw (w : BitVec 96) : Except DecodeError Instr :=
  let aux : BitVec 28 := w.extractLsb' 0 28
  let g := Guard.ofBits (w.extractLsb' 76 4)
  let imm : BitVec 32 := w.extractLsb' 32 32
  match laneForm (w.extractLsb' 86 10).toNat with
  | none => .error .reservedOpcode
  | some form =>
    match LType.ofCode (w.extractLsb' 80 6).toNat with
    | none => .error .reservedType
    | some t =>
      if g.ok then
        match Operand.ofBits (w.extractLsb' 64 12) with
        | none => .error .badOperand
        | some d =>
          match form with
          | .vli =>
            if w.extractLsb' 28 4 == (0 : BitVec 4) then auxZero aux (.vli g t d imm) else .error .reservedField
          | .bra =>
            if w.extractLsb' 28 4 == (0 : BitVec 4) && t == .i32 then withAux (AuxB.ofBits aux) (.bra g imm d)
            else .error .reservedField
          | form =>
            match Operand.ofBits (w.extractLsb' 52 12), Operand.ofBits (w.extractLsb' 40 12),
              Operand.ofBits (w.extractLsb' 28 12) with
            | some a, some b, some c =>
              let h : LaneHead := ⟨g, t, d, a, b, c⟩
              match form with
              | .bare f => auxZero aux (f h)
              | .a f => withAux (AuxA.ofBits aux) (f h)
              | .c f => withAux (AuxC.ofBits aux) (f h)
              | .m f => withAux (AuxM.ofBits aux) (f h)
              | .x f => withAux (AuxX.ofBits aux) (f h)
              | .b f => withAux (AuxB.ofBits aux) (f h)
              | .vli => .error .reservedOpcode
              | .bra => .error .reservedOpcode
            | _, _, _ => .error .badOperand
      else .error .reservedGuard

/-- The lane instruction of a word, or why it is none (R117). -/
def decodeLane (w : BitVec 96) : Except DecodeError Instr := checked (decodeLaneRaw w)

/-! ### Sumac words -/

/-- T of R407. -/
def KType.ofCode : Nat → Option KType
  | 0 => some .f32 | 1 => some .bf16 | 2 => some .i32 | _ => none

/-- DT and ST of R407. -/
def KFmt.ofCode : Nat → Option KFmt
  | 0 => some .f32 | 1 => some .bf16 | 2 => some .e4m3 | _ => none

/-- Conditions of XCMP (R407). -/
def XCond.ofCode : Nat → Option XCond
  | 0 => some .eq | 1 => some .ne | 2 => some .lt | 3 => some .ge | 4 => some .ltn | 5 => some .gen | _ => none

/-- The two forms of XADD, XSUB and XAND (R407). -/
def sumacAlu (w : BitVec 32) (r : BitVec 3 → BitVec 3 → BitVec 3 → Instr) (i : BitVec 3 → BitVec 3 → BitVec 16 → Instr) :
    Except DecodeError Instr :=
  if w.extractLsb' 19 1 == (1 : BitVec 1) then
    needZero (w.extractLsb' 16 3 == (0 : BitVec 3)) (i (w.extractLsb' 23 3) (w.extractLsb' 20 3) (w.extractLsb' 0 16))
  else
    needZero (w.extractLsb' 0 16 == (0 : BitVec 16))
      (r (w.extractLsb' 23 3) (w.extractLsb' 20 3) (w.extractLsb' 16 3))

/-- KADD, KMAX and KMIN (R407). -/
def sumacK (w : BitVec 32) (f : BitVec 4 → BitVec 4 → BitVec 4 → KType → Instr) : Except DecodeError Instr :=
  match KType.ofCode (w.extractLsb' 12 2).toNat with
  | some t =>
    needZero (w.extractLsb' 0 12 == (0 : BitVec 12))
      (f (w.extractLsb' 22 4) (w.extractLsb' 18 4) (w.extractLsb' 14 4) t)
  | none => .error .reservedCode

/-- R407 for one Sumac word. -/
def decodeSumacRaw (w : BitVec 32) : Except DecodeError Instr :=
  match (w.extractLsb' 26 6).toNat with
  | 0x00 =>
    if w.extractLsb' 21 1 == (1 : BitVec 1) then
      needZero (w.extractLsb' 3 15 == (0 : BitVec 15))
        (.ldpH (w.extractLsb' 22 4) (w.extractLsb' 18 3) (w.extractLsb' 0 3))
    else needZero (w.extractLsb' 3 18 == (0 : BitVec 18)) (.ldp (w.extractLsb' 22 4) (w.extractLsb' 0 3))
  | 0x01 => needZero (w.extractLsb' 3 19 == (0 : BitVec 19)) (.stp (w.extractLsb' 22 4) (w.extractLsb' 0 3))
  | 0x02 =>
    needZero (w.extractLsb' 21 1 == (0 : BitVec 1) && w.extractLsb' 7 11 == (0 : BitVec 11))
      (.ldf (w.extractLsb' 22 4) (w.extractLsb' 18 3) (w.extractLsb' 0 7))
  | 0x03 =>
    needZero (w.extractLsb' 21 1 == (0 : BitVec 1) && w.extractLsb' 7 11 == (0 : BitVec 11))
      (.stf (w.extractLsb' 22 4) (w.extractLsb' 18 3) (w.extractLsb' 0 7))
  | 0x04 => needZero (w.extractLsb' 8 15 == (0 : BitVec 15)) (.ldh (w.extractLsb' 23 3) (w.extractLsb' 0 8))
  | 0x05 => sumacAlu w .xadd .xaddImm
  | 0x06 => sumacAlu w .xsub .xsubImm
  | 0x07 => sumacAlu w .xand .xandImm
  | 0x08 =>
    needZero (w.extractLsb' 16 6 == (0 : BitVec 6))
      (.xli (w.extractLsb' 23 3) (w.extractLsb' 22 1 == (1 : BitVec 1)) (w.extractLsb' 0 16))
  | 0x09 =>
    match XCond.ofCode (w.extractLsb' 23 3).toNat with
    | some k => sumacAlu w (fun _ a b => .xcmp k a b) (fun _ a i => .xcmpImm k a i)
    | none => .error .reservedCode
  | 0x0A =>
    needZero (w.extractLsb' 10 15 == (0 : BitVec 15))
      (.brf (w.extractLsb' 25 1 == (1 : BitVec 1)) (w.extractLsb' 0 10))
  | 0x0B =>
    needZero (w.extractLsb' 21 5 == (0 : BitVec 5) && w.extractLsb' 10 6 == (0 : BitVec 6))
      (.repeatN (w.extractLsb' 16 5) (w.extractLsb' 0 10))
  | 0x0C => sumacK w .kadd
  | 0x0D => sumacK w .kmax
  | 0x0E => sumacK w .kmin
  | 0x0F =>
    match KFmt.ofCode (w.extractLsb' 12 2).toNat, KFmt.ofCode (w.extractLsb' 10 2).toNat with
    | some dt, some st =>
      needZero (w.extractLsb' 14 4 == (0 : BitVec 4) && w.extractLsb' 0 8 == (0 : BitVec 8))
        (.kcvt (w.extractLsb' 22 4) (w.extractLsb' 18 4) dt st (w.extractLsb' 8 2))
    | _, _ => .error .reservedCode
  | 0x10 =>
    if w.extractLsb' 25 1 == (1 : BitVec 1) then
      needZero (w.extractLsb' 21 4 == (0 : BitVec 4) && w.extractLsb' 0 18 == (0 : BitVec 18))
        (.fwdC (w.extractLsb' 18 3))
    else needZero (w.extractLsb' 0 25 == (0 : BitVec 25)) .fwd
  | 0x11 =>
    if w.extractLsb' 25 1 == (1 : BitVec 1) then
      needZero (w.extractLsb' 21 4 == (0 : BitVec 4) && w.extractLsb' 0 18 == (0 : BitVec 18))
        (.dropC (w.extractLsb' 18 3))
    else needZero (w.extractLsb' 0 25 == (0 : BitVec 25)) .drop
  | 0x12 =>
    needZero (w.extractLsb' 23 3 == (0 : BitVec 3) && w.extractLsb' 0 20 == (0 : BitVec 20)) (.emit (w.extractLsb' 20 3))
  | 0x13 =>
    needZero (w.extractLsb' 21 5 == (0 : BitVec 5) && w.extractLsb' 0 18 == (0 : BitVec 18)) (.hold (w.extractLsb' 18 3))
  | 0x14 => needZero (w.extractLsb' 16 10 == (0 : BitVec 10)) (.ktrap (w.extractLsb' 0 16))
  | _ => .error .reservedOpcode

/-- The Sumac instruction of a word, or why it is none (R399, R407). -/
def decodeSumac (w : BitVec 32) : Except DecodeError Instr := checked (decodeSumacRaw w)

/-! ### Encoders -/

/-- Bit of a Boolean. -/
def bit1 (b : Bool) : BitVec 1 := if b then 1 else 0

def Ordering4.toBits : Ordering4 → BitVec 2 | .relaxed => 0 | .acq => 1 | .rel => 2 | .acqrel => 3

def AtomOp.toBits : AtomOp → BitVec 4
  | .add => 0 | .and => 1 | .or => 2 | .xor => 3 | .min => 4 | .max => 5 | .minn => 6 | .maxn => 7 | .swap => 8 | .cas => 9

def Cond.toBits4 : Cond → BitVec 4
  | .eq => 0 | .ne => 1 | .lt => 2 | .le => 3 | .gt => 4 | .ge => 5 | .ltn => 6 | .len => 7 | .gtn => 8 | .gen => 9
  | .unord => 10 | .ord => 11

def LoopReg.number : LoopReg → BitVec 12
  | .ls n => 0x01C#10 ++ n | .le n => 0x01D#10 ++ n | .lc n => 0x01E#10 ++ n | .lstat => 0x07C

/-- Format SR of R36: opcode, three registers, sub. -/
def encSr (op : BitVec 7) (a b c : Reg) (sub : BitVec 7) : BitVec 32 := op ++ a ++ b ++ c ++ sub
/-- Formats SI and SE of R36. -/
def encSi (op : BitVec 7) (a b : Reg) (i : BitVec 13) : BitVec 32 := op ++ a ++ b ++ i
/-- Format SU of R36. -/
def encSu (op : BitVec 7) (d : Reg) (i : BitVec 19) : BitVec 32 := op ++ d ++ i

/-- The word of a scalar instruction (R36 to R40, R300). -/
def encodeScalar : Instr → Option (BitVec 32)
  | .sadd d a b => some (encSr 0x00 d a b 0)
  | .ssub d a b => some (encSr 0x01 d a b 0)
  | .smul d a b => some (encSr 0x02 d a b 0)
  | .smulh d a b => some (encSr 0x03 d a b 0)
  | .smulhn d a b => some (encSr 0x04 d a b 0)
  | .sdiv d a b => some (encSr 0x05 d a b 0)
  | .sdivn d a b => some (encSr 0x06 d a b 0)
  | .srem d a b => some (encSr 0x07 d a b 0)
  | .sremn d a b => some (encSr 0x08 d a b 0)
  | .sand d a b => some (encSr 0x09 d a b 0)
  | .sor d a b => some (encSr 0x0A d a b 0)
  | .sxor d a b => some (encSr 0x0B d a b 0)
  | .sshl d a b => some (encSr 0x0C d a b 0)
  | .sshr d a b => some (encSr 0x0D d a b 0)
  | .ssra d a b => some (encSr 0x0E d a b 0)
  | .smin d a b => some (encSr 0x0F d a b 0)
  | .smax d a b => some (encSr 0x10 d a b 0)
  | .sminn d a b => some (encSr 0x11 d a b 0)
  | .smaxn d a b => some (encSr 0x12 d a b 0)
  | .scmp k c a b => some (0x13#7 ++ 0#3 ++ c ++ a ++ b ++ 0#3 ++ k.toBits4)
  | .ssel d a b c => some (0x14#7 ++ d ++ a ++ b ++ 0#4 ++ c)
  | .sclz d a => some (encSi 0x15 d a 0)
  | .spopc d a => some (encSi 0x16 d a 0)
  | .saddi d a i => some (encSi 0x20 d a i)
  | .sandi d a i => some (encSi 0x21 d a i)
  | .sori d a i => some (encSi 0x22 d a i)
  | .sxori d a i => some (encSi 0x23 d a i)
  | .sshli d a n => some (0x24#7 ++ d ++ a ++ 0#7 ++ n)
  | .sshri d a n => some (0x25#7 ++ d ++ a ++ 0#7 ++ n)
  | .ssrai d a n => some (0x26#7 ++ d ++ a ++ 0#7 ++ n)
  | .scmpi k c a i => some (0x27#7 ++ k.toBits4.extractLsb' 0 3 ++ c ++ a ++ i)
  | .sli d i => some (encSu 0x28 d i)
  | .sext i => some (0x29#7 ++ i)
  | .sbr c n o => some (0x40#7 ++ c ++ bit1 n ++ o)
  | .sjmp o => some (0x41#7 ++ 0#4 ++ o)
  | .scall o => some (0x42#7 ++ 0#4 ++ o)
  | .sret a => some (encSi 0x43 0 a 0)
  | .sjmpr d a => some (encSi 0x44 d a 0)
  | .sloop l c o => some (0x45#7 ++ l ++ c ++ o)
  | .sleave => some (0x46#7 ++ 0#25)
  | .shalt => some (0x47#7 ++ 0#25)
  | .sldw d a i => some (encSi 0x50 d a i)
  | .sldd d a i => some (encSi 0x51 d a i)
  | .sstw d a i => some (encSi 0x52 d a i)
  | .sstd d a i => some (encSi 0x53 d a i)
  | .satom d a b o z op => some (0x54#7 ++ d ++ a ++ b ++ o.toBits ++ bit1 z ++ op.toBits)
  | .lgo i => some (encSu 0x58 0 i)
  | .lwait => some (0x59#7 ++ 0#25)
  | .srd d n => some (0x5A#7 ++ d ++ 0#6 ++ 0#1 ++ n)
  | .swr a n => some (0x5B#7 ++ 0#6 ++ a ++ 0#1 ++ n)
  | .trap n => some (0x5C#7 ++ 0#9 ++ n)
  | .tret => some (0x5D#7 ++ 0#25)
  | .tfence => some (0x5E#7 ++ 0#25)
  | .waitt a => some (encSi 0x5F 0 a 0)
  | .chdef a b l h => some (0x60#7 ++ a ++ b ++ 0#4 ++ l ++ h)
  | .chadvP a h => some (0x61#7 ++ a ++ 0#6 ++ 0#7 ++ 0#1 ++ h)
  | .chadvC a h => some (0x61#7 ++ a ++ 0#6 ++ 0#7 ++ 1#1 ++ h)
  | .chwaitCnt a h => some (0x62#7 ++ a ++ 0#6 ++ 0#7 ++ 0#1 ++ h)
  | .chwaitRoom a h => some (0x62#7 ++ a ++ 0#6 ++ 0#7 ++ 1#1 ++ h)
  | .mvcopy a dec => some (0x63#7 ++ a ++ 0#6 ++ 0#12 ++ bit1 dec)
  | .mvgath a => some (encSi 0x64 a 0 0)
  | .mvfill a => some (encSi 0x65 a 0 0)
  | .tmma a bo ao z hb ha => some (0x66#7 ++ a ++ 0#6 ++ bit1 bo ++ bit1 ao ++ bit1 z ++ hb ++ ha)
  | .taccZero a => some (encSi 0x67 a 0 0)
  | .taccLoad a h => some (0x67#7 ++ a ++ 0#6 ++ 0#5 ++ h ++ 1#3)
  | .taccStore a h => some (0x67#7 ++ a ++ 0#6 ++ 0#5 ++ h ++ 2#3)
  | .taccStoreBf16 a h => some (0x67#7 ++ a ++ 0#6 ++ 0#5 ++ h ++ 3#3)
  | .taccStoreE4m3 a sf h => some (0x67#7 ++ a ++ 0#6 ++ 0#4 ++ bit1 sf ++ h ++ 4#3)
  | .tarrive => some (0x68#7 ++ 0#25)
  | .twait d w => some (0x69#7 ++ d ++ 0#6 ++ 0#11 ++ (match w with | .matrix => 1#2 | .mover => 2#2 | .both => 3#2))
  | .spanopen a => some (encSi 0x6A a 0 0)
  | .spanmma a k z ha hb => some (0x6B#7 ++ a ++ 0#6 ++ 0#1 ++ bit1 k ++ bit1 z ++ ha ++ hb)
  | .spanclose => some (0x6C#7 ++ 0#25)
  | .dfence a b => some (encSi 0x6D a b 0)
  | .qpost a r => some (0x70#7 ++ a ++ 0#6 ++ 0#12 ++ bit1 r)
  | .cntset a b => some (encSi 0x71 a b 0)
  | .cntadd a b ar re => some (0x72#7 ++ a ++ b ++ 0#11 ++ bit1 ar ++ bit1 re)
  | .cntwait a b => some (encSi 0x73 a b 0)
  | .cntwaitNowait a b c => some (0x73#7 ++ a ++ b ++ 0#9 ++ c ++ 1#1)
  | .barx a sc => some (0x74#7 ++ a ++ 0#6 ++ 0#10 ++ (match sc with | .sett => 4#3 | .package => 5#3 | .domain => 6#3))
  | .spmap a b we => some (0x78#7 ++ a ++ b ++ 0#12 ++ bit1 we)
  | .spunmap a b => some (encSi 0x79 a b 0)
  | .spmig a c => some (0x7A#7 ++ a ++ 0#6 ++ 0#9 ++ c ++ 0#1)
  | .tlaunch a => some (encSi 0x7B a 0 0)
  | .phint i => some (encSu 0x7C 0 i)
  | .pgmap a b x w r key z =>
    some (0x7D#7 ++ a ++ b ++ 0#3 ++ bit1 x ++ bit1 w ++ bit1 r ++ key
      ++ (match z with | .k64 => 0#2 | .m2 => 1#2 | .g1 => 2#2))
  | .enres a => some (encSi 0x7E a 0 0)
  | .enresNowait a c => some (0x7E#7 ++ a ++ 0#6 ++ 0#9 ++ c ++ 1#1)
  | .fstatWrite a => some (0x5B#7 ++ 0#6 ++ a ++ 0#1 ++ 0x020#12)
  | .fmodeWrite a => some (0x5B#7 ++ 0#6 ++ a ++ 0#1 ++ 0x022#12)
  | .srseedWrite a => some (0x5B#7 ++ 0#6 ++ a ++ 0#1 ++ 0x023#12)
  | .pkrWrite a => some (0x5B#7 ++ 0#6 ++ a ++ 0#1 ++ 0x030#12)
  | .loopRegisterWrite a r => some (0x5B#7 ++ 0#6 ++ a ++ 0#1 ++ r.number)
  | _ => none

def LType.toBits (t : LType) : BitVec 6 := BitVec.ofNat 6 t.code

def Special.toBits : Special → BitVec 9
  | .lane => 0 | .glane => 1 | .group => 2 | .col => 3 | .pass => 4 | .teamid => 5 | .gtclo => 6

/-- The 12 bits of an operand (R111). -/
def Operand.toBits : Operand → BitVec 12
  | .v i => 0#3 ++ i
  | .w i => 1#3 ++ i
  | .q i => 2#3 ++ i
  | .m n j => 3#3 ++ n ++ j
  | .s i => 4#3 ++ 0#3 ++ i
  | .special x => 5#3 ++ x.toBits
  | .imm i => 6#3 ++ i
  | .none => 7#3 ++ 0#9

def Guard.toBits (g : Guard) : BitVec 4 := bit1 g.neg ++ g.pred

def Rnd.toBits : Rnd → BitVec 3 | .dyn => 0 | .rne => 1 | .rtz => 2 | .rdn => 3 | .rup => 4 | .sr => 5

def AuxA.toBits (x : AuxA) : BitVec 28 := x.imm12 ++ 0#5 ++ x.stype ++ bit1 x.sat ++ bit1 x.satf ++ x.rnd.toBits
def AuxC.toBits (x : AuxC) : BitVec 28 := 0#11 ++ x.pfn ++ x.pb ++ x.pa ++ x.pd ++ x.cond.toBits4

def Aop.toBits : Aop → BitVec 4
  | .add => 0 | .and => 1 | .or => 2 | .xor => 3 | .min => 4 | .max => 5 | .swap => 6
def Cache.toBits : Cache → BitVec 2 | .default => 0 | .stream => 1 | .keep => 2 | .noL1 => 3
def Scope.toBits : Scope → BitVec 3
  | .lane => 0 | .team => 1 | .core => 2 | .cluster => 3 | .sett => 4 | .package => 5 | .domain => 6

def AuxM.toBits (x : AuxM) : BitVec 28 :=
  x.narrow ++ x.aop.toBits ++ x.cache.toBits ++ x.ord.toBits ++ x.scope.toBits ++ 0#2 ++ x.off
def AuxX.toBits (x : AuxX) : BitVec 28 := 0#9 ++ x.pa ++ x.imm12 ++ x.xop
def AuxB.toBits (x : AuxB) : BitVec 28 := bit1 x.pack ++ 0#11 ++ x.imm16

/-- A lane word from its parts (R111). -/
def encLane (op : BitVec 10) (h : LaneHead) (aux : BitVec 28) : BitVec 96 :=
  op ++ h.ty.toBits ++ h.g.toBits ++ h.d.toBits ++ h.a.toBits ++ h.b.toBits ++ h.c.toBits ++ aux

/-- A long form of R111. -/
def encLong (op : BitVec 10) (t : LType) (g : Guard) (d : Operand) (imm : BitVec 32) (aux : BitVec 28) : BitVec 96 :=
  op ++ t.toBits ++ g.toBits ++ d.toBits ++ imm ++ 0#4 ++ aux

/-- The 96 bits of a lane instruction (R111, R116). -/
def encodeLane : Instr → Option (BitVec 96)
  | .vadd h x => some (encLane 0x000 h x.toBits)
  | .vsub h x => some (encLane 0x001 h x.toBits)
  | .vmul h x => some (encLane 0x002 h x.toBits)
  | .vmulh h => some (encLane 0x003 h 0)
  | .vmad h x => some (encLane 0x004 h x.toBits)
  | .vmin h => some (encLane 0x005 h 0)
  | .vmax h => some (encLane 0x006 h 0)
  | .vabs h x => some (encLane 0x007 h x.toBits)
  | .vneg h x => some (encLane 0x008 h x.toBits)
  | .vand h => some (encLane 0x009 h 0)
  | .vor h => some (encLane 0x00A h 0)
  | .vxor h => some (encLane 0x00B h 0)
  | .vnot h => some (encLane 0x00C h 0)
  | .vshl h => some (encLane 0x00D h 0)
  | .vshr h => some (encLane 0x00E h 0)
  | .vsra h => some (encLane 0x00F h 0)
  | .vrol h => some (encLane 0x010 h 0)
  | .vclz h => some (encLane 0x011 h 0)
  | .vpopc h => some (encLane 0x012 h 0)
  | .vbfx h => some (encLane 0x013 h 0)
  | .vbfi h => some (encLane 0x014 h 0)
  | .vdot4 h x => some (encLane 0x015 h x.toBits)
  | .vcmp h x => some (encLane 0x040 h x.toBits)
  | .vsel h x => some (encLane 0x041 h x.toBits)
  | .plop h x => some (encLane 0x042 h x.toBits)
  | .vmov h => some (encLane 0x043 h 0)
  | .vli g t d i => some (encLong 0x044 t g d i 0)
  | .vshfl h x => some (encLane 0x080 h x.toBits)
  | .vbcast h x => some (encLane 0x081 h x.toBits)
  | .vreduce h x => some (encLane 0x082 h x.toBits)
  | .vscan h x => some (encLane 0x083 h x.toBits)
  | .vvote h x => some (encLane 0x084 h x.toBits)
  | .bra g t d x => some (encLong 0x0C0 .i32 g d t x.toBits)
  | .brx h x => some (encLane 0x0C1 h x.toBits)
  | .skip h x => some (encLane 0x0C2 h x.toBits)
  | .join h => some (encLane 0x0C3 h 0)
  | .lend h => some (encLane 0x0C4 h 0)
  | .yieldl h => some (encLane 0x0C5 h 0)
  | .ltrap h x => some (encLane 0x0C6 h x.toBits)
  | .vfadd h x => some (encLane 0x100 h x.toBits)
  | .vfsub h x => some (encLane 0x101 h x.toBits)
  | .vfmul h x => some (encLane 0x102 h x.toBits)
  | .vfma h x => some (encLane 0x103 h x.toBits)
  | .vfmin h => some (encLane 0x104 h 0)
  | .vfmax h => some (encLane 0x105 h 0)
  | .vfdiv h x => some (encLane 0x106 h x.toBits)
  | .vfsqrt h x => some (encLane 0x107 h x.toBits)
  | .vfrcp h => some (encLane 0x108 h 0)
  | .vfrsq h => some (encLane 0x109 h 0)
  | .vfexp2 h => some (encLane 0x10A h 0)
  | .vflog2 h => some (encLane 0x10B h 0)
  | .vfsin h => some (encLane 0x10C h 0)
  | .vfcos h => some (encLane 0x10D h 0)
  | .vfclass h => some (encLane 0x10E h 0)
  | .vfrnd h x => some (encLane 0x10F h x.toBits)
  | .vfsgn h x => some (encLane 0x110 h x.toBits)
  | .vfexpo h => some (encLane 0x111 h 0)
  | .vcvt h x => some (encLane 0x200 h x.toBits)
  | .vpack h x => some (encLane 0x201 h x.toBits)
  | .vunpk h x => some (encLane 0x202 h x.toBits)
  | .vld h x => some (encLane 0x300 h x.toBits)
  | .vst h x => some (encLane 0x301 h x.toBits)
  | .vatom h x => some (encLane 0x302 h x.toBits)
  | .vcas h x => some (encLane 0x303 h x.toBits)
  | .vpref h x => some (encLane 0x304 h x.toBits)
  | .fence h x => some (encLane 0x305 h x.toBits)
  | .bar h x => some (encLane 0x306 h x.toBits)
  | .fmma h => some (encLane 0x380 h 0)
  | .fld h x => some (encLane 0x381 h x.toBits)
  | .fst h x => some (encLane 0x382 h x.toBits)
  | _ => none

def KType.toBits : KType → BitVec 2 | .f32 => 0 | .bf16 => 1 | .i32 => 2
def KFmt.toBits : KFmt → BitVec 2 | .f32 => 0 | .bf16 => 1 | .e4m3 => 2
def XCond.toBits : XCond → BitVec 3 | .eq => 0 | .ne => 1 | .lt => 2 | .ge => 3 | .ltn => 4 | .gen => 5

/-- The register form of XADD, XSUB, XAND and XCMP (R407). -/
def encXr (op : BitVec 6) (d a b : BitVec 3) : BitVec 32 := op ++ d ++ a ++ 0#1 ++ b ++ 0#16
/-- Their immediate form. -/
def encXi (op : BitVec 6) (d a : BitVec 3) (i : BitVec 16) : BitVec 32 := op ++ d ++ a ++ 1#1 ++ 0#3 ++ i
def encK (op : BitVec 6) (d a b : BitVec 4) (t : KType) : BitVec 32 := op ++ d ++ a ++ b ++ t.toBits ++ 0#12

/-- The word of a Sumac instruction (R407). -/
def encodeSumac : Instr → Option (BitVec 32)
  | .ldp d w => some (0x00#6 ++ d ++ 0#1 ++ 0#18 ++ w)
  | .ldpH d f w => some (0x00#6 ++ d ++ 1#1 ++ f ++ 0#15 ++ w)
  | .stp r w => some (0x01#6 ++ r ++ 0#19 ++ w)
  | .ldf d f n => some (0x02#6 ++ d ++ 0#1 ++ f ++ 0#11 ++ n)
  | .stf r f n => some (0x03#6 ++ r ++ 0#1 ++ f ++ 0#11 ++ n)
  | .ldh d f => some (0x04#6 ++ d ++ 0#15 ++ f)
  | .xadd d a b => some (encXr 0x05 d a b)
  | .xaddImm d a i => some (encXi 0x05 d a i)
  | .xsub d a b => some (encXr 0x06 d a b)
  | .xsubImm d a i => some (encXi 0x06 d a i)
  | .xand d a b => some (encXr 0x07 d a b)
  | .xandImm d a i => some (encXi 0x07 d a i)
  | .xli d u i => some (0x08#6 ++ d ++ bit1 u ++ 0#6 ++ i)
  | .xcmp k a b => some (encXr 0x09 k.toBits a b)
  | .xcmpImm k a i => some (encXi 0x09 k.toBits a i)
  | .brf n o => some (0x0A#6 ++ bit1 n ++ 0#15 ++ o)
  | .repeatN c l => some (0x0B#6 ++ 0#5 ++ c ++ 0#6 ++ l)
  | .kadd d a b t => some (encK 0x0C d a b t)
  | .kmax d a b t => some (encK 0x0D d a b t)
  | .kmin d a b t => some (encK 0x0E d a b t)
  | .kcvt d a dt st p => some (0x0F#6 ++ d ++ a ++ 0#4 ++ dt.toBits ++ st.toBits ++ p ++ 0#8)
  | .fwd => some (0x10#6 ++ 0#1 ++ 0#25)
  | .fwdC f => some (0x10#6 ++ 1#1 ++ 0#4 ++ f ++ 0#18)
  | .drop => some (0x11#6 ++ 0#1 ++ 0#25)
  | .dropC f => some (0x11#6 ++ 1#1 ++ 0#4 ++ f ++ 0#18)
  | .emit a => some (0x12#6 ++ 0#3 ++ a ++ 0#20)
  | .hold f => some (0x13#6 ++ 0#5 ++ f ++ 0#18)
  | .ktrap c => some (0x14#6 ++ 0#10 ++ c)
  | _ => none

/-- The 32-bit words of an instruction, the first at the lowest address (R9, R111); none for a step of the table
that no program word encodes. -/
def encode (i : Instr) : List Word32 :=
  match encodeScalar i with
  | some w => [w]
  | none =>
    match encodeLane i with
    | some w => [w.extractLsb' 0 32, w.extractLsb' 32 32, w.extractLsb' 64 32]
    | none =>
      match encodeSumac i with
      | some w => [w]
      | none => []

/-- Little-endian bytes of a number (R9). -/
def bytesOf : Nat → Nat → List Byte
  | 0, _ => []
  | n + 1, x => BitVec.ofNat 8 x :: bytesOf n (x / 256)

/-- The number of little-endian bytes (R9). -/
def natOf : List Byte → Nat
  | [] => 0
  | b :: bs => b.toNat + 256 * natOf bs

/-- The instruction of the bytes that stand where an instruction is fetched: four bytes in a scalar section or a
Sumac image, twelve in a lane section. The scalar and Sumac sets share the 32-bit words: a word that is no scalar
instruction is read as a Sumac one. -/
def decodeBytes (bs : List Byte) : Option Instr :=
  match bs.length with
  | 4 =>
    match decodeScalar (BitVec.ofNat 32 (natOf bs)) with
    | .ok i => some i
    | .error _ => (decodeSumac (BitVec.ofNat 32 (natOf bs))).toOption
  | 12 => (decodeLane (BitVec.ofNat 96 (natOf bs))).toOption
  | _ => none

/-- The instruction this decoder reads from the bits of an opcode-table row: 32 bits for the scalar and Sumac
rows, 96 for a lane word. -/
def decodeTableWord (nbits w : Nat) : Option Instr :=
  decodeBytes (bytesOf (if nbits ≤ 32 then 4 else 12) w)

end Sys2Proof
end

