-- ==== Sys2Proof/Config.lean ====
section
/-!
DEFINITION. What one device fixes and a program may not rely on: the figures of R4 that the model uses, the
keys under which memory holds its bytes, and the free values (R6). A free value is an opaque constant applied
to the state's counter `State.free` or to the data it depends on: nothing in Lean knows what it is.
-/

namespace Sys2Proof.Config

/-- 48 GiB of DRAM behind each sett (R4, R209). -/
def dramBytes : Nat := 0xC00000000
/-- Usable register-file bytes of a core with no bank mapped out (R72). -/
def regFileBytes : Nat := 0xC0000
/-- The Etgon level of CAPISA (R18). -/
def etgonLevel : Nat := 3

/-- Key of a byte of a sett's DRAM. -/
def dramKey (sett phys : Nat) : Nat := sett * 2 ^ 36 + phys
/-- Number of a frame: frame `f` of core `core` (16 x row + column) of a sett (R198). -/
def frameNo (sett core f : Nat) : Nat := (sett * 256 + core) * 128 + f
/-- Key of a byte of a frame. -/
def frameKey (frame byte : Nat) : Nat := 2 ^ 48 + frame * 4096 + byte
/-- Key of a byte of a sett's chip scratchpad (R205). -/
def chipKey (sett byte : Nat) : Nat := 2 ^ 49 + sett * 2 ^ 26 + byte
/-- Key of a byte of a page's backing slot (R198; the layout is private to the device). -/
def backKey (uid page byte : Nat) : Nat := 2 ^ 50 + (uid * 2048 + page) * 4096 + byte
/-- Key of a byte of a site's host command ring (R439: memory of the command processor). -/
def ringKey (site byte : Nat) : Nat := 2 ^ 51 + site * 16384 + byte

/-- An undefined byte (R6), numbered by the draw. -/
opaque freeByte : Nat → BitVec 8
/-- An undefined 32-bit element of an accumulator tile (R236), numbered by the draw. -/
opaque freeElem : Nat → BitVec 32
/-- The 64 bytes of a signature (R373, R444, R445): the keys are not given. -/
opaque signature : Nat → BitVec 512
/-- The measurement of a firmware image of a module (R445): the images are not given. -/
opaque measurement : Nat → Nat → BitVec 256
/-- The measurement register an image extends, modulo 8 (R445 names none). -/
opaque measureSlot : Nat → Nat
/-- The rate a servo sets, in ppm, before its bound of 100 (R424). -/
opaque servoRate : Int → Int
/-- The certificate chain of a module (R445), whose bytes are not given. -/
opaque certChain : Nat → List (BitVec 8)
/-- The L1 of a core has 2 ^ (this modulo 12) sets; its 2,048 lines are shared out evenly (R215 and R216 give no number). -/
opaque l1SetBits : Nat
/-- The set of an L1 line, before its bound (R216 gives no function). -/
opaque l1Set : Nat → Nat
/-- Which of the lines that R216 lets go is replaced, by the draw. -/
opaque l1Pick : Nat → Nat
/-- The hash by which a sett spreads optical traffic over its ports (R379, R390). -/
opaque portHash : Nat → Nat

end Sys2Proof.Config
end

