-- ==== Sys2Proof/Machine/State.lean ====
section
/-!
DEFINITION. The state of one MW-48 package: every register, table, queue and memory the manual gives it, as
plain data. Sparse tables are lists of (number, value) pairs in rising order; memory is one such list of bytes.
-/

namespace Sys2Proof.Machine

/-- A table by number, in rising order. -/
abbrev FMap (α : Type) := List (Nat × α)
/-- Byte storage: strictly rising keys (`Config.dramKey` and its fellows), no entry equal to the byte 0 that an
unlisted key reads as. -/
abbrev Memory := List Host.Cell
/-- A file of 64-bit registers. -/
abbrev Regs := Vector Word 64

/-- The mode of a team's scalar stream (R13). -/
inductive Mode where
  | user | supervisor
  deriving DecidableEq, Repr

/-- Where a team stands: no team in the record, running, or ended with a final status (R34). -/
inductive Status where
  | absent | running | complete | faulted
  deriving DecidableEq, Repr

/-- One lane (R98, R102, R129, R81, R108): its register words, predicates, rounding state, and the words that
hold an uncorrectable (`bad`) or a single-bit (`soft`) error. -/
structure Lane where
  regs : List Word32
  preds : BitVec 8
  sigma : Word32
  retired : Bool
  bad : List Nat
  soft : List Nat
  badPreds : Bool
  softPreds : Bool
  deriving DecidableEq, Repr

/-- What LGO takes along (R59, R129). -/
structure Snapshot where
  s : Regs
  fmode : BitVec 4
  pkr : Word
  seed : Option Word32
  deriving DecidableEq, Repr

/-- A lane block (R59, R78): its number, its entry instruction, its snapshot, the s registers pending for it,
its lanes, whether it is a handler's (R340), the TARRIVEs issued before it (R236), and the liveness record of its region
(R357). -/
structure Block where
  seq : Nat
  entry : Nat
  snap : Snapshot
  pend : BitVec 64
  lanes : List Nat
  handler : Bool
  arr : Nat
  rec_ : Option Word := none
  deriving DecidableEq, Repr

/-- States of a path (R82, R337). -/
inductive PathState where
  | current | ready | parked | waitJoin | waitPack | waitLend | held
  deriving DecidableEq, Repr

/-- Barrier kinds (R254). -/
inductive BarKind where
  | group | team
  deriving DecidableEq, Repr

/-- What a parked path waits for (R88): a line of a frame (R201), a free frame (R197), a barrier (R254), or dark
circuits, with the lanes of its pass that are not sent yet (R396). -/
inductive ParkOn where
  | line (frame line : Nat) | frame (sett core : Nat) | bar (k : BarKind) (lanes : List Nat) | dark (lanes : List Nat)
  deriving DecidableEq, Repr

/-- A fault as its slot tells it (R334): code, TRAP operand, address, and the access that faulted. -/
structure FaultInfo where
  code : Nat
  op : Nat
  addr : Word
  opnd : List Byte
  exp : List Byte
  width : Nat
  kind : Nat
  deriving DecidableEq, Repr

/-- A path (R82) with its skip state (R163), the passes of its word that have issued with the faults found in them
(R88, R337), and, for a held path, where its lanes resume (R337). While a word is under way, `issue` numbers it (0 where none
of its passes has issued), `doneLanes` lists its lanes that have issued, and `fl` gathers its flags (R250); `hold` are slots of its turn that a turn which cuts its
sweep withholds (R352). -/
structure Path where
  idx : Nat
  ip : Nat
  lanes : List Nat
  packed : Option (List (List Nat))
  state : PathState
  split : Option Nat
  slice : Nat
  wdog : Nat
  spinAt : Option Nat
  spin : Nat
  still : Bool
  skipLanes : List Nat
  skipLeft : Nat
  passDone : Nat
  park : Option ParkOn
  swrites : FMap (Nat × Word)
  resume : Nat
  byReply : Bool
  replay : Option (Nat × Nat)
  packAt : Option Nat
  faults : List (Nat × FaultInfo)
  hold : Nat := 0
  issue : Nat := 0
  doneLanes : List Nat := []
  fl : BitVec 5 := 0
  deriving DecidableEq, Repr

/-- A split record (R82). -/
structure SplitRec where
  idx : Nat
  parent : Option Nat
  members : Nat
  deriving DecidableEq, Repr

/-- What a kernel object gives a team (R288, R100, R48). -/
structure Kernel where
  kobj : Word
  sbase : Word
  ssize : Nat
  sentry : Nat
  lbase : Word
  lcount : Nat
  lanesN : Nat
  gwidth : Nat
  regsN : Nat
  scratch : Nat
  lanepriv : Nat
  mview : List Word32
  faultCont : Bool
  writeSet : BitVec 64
  level : Nat
  deriving DecidableEq, Repr

/-- An invocation of a handler (R337): its held paths, its faulting lanes with the address of the lowest one's record,
and the handler object. -/
structure Invocation where
  scalar : Bool
  group : Nat
  code : Nat
  paths : List Nat
  lanes : List Nat
  addr : Word
  kern : Kernel
  deriving DecidableEq, Repr

/-- The lane work of the user stream while a handler runs (R338, R363). -/
structure Work where
  queue : List Block
  block : Option Block
  paths : List Path
  recs : List SplitRec
  ready : List Nat
  curPath : Option Nat
  deriving DecidableEq, Repr

/-- A claim of an operation on a channel side (R269). -/
structure Claim where
  op : Nat
  count : Nat
  done : Bool
  deriving DecidableEq, Repr

/-- A channel slot (R267) with the open claims of its two sides, in claim order (R269), and the
entries CHADV.P published with the blocks they wait for: first entry, count, blocks enqueued. -/
structure Chan where
  defd : Bool
  base : Word
  esize : Nat
  log2n : Nat
  p : BitVec 32
  q : BitVec 32
  pc : BitVec 32
  qc : BitVec 32
  outs : List Claim
  ins : List Claim
  arrive : List (BitVec 32 × Nat × Nat)
  deriving DecidableEq, Repr

/-- A mover descriptor as checked (R304). -/
structure MvDesc where
  src : Word
  dst : Word
  rowlen : Nat
  rows : Nat
  sstride : Int
  dstride : Int
  inch : Option Nat
  outch : Option Nat
  incnt : Nat
  outcnt : Nat
  aux : Word
  deriving DecidableEq, Repr

/-- The mover's operations (R305 to R307). -/
inductive MvKind where
  | copy | dec | gath (list : List Word) | fill
  deriving DecidableEq, Repr

/-- A shape word (R308). -/
structure Shape where
  m8 : Nat
  n16 : Nat
  k64 : Nat
  afmt : Nat
  bfmt : Nat
  t : Nat
  mx : Bool
  deriving DecidableEq, Repr

/-- A tile word (R310). -/
structure TileWord where
  t : Nat
  nt : Nat
  c16 : Nat
  x : Nat
  deriving DecidableEq, Repr

/-- TACC operations (R275, R310). -/
inductive TaccOp where
  | zero | load | store | storeBf16 | storeE4m3 (satf : Bool)
  deriving DecidableEq, Repr

/-- Engine commands (R264). -/
inductive EngOp where
  | marker (block : Nat)
  | mover (k : MvKind) (d : MvDesc)
  | tmma (sh : Shape) (zero aord bord : Bool) (ha hb : Nat)
  | tacc (op : TaccOp) (tw : TileWord) (h : Nat)
  | spanMma (sh : Shape) (zero keep : Bool) (ha hb : Nat)
  | spanClose
  deriving DecidableEq, Repr

/-- A queued command: its number, the PKR it carries (R211), the TARRIVE count it was issued after (R236), and
the number of blocks enqueued before the latest of those (R265). -/
structure EngCmd where
  id : Nat
  op : EngOp
  pkr : Word
  arr : Nat
  need : Nat
  deriving DecidableEq, Repr

/-- What a waiting scalar instruction keeps between its turns (R61, R264, R290, R313, R320, R321,
R346): of a BARX its descriptor before its arrival, then its members until the home's reply, then the home counter (none
in another package) and the value to reach; of a CNTWAIT the counter and the threshold, and whether a change has met it; of an
engine instruction the structure it has read (R298). -/
inductive Wait where
  | waitt (target : Word)
  | span
  | cnt (sett no : Nat) (thr : BitVec 32) (met : Bool)
  | barxDesc (desc : List Byte)
  | barxSent (members : Nat)
  | barx (home : Option (Nat × Nat)) (target : BitVec 32)
  | barxDone
  | barxFault
  | host (page : Word)
  | queue (matrix : Bool) (cmd : EngCmd)
  | post (entry : List Byte)
  | struct (bytes : List Byte)
  deriving DecidableEq, Repr

/-- The user frame of a handler (R338), and what a waiting instruction of the user stream keeps. -/
structure Frame where
  sregs : Regs
  creg : Vector Bool 8
  ls : Vector Word 4
  le : Vector Word 4
  lc : Vector Word 4
  armed : BitVec 4
  spc : Word
  fmode : BitVec 4
  ftrapen : BitVec 5
  pkr : Word
  wait : Option Wait
  deriving DecidableEq, Repr

/-- A fired operation: where its claimed entries start, its pinned frames, the keys it reads as operands, and
whether a write broke it (R236). Of a mover operation: the rows asked of other packages and those that no package can give
(R395), the bytes of sources that its own writes will meet (R270), and whether its writes to other packages are sent. -/
structure Fired where
  id : Nat
  cmd : EngCmd
  inStart : Nat
  in2Start : Nat
  outStart : Nat
  pins : List Nat
  ranges : List (Nat × Nat)
  raced : Bool
  asked : List Nat := []
  lost : List Nat := []
  kept : Option (List (Nat × Nat × List Byte)) := none
  sent : Bool := false
  deriving DecidableEq, Repr

/-- A TMMA that completed and awaits its matching TWAIT (R236): its operand keys and its tiles. -/
structure Unwaited where
  arr : Nat
  ranges : List (Nat × Nat)
  tile : Nat
  tiles : Nat
  deriving DecidableEq, Repr

/-- Membership of a matrix span (R278, R313). -/
structure SpanMember where
  number : Nat
  g0 : Nat
  len : Nat
  row : Nat
  bench : Nat
  opened : Bool
  broken : Bool
  deriving DecidableEq, Repr

/-- An STT entry (R195). -/
structure Stt where
  we : Bool
  st : BitVec 2
  frame : Nat
  rcore : Nat
  dirty : Bool
  deriving DecidableEq, Repr

/-- A team (R13, R72, R82, R195, R264, R273, R338); `pendf` lists the lanes held with a pending fault (R353), `seen` the
stores, by request, that a lane read from L1 before they were performed (R226), `want` the pages that a VPREF asked for
and that wait for a frame (R252), and `placed` its place in the order in which teams came to their cores (R107). -/
structure Team where
  uid : Nat
  status : Status
  sregs : Regs
  creg : Vector Bool 8
  ls : Vector Word 4
  le : Vector Word 4
  lc : Vector Word 4
  armed : BitVec 4
  spc : Word
  mode : Mode
  fstat : BitVec 5
  ftrapen : BitVec 5
  fmode : BitVec 4
  srseed : Word32
  seedSet : Bool
  pkr : Word
  wdoglim : Word
  hcause : Word
  hva : Word
  hmask : Word
  hrec : Word
  area : Word
  teamIndex : BitVec 32
  gridId : Word
  gangId : BitVec 32
  gangSize : Nat
  sett : Nat
  core : Nat
  pair : Bool
  ctx : Nat
  kern : Kernel
  cmsize : Nat
  kspsize : Nat
  acctiles : Nat
  cbase : Nat
  ccluster : Nat
  liveRec : Option Word
  reserve : Nat
  record : List Byte
  wait : Option Wait
  sent : List (Word × Nat × Nat)
  replies : List (Word × Nat × List Byte)
  ctxSlot : Nat
  gen : BitVec 32
  hqueue : List Invocation
  inv : Option Invocation
  frame : Option Frame
  hkern : Option Kernel
  userWork : Option Work
  pendf : List Nat
  lanes : List Lane
  blocks : Nat
  queue : List Block
  block : Option Block
  paths : List Path
  recs : List SplitRec
  ready : List Nat
  curPath : Option Nat
  flagged : Bool
  chans : FMap Chan
  mvq : List EngCmd
  mxq : List EngCmd
  fired : List Fired
  arrives : Nat
  need : Nat
  wlog : List (Nat × Nat × Nat)
  unwaited : List Unwaited
  acc : FMap Word32
  span : Option SpanMember
  spanStatus : BitVec 2
  stt : FMap Stt
  evWait : Bool
  seen : List (Nat × Nat)
  want : List Nat
  placed : Nat := 0
  deriving DecidableEq, Repr

/-- A frame of a core (R198 to R203): the page that owns it, the lines not present, pins, last use, and whether
it is lent after a migration. -/
structure FrameInfo where
  owner : Option (Nat × Nat)
  absent : List Nat
  filling : List Nat
  copies : List (Nat × Nat)
  pins : Nat
  used : Nat
  lent : Bool
  deriving DecidableEq, Repr

/-- A sector an L1 holds (R211, R215): its bytes, the KEY, RD and W of its page, the priority of its line (R216: 0 default,
1 STREAM, 2 KEEP), and when it was last written. -/
structure Sector where
  data : List Byte
  key : Nat
  rd : Bool
  w : Bool
  ctx : Nat
  prio : Nat := 0
  at_ : Nat := 0
  deriving DecidableEq, Repr

/-- A leaf that a walk finds (R208, R209): the key of the byte it translates to, and its rights. -/
structure Leaf where
  key : Nat
  pkey : Nat
  cmp : Bool
  x : Bool
  w : Bool
  rd : Bool
  deriving DecidableEq, Repr

/-- What the checks of R212 gave one lane of a request. -/
inductive Checked where
  | ok (l : Leaf) | bad (code : Nat)
  deriving DecidableEq, Repr

/-- One lane's part of a global request (R244, R334). -/
structure LaneAcc where
  lane : Nat
  ea : Word
  width : Nat
  kind : Nat
  data : List Byte
  exp : List Byte
  deriving DecidableEq, Repr

/-- A global request in flight (R207, R218, R244): the lane word that issued it and the path that did, and its lanes'
accesses to one 128-byte line. `word` numbers the word, `after` lists the requests that come before it at a common granule,
`done` its granules performed so far (R223), `checks` what its lanes' checks gave, `early` the parts of its lanes' answers that
other lines gave, `joint` marks a packed word (R76), and `back` a reply that has returned and whose faults wait. -/
structure GReq where
  tag : Nat
  uid : Nat
  path : Nat
  ip : Nat
  block : Nat
  instr : Instr
  accs : List LaneAcc
  pkg : Nat
  pkr : Word
  eligible : Bool
  core : Nat
  sentAt : Nat
  performed : Bool
  answers : List Answer
  flags : BitVec 5
  ctx : Nat := 0
  line : Nat := 0
  word : Nat := 0
  after : List Nat := []
  done : List Nat := []
  checks : List (Nat × Checked) := []
  early : List (Nat × Answer) := []
  joint : Bool := false
  back : Bool := false
  deriving DecidableEq, Repr

/-- A trigger counter (R293). -/
structure Counter where
  value : BitVec 32
  gen : BitVec 8
  deriving DecidableEq, Repr

/-- A collective-engine entry (R291, R294): its 64 bytes, the context, its generation and its arming order; the base of its
grid's chip scratchpad in its sett (R205), whether it holds a place (R290), the sources asked of other packages, whether its data
are sent to one, since when, the flags its own steps raised, its outcome once its accesses are made (STATUS, FLAGS, GTC and the
fault code), and whether its record is sent to another package. -/
structure Entry where
  id : Nat
  ctx : Nat
  bytes : List Byte
  pkr : Word
  gen : BitVec 8
  ctr : Nat
  waitBlocks : Option (Nat × Nat)
  fired : Bool
  grid : Word
  group : Option Nat
  base : Nat := 0
  armed : Bool := true
  asked : List Nat := []
  sent : Bool := false
  at_ : Nat := 0
  fl : BitVec 5 := 0
  res : Option (Nat × BitVec 5 × Nat × Nat) := none
  recSent : Bool := false
  deriving DecidableEq, Repr

/-- An increment of CNTADD.ARRIVE that waits for its team's blocks (R319): team, blocks enqueued before it, and the
increment. -/
structure Increment where
  uid : Nat
  need : Nat
  ctx : Nat
  src : Nat
  pkg : Nat
  sett : Nat
  idx : Nat
  inc : Nat
  deriving DecidableEq, Repr

/-- A message a sett has received and not yet applied, with its receipt stamp (R427). -/
structure Receipt where
  stamp : Nat
  msg : CtlMsg
  deriving DecidableEq, Repr

/-- An optical port (R379, R382): whether it works, the request being trained with its rate, its mask and its GTC, the
requests that wait for its end, its rate and mask, and its failed trainings in succession. -/
structure Port where
  up : Bool
  training : Option (Nat × Nat × Nat)
  pending : List (Nat × Nat)
  rate : Nat
  mask : Nat
  failed : Nat
  deriving DecidableEq, Repr

/-- A trailer of a delta log (R373): the entries it covers and whether its signature verifies. -/
structure Trailer where
  count : Nat
  valid : Bool
  deriving DecidableEq, Repr

/-- A request for an inrush token (R442). -/
structure InrushReq where
  cluster : Nat
  priority : Nat
  at_ : Nat
  source : Nat
  deriving DecidableEq, Repr

/-- A member of a barrier in another package that waits at a counter of this one (R321). -/
structure FarMember where
  no : Nat
  target : BitVec 32
  ctx : Nat
  pkg : Nat
  sett : Nat
  team : Nat
  deriving DecidableEq, Repr

/-- A sett (R367 to R376, R290 to R296, R204, R205, R378 to R384, R442, R445); `badImages` lists the copies of its module's
firmware images that fail verification, copy `c` of image `i` as 2i + c; `tagOut` is the TAG of its next class-3 flit (R400),
`delivered` the tags of the flits it has performed, newest first, by source and class (R381), `seamCut` the rows it retires for its
seams since its own reset (R376), and `members` the members of other packages that wait at its
counters (R321). -/
structure Sett where
  factoryOk : Bool
  factory : List Defect
  baseGen : Nat
  delta : List Defect
  trailers : List Trailer
  mergeMark : Nat
  merged : List Defect
  mapGen : Nat
  withdrawn : Bool
  seamLosses : List (Nat × Nat × Nat)
  regcorr : FMap (BitVec 32)
  corrected : FMap Nat
  counters : FMap Counter
  entries : List Entry
  inbox : List Receipt
  kalloc : List (Nat × Nat × Nat)
  calloc : List (Nat × Nat × Nat × Nat)
  clusterOff : List Nat
  clusterIdle : FMap Nat
  tokens : List (Nat × Nat)
  inrush : List InrushReq
  ports : FMap Port
  cseqOut : FMap Nat
  cseqIn : FMap (Nat × List Nat)
  sentCount : FMap (BitVec 32)
  performed : FMap (BitVec 32)
  measure : List (BitVec 256)
  badImages : List Nat
  tagOut : Nat := 0
  delivered : FMap (List Nat) := []
  seamCut : Nat := 0
  members : List FarMember := []
  deriving DecidableEq, Repr

/-- A frame pool of a context in a sett (R68): free frames by size, and free table slots. -/
structure Pool where
  k64 : List Nat
  m2 : List Nat
  g1 : List Nat
  slots : List Nat
  deriving DecidableEq, Repr

/-- A handler region (R333): base, length and the areas carved from it (base, length, team number). -/
structure Region where
  base : Word
  len : Nat
  areas : List (Nat × Nat × Nat)
  deriving DecidableEq, Repr

/-- A ring a host registered (R345, R348): base, log2 of its entries, the next place. -/
structure Ring where
  base : Word
  log2 : Nat
  next : Nat
  deriving DecidableEq, Repr

/-- A fault event to post (R345). -/
structure Event where
  kind : Nat
  code : Nat
  count : Nat
  team : Nat
  grid : Word
  addr : Word
  slot : Nat
  gen : Nat
  uid : Nat
  deriving DecidableEq, Repr

/-- An energy account of a context in a sett (R441). -/
structure Account where
  balance : Nat
  rem : Nat
  deriving DecidableEq, Repr

/-- Accounting counters of a context in a sett (R443). -/
structure Accounting where
  counts : FMap Nat
  sat : List Nat
  deriving DecidableEq, Repr

/-- A context (R439). -/
structure Context where
  job : Word
  setts : List Nat
  cntBase : FMap Nat
  cntCount : Nat
  places : Nat
  floor : Nat
  accounts : FMap Account
  roots : FMap Nat
  pools : FMap Pool
  handlers : Option Word
  regions : FMap Region
  eventq : Option Ring
  complq : Option Ring
  wdog : Word
  gens : FMap (BitVec 32)
  events : List Event
  stopAt : Option Nat
  cut : Bool
  saved : Option (List Team)
  savedMem : Memory
  acct : FMap Accounting
  firstPlaced : Option Nat
  endedAt : Nat
  placedGens : FMap Nat
  deriving DecidableEq, Repr

/-- A launch packet (R283, R284). -/
structure Packet where
  hdr : Nat
  gp : Nat
  gf : Nat
  kobj : Word
  args : Word
  teams : Nat
  cmpages : Nat
  acctiles : Nat
  setts : Nat
  ksppages : Nat
  signal : Word
  reserved : Bool
  deriving DecidableEq, Repr

/-- An entry of a tail list (R97, R325). -/
structure TailEntry where
  gtc : Nat
  team : Nat
  order : Nat
  pkt : Packet
  deriving DecidableEq, Repr

/-- A grid (R70, R94, R97, R287). -/
structure Grid where
  id : Nat
  ctx : Nat
  site : Nat
  queue : Option (Nat × Nat)
  parent : Option Nat
  pkt : Packet
  setts : List Nat
  kern : Kernel
  next : Nat
  gang : Nat
  ended : Nat
  faulted : Bool
  tail : List TailEntry
  child : Bool
  kbase : FMap Nat
  prio : Nat
  deriving DecidableEq, Repr

/-- A user queue (R282, R285, R286): `seen` lists the packets from the read index on whose headers were read with
VALID = 1, `eligible` is the place of the packet at the read index in the order of eligibility. -/
structure UserQueue where
  ctx : Nat
  base : Word
  log2 : Nat
  prio : Nat
  rd : Nat
  db : Nat
  seen : List Nat
  eligible : Option Nat
  running : Bool
  deriving DecidableEq, Repr

/-- A phase of a timetable (R391): its length and its 256 entries. -/
structure Phase where
  dur : Nat
  entries : List Half
  deriving DecidableEq, Repr

/-- A timetable (R391). -/
structure Timetable where
  base : Nat
  guardTicks : Nat
  phases : List Phase
  deriving DecidableEq, Repr

/-- A flit that waits in a virtual output queue, or for its run: its bytes, arrival stamp, port, the sources its delivery counts
for beside its own (R405), and its bytes as it arrived (R406). -/
structure QFlit where
  buf : List Byte
  stamp : Nat
  port : Nat
  also : List Nat
  counts : Bool
  orig : List Byte := []
  deriving DecidableEq, Repr

/-- A Sumac job slot (R397, R398). -/
structure Slot where
  ctx : Nat
  dir : Nat
  flows : Nat
  policy : Nat
  image : List Word32
  active : Nat
  tqbase : Word
  tqlog2 : Nat
  tqctr : Nat
  dest : List Nat
  store : Memory
  holds : FMap QFlit
  flags : BitVec 5
  records : Nat
  unloadAt : Option Nat
  slotByte : Nat
  deriving DecidableEq, Repr

/-- An Ashlar chiplet (R386 to R390, R397): its virtual output queues by class and destination, its job slots, the flits
that wait for a Sumac run, the deficits and the places served last of each port's classes, the class each port serves, and
the port each queue used last. -/
structure Chip where
  voqs : FMap (List QFlit)
  slots : FMap Slot
  arrivals : List QFlit
  deficit : FMap Nat
  last : FMap Nat
  turn : FMap Nat
  lastTx : FMap Nat
  deriving DecidableEq, Repr

/-- A Sumac run in progress, on processor `proc` of the package's 256, the second chiplet's from 128 on (R397, R403). -/
structure Run where
  active : Bool
  chip : Nat
  slot : Nat
  k : Vector (BitVec 256) 16
  x : Vector Word32 8
  f : Bool
  pc : Nat
  rep : Option (Nat × Nat × Nat)
  buf : List Byte
  orig : QFlit
  stf : List (Nat × List Byte)
  emits : List (List Byte)
  proc : Nat := 0
  deriving DecidableEq, Repr

/-- A link (R381): whether it is up, the SEQ its sender gives next and the one its receiver accepts next, the replays of
the flit awaited, and its sender's unacknowledged flits. -/
structure Link where
  up : Bool
  seq : Nat
  next : Nat
  replays : Nat
  unacked : List QFlit
  deriving DecidableEq, Repr

/-- Overall status values of a collective run (R416). -/
inductive RunStatus where
  | idle | running | paused | complete | aborted | memberLost
  deriving DecidableEq, Repr

/-- A position of a collective group (R412): its entry, its status, whether an abort has been applied to it and whether
the end of the abort then adds to its counter (R420), whether a spare is used (R419), the value its counter CTR had when
its last run began, the steps of the ring it has done for the chunk under way, and whether its output has that chunk. -/
structure Position where
  sett : Nat
  pkg : Nat
  ctr : Nat
  peer : Nat
  input : Word
  output : Word
  status : Word
  mirror : Word
  st : RunStatus
  applied : Bool
  due : Bool
  used : Bool
  base : BitVec 32
  step : Nat
  out : Bool
  deriving DecidableEq, Repr

/-- A collective group (R412) and its run (R415): its phase (0 mirror copies, 1 chunks, 2 a recovery's copies), the
partial results by segment, when the chunk under way began, the loss being handled and those found meanwhile (R417), and the
entries of its chains at setts of other packages. -/
structure Group where
  ctx : Nat
  addr : Word
  n : Nat
  kind : Nat
  resilient : Bool
  mxt : Bool
  rop : Nat
  fmt : Nat
  chunks : Nat
  chunkLen : Nat
  deadline : Nat
  ostatus : Word
  positions : List Position
  run : Nat
  st : RunStatus
  chunk : Nat
  since : Nat
  phase : Nat
  part : FMap (List Byte)
  lost : Option Nat
  more : List Nat
  aborting : Bool
  away : List Entry := []
  deriving DecidableEq, Repr

/-- A host-attach site (R438 to R440): the agreed HLP level (0: down), the indices of its command ring, and the slots
from the read index on whose headers were read with VALID = 1. -/
structure Site where
  level : Nat
  rd : Nat
  db : Nat
  seen : List Nat
  deriving DecidableEq, Repr

/-- Who reads memory of another package on the device's behalf: the fetch of a team's streams (R53), the handling of its
faults (R335), a user queue's next packet and a grid's next child (R289), and a site's command (R397, R412); the signal of a grid that is decremented there
(R287), and an Ultra Ethernet operation that is performed there (R385). -/
inductive Asker where
  | code (uid : Nat) | faults (uid : Nat) | packet (queue : Nat) | child (grid : Nat) | host (site : Nat)
  | signal (grid addr : Word) | ue
  deriving DecidableEq, Repr

/-- A line of another package that was asked for with an access code of R212: while the answer is awaited it has no code; an
answer is a fault code, or 0 with the line's bytes. -/
structure FarLine where
  who : Asker
  ctx : Nat
  op : Nat
  line : Nat
  tag : Nat
  sentAt : Nat
  code : Option Nat
  data : List Byte
  deriving DecidableEq, Repr

/-- Who moves in a turn. -/
inductive Act where
  /-- The scalar stream of the team with this number. -/
  | scalar (uid : Nat)
  /-- The lane stream of the team with this number. -/
  | lanes (uid : Nat)
  /-- The same, for `n` passes at most: a sweep may be cut between passes (R352). -/
  | lanePart (uid n : Nat)
  /-- A Sumac processor of the package's 256. -/
  | sumac (proc : Nat)
  /-- The next command of a site's host command ring. -/
  | ring (site : Nat)
  /-- A step of the table, on the team with this number where it concerns a team. -/
  | event (uid : Nat) (i : Instr)
  /-- Only time passes. -/
  | idle
  deriving DecidableEq, Repr

/-- A turn: the ticks of GTC that pass before it, and who moves (R448). -/
structure Turn where
  dt : Nat
  act : Act
  deriving DecidableEq, Repr

/-- The state of the package. `cur` is the team whose stream a step runs; `others` are the other teams; `hcmd` is the
host command the command processor holds (R439); `run` is the Sumac run whose instruction a step runs, `runs` are the others. -/
structure State where
  cur : Team
  others : List Team
  mem : Memory
  packed : FMap Nat
  frames : FMap FrameInfo
  l1 : FMap Sector
  reqs : List GReq
  gtc : Nat
  skewBound : Nat
  locked : Bool
  rate : Int
  stepped : Bool
  holdover : Nat
  ownPkg : Nat
  domain : BitVec 64
  grandmaster : Nat
  bringup : Nat
  setts : FMap Sett
  ctxs : FMap Context
  bound : FMap Nat
  queues : FMap UserQueue
  grids : FMap Grid
  sites : FMap Site
  chips : FMap Chip
  hcmd : HostCmd
  run : Run
  runs : FMap Run
  timetable : Option Timetable
  pendingTable : Option Timetable
  groups : FMap Group
  links : FMap Link
  transit : List (Nat × CtlMsg)
  flags : List (Nat × CtlMsg)
  incs : List Increment
  outbox : List (List Byte)
  sendq : List (Nat × List Byte)
  far : List FarLine
  ue : FMap UeMode
  ueOut : List (List Byte)
  agenda : List Turn
  free : Nat
  tick : Nat
  deriving DecidableEq, Repr

/-- Why the model stops with a fault. -/
inductive Fault where
  /-- Raised by `step` where the agenda names a team or a site that the state does not hold: nobody is there to move.
  Safe: the model stops. -/
  | noSuchAgent
  deriving DecidableEq, Repr

/-- Why the model refuses. -/
inductive Refusal where
  /-- Raised by `exec` for an instruction that has no meaning yet. Safe: the model stops. -/
  | notModelled (mnemonic : String)
  deriving DecidableEq, Repr

/-- What a step answers. -/
abbrev Out := Host.Outcome State Fault Refusal

def Kernel.none : Kernel :=
  { kobj := 0, sbase := 0, ssize := 0, sentry := 0, lbase := 0, lcount := 0, lanesN := 0, gwidth := 0, regsN := 0,
    scratch := 0, lanepriv := 0, mview := [], faultCont := false, writeSet := 0, level := 0 }

/-- A team record at the launch values of R35, with nothing loaded from a launch. -/
def Team.launch : Team :=
  { uid := 0, status := .absent, sregs := Vector.replicate 64 0, creg := Vector.replicate 8 false,
    ls := Vector.replicate 4 0, le := Vector.replicate 4 0, lc := Vector.replicate 4 0, armed := 0, spc := 0,
    mode := .user, fstat := 0, ftrapen := 0, fmode := 0, srseed := 0, seedSet := false, pkr := 0,
    wdoglim := 0x100000000, hcause := 0, hva := 0, hmask := 0, hrec := 0, area := 0, teamIndex := 0, gridId := 0, gangId := 0,
    gangSize := 0, sett := 0, core := 0, pair := false, ctx := 0, kern := Kernel.none, cmsize := 0, kspsize := 0,
    acctiles := 0, cbase := 0, ccluster := 0, liveRec := none, reserve := 0, record := [], wait := none, sent := [],
    replies := [], ctxSlot := 0, gen := 0, hqueue := [], inv := none, frame := none, hkern := none, userWork := none, pendf := [],
    lanes := [], blocks := 0, queue := [], block := none, paths := [], recs := [], ready := [], curPath := none,
    flagged := false, chans := [], mvq := [], mxq := [], fired := [], arrives := 0, need := 0, wlog := [],
    unwaited := [], acc := [], span := none, spanStatus := 0, stt := [], evWait := false, seen := [], want := [] }

/-- A sett at power-on: no defect merged, counters 0 (R293), merge mark 0 (R374). -/
def Sett.init : Sett :=
  { factoryOk := true, factory := [], baseGen := 0, delta := [], trailers := [{ count := 0, valid := true }],
    mergeMark := 0, merged := [], mapGen := 0, withdrawn := false,
    seamLosses := [], regcorr := [], corrected := [], counters := [], entries := [], inbox := [], kalloc := [],
    calloc := [], clusterOff := [], clusterIdle := [], tokens := [], inrush := [], ports := [],
    cseqOut := [], cseqIn := [], sentCount := [], performed := [],
    measure := List.replicate 8 0, badImages := [] }

/-- No Sumac run (R403: k, x, F and PC start at zero). -/
def Run.none : Run :=
  { active := false, chip := 0, slot := 0, k := Vector.replicate 16 0, x := Vector.replicate 8 0, f := false, pc := 0,
    rep := Option.none, buf := [], orig := { buf := [], stamp := 0, port := 0, also := [], counts := true },
    stf := [], emits := [] }

/-- The machine at power-on, before bring-up (R446). -/
def State.reset : State :=
  { cur := Team.launch, others := [], mem := [], packed := [], frames := [], l1 := [], reqs := [], gtc := 0,
    skewBound := 0xFFFF, locked := false, rate := 0, stepped := false, holdover := 0, ownPkg := 0, domain := 1,
    grandmaster := 0, bringup := 0, setts := [], ctxs := [], bound := [], queues := [], grids := [], sites := [],
    chips := [], hcmd := { site := 0, ctx := 0, params := [] },
    run := Run.none, runs := [], timetable := none, pendingTable := none, groups := [], links := [], transit := [],
    flags := [], incs := [], outbox := [], sendq := [], far := [], ue := [], ueOut := [], agenda := [], free := 0, tick := 0 }

end Sys2Proof.Machine
end

