-- ==== Sys2Proof/Machine/Table.lean ====
section
/-!
DEFINITION. Sparse tables and byte storage: reading, writing, clearing and copying of `FMap` and `Memory`, and the
little-endian numbers in them (R9).
-/

namespace Sys2Proof.Machine

/-! ### Tables -/

/-- The value of entry `k`. -/
def FMap.get? {α : Type} : FMap α → Nat → Option α
  | [], _ => none
  | (k, v) :: m, a => if a = k then some v else FMap.get? m a

/-- The value of entry `k`, `d` where there is none. -/
def FMap.getD {α : Type} (m : FMap α) (a : Nat) (d : α) : α := (FMap.get? m a).getD d

/-- Entry `k` set, in rising order. -/
def FMap.set {α : Type} : FMap α → Nat → α → FMap α
  | [], a, v => [(a, v)]
  | (k, w) :: m, a, v =>
    if a < k then (a, v) :: (k, w) :: m else if a = k then (a, v) :: m else (k, w) :: FMap.set m a v

/-- Entry `k` removed. -/
def FMap.erase {α : Type} (m : FMap α) (a : Nat) : FMap α := List.filter (fun x => x.1 != a) m

/-- Entry `k` changed where it stands. -/
def FMap.modify {α : Type} (m : FMap α) (a : Nat) (f : α → α) : FMap α :=
  List.map (fun x => if x.1 == a then (x.1, f x.2) else x) m

/-- Keys strictly rising. -/
def FMap.sorted {α : Type} : FMap α → Bool
  | [] => true
  | [_] => true
  | (k, _) :: (k', w) :: m => decide (k < k') && FMap.sorted ((k', w) :: m)

/-- The lowest number from `a` on that is no key, within `n` tries. -/
def FMap.free {α : Type} (m : FMap α) : Nat → Nat → Nat
  | a, 0 => a
  | a, n + 1 => if (FMap.get? m a).isSome then FMap.free m (a + 1) n else a

/-! ### Byte storage -/

/-- The byte under a key: 0 where none is listed (log entry 1). -/
def Memory.get : Memory → Nat → Byte
  | [], _ => 0
  | (k, b) :: m, a => if a = k then b else if a < k then 0 else Memory.get m a

/-- A byte written, in canonical form. -/
def Memory.set : Memory → Nat → Byte → Memory
  | [], a, v => if v = 0 then [] else [(a, v)]
  | (k, b) :: m, a, v =>
    if a < k then (if v = 0 then (k, b) :: m else (a, v) :: (k, b) :: m)
    else if a = k then (if v = 0 then m else (a, v) :: m)
    else (k, b) :: Memory.set m a v

/-- The canonical form: keys strictly rising, no entry 0. -/
def Memory.wf : Memory → Bool
  | [] => true
  | [(_, b)] => b != 0
  | (k, b) :: (k', b') :: m => decide (k < k') && b != 0 && Memory.wf ((k', b') :: m)

/-- The bytes `bs` written from key `a` on. -/
def Memory.setBytes : Memory → Nat → List Byte → Memory
  | m, _, [] => m
  | m, a, b :: bs => Memory.setBytes (Memory.set m a b) (a + 1) bs

/-- The `n` bytes from key `a` on. -/
def Memory.getBytes (m : Memory) : Nat → Nat → List Byte
  | _, 0 => []
  | a, n + 1 => Memory.get m a :: Memory.getBytes m (a + 1) n

/-- `n` bytes from key `a` on set to zero. -/
def Memory.clear (m : Memory) (a n : Nat) : Memory := List.filter (fun x => decide (x.1 < a) || decide (a + n ≤ x.1)) m

/-- The listed bytes of `n` bytes from key `a` on. -/
def Memory.slice (m : Memory) (a n : Nat) : Memory := List.filter (fun x => decide (a ≤ x.1) && decide (x.1 < a + n)) m

/-- Bytes put back where a slice, moved from key `a` to key `b`, has them. -/
def Memory.putSlice : Memory → Memory → Nat → Nat → Memory
  | m, [], _, _ => m
  | m, (k, v) :: xs, a, b => Memory.putSlice (Memory.set m (k - a + b) v) xs a b

/-- `n` bytes copied from key `a` to key `b`. -/
def Memory.copy (m : Memory) (a b n : Nat) : Memory := Memory.putSlice (Memory.clear m b n) (Memory.slice m a n) a b

/-- The `n`-byte little-endian number from key `a` on (R9). -/
def Memory.getNat (m : Memory) (a n : Nat) : Nat := natOf (Memory.getBytes m a n)

/-- A little-endian number of `n` bytes written from key `a` on (R9). -/
def Memory.setNat (m : Memory) (a n x : Nat) : Memory := Memory.setBytes m a (bytesOf n x)

/-! ### Lists -/

/-- The element at a place, `d` beyond the end. -/
def nth {α : Type} (d : α) : List α → Nat → α
  | [], _ => d
  | x :: _, 0 => x
  | _ :: xs, n + 1 => nth d xs n

/-- The element at a place replaced. -/
def setNth {α : Type} : List α → Nat → α → List α
  | [], _, _ => []
  | _ :: xs, 0, y => y :: xs
  | x :: xs, n + 1, y => x :: setNth xs n y

/-- A number put into a rising list without repeats. -/
def insertNat : Nat → List Nat → List Nat
  | a, [] => [a]
  | a, b :: bs => if a < b then a :: b :: bs else if a = b then b :: bs else b :: insertNat a bs

/-- Rising order without repeats. -/
def sortNat (xs : List Nat) : List Nat := xs.foldr insertNat []

/-- `n` numbers from `a` on. -/
def upTo : Nat → Nat → List Nat
  | _, 0 => []
  | a, n + 1 => a :: upTo (a + 1) n

/-- The places of the set bits of `x` below `n`, rising. -/
def bitList (x n : Nat) : List Nat := (upTo 0 n).filter (bitAt x)

/-- The number with the listed bits set. -/
def bitsOf (xs : List Nat) : Nat := xs.foldl (fun acc i => if bitAt acc i then acc else acc + 2 ^ i) 0

/-- Numbers cut into groups of `n` from the front; `fuel` bounds their count. -/
def chunks {α : Type} (n : Nat) : Nat → List α → List (List α)
  | 0, _ => []
  | fuel + 1, xs => if xs.isEmpty then [] else xs.take n :: chunks n fuel (xs.drop n)

end Sys2Proof.Machine
end

