-- ==== Sys2Proof/Machine/Grid.lean ====
section
/-!
DEFINITION. Where things stand: access to the setts, contexts and teams of the state; the naming of cores by the
merged defect map (R368 to R371), the capability values that follow from it (R72, R277, R375), clusters (R93);
and which packages the timetable lights (R391, R392).
-/

namespace Sys2Proof.Machine

/-! ### The parts of the state -/

/-- Sett `n` (R2), as at power-on where nothing has changed it. -/
def State.sett (s : State) (n : Nat) : Sett := FMap.getD s.setts n Sett.init
/-- Sett `n` changed. -/
def State.setSett (s : State) (n : Nat) (f : Sett → Sett) : State := { s with setts := FMap.set s.setts n (f (s.sett n)) }
/-- The context with an identifier (R439). -/
def State.ctx? (s : State) (c : Nat) : Option Context := FMap.get? s.ctxs c
/-- Context `c` changed, where it lives. -/
def State.setCtx (s : State) (c : Nat) (f : Context → Context) : State := { s with ctxs := FMap.modify s.ctxs c f }
/-- The focused team changed. -/
def State.setCur (s : State) (f : Team → Team) : State := { s with cur := f s.cur }
/-- A grid changed. -/
def State.setGrid (s : State) (g : Nat) (f : Grid → Grid) : State := { s with grids := FMap.modify s.grids g f }
/-- Every team of the package. -/
def State.teams (s : State) : List Team := if s.cur.status = .absent then s.others else s.cur :: s.others
/-- The team with a number. -/
def State.team? (s : State) (uid : Nat) : Option Team := s.teams.find? (fun t => t.uid == uid)
/-- Every team changed. -/
def State.mapTeams (s : State) (f : Team → Team) : State := { s with cur := f s.cur, others := s.others.map f }
/-- One team changed. -/
def State.setTeam (s : State) (uid : Nat) (f : Team → Team) : State :=
  s.mapTeams (fun t => if t.uid == uid && t.status != .absent then f t else t)

/-- A team put among the others, by number. -/
def insertTeam (t : Team) : List Team → List Team
  | [] => [t]
  | u :: us => if t.uid < u.uid then t :: u :: us else u :: insertTeam t us

/-- The team with a number made the one whose streams run. -/
def State.focus (s : State) (uid : Nat) : State :=
  if s.cur.uid == uid && s.cur.status != .absent then s
  else
    match s.others.find? (fun t => t.uid == uid) with
    | none => s
    | some t =>
      let rest := s.others.filter (fun u => u.uid != uid)
      { s with cur := t, others := if s.cur.status = .absent then rest else insertTeam s.cur rest }

/-- The context of the focused team. -/
def State.curCtx (s : State) : Option Context := s.ctx? s.cur.ctx

/-! ### Free values (R6) -/

/-- `n` undefined bytes, and the state after they are drawn. -/
def State.drawBytes (s : State) (n : Nat) : List Byte × State :=
  ((upTo s.free n).map Config.freeByte, { s with free := s.free + n })

/-- `n` undefined elements, and the state after they are drawn. -/
def State.drawElems (s : State) (n : Nat) : List Word32 × State :=
  ((upTo s.free n).map Config.freeElem, { s with free := s.free + n })

/-! ### Naming of cores (R369, R370) -/

/-- Banks of one column of a core that the map lists (R110): bank numbers of column `c`. -/
def mappedBanks (m : List Defect) (pr pc c : Nat) : List Nat :=
  sortNat ((m.filter (fun d => d.kind == 3 && d.prow == pr && d.pcol == pc && d.index / 12 == c)).map (fun d => d.index % 12))

/-- The most banks mapped out in a column of a core. -/
def worstColumn (m : List Defect) (pr pc : Nat) : Nat :=
  (upTo 0 32).foldl (fun acc c => max acc (mappedBanks m pr pc c).length) 0

/-- A defective core (R369). -/
def coreDefective (m : List Defect) (pr pc : Nat) : Bool :=
  m.any (fun d => (d.kind == 1 || d.kind == 2) && d.prow == pr && d.pcol == pc) || decide (4 < worstColumn m pr pc)

/-- The defective cores of a physical row below a column. -/
def defectsBelow (m : List Defect) (pr pc : Nat) : Nat := ((upTo 0 pc).filter (coreDefective m pr)).length

/-- The working columns of a physical row, the first sixteen of which are its logical columns (R369). -/
def rowColumns (m : List Defect) (pr : Nat) : List Nat := ((upTo 0 18).filter (fun pc => !coreDefective m pr pc)).take 16

/-- The physical rows with at most two defective cores, rising (R370). -/
def goodRows (m : List Defect) : List Nat := (upTo 0 16).filter (fun pr => decide (defectsBelow m pr 18 ≤ 2))

/-- Failed links of a seam, from the maps of both its setts (R368, R372). -/
def seamFailed (s : State) (seam : Nat) : Nat :=
  let w := seam / 4
  let o := if seam % 4 = 0 then w + 1 else w + 8
  let links (n : Nat) : List Nat := ((s.sett n).merged.filter (fun d => d.kind == 7 && d.index / 18 == seam)).map (fun d => d.index % 18)
  (sortNat (links w ++ links o)).length

/-- Rows a sett has to retire for its west and south seams (R368): from its own reset on (R376). -/
def seamRows (s : State) (n : Nat) : Nat :=
  (if n % 8 = 0 then 0 else seamFailed s (4 * (n - 1)) - 2) + (if n / 8 = 0 then 0 else seamFailed s (4 * (n - 8) + 1) - 2)

/-- The physical rows that have logical rows, rising (R368, R370); none in a withdrawn sett (R371). -/
def State.rows (s : State) (n : Nat) : List Nat :=
  if (s.sett n).withdrawn then [] else
    let g := goodRows (s.sett n).merged
    g.take (g.length - (s.sett n).seamCut)

/-- CAPGRID.ROWS of a sett (R72, R370). -/
def State.gridRows (s : State) (n : Nat) : Nat := (s.rows n).length

/-- Physical row and column of a logical core, numbered 16 x row + column (R369, R370). -/
def State.physical (s : State) (n core : Nat) : Nat × Nat :=
  let pr := nth 0 (s.rows n) (core / 16)
  (pr, nth 0 (rowColumns (s.sett n).merged pr) (core % 16))

/-- CAPREG.BYTES of a core (R72). -/
def State.regBytes (s : State) (n core : Nat) : Nat :=
  let p := s.physical n core
  Config.regFileBytes - 0x10000 * worstColumn (s.sett n).merged p.1 p.2

/-- CAPBENCH of the setts of a sett row (R277): the fewest logical rows of its eight setts, 0 where one is
withdrawn (R371). -/
def State.benchOf (s : State) (n : Nat) : Nat :=
  let row := (upTo (n / 8 * 8) 8)
  if row.any (fun k => (s.sett k).withdrawn) then 0 else row.foldl (fun acc k => min acc (s.gridRows k)) 16

/-- Logical rows retired over the wafer, withdrawn setts counting 16 (R375). -/
def State.wretired (s : State) : Nat := (upTo 0 48).foldl (fun acc k => acc + (16 - s.gridRows k)) 0

/-- Withdrawn setts (R375). -/
def State.nwithdrawn (s : State) : Nat := ((upTo 0 48).filter (fun k => (s.sett k).withdrawn)).length

/-! ### Clusters (R93) -/

/-- The cluster of a logical core, numbered 4 x cluster row + cluster column. -/
def clusterOf (core : Nat) : Nat := core / 64 * 4 + core % 16 / 4

/-- Rows of a cluster of a sett with the given logical rows. -/
def clusterRows (rows cl : Nat) : Nat := min 4 (rows - cl / 4 * 4)

/-- The cores of a cluster, by local row and then local column (R93, R204). -/
def clusterCores (rows cl : Nat) : List Nat :=
  (upTo 0 (clusterRows rows cl)).flatMap (fun r => (upTo 0 4).map (fun c => 16 * (cl / 4 * 4 + r) + cl % 4 * 4 + c))

/-- The clusters of a sett, in search order (R94). -/
def clustersOf (rows : Nat) : List Nat := upTo 0 ((rows + 3) / 4 * 4)

/-- The second core of a pair (R91). -/
def pairOf (core : Nat) : Nat := core + 1

/-! ### The lit map (R391, R392) -/

/-- The period of a timetable. -/
def Timetable.period (t : Timetable) : Nat := t.phases.foldl (fun acc p => acc + p.dur) 0

/-- The phase that holds an offset, and its start. -/
def phaseAt : List Phase → Nat → Nat → Nat → Nat × Nat
  | [], _, start, i => (i, start)
  | p :: ps, tau, start, i => if tau < start + p.dur then (i, start) else phaseAt ps tau (start + p.dur) (i + 1)

/-- An entry of a phase for a transmitter. -/
def Timetable.entry (t : Timetable) (ph tx : Nat) : Half :=
  match t.phases[ph]? with
  | some p => nth 0 p.entries tx
  | none => 0

/-- Whether a transmitter is lit at a count of GTC, and toward which package (R392). -/
def Timetable.litAt (t : Timetable) (g tx : Nat) : Option Nat :=
  if g < t.base ∨ t.period = 0 then none else
    let tau := (g - t.base) % t.period
    let (ph, start) := phaseAt t.phases tau 0 0
    let e := t.entry ph tx
    let prev := t.entry ((ph + t.phases.length - 1) % t.phases.length) tx
    if e.getLsbD 15 && (decide (start + t.guardTicks ≤ tau) || e == prev) then some ((e.extractLsb' 6 6).toNat) else none

/-- A package is lit at a count of GTC: some transmitter of either chiplet is lit toward it (R392). -/
def Timetable.lit (t : Timetable) (g pkg : Nat) : Bool := (upTo 0 256).any (fun tx => t.litAt g tx == some pkg)

/-- A package that some entry of a timetable lights at some time (R395): every phase outlasts its guard (R391). -/
def Timetable.ever (t : Timetable) (pkg : Nat) : Bool :=
  t.phases.any (fun p => p.entries.any (fun e => e.getLsbD 15 && (e.extractLsb' 6 6).toNat == pkg))

/-- The package is in the scale-up domain (R212, R447). -/
def State.inDomain (s : State) (pkg : Nat) : Bool := s.domain.getLsbD pkg

/-- How a package stands to a global access (R395). -/
inductive Reach where
  | own | lit | dark | none
  deriving DecidableEq, Repr

/-- The timetable in force: from the first GTC at or past its BASE on, the one loaded last (R393). -/
def State.inForce (s : State) : Option Timetable :=
  match s.pendingTable with
  | some p => if p.base ≤ s.gtc then some p else s.timetable
  | none => s.timetable

/-- R395: the test of a package at issue. -/
def State.reach (s : State) (pkg : Nat) : Reach :=
  if pkg = s.ownPkg then .own
  else
    match s.inForce with
    | some t =>
      if t.lit s.gtc pkg then .lit
      else if t.ever pkg || (match s.pendingTable with | some p => p.ever pkg | none => false) then .dark else .none
    | none => if (match s.pendingTable with | some p => p.ever pkg | none => false) then .dark else .none

end Sys2Proof.Machine
end

