-- ==== Sys2Proof/Machine/Access.lean ====
section
/-!
DEFINITION. Windows, checks and points of order: R190 to R220 for one access. A generic address is checked by window,
alignment, range and table entry (R191); an S or L access may start a page service (R197) or wait for a line (R201);
a global access is translated and checked at its owner (R207 to R212). Reads and writes at the point of order keep
the compression metadata (R219), the L1 (R231) and the operand ranges of the matrix engine (R236).
-/

namespace Sys2Proof.Machine

/-! ### Fault codes (R332) -/

abbrev codeIllegal : Nat := 0x01
abbrev codePriv : Nat := 0x02
abbrev codeAlign : Nat := 0x03
abbrev codeSpUnmapped : Nat := 0x04
abbrev codeSpRange : Nat := 0x05
abbrev codeClusterRange : Nat := 0x06
abbrev codeChipspRange : Nat := 0x07
abbrev codeGvaFormat : Nat := 0x08
abbrev codeNotPresent : Nat := 0x09
abbrev codePerm : Nat := 0x0A
abbrev codePkey : Nat := 0x0B
abbrev codeRemoteUnreach : Nat := 0x0C
abbrev codeEngineDesc : Nat := 0x0D
abbrev codeWatchdog : Nat := 0x0E
abbrev codeRegUe : Nat := 0x0F
abbrev codeArith : Nat := 0x10
abbrev codeTrapInstr : Nat := 0x11

/-! ### Windows (R20, R190) -/

/-- Who makes an access: it decides the L window (R190, R194). -/
inductive Who where
  | scalar | lane (l : Nat) | engine
  deriving DecidableEq, Repr

/-- What an access does; `fetch` ignores PKR (R211). -/
inductive Kind where
  | load | store | atomic | fetch
  deriving DecidableEq, Repr

def Kind.writes : Kind → Bool | .store | .atomic => true | _ => false

/-- Step 1 of R191: an unassigned window, a must-be-zero bit or a sett field of 48 to 63. -/
def gvaBad (who : Who) (a : Nat) : Bool :=
  match a / 2 ^ 60 with
  | 0x0 => decide (48 ≤ bitsNat a 53 48)
  | 0x8 => bitsNat a 59 22 != 0
  | 0x9 => bitsNat a 59 21 != 0
  | 0xA => bitsNat a 59 26 != 0
  | 0xB => who == .scalar || bitsNat a 59 20 != 0
  | _ => true

/-- Offset of an address in its window (R190). -/
def winOff (a : Nat) : Nat :=
  match a / 2 ^ 60 with
  | 0x8 => bitsNat a 21 0
  | 0x9 => bitsNat a 20 0
  | 0xA => bitsNat a 25 0
  | 0xB => bitsNat a 19 0
  | _ => bitsNat a 59 0

/-- Step 3 of R191: the range test of R190. -/
def rangeBad (t : Team) (who : Who) (a w : Nat) : Option Nat :=
  let o := winOff a
  match a / 2 ^ 60 with
  | 0x8 => if t.kern.scratch < o + w then some codeSpRange else none
  | 0x9 => if t.cmsize < o + w then some codeClusterRange else none
  | 0xA => if t.kspsize < o + w then some codeChipspRange else none
  | 0xB =>
    let size := match who with | .engine => t.kern.lanesN * t.kern.lanepriv | _ => t.kern.lanepriv
    if size < o + w then some codeSpRange else none
  | _ => none

/-- The byte of the team's scratchpad space that an S or L address names (R194). -/
def spByte (t : Team) (who : Who) (a : Nat) : Nat :=
  if a / 2 ^ 60 = 0x8 then winOff a
  else match who with
    | .lane l => 0x400000 + l * t.kern.lanepriv + winOff a
    | _ => 0x400000 + winOff a

/-- Step 4 of R191: the table entry of an S or L page. -/
def sttBad (t : Team) (who : Who) (a : Nat) (wr : Bool) : Option Nat :=
  if a / 2 ^ 60 = 0x8 ∨ a / 2 ^ 60 = 0xB then
    match FMap.get? t.stt (spByte t who a / 4096) with
    | none => some codeSpUnmapped
    | some e => if wr && !e.we then some codePerm else none
  else none

/-- Steps 1 to 4 of R191 for `w` bytes at `a`; `aligned` is the alignment rule of the instruction. -/
def checkAccess (t : Team) (who : Who) (a w : Nat) (aligned wr : Bool) : Option Nat :=
  if gvaBad who a then some codeGvaFormat
  else if !aligned then some codeAlign
  else match rangeBad t who a w with
    | some c => some c
    | none => sttBad t who a wr

/-! ### The L1 of a core (R215, R216, R231) -/

/-- Key of the sector of an address in a core's L1. -/
def l1Key (ctx sett core a : Nat) : Nat := ((ctx * 48 + sett) * 256 + core) * 2 ^ 55 + a / 32

/-- The context number under which L1 holds lines of the backing region (R215), beyond those of contexts. -/
abbrev backCtx : Nat := 2 ^ 20

/-- The lines a core's L1 holds, each with its priority. -/
def State.coreLines (s : State) (sett core : Nat) : List (Nat × Nat) :=
  (s.l1.filter (fun x => x.1 / 2 ^ 55 % (48 * 256) == sett * 256 + core)).foldl (fun acc x =>
    if acc.any (fun y => y.1 == x.1 / 4) then acc else acc ++ [(x.1 / 4, x.2.prio)]) []

/-- The line of a full set that gives way (R216): one allocated under STREAM, else one not allocated under KEEP, else any.
Which of several is the device's choice. -/
def l1Victim (n : Nat) (lines : List (Nat × Nat)) : Option Nat :=
  let of_ (p : Nat) := lines.filter (fun x => x.2 == p)
  let c := if !(of_ 1).isEmpty then of_ 1 else if !(of_ 0).isEmpty then of_ 0 else of_ 2
  (c.drop (Config.l1Pick n % c.length)).head?.map Prod.fst

/-- Room for a line in a core's L1 of 2,048 lines (R4, R215, R216). -/
def State.l1Room (s : State) (sett core line : Nat) : State :=
  let held := s.coreLines sett core
  if held.isEmpty || held.any (fun x => x.1 == line) then s
  else
    let sets := 2 ^ (Config.l1SetBits % 12)
    let set := held.filter (fun x => Config.l1Set x.1 % sets == Config.l1Set line % sets)
    if set.length < 2048 / sets then s
    else match l1Victim s.tick set with
      | some v => { s with l1 := s.l1.filter (fun x => x.1 / 4 != v), tick := s.tick + 1 }
      | none => s

/-- A sector put into a core's L1; a line already there keeps its priority. -/
def State.l1Put (s : State) (sett core key : Nat) (x : Sector) : State :=
  let prio := match (s.coreLines sett core).find? (fun y => y.1 == key / 4) with | some y => y.2 | none => x.prio
  let s := s.l1Room sett core (key / 4)
  { s with l1 := FMap.set s.l1 key { x with prio := prio, at_ := s.tick } }

/-! ### Frames and the pager (R195 to R203) -/

/-- The 32 lines of a frame. -/
def allLines : List Nat := upTo 0 32

/-- A frame that a page takes, every line being filled (R197). -/
def FrameInfo.filled (uid page now : Nat) : FrameInfo :=
  { owner := some (uid, page), absent := allLines, filling := allLines, copies := [], pins := 0, used := now, lent := false }

/-- Frame `f` of a core as the pager knows it; none where it is free. -/
def State.frame? (s : State) (fr : Nat) : Option FrameInfo := FMap.get? s.frames fr

/-- A line of a frame is present (R201). -/
def State.present (s : State) (fr line : Nat) : Bool :=
  match s.frame? fr with
  | none => true
  | some f => !f.absent.contains line

/-- A frame the pager may take (R199). -/
def FrameInfo.evictable (f : FrameInfo) : Bool := f.pins == 0 && f.absent.isEmpty && f.filling.isEmpty && f.copies.isEmpty

/-- The table entry of a page of a team changed. -/
def State.setStt (s : State) (uid page : Nat) (f : Stt → Stt) : State :=
  s.setTeam uid (fun t => { t with stt := FMap.modify t.stt page f })

/-- R199: the frame is written back where its page is dirty, and the page becomes BACKED. -/
def State.evict (s : State) (fr : Nat) : State :=
  match s.frame? fr with
  | none => s
  | some f =>
    let s := match f.owner with
      | none => s
      | some (uid, page) =>
        let dirty := match s.team? uid with
          | some t => (match FMap.get? t.stt page with | some e => e.dirty | none => false)
          | none => false
        let s := if dirty then { s with mem := s.mem.copy (Config.frameKey fr 0) (Config.backKey uid page 0) 4096 } else s
        s.setStt uid page (fun e => { e with st := 1, frame := 0, rcore := 0, dirty := false })
    { s with frames := FMap.erase s.frames fr }

/-- The pager frames of a core, by number (R198). -/
def coreFrames (sett core : Nat) : List Nat := (upTo 0 96).map (Config.frameNo sett core)

/-- The least recently used evictable frame of a core (R199). -/
def State.victim (s : State) (sett core : Nat) : Option Nat :=
  ((coreFrames sett core).foldl (fun (acc : Option (Nat × Nat)) fr =>
    match s.frame? fr with
    | some f =>
      if f.evictable then
        match acc with
        | some (_, u) => if f.used < u then some (fr, f.used) else acc
        | none => some (fr, f.used)
      else acc
    | none => acc) none).map Prod.fst

/-- R197: a free pager frame of the core, else the frame freed by eviction. -/
def State.takeFrame (s : State) (sett core : Nat) : Option (Nat × State) :=
  match (coreFrames sett core).find? (fun fr => (s.frame? fr).isNone) with
  | some fr => some (fr, s)
  | none => (s.victim sett core).map (fun fr => (fr, s.evict fr))

/-- The lines that the pager reads from the backing region for an L page take their place in the core's L1 (R215). -/
def State.l1Backing (s : State) (page : Nat) : State :=
  if page < 1024 then s
  else (upTo 0 32).foldl (fun s i => s.l1Put s.cur.sett s.cur.core
    (l1Key backCtx s.cur.sett s.cur.core (Config.backKey s.cur.uid page (128 * i)))
    { data := [], key := 0, rd := false, w := false, ctx := s.cur.ctx }) s

/-- R197 and R203: the service of a page of the focused team that is not RESIDENT. The answer is the frame, or none
while no frame can be had. A dirty page pulled from a lending core is also written to its backing slot, so that
DIRTY can be cleared without a change of value (R239; log entry 20). -/
def State.service (s : State) (page : Nat) (e : Stt) : Option (Nat × State) :=
  let t := s.cur
  let lent := Config.frameNo t.sett e.rcore e.frame
  if e.st == 3 && (match s.frame? lent with | some f => decide (0 < f.pins) | none => false) then none
  else
    match s.takeFrame t.sett t.core with
    | none => none
    | some (fr, s) =>
      let e := (FMap.get? s.cur.stt page).getD e
      let mem := s.mem.clear (Config.frameKey fr 0) 4096
      let mem :=
        if e.st = 1 then s.mem.copy (Config.backKey t.uid page 0) (Config.frameKey fr 0) 4096
        else if e.st = 3 then
          let m := s.mem.copy (Config.frameKey lent 0) (Config.frameKey fr 0) 4096
          if e.dirty then m.copy (Config.frameKey lent 0) (Config.backKey t.uid page 0) 4096 else m
        else mem
      let frames := if e.st = 3 then FMap.erase s.frames lent else s.frames
      let s := if e.st = 1 then s.l1Backing page else s
      some (fr, { s with
        mem := mem, tick := s.tick + 1, frames := FMap.set frames fr (FrameInfo.filled t.uid page s.tick),
        cur := { s.cur with stt := FMap.set s.cur.stt page { we := e.we, st := 0, frame := fr % 128, rcore := 0, dirty := false } } })

/-- Where an access goes once it has passed steps 1 to 4 of R191. -/
inductive Place where
  /-- Present storage, by the key of its first byte. -/
  | key (k : Nat)
  /-- A global address: package, sett and offset (R206). -/
  | glob (pkg sett off : Nat)
  /-- A wait for a line or a frame. -/
  | wait (on : ParkOn)
  /-- A fault. -/
  | bad (code : Nat)
  deriving DecidableEq, Repr

/-- Core and frame of a byte of the gang's cluster memory (R204). -/
def State.clusterFrame (s : State) (t : Team) (o : Nat) : Nat :=
  let cs := clusterCores (s.gridRows t.sett) t.ccluster
  let n := if cs.length = 0 then 1 else cs.length
  let pg := (t.cbase + o) / 4096
  Config.frameNo t.sett (nth 0 cs (pg % n)) (96 + pg / n)

/-- Base of the grid's chip-scratchpad allocation in the team's sett (R205). -/
def State.chipBase (s : State) (t : Team) : Nat :=
  match FMap.get? s.grids t.gridId.toNat with
  | some g => FMap.getD g.kbase t.sett 0
  | none => 0

/-- A frame marked used, and its page dirty where it is written (R195, R199). -/
def State.touch (s : State) (fr page : Nat) (wr : Bool) : State :=
  { s with
    frames := FMap.modify s.frames fr (fun f => { f with used := s.tick }), tick := s.tick + 1,
    cur := if wr then { s.cur with stt := FMap.modify s.cur.stt page (fun e => { e with dirty := true }) } else s.cur }

/-- R191 and R195 to R205 for one access of the focused team of at most a line: the checks, the page service, and
the place it takes effect. -/
def State.locate (s : State) (who : Who) (a w : Nat) (aligned wr : Bool) : State × Place :=
  match checkAccess s.cur who a w aligned wr with
  | some c => (s, .bad c)
  | none =>
    match a / 2 ^ 60 with
    | 0x0 => (s, .glob (bitsNat a 59 54) (bitsNat a 53 48) (bitsNat a 47 0))
    | 0x9 =>
      let p := s.cur.cbase + winOff a
      let fr := s.clusterFrame s.cur (winOff a)
      if s.present fr (p % 4096 / 128) then (s, .key (Config.frameKey fr (p % 4096)))
      else (s, .wait (.line fr (p % 4096 / 128)))
    | 0xA => (s, .key (Config.chipKey s.cur.sett (s.chipBase s.cur + winOff a)))
    | _ =>
      let b := spByte s.cur who a
      match FMap.get? s.cur.stt (b / 4096) with
      | none => (s, .bad codeSpUnmapped)
      | some e =>
        if e.st = 0 then
          let fr := Config.frameNo s.cur.sett s.cur.core e.frame
          if s.present fr (b % 4096 / 128) then (s.touch fr (b / 4096) wr, .key (Config.frameKey fr (b % 4096)))
          else (s, .wait (.line fr (b % 4096 / 128)))
        else
          match s.service (b / 4096) e with
          | none => (s, .wait (.frame s.cur.sett s.cur.core))
          | some (fr, s) => (s, .wait (.line fr (b % 4096 / 128)))

/-! ### Translation (R208, R209) and checks at the owner (R212) -/

/-- Levels of the radix table (R208): shift, index bits, and whether a leaf may stand there. -/
def walkLevels : List (Nat × Nat × Bool) := [(39, 9, false), (30, 9, true), (21, 9, true), (16, 5, true)]

/-- A table entry that fails R209 whatever its level: V = 0 or a reserved bit set. -/
def entryBad (e : Nat) : Bool := !bitAt e 0 || bitsNat e 63 48 != 0 || bitAt e 11

/-- DRAM address of an entry (R209). -/
def entryAddr (e : Nat) : Nat := bitsNat e 47 12 * 4096

/-- R208 and R209 from one level on, below the table at `table`. -/
def walkFrom (m : Memory) (sett off : Nat) : List (Nat × Nat × Bool) → Nat → Option Leaf
  | [], _ => none
  | (sh, n, leafOk) :: ls, table =>
    if Config.dramBytes ≤ table then none else
      let e := m.getNat (Config.dramKey sett (table + 8 * (off / 2 ^ sh % 2 ^ n))) 8
      if entryBad e then none
      else if bitAt e 1 then
        if leafOk && entryAddr e % 2 ^ sh == 0 && decide (entryAddr e + 2 ^ sh ≤ Config.dramBytes) then
          some { key := Config.dramKey sett (entryAddr e + off % 2 ^ sh), pkey := bitsNat e 9 5, cmp := bitAt e 10,
                 x := bitAt e 4, w := bitAt e 3, rd := bitAt e 2 }
        else none
      else if ls.isEmpty then none
      else walkFrom m sett off ls (entryAddr e)

/-- The translation of an offset of a sett for a context (R208, R209); none is PAGE_NOTPRESENT. A withdrawn sett owns
no memory (R371). -/
def State.walk (s : State) (ctx sett off : Nat) : Option Leaf :=
  if (s.sett sett).withdrawn then none else
    match (s.ctx? ctx).bind (fun c => FMap.get? c.roots sett) with
    | none => none
    | some root => walkFrom s.mem sett off walkLevels root

/-- Checks 2 to 4 of R212 at the owning sett. -/
def State.ownerCheck (s : State) (ctx sett off : Nat) (k : Kind) (pkr : Word) : Except Nat Leaf :=
  match s.walk ctx sett off with
  | none => .error codeNotPresent
  | some l =>
    let right := match k with
      | .load => l.rd
      | .store => l.w
      | .atomic => l.w && l.rd
      | .fetch => l.x
    if !right then .error codePerm
    else
      let r := pkr.getLsbD (2 * l.pkey)
      let w := pkr.getLsbD (2 * l.pkey + 1)
      let refused := match k with
        | .load => r
        | .store => w
        | .atomic => r || w
        | .fetch => false
      if refused then .error codePkey else .ok l

/-! ### The point of order -/

/-- Two ranges of keys, by start and length, meet. -/
def meets (a n b m : Nat) : Bool := decide (a < b + m) && decide (b < a + n)

/-- Bytes broken by R236: those of the written range that lie in an operand range take an undefined value. -/
def breakBytes (s : State) (ranges : List (Nat × Nat)) : Nat → List Byte → List Byte × State
  | _, [] => ([], s)
  | k, b :: bs =>
    let (c, s) :=
      if ranges.any (fun r => meets r.1 r.2 k 1) then
        let (cs, s) := s.drawBytes 1
        (nth b cs 0, s)
      else (b, s)
    let (bs, s) := breakBytes s ranges (k + 1) bs
    (c :: bs, s)

/-- R236 takes in a write for a fired operation: `own` is the TARRIVE count of a write by the operation's own lanes or
scalar stream, none for any other writer. -/
def Fired.hot (own : Option Nat) (f : Fired) : Bool :=
  match own with
  | none => true
  | some n => decide (0 < f.cmd.arr) && decide (f.cmd.arr ≤ n)

/-- R236 takes in a write of the team's own for an operation that awaits its TWAIT. -/
def Unwaited.hot (n : Nat) (u : Unwaited) : Bool := decide (0 < u.arr) && decide (u.arr ≤ n)

/-- R236: the operations whose operands a write of `n` bytes at `k` meets while they run are broken; the team's own
writes to S and C are remembered with their TARRIVE count. -/
def Team.race (t : Team) (own : Option Nat) (k n : Nat) : Team :=
  { t with
    fired := t.fired.map (fun f => if f.hot own && f.ranges.any (fun r => meets r.1 r.2 k n) then { f with raced := true } else f),
    wlog := match own with
      | some a => if 0 < a ∧ 2 ^ 48 ≤ k then t.wlog ++ [(k, n, a)] else t.wlog
      | none => t.wlog }

/-- The tiles of the operations that await their TWAIT and whose operands a write meets (R236). -/
def brokenTiles (t : Team) (a k n : Nat) : List (Nat × Nat) :=
  (t.unwaited.filter (fun u => u.hot a && u.ranges.any (fun r => meets r.1 r.2 k n))).map (fun u => (u.tile, u.tiles))

/-- Tiles of the focused team given undefined values: first tile and count; a tile holds 128 elements (R273). -/
def State.freeTiles (s : State) : List (Nat × Nat) → State
  | [] => s
  | (a, n) :: ts =>
    let (es, s) := s.drawElems (128 * n)
    let acc := (es.zip (upTo (128 * a) (128 * n))).foldl (fun m x => FMap.set m x.2 x.1) s.cur.acc
    State.freeTiles { s with cur := { s.cur with acc := acc } } ts

/-- The operand ranges a write may not meet: of operations in flight, and for the team's own writes of those that await
their TWAIT (R236). -/
def State.hotRanges (s : State) (own : Option Nat) : List (Nat × Nat) :=
  (s.cur.fired.filter (Fired.hot own)).flatMap Fired.ranges ++ s.others.flatMap (fun t => t.fired.flatMap Fired.ranges)
    ++ (match own with | some a => (s.cur.unwaited.filter (Unwaited.hot a)).flatMap Unwaited.ranges | none => [])

/-- The key under which R236 knows a byte: of a page that may move from frame to frame, its backing slot's. -/
def State.logKey (s : State) (k : Nat) : Nat :=
  if 2 ^ 48 ≤ k ∧ k < 2 ^ 49 then
    match (s.frame? ((k - 2 ^ 48) / 4096)).bind FrameInfo.owner with
    | some (uid, page) => Config.backKey uid page (k % 4096)
    | none => k
  else k

/-- Where the byte that R236 knows under a key is stored now. -/
def State.storeKey (s : State) (k : Nat) : Nat :=
  if 2 ^ 50 ≤ k ∧ k < 2 ^ 51 then
    let p := (k - 2 ^ 50) / 4096
    match s.frames.find? (fun x => x.2.owner == some (p / 2048, p % 2048)) with
    | some x => Config.frameKey x.1 (k % 4096)
    | none => k
  else k

/-- No operand that a write of `n` bytes at `k` may not meet is met (R236). -/
def State.calm (s : State) (own : Option Nat) (k n : Nat) : Bool := !(s.hotRanges own).any (fun r => meets r.1 r.2 (s.logKey k) n)

/-- A write of bytes at a key, at its point of order: `own` is the TARRIVE count of a write by a lane or the scalar
stream of the focused team (R236). -/
def State.poke (s : State) (own : Option Nat) (k : Nat) (bs : List Byte) : State :=
  let n := bs.length
  let at_ := s.logKey k
  let (bs, s) := if s.calm own k n then (bs, s) else breakBytes s (s.hotRanges own) at_ bs
  let broken := match own with | some a => brokenTiles s.cur a at_ n | none => []
  let s := { s with cur := s.cur.race own at_ n, others := s.others.map (fun t => Team.race t none at_ n) }
  let s := if broken.isEmpty then s else s.freeTiles broken
  { s with mem := s.mem.setBytes k bs }

/-- State of a line's compression metadata (R219): 0 RAW, 1 PACKED, 2 written through the uncompressed view while
PACKED. -/
def State.packState (s : State) (k : Nat) : Nat := FMap.getD s.packed (k / 128) 0

/-- Metadata of a line set. -/
def State.setPack (s : State) (k v : Nat) : State :=
  { s with packed := if v = 0 then FMap.erase s.packed (k / 128) else FMap.set s.packed (k / 128) v }

/-- A read of `n` bytes of one line of DRAM through a view (R219). -/
def State.readLine (s : State) (cmp : Bool) (k n : Nat) : List Byte × State :=
  let st := s.packState k
  if st = 0 ∨ (st = 1 ∧ cmp) then (s.mem.getBytes k n, s) else s.drawBytes n

/-- A write of bytes of one line of DRAM through a view (R219). -/
def State.writeLine (s : State) (own : Option Nat) (cmp : Bool) (k : Nat) (bs : List Byte) : State :=
  let st := s.packState k
  let whole := decide (bs.length = 128)
  let s := s.poke own k bs
  if cmp then (if st = 2 ∧ ¬whole then s else s.setPack k 1)
  else if whole then s.setPack k 0
  else if st = 0 then s else s.setPack k 2

/-- Bytes at a key cut at the ends of lines. -/
def linePieces : Nat → Nat → List Byte → List (Nat × List Byte)
  | 0, _, _ => []
  | _, _, [] => []
  | fuel + 1, k, bs => (k, bs.take (128 - k % 128)) :: linePieces fuel (k + (128 - k % 128)) (bs.drop (128 - k % 128))

/-- Bytes of DRAM written line by line through a view (R219). -/
def State.writeSpan (s : State) (own : Option Nat) (cmp : Bool) (k : Nat) (bs : List Byte) : State :=
  (linePieces (bs.length / 128 + 2) k bs).foldl (fun s x => s.writeLine own cmp x.1 x.2) s

/-! ### Requests in flight (R218, R223) -/

/-- An agent's core, over all setts. -/
def coreNo (sett core : Nat) : Nat := sett * 256 + core

/-- The accesses of a request by rising lane. -/
def byLane (as : List LaneAcc) : List LaneAcc := (sortNat (as.map LaneAcc.lane)).flatMap (fun l => as.filter (fun a => a.lane == l))

/-- Where the part of an access in a line begins and ends. -/
def LaneAcc.lo (a : LaneAcc) (line : Nat) : Nat := max a.ea.toNat (128 * line)
def LaneAcc.hi (a : LaneAcc) (line : Nat) : Nat := min (a.ea.toNat + a.width) (128 * (line + 1))

/-- The granules of an access in a line (R223). -/
def LaneAcc.grans (a : LaneAcc) (line : Nat) : List Nat := upTo (a.lo line / 8) ((a.hi line + 7) / 8 - a.lo line / 8)

/-- The granules a request touches. -/
def GReq.grans (r : GReq) : List Nat := sortNat (r.accs.flatMap (fun a => a.grans r.line))

/-- A request is known to be performed at the point of order: in this package by its step, in another by its reply. -/
def GReq.ordered (own : Nat) (r : GReq) : Bool := r.performed && (r.pkg == own || r.back || !r.answers.isEmpty)

/-- A request is done with a granule. -/
def GReq.doneAt (own : Nat) (r : GReq) (g : Nat) : Bool :=
  r.ordered own || (r.pkg == own && r.done.contains g) || !r.grans.contains g

/-- The stores of a core that are issued and not yet performed, put over the bytes of a line from address `a` on (R231). -/
def State.overlay (s : State) (ctx core a : Nat) (bs : List Byte) : List Byte :=
  (s.reqs.filter (fun r => r.ctx == ctx && r.core == core && r.line == a / 128 && !r.ordered s.ownPkg)).foldl (fun bs r =>
    ((byLane r.accs).filter (fun x => x.kind == 1)).foldl (fun bs x =>
      (bs.zip (upTo 0 bs.length)).map (fun b =>
        let at_ := a + b.2
        if decide (x.lo r.line ≤ at_) && decide (at_ < x.hi r.line) && !r.doneAt s.ownPkg (at_ / 8) then nth b.1 x.data (at_ - x.ea.toNat)
        else b.1)) bs) bs

/-- Every access of the focused team's lanes, and every write they saw early, is performed. -/
def State.quiet (s : State) : Bool :=
  !(s.reqs.any (fun r => r.uid == s.cur.uid && !r.ordered s.ownPkg && r.accs.any (fun a => a.kind != 3)))
    && !(s.cur.seen.any (fun x => s.reqs.any (fun r => r.tag == x.2 && !r.ordered s.ownPkg)))

/-! ### What the L1 takes in and loses (R231) -/

/-- The sector an address lies in, read at the point of order. -/
def State.sectorAt (s : State) (ctx a : Nat) (l : Leaf) : Sector × State :=
  let (bs, s) := s.readLine l.cmp (l.key - a % 32) 32
  ({ data := bs, key := l.pkey, rd := l.rd, w := l.w, ctx := ctx }, s)

/-- The sector of an address filled into a core's L1 from the point of order, with the core's own stores that are still on
their way (R229, R231). -/
def State.l1Fill (s : State) (ctx sett core a prio : Nat) (l : Leaf) : State :=
  let (x, s) := s.sectorAt ctx a l
  s.l1Put sett core (l1Key ctx sett core a) { x with data := s.overlay ctx (coreNo sett core) (a / 32 * 32) x.data, prio := prio }

/-- A load that is not L1-eligible writes the sector it returns where the L1 holds it (R231). -/
def State.l1Refresh (s : State) (ctx sett core a : Nat) (l : Leaf) : State :=
  if (FMap.get? s.l1 (l1Key ctx sett core a)).isSome then s.l1Fill ctx sett core a 0 l else s

/-- Bytes put into a list at a place. -/
def spliceBytes (xs : List Byte) (at_ : Nat) (bs : List Byte) : List Byte :=
  xs.take at_ ++ bs ++ xs.drop (at_ + bs.length)

/-- A store updates the sector held (R231). -/
def State.l1Store (s : State) (ctx sett core a : Nat) (bs : List Byte) : State :=
  { s with l1 := FMap.modify s.l1 (l1Key ctx sett core a) (fun x => { x with data := spliceBytes x.data (a % 32) bs, at_ := s.tick }) }

/-- What replies on their way from another package return of a line is not put into a core's L1 any more: a store or an atomic
of the core has changed it since. -/
def State.staleLine (s : State) (ctx sett core a : Nat) : State :=
  if bitsNat a 59 54 = s.ownPkg then s
  else { s with reqs := s.reqs.map (fun r =>
    if r.core == coreNo sett core && r.ctx == ctx && r.line == a / 128 then { r with eligible := false } else r) }

/-- A write performed at once by an agent of a core updates the sector held, below the core's stores that are still on
their way. -/
def State.l1Written (s : State) (ctx sett core a : Nat) (bs : List Byte) : State :=
  { s with l1 := FMap.modify s.l1 (l1Key ctx sett core a) (fun x =>
      { x with data := s.overlay ctx (coreNo sett core) (a / 32 * 32) (spliceBytes x.data (a % 32) bs), at_ := s.tick }) }

/-- The sectors of `n` bytes from address `a` on. -/
def sectorsOf (a n : Nat) : List Nat := (upTo (a / 32) ((a + n + 31) / 32 - a / 32)).map (fun i => 32 * i)

/-- Bytes cut where a sector of 32 bytes ends. -/
def cutSectors (a : Nat) (bs : List Byte) : List (Nat × List Byte) :=
  (sectorsOf a bs.length).map (fun x => (max a x, (bs.drop (x - a)).take (x + 32 - max a x)))

/-- Bytes of a line, read or written at their point of order by an agent of a core that no L1 serves, put into the sectors that
its L1 holds (R231). -/
def State.l1Through (s : State) (ctx sett core a : Nat) (bs : List Byte) : State :=
  (cutSectors a bs).foldl (fun s x => s.l1Written ctx sett core x.1 x.2) s

/-- An atomic or a NOL1 store drops the sector (R231). -/
def State.l1Drop (s : State) (ctx sett core a : Nat) : State := { s with l1 := FMap.erase s.l1 (l1Key ctx sett core a) }

/-- What other packages' replies on their way to a core return is not put into its L1 any more. -/
def State.staleFills (s : State) (sett core : Nat) : State :=
  { s with reqs := s.reqs.map (fun r =>
      if r.core == coreNo sett core && r.pkg != s.ownPkg && r.performed then { r with eligible := false } else r) }

/-- Every global line of a core discarded (R231). -/
def State.l1Discard (s : State) (sett core : Nat) : State :=
  State.staleFills { s with l1 := s.l1.filter (fun x =>
    x.1 / 2 ^ 55 % (48 * 256) != sett * 256 + core || decide (backCtx ≤ x.1 / 2 ^ 55 / (48 * 256))) } sett core

/-- The same for the core of the focused team, or both cores of its pair. -/
def State.discardCores (s : State) : State :=
  let s := s.l1Discard s.cur.sett s.cur.core
  if s.cur.pair then s.l1Discard s.cur.sett (pairOf s.cur.core) else s

/-- The leaf of a global address of this package for a context, with a right, PKR being zero. -/
def State.devLeaf (s : State) (ctx : Nat) (a : Nat) (k : Kind) : Except Nat Leaf :=
  if gvaBad .scalar a || a / 2 ^ 60 != 0 then .error codeGvaFormat
  else if bitsNat a 59 54 != s.ownPkg then .error codeRemoteUnreach
  else s.ownerCheck ctx (bitsNat a 53 48) (bitsNat a 47 0) k 0

/-- Bytes of this package read for the device. -/
def State.devRead (s : State) (ctx : Nat) : Nat → Nat → Except Nat (List Byte)
  | _, 0 => .ok []
  | a, n + 1 =>
    match s.devLeaf ctx a .load with
    | .error c => .error c
    | .ok l =>
      match State.devRead s ctx (a + 1) n with
      | .error c => .error c
      | .ok bs => .ok ((s.readLine l.cmp l.key 1).1 ++ bs)

/-- A number of this package read for the device. -/
def State.devNat (s : State) (ctx a n : Nat) : Except Nat Nat :=
  match s.devRead ctx a n with
  | .ok bs => .ok (natOf bs)
  | .error c => .error c

/-! ### Lines of other packages (R53, R212, R289) -/

/-- Request codes of the four accesses; a request with code 2 or 3 of a line that is asked for is a probe (log entry 21). -/
def Kind.op : Kind → Nat | .load => 1 | .store => 2 | .atomic => 3 | .fetch => 4

/-- No fault code: an answer that is still to come, with the line it is asked for. -/
def awaitCode (op ctx a : Nat) : Nat := 256 * (1 + (op * 2 ^ 16 + ctx) * 2 ^ 57 + a / 128)

/-- A code that says that an answer is still to come. -/
def isAwait (c : Nat) : Bool := decide (256 ≤ c)

/-- What another package has answered for a line (R212, R395). -/
def State.farLine (s : State) (who : Asker) (ctx a : Nat) (k : Kind) : Except Nat (List Byte) :=
  if !s.inDomain (bitsNat a 59 54) then .error codeRemoteUnreach
  else match s.far.find? (fun x => x.who == who && x.ctx == ctx && x.op == k.op && x.line == a / 128) with
    | none => .error (awaitCode k.op ctx a)
    | some x => match x.code with
      | none => .error (awaitCode k.op ctx a)
      | some c => if c % 256 = 0 then .ok x.data else .error (c % 256)

/-- An address that the device may use for a context, in this package or another one (R191, R212). -/
def State.devOk (s : State) (who : Asker) (ctx a : Nat) (k : Kind) : Except Nat Unit :=
  if gvaBad .scalar a || a / 2 ^ 60 != 0 then .error codeGvaFormat
  else if bitsNat a 59 54 = s.ownPkg then (s.devLeaf ctx a k).map (fun _ => ())
  else (s.farLine who ctx a k).map (fun _ => ())

/-- A byte read for the device, in this package or another one. -/
def State.anyByte (s : State) (who : Asker) (ctx a : Nat) (k : Kind) : Except Nat Byte :=
  if bitsNat a 59 54 = s.ownPkg then (s.devLeaf ctx a k).map (fun l => nth 0 (s.readLine l.cmp l.key 1).1 0)
  else match s.devOk who ctx a k with
    | .error c => .error c
    | .ok _ => (s.farLine who ctx a k).map (fun bs => nth 0 bs (a % 128))

/-- Bytes read for the device, in this package or another one. -/
def State.anyRead (s : State) (who : Asker) (ctx : Nat) (k : Kind) : Nat → Nat → Except Nat (List Byte)
  | _, 0 => .ok []
  | a, n + 1 =>
    match s.anyByte who ctx a k with
    | .error c => .error c
    | .ok b => (State.anyRead s who ctx k (a + 1) n).map (fun bs => b :: bs)

/-- A number read for the device, in this package or another one. -/
def State.anyNat (s : State) (who : Asker) (ctx : Nat) (k : Kind) (a n : Nat) : Except Nat Nat := (s.anyRead who ctx k a n).map natOf

/-- Bytes that lie within one page written for the device; nothing where the page is not mapped for writing. -/
def State.devWrite (s : State) (ctx a : Nat) (bs : List Byte) : State :=
  match s.devLeaf ctx a .store with
  | .error _ => s
  | .ok l => s.writeSpan none l.cmp l.key bs

/-! ### Scalar accesses (R22, R56, R57) -/

/-- What a scalar access comes to: done, a trap, or a wait with the instruction left at its place. -/
inductive Acc (α : Type) where
  | ok (a : α) (s : State)
  | trap (code : Nat) (s : State)
  | wait (s : State)

/-- A request sent to another package (R207): what it asks, its context, address, PKR and tag, SGTC (R426) and data, as the
model writes it in the outbox (log entry 21). -/
def requestBytes (op ctx a w : Nat) (pkr : Word) (tag sgtc : Nat) (data : List Byte) : List Byte :=
  bytesOf 1 op ++ bytesOf 2 ctx ++ bytesOf 8 a ++ bytesOf 2 w ++ bytesOf 8 pkr.toNat ++ bytesOf 8 tag ++ bytesOf 8 sgtc ++ data

/-- The line of an answer that is still to come is asked for (R395): at once where its package is lit, later where it is dark;
where it is neither, the answer is REMOTE_UNREACH. -/
def State.askFar (s : State) (who : Asker) (c : Nat) : State :=
  let n := c / 256 - 1
  let line := n % 2 ^ 57
  let ctx := n / 2 ^ 57 % 2 ^ 16
  let op := n / 2 ^ 73
  let x : FarLine := { who := who, ctx := ctx, op := op, line := line, tag := s.tick, sentAt := s.gtc, code := none, data := [] }
  if !isAwait c || s.far.any (fun y => y.who == who && y.ctx == ctx && y.op == op && y.line == line) then s
  else match s.reach (bitsNat (128 * line) 59 54) with
    | .lit => { s with
        far := s.far ++ [x], tick := s.tick + 1,
        outbox := s.outbox ++ [requestBytes (if op = 2 ∨ op = 3 then 6 else op) ctx (128 * line) 128 0 s.tick s.gtc
          (if op = 2 ∨ op = 3 then bytesOf 1 op else [])] }
    | .none => { s with far := s.far ++ [{ x with code := some codeRemoteUnreach }] }
    | _ => s

/-- The answer for a line. -/
def State.farReply (s : State) (tag code : Nat) (bs : List Byte) : State :=
  { s with far := s.far.map (fun x => if x.tag == tag && x.code.isNone then { x with code := some code, data := bs } else x) }

/-- What was asked for is not needed any more. -/
def State.dropFar (s : State) (who : Asker) : State := { s with far := s.far.filter (fun x => x.who != who) }

/-- The refusals among the answers for a team's fetches are forgotten: the next fetch asks again. -/
def State.dropRefused (s : State) : State :=
  { s with far := s.far.filter (fun x => x.who != .code s.cur.uid || x.code.isNone || x.code == some 0) }

/-- A request for a line is on its way. -/
def State.farPending (s : State) (tag : Nat) : Bool := s.far.any (fun x => x.tag == tag && x.code.isNone)

/-- What an access to another package is listed under: its code and its address. -/
def remoteKey (op a : Nat) : Word := BitVec.ofNat 64 (a + op * 2 ^ 60)

/-- An access of the scalar stream to another package: sent once, then answered by a reply (R379, R395), which stays
listed until the instruction is done. -/
def State.remoteKeep (s : State) (op a w : Nat) (data : List Byte) : Acc (List Byte) :=
  match s.cur.replies.find? (fun r => r.1 == remoteKey op a) with
  | some (_, code, bs) => if code = 0 then .ok bs s else .trap code s
  | none =>
    if s.cur.sent.any (fun r => r.1 == remoteKey op a) then .wait s
    else
      .wait { s with
        cur := { s.cur with sent := s.cur.sent ++ [(remoteKey op a, s.tick, s.gtc)] },
        outbox := s.outbox ++ [requestBytes op s.cur.ctx a w s.cur.pkr s.tick s.gtc data], tick := s.tick + 1 }

/-- Every answer of other packages used up: the instruction is done. -/
def State.clearRemote (s : State) : State := { s with cur := { s.cur with sent := [], replies := [] } }

/-- A single access of the scalar stream to another package. -/
def State.remoteScalar (s : State) (op a w : Nat) (data : List Byte) : Acc (List Byte) :=
  match s.remoteKeep op a w data with
  | .ok bs s => .ok bs s.clearRemote
  | .trap c s => .trap c s.clearRemote
  | .wait s => .wait s

/-- A store or an atomic of a core to the granules of an access has issued and is not yet performed. -/
def State.pendingStore (s : State) (core a w : Nat) : Bool :=
  s.reqs.any (fun r => r.core == core && r.ctx == s.cur.ctx && r.accs.any (fun x => x.kind == 1 || x.kind == 2)
    && (upTo (a / 8) ((a + w + 7) / 8 - a / 8)).any (fun g => !r.doneAt s.ownPkg g))

/-- The owner's answer to a global access of the scalar stream (R212, R395): the leaf here, or the reply of another
package, which a request with code `op` once sent awaits; `onSend` is what the core's L1 does as it is sent. A write waits for the
writes to its granules that its core has issued: L1 has shown them in that order (R231). -/
def State.scalarGlobal (s : State) (k : Kind) (op a w pkg sett off : Nat) (data : List Byte) (onSend : State → State)
    (here : Leaf → State → Acc (List Byte)) : Acc (List Byte) :=
  if s.cur.sent.any (fun r => r.1 == remoteKey op a) then s.remoteScalar op a w data
  else if !s.inDomain pkg then .trap codeRemoteUnreach s
  else if k.writes && s.pendingStore (coreNo s.cur.sett s.cur.core) a w then .wait s
  else match s.reach pkg with
    | .own =>
      (match s.ownerCheck s.cur.ctx sett off k s.cur.pkr with
       | .error c => .trap c s
       | .ok l => here l s)
    | .lit => (onSend s).remoteScalar op a w data
    | .dark => .wait s
    | .none => .trap codeRemoteUnreach s

/-- A scalar load of `w` bytes (R22, R56). -/
def State.scalarLoad (s : State) (a w : Nat) : Acc (List Byte) :=
  match s.locate .scalar a w (a % w == 0) false with
  | (s, .bad c) => .trap c s
  | (s, .wait _) => .wait s
  | (s, .key k) => .ok (s.mem.getBytes k w) s
  | (s, .glob pkg sett off) =>
    match s.scalarGlobal .load 1 a w pkg sett off [] id (fun l s =>
      let (bs, s) := s.readLine l.cmp l.key w
      .ok bs (s.l1Refresh s.cur.ctx s.cur.sett s.cur.core a l)) with
    | .ok bs s => .ok bs (if pkg = s.ownPkg then s else s.l1Through s.cur.ctx s.cur.sett s.cur.core a bs)
    | r => r

/-- A scalar store (R22, R56). -/
def State.scalarStore (s : State) (a : Nat) (bs : List Byte) : Acc (List Byte) :=
  match s.locate .scalar a bs.length (a % bs.length == 0) true with
  | (s, .bad c) => .trap c s
  | (s, .wait _) => .wait s
  | (s, .key k) => .ok [] (s.poke (some s.cur.arrives) k bs)
  | (s, .glob pkg sett off) =>
    s.scalarGlobal .store 2 a bs.length pkg sett off bs
      (fun s => (s.l1Store s.cur.ctx s.cur.sett s.cur.core a bs).staleLine s.cur.ctx s.cur.sett s.cur.core a) (fun l s =>
      .ok [] ((s.writeLine (some s.cur.arrives) l.cmp l.key bs).l1Store s.cur.ctx s.cur.sett s.cur.core a bs))

/-- The request code of an atomic that is an acquire: while it is on its way to another package, no later access of the team
issues (R58). -/
abbrev acquireOp : Nat := 14

/-- A scalar atomic on `w` bytes: `f` gives the new value from the old one, none where nothing is written (R57); `acq` says
that it is an acquire. -/
def State.scalarAtomic (s : State) (acq : Bool) (a w : Nat) (sent : List Byte) (f : Nat → Option Nat) : Acc (List Byte) :=
  match s.locate .scalar a w (a % w == 0) true with
  | (s, .bad c) => .trap c s
  | (s, .wait _) => .wait s
  | (s, .key k) =>
    let old := s.mem.getBytes k w
    (match f (natOf old) with
     | some x => .ok old (s.poke (some s.cur.arrives) k (bytesOf w x))
     | none => .ok old s)
  | (s, .glob pkg sett off) =>
    s.scalarGlobal .atomic (if acq then acquireOp else 3) a w pkg sett off sent
      (fun s => (s.l1Drop s.cur.ctx s.cur.sett s.cur.core a).staleLine s.cur.ctx s.cur.sett s.cur.core a) (fun l s =>
      let (old, s) := s.readLine l.cmp l.key w
      let s := match f (natOf old) with
        | some x => s.writeLine (some s.cur.arrives) l.cmp l.key (bytesOf w x)
        | none => s
      .ok old (s.l1Drop s.cur.ctx s.cur.sett s.cur.core a))

/-- R53: the check of a fetch, or of the target of a transfer, in its order; `reg` marks a register target, whose
bits [1:0] must be zero. A line of another package is checked at its owner (R212), whose answer may be awaited. -/
def State.fetchCheck (s : State) (a : Nat) (reg : Bool) : Option Nat :=
  if gvaBad .scalar a || a / 2 ^ 60 != 0 then some codeGvaFormat
  else if reg && a % 4 != 0 then some codeAlign
  else match s.devOk (.code s.cur.uid) s.cur.ctx a .fetch with
    | .error c => some c
    | .ok _ => none

/-- A word fetched from code memory of the focused team's context: of the values R232 allows, memory's now (DESIGN CHOICE,
log entry 114). -/
def State.fetchWord (s : State) (a : Nat) : Except Nat Word32 :=
  match s.fetchCheck a false with
  | some c => .error c
  | none =>
    if bitsNat a 59 54 = s.ownPkg then
      match s.ownerCheck s.cur.ctx (bitsNat a 53 48) (bitsNat a 47 0) .fetch 0 with
      | .error c => .error c
      | .ok l => .ok (BitVec.ofNat 32 (natOf (s.readLine l.cmp l.key 4).1))
    else (s.anyNat (.code s.cur.uid) s.cur.ctx .fetch a 4).map (BitVec.ofNat 32)

end Sys2Proof.Machine
end

