-- ==== Sys2Proof/Machine/Object.lean ====
section
/-!
DEFINITION. Kernel objects: the header of R288, the loading checks of R289, R100, R101 and R113, and the s write set
of R48. The same checks serve a handler object (R335).
-/

namespace Sys2Proof.Machine

/-- Bytes per fragment per lane of a view descriptor (R100). -/
def viewBytes (d : Word32) : Nat := 4 * 2 ^ (bitsNat d.toNat 13 11)
/-- Format code of a view descriptor. -/
def viewFmt (d : Word32) : Nat := bitsNat d.toNat 19 14
/-- ROLE of a view descriptor: 0 A, 1 B, 2 accumulator. -/
def viewRole (d : Word32) : Nat := bitsNat d.toNat 10 9
/-- First byte of fragment 0. -/
def viewBase (d : Word32) : Nat := 4 * bitsNat d.toNat 8 0
def viewValid (d : Word32) : Bool := bitAt d.toNat 20

/-- R101 for one descriptor and R registers. -/
def viewOk (d : Word32) (r : Nat) : Bool :=
  bitsNat d.toNat 31 21 == 0 && decide (viewFmt d ≤ 18) && decide (bitsNat d.toNat 13 11 ≤ 4) && decide (viewRole d ≤ 2)
    && (!viewValid d || decide (viewBase d + viewBytes d ≤ 4 * r))

/-- Fragment j of a view lies within the register space (R100, R101). -/
def fragOk (views : List Word32) (r n j : Nat) : Bool :=
  let d := nth 0 views n
  viewValid d && decide (viewBase d + (j + 1) * viewBytes d ≤ 4 * r)

/-- R113 for one operand field. -/
def fieldOk (views : List Word32) (r : Nat) (x : BitVec 12) : Bool :=
  let i := (x.extractLsb' 0 9).toNat
  match (x.extractLsb' 9 3).toNat with
  | 0 => decide (i < r)
  | 1 => decide (i < r / 2)
  | 2 => decide (i < r / 4)
  | 3 => fragOk views r (i / 128) (i % 128)
  | 4 => decide (i < 64)
  | _ => true

/-- R113 for one word of the lane section. -/
def laneWordOk (views : List Word32) (r : Nat) (w : BitVec 96) : Bool :=
  let op := (w.extractLsb' 86 10).toNat
  fieldOk views r (w.extractLsb' 64 12)
    && (op == 0x044 || op == 0x0C0
      || (fieldOk views r (w.extractLsb' 52 12) && fieldOk views r (w.extractLsb' 40 12) && fieldOk views r (w.extractLsb' 28 12)))

/-- The s register a VREDUCE or VVOTE word names as destination (R48). -/
def wordWrites (w : BitVec 96) : BitVec 64 :=
  let op := (w.extractLsb' 86 10).toNat
  let d : BitVec 12 := w.extractLsb' 64 12
  if (op == 0x082 || op == 0x084) && d.extractLsb' 9 3 == (4 : BitVec 3) && d.extractLsb' 0 6 != (0 : BitVec 6) then
    BitVec.ofNat 64 (2 ^ (d.extractLsb' 0 6).toNat)
  else 0

/-- A 96-bit word of code memory, read in three 32-bit pieces (R111). -/
def State.laneWordAt (s : State) (who : Asker) (ctx a : Nat) : Except Nat (BitVec 96) :=
  match s.anyNat who ctx .load a 4, s.anyNat who ctx .load (a + 4) 4, s.anyNat who ctx .load (a + 8) 4 with
  | .ok x, .ok y, .ok z => .ok (BitVec.ofNat 96 (x + 2 ^ 32 * y + 2 ^ 64 * z))
  | .error c, _, _ => .error c
  | _, .error c, _ => .error c
  | _, _, .error c => .error c

/-- R113 and R48 over the lane section: the write set, or ILLEGAL's code where a word fails. -/
def State.scanLane (s : State) (who : Asker) (ctx : Nat) (views : List Word32) (r : Nat) : Nat → Nat → BitVec 64 → Except Nat (BitVec 64)
  | _, 0, acc => .ok acc
  | a, n + 1, acc =>
    match s.laneWordAt who ctx a with
    | .error c => .error c
    | .ok w =>
      if laneWordOk views r w then State.scanLane s who ctx views r (a + 12) n (acc ||| wordWrites w) else .error codeIllegal

/-- Checks one after another: the first error. -/
def allOk : List (Except Nat Unit) → Except Nat Unit
  | [] => .ok ()
  | .error c :: _ => .error c
  | .ok _ :: xs => allOk xs

/-- Every 64 KiB unit of a range is mapped readable and executable (R289), as its owner says (R212). -/
def State.rangeRx (s : State) (who : Asker) (ctx a n : Nat) : Except Nat Unit :=
  allOk ((upTo (a / 0x10000) ((a + n + 0xFFFF) / 0x10000 - a / 0x10000)).flatMap (fun p =>
    [s.devOk who ctx (max a (p * 0x10000)) .load, s.devOk who ctx (max a (p * 0x10000)) .fetch]))

/-- Bytes that read as zero. -/
def State.zeroAt (s : State) (who : Asker) (ctx a n : Nat) : Except Nat Bool :=
  if bitsNat a 59 54 = s.ownPkg then (s.devLeaf ctx a .load).map (fun l => (s.mem.slice l.key n).isEmpty)
  else (s.anyRead who ctx .load a n).map (fun bs => bs.all (fun b => b == 0))

/-- The three sections and the header page do not meet (R288). -/
def rangesApart (xs : List (Nat × Nat)) : Bool :=
  (upTo 0 xs.length).all (fun i => (upTo 0 i).all (fun j =>
    let a := nth (0, 0) xs i
    let b := nth (0, 0) xs j
    a.2 == 0 || b.2 == 0 || !meets a.1 a.2 b.1 b.2))

/-- Limits of R70, R98 and R118. -/
def shapeOk (l g r : Nat) : Bool :=
  (g == 16 || g == 32 || g == 64) && l % g == 0 && decide (16 ≤ l) && decide (l ≤ 1024)
    && r % 4 == 0 && decide (4 ≤ r) && decide (r ≤ 384)

/-- The object at KOBJ, where it loads (R288, R289); an error says what is still to be read from another package, or that the
object does not load. -/
def State.loadObject (s : State) (who : Asker) (ctx kobj : Nat) : Except Nat Kernel :=
  match s.anyRead who ctx .load kobj 88, s.zeroAt who ctx (kobj + 88) (4096 - 88) with
  | .ok hdr, .ok zeros =>
    let f (a n : Nat) : Nat := natOf ((hdr.drop a).take n)
    let level := f 4 1
    let g := f 6 1
    let l := f 8 2
    let r := f 10 2
    let scratch := f 12 4
    let lp := f 16 2
    let soff := f 24 8
    let ssize := f 32 4
    let sentry := f 36 4
    let loff := f 40 8
    let lcount := f 48 4
    let doff := f 56 8
    let dsize := f 64 4
    let views := (upTo 0 4).map (fun i => BitVec.ofNat 32 (f (72 + 4 * i) 4))
    let ok := f 0 4 == 0x4F475445 && decide (1 ≤ level) && decide (level ≤ Config.etgonLevel) && decide (f 5 1 ≤ 1)
      && f 7 1 == 0 && shapeOk l g r && decide (scratch ≤ 0x400000) && decide (lp ≤ 1024) && lp % 16 == 0 && f 18 6 == 0
      && soff % 4096 == 0 && decide (0x1000 ≤ soff) && ssize % 4 == 0 && decide (4 ≤ ssize) && decide (ssize ≤ 0x4000000)
      && sentry % 4 == 0 && decide (sentry < ssize)
      && loff % 4096 == 0 && (lcount != 0 || loff == 0) && decide (lcount ≤ 0x400000) && f 52 4 == 0
      && doff % 4096 == 0 && (dsize != 0 || doff == 0) && decide (dsize ≤ 0x40000000) && f 68 4 == 0
      && zeros
      && rangesApart [(0, 4096), (soff, ssize), (loff, 12 * lcount), (doff, dsize)]
      && views.all (fun d => viewOk d r)
    if !ok then .error codeIllegal
    else match s.rangeRx who ctx (kobj + soff) ssize, s.rangeRx who ctx (kobj + loff) (12 * lcount) with
    | .error c, _ => .error c
    | _, .error c => .error c
    | _, _ => match s.scanLane who ctx views r (kobj + loff) lcount 0 with
      | .error c => .error c
      | .ok ws =>
        .ok { kobj := BitVec.ofNat 64 kobj, sbase := BitVec.ofNat 64 (kobj + soff), ssize := ssize, sentry := sentry,
               lbase := BitVec.ofNat 64 (kobj + loff), lcount := lcount, lanesN := l, gwidth := g, regsN := r,
               scratch := scratch, lanepriv := lp, mview := views, faultCont := f 5 1 == 1, writeSet := ws,
               level := level }
  | .error c, _ => .error c
  | _, .error c => .error c

end Sys2Proof.Machine
end

