-- ==== Sys2Proof/Machine/Operands.lean ====
section
/-!
DEFINITION. The scalar registers (R13, R14), the register space of a lane and its views (R98 to R102), and the
operands of a lane word (R103 to R106, R143). A value read from an operand is the bit pattern of its width, as a
natural number.
-/

namespace Sys2Proof.Machine

/-! ### Scalar registers (R13, R14) -/

/-- An s register as a source: s0 reads zero. -/
def Team.s (t : Team) (r : Reg) : Word := if r = 0 then 0 else t.sregs[r.toNat]
/-- An s register as a destination: a write to s0 is dropped. -/
def Team.setS (t : Team) (r : Reg) (x : Word) : Team := if r = 0 then t else { t with sregs := t.sregs.set r.toNat x }
/-- A condition register (R13). -/
def Team.c (t : Team) (k : Bit3) : Bool := t.creg[k.toNat]
/-- A condition register written. -/
def Team.setC (t : Team) (k : Bit3) (b : Bool) : Team := { t with creg := t.creg.set k.toNat b }

/-! ### Register space of a lane (R98) -/

/-- A lane at team launch (R99, R102), with its rounding state (R129). -/
def Lane.launch (r : Nat) (sigma : Word32) : Lane :=
  { regs := List.replicate r 0, preds := 0x80, sigma := sigma, retired := false, bad := [], soft := [], badPreds := false,
    softPreds := false }

/-- The seeded rounding state (R129). -/
def seedSigma (seed : Word32) (lane : Nat) : Word32 :=
  let x := seed ^^^ BitVec.ofNat 32 lane
  if x = 0 then 0x2545F491 else x

/-- The object whose code runs: the handler's in handler mode, else the kernel's (R340). -/
def Team.code (t : Team) : Kernel := t.hkern.getD t.kern

/-- Lane `l` of a team. -/
def Team.lane (t : Team) (l : Nat) : Lane := nth (Lane.launch 0 0) t.lanes l
/-- Lane `l` changed. -/
def Team.setLane (t : Team) (l : Nat) (f : Lane → Lane) : Team := { t with lanes := setNth t.lanes l (f (t.lane l)) }

/-- A 32-bit register word. -/
def Lane.word (x : Lane) (i : Nat) : Nat := (nth 0 x.regs i).toNat

/-- A register word written with fresh check bits (R108). -/
def Lane.setWord (x : Lane) (i : Nat) (v : Nat) : Lane :=
  { x with regs := setNth x.regs i (BitVec.ofNat 32 v), bad := x.bad.filter (fun j => j != i),
           soft := x.soft.filter (fun j => j != i) }

/-- `n` words from word `i` on, as one number. -/
def Lane.words (x : Lane) : Nat → Nat → Nat
  | _, 0 => 0
  | i, n + 1 => x.word i + 2 ^ 32 * Lane.words x (i + 1) n

/-- A number written to `n` words from word `i` on. -/
def Lane.setWords (x : Lane) : Nat → Nat → Nat → Lane
  | _, 0, _ => x
  | i, n + 1, v => Lane.setWords (x.setWord i (v % 2 ^ 32)) (i + 1) n (v / 2 ^ 32)

/-- A predicate; p7 reads 1 (R102). -/
def Lane.pred (x : Lane) (p : Bit3) : Bool := p == 7 || x.preds.getLsbD p.toNat
/-- A predicate written; a write to p7 is dropped (R102). The seven predicates share a code (R108): a write of
one of them leaves an error of the code (DEDUCED, log entry 60). -/
def Lane.setPred (x : Lane) (p : Bit3) (b : Bool) : Lane :=
  if p = 7 then x else
    { x with preds := (x.preds &&& ~~~(BitVec.ofNat 8 (2 ^ p.toNat))) ||| (if b then BitVec.ofNat 8 (2 ^ p.toNat) else 0) }

/-- First word and number of words of a register operand (R98, R100). -/
def operandSpan (views : List Word32) : Operand → Option (Nat × Nat)
  | .v i => some (i.toNat, 1)
  | .w i => some (2 * i.toNat, 2)
  | .q i => some (4 * i.toNat, 4)
  | .m n j =>
    let d := nth 0 views n.toNat
    some ((viewBase d + j.toNat * viewBytes d) / 4, viewBytes d / 4)
  | _ => none

/-- The register words an operand names. -/
def operandWords (views : List Word32) (o : Operand) : List Nat :=
  match operandSpan views o with
  | some (i, n) => upTo i n
  | none => []

/-- An index within the register space (R98, R101). -/
def inSpace (views : List Word32) (r : Nat) (o : Operand) : Bool :=
  match o with
  | .m n j => fragOk views r n.toNat j.toNat
  | o => match operandSpan views o with
    | some (i, n) => decide (i + n ≤ r)
    | none => true

/-- A register operand written with a bit pattern (R98: the rest of the view is zero). -/
def Lane.write (x : Lane) (views : List Word32) (o : Operand) (v : Nat) : Lane :=
  match operandSpan views o with
  | some (i, n) => x.setWords i n v
  | none => x

/-! ### Operands of a lane word -/

/-- What the lanes of a word read beside their own registers: the team, the s values of R79, and GTC (R104). -/
structure LaneEnv where
  t : Team
  s : Reg → Word
  gtc : Nat

/-- The s value a lane word reads (R79): the value a VREDUCE or VVOTE of its path wrote, else the snapshot. -/
def pathS (b : Block) (p : Path) (r : Reg) : Word :=
  if r = 0 then 0
  else match FMap.get? p.swrites r.toNat with
    | some (_, x) => x
    | none => b.snap.s[r.toNat]

/-- A read-only value (R104). -/
def LaneEnv.special (e : LaneEnv) (x : Special) (l : Nat) : Nat :=
  match x with
  | .lane => l
  | .glane => l % e.t.kern.gwidth
  | .group => l / e.t.kern.gwidth
  | .col => l % 32
  | .pass => l / 32
  | .teamid => e.t.teamIndex.toNat
  | .gtclo => e.gtc % 2 ^ 32

/-- A number repeated in each element of `n` bits. -/
def repeatBits : Nat → Nat → Nat → Nat
  | 0, _, _ => 0
  | k + 1, n, x => x + 2 ^ n * repeatBits k n x

/-- The immediate of class 6 for a type (R105). -/
def immValue (t : LType) (i : BitVec 9) : Nat :=
  let x := i.toInt
  let fl (f : Fmt) : Nat := (f.round (.fin (decide (x < 0)) x.natAbs 0) false .rne false).1
  match t with
  | .i32 | .n32 | .b32 => (x % 2 ^ 32).toNat
  | .i64 | .n64 | .b64 => (x % 2 ^ 64).toNat
  | .i16x2 | .n16x2 => repeatBits 2 16 (x % 2 ^ 16).toNat
  | .i8x4 | .n8x4 => repeatBits 4 8 (x % 2 ^ 8).toNat
  | .f32 => fl fmtF32
  | .f16 => fl fmtF16
  | .bf16 => fl fmtBF16
  | .f16x2 => repeatBits 2 16 (fl fmtF16)
  | .bf16x2 => repeatBits 2 16 (fl fmtBF16)
  | _ => 0

/-- The value of an operand of a type in lane `l` (R98, R103 to R106). -/
def LaneEnv.val (e : LaneEnv) (t : LType) (o : Operand) (l : Nat) : Nat :=
  match o with
  | .s r => (e.s r).toNat % 2 ^ (if t.bits = 64 then 64 else 32)
  | .special x => e.special x l
  | .imm i => immValue t i
  | .none => 0
  | o => match operandSpan e.t.code.mview o with
    | some (i, n) => (e.t.lane l).words i n
    | none => 0

/-- A count operand (R143): bits [31:0]. -/
def LaneEnv.count (e : LaneEnv) (o : Operand) (l : Nat) : Nat := e.val .i32 o l

/-- The scale byte of R178. -/
def LaneEnv.scale (e : LaneEnv) (o : Operand) (l : Nat) : Nat := e.count o l % 256

/-- The guard of a lane (R112). -/
def Lane.guard (x : Lane) (g : Guard) : Bool := x.pred g.pred != g.neg

/-! ### What a lane word uses -/

/-- The head of a lane instruction (R111). -/
def laneHead : Instr → Option LaneHead
  | .vadd h _ | .vsub h _ | .vmul h _ | .vmulh h | .vmad h _ | .vmin h | .vmax h | .vabs h _ | .vneg h _ | .vand h | .vor h
  | .vxor h | .vnot h | .vshl h | .vshr h | .vsra h | .vrol h | .vclz h | .vpopc h | .vbfx h | .vbfi h | .vdot4 h _
  | .vcmp h _ | .vsel h _ | .plop h _ | .vmov h | .vshfl h _ | .vbcast h _ | .vreduce h _ | .vscan h _ | .vvote h _
  | .brx h _ | .skip h _ | .join h | .lend h | .yieldl h | .ltrap h _ | .vfadd h _ | .vfsub h _ | .vfmul h _ | .vfma h _
  | .vfmin h | .vfmax h | .vfdiv h _ | .vfsqrt h _ | .vfrcp h | .vfrsq h | .vfexp2 h | .vflog2 h | .vfsin h | .vfcos h
  | .vfclass h | .vfrnd h _ | .vfsgn h _ | .vfexpo h | .vcvt h _ | .vpack h _ | .vunpk h _ | .vld h _ | .vst h _
  | .vatom h _ | .vcas h _ | .vpref h _ | .fence h _ | .bar h _ | .fmma h | .fld h _ | .fst h _ => some h
  | .vli g t d _ => some ⟨g, t, d, .none, .none, .none⟩
  | .bra g _ d _ => some ⟨g, .i32, d, .none, .none, .none⟩
  | _ => none

/-- The operands a lane instruction reads in its own lane. VCAS reads its destination (R251). -/
def readOperands (i : Instr) : List Operand :=
  match laneHead i with
  | none => []
  | some h => (match i with | .vcas _ _ => [h.d] | _ => []) ++ [h.a, h.b, h.c]

/-- The operand a lane instruction writes. -/
def writeOperand (i : Instr) : Operand :=
  match laneHead i with
  | none => .none
  | some h => h.d

/-- The predicates a lane instruction reads, its guard's among them. -/
def readPreds (i : Instr) : List Bit3 :=
  match laneHead i with
  | none => []
  | some h => h.g.pred :: (match i with
    | .vsel _ x => [x.pa]
    | .plop _ x => [x.pa, x.pb]
    | .vvote _ x => [x.pa]
    | _ => [])

/-- The predicate a lane instruction writes. -/
def writePred : Instr → Option Bit3
  | .vcmp _ x => some x.pd
  | .plop _ x => some x.pd
  | _ => none

/-- Every register index of the word lies in the register space (R98, R101); the check of a load (R113), made again
where a word runs (log entry 23). -/
def indicesOk (views : List Word32) (r : Nat) (i : Instr) : Bool :=
  (writeOperand i :: readOperands i).all (fun o => inSpace views r o)

end Sys2Proof.Machine
end

