-- ==== Sys2Proof/Machine/Flags.lean ====
section
/-!
DEFINITION. The conditions of R39 and R151, and the flags of FSTAT as they are ORed in (R135) and read for TFENCE (R66).
-/

namespace Sys2Proof.Machine

/-- A condition on two numbers given both as signed and as natural (R39). -/
def condInt (k : Cond) (sa sb : Int) (na nb : Nat) : Bool :=
  match k with
  | .eq => na == nb
  | .ne => na != nb
  | .lt => decide (sa < sb)
  | .le => decide (sa ≤ sb)
  | .gt => decide (sb < sa)
  | .ge => decide (sb ≤ sa)
  | .ltn => decide (na < nb)
  | .len => decide (na ≤ nb)
  | .gtn => decide (nb < na)
  | .gen => decide (nb ≤ na)
  | .unord | .ord => false

/-- A condition of SCMP and SCMPI on 64-bit values (R39). -/
def condWord (k : Cond) (a b : Word) : Bool := condInt k a.toInt b.toInt a.toNat b.toNat

/-- A condition of VCMP on two floating values (R151). -/
def condFloat (k : Cond) (x y : FV) : Bool :=
  match x.cmp y with
  | none => k == .ne || k == .unord
  | some o =>
    match k with
    | .eq => o == 1
    | .ne => o != 1
    | .lt => o == 0
    | .le => o != 2
    | .gt => o == 2
    | .ge => o != 0
    | .ord => true
    | _ => false

/-- Flags ORed into FSTAT (R135). -/
def Team.orFlags (t : Team) (f : Flags5) : Team := { t with fstat := t.fstat ||| f }

/-- The test of TFENCE (R66). -/
def Team.arith (t : Team) : Bool := t.fstat &&& t.ftrapen != 0

end Sys2Proof.Machine
end

