-- ==== Sys2Proof/Machine/Paths.lean ====
section
/-!
DEFINITION. The path table of a team: passes and sweeps (R73 to R75), blocks (R78), paths and split records (R82 to
R85, R362, R364), the ready order (R87), barrier instances (R254) and the fetch of a lane word (R81).
-/

namespace Sys2Proof.Machine

/-! ### Paths -/

/-- A path that is running (R82). -/
def PathState.running : PathState → Bool
  | .current | .ready | .parked => true
  | _ => false

/-- A new path, READY, with nothing counted. -/
def Path.make (idx ip : Nat) (lanes : List Nat) : Path :=
  { idx := idx, ip := ip, lanes := lanes, packed := none, state := .ready, split := none, slice := 4096, wdog := 0,
    spinAt := none, spin := 0, still := true, skipLanes := [], skipLeft := 0, passDone := 0, park := none, swrites := [],
    resume := 0, byReply := false, replay := none, packAt := none, faults := [] }

/-- The passes of a path (R74, R75): one for each pass slot of its mask, or its packed passes. -/
def Path.passes (p : Path) : List (List Nat) :=
  match p.packed with
  | some ps => ps
  | none => ((upTo 0 32).map (fun k => p.lanes.filter (fun l => l / 32 == k))).filter (fun ls => !ls.isEmpty)

/-- Lanes taken out of a path; packed passes keep their places, and empty ones are dropped. -/
def Path.keep (p : Path) (f : Nat → Bool) : Path :=
  { p with
    lanes := p.lanes.filter f,
    packed := p.packed.map (fun ps => (ps.map (fun ls => ls.filter f)).filter (fun ls => !ls.isEmpty)) }

/-- The path with an index. -/
def Team.path? (t : Team) (i : Nat) : Option Path := t.paths.find? (fun p => p.idx == i)

/-- A path changed. -/
def Team.setPath (t : Team) (i : Nat) (f : Path → Path) : Team :=
  { t with paths := t.paths.map (fun p => if p.idx == i then f p else p) }

/-- A path put into the table, by index. -/
def insertPath (p : Path) : List Path → List Path
  | [] => [p]
  | q :: qs => if p.idx < q.idx then p :: q :: qs else q :: insertPath p qs

/-- The indices in use: those of the paths and records of the lane work, and of the user's while a handler runs. -/
def Team.usedIdx (t : Team) : List Nat :=
  t.paths.map Path.idx ++ t.recs.map SplitRec.idx
    ++ (match t.userWork with | some w => w.paths.map Path.idx ++ w.recs.map SplitRec.idx | none => [])

/-- The lowest number from `a` on that is not listed, within `fuel` tries. -/
def firstFree : Nat → Nat → List Nat → Nat
  | 0, a, _ => a
  | fuel + 1, a, xs => if xs.contains a then firstFree fuel (a + 1) xs else a

/-- The lowest free index of paths and split records (R362). -/
def Team.freeIdx (t : Team) : Nat := firstFree (t.usedIdx.length + 1) 0 t.usedIdx

/-- The current path. -/
def Team.current (t : Team) : Option Path := t.curPath.bind t.path?

/-- A path that becomes current starts a fresh turn (R87). A flag of the spin detector was for the path before. -/
def Team.makeCurrent (t : Team) (i : Nat) : Team :=
  { t.setPath i (fun p => { p with state := .current, slice := 4096, hold := 0 }) with
    curPath := some i, ready := t.ready.filter (fun j => j != i), flagged := false }

/-- Where the team has no current path, the head of the ready order becomes current (R87). -/
def Team.pickNext (t : Team) : Team :=
  match t.curPath with
  | some _ => t
  | none => match t.ready with
    | [] => t
    | i :: _ => t.makeCurrent i

/-- A path that leaves PARKED or is formed by a merge: the tail of the ready order, or current if there is none (R87). -/
def Team.enqueue (t : Team) (i : Nat) : Team :=
  match t.curPath with
  | none => if t.ready.isEmpty then t.makeCurrent i
            else { t.setPath i (fun p => { p with state := .ready }) with ready := t.ready ++ [i] }
  | some _ => { t.setPath i (fun p => { p with state := .ready }) with ready := t.ready ++ [i] }

/-- The current path goes to the tail of the ready order (R87): it stays current with a fresh turn where that is
empty. -/
def Team.toTail (t : Team) : Team :=
  match t.curPath with
  | none => t
  | some i =>
    if t.ready.isEmpty then t.makeCurrent i
    else
      let u : Team := t.setPath i (fun p => { p with state := .ready })
      Team.pickNext { u with curPath := none, ready := t.ready ++ [i], flagged := false }

/-- A path stops running in a state. -/
def Team.leave (t : Team) (i : Nat) (st : PathState) : Team :=
  { t.setPath i (fun p => { p with state := st }) with
    curPath := if t.curPath = some i then none else t.curPath, ready := t.ready.filter (fun j => j != i),
    flagged := t.flagged && t.curPath != some i }

/-- A path removed from the table. -/
def Team.dropPath (t : Team) (i : Nat) : Team :=
  { t with paths := t.paths.filter (fun p => p.idx != i), curPath := if t.curPath = some i then none else t.curPath,
           ready := t.ready.filter (fun j => j != i), flagged := t.flagged && t.curPath != some i }

/-- Writes of s registers by two sets of paths; the later write of each register remains (R79). -/
def mergeWrites (a b : FMap (Nat × Word)) : FMap (Nat × Word) :=
  b.foldl (fun acc x => match FMap.get? acc x.1 with
    | some y => if y.1 < x.2.1 then FMap.set acc x.1 x.2 else acc
    | none => FMap.set acc x.1 x.2) a

/-! ### Splits and records (R83, R84) -/

/-- The split records above a path or a record, innermost first; `fuel` bounds the chain. -/
def recChain (recs : List SplitRec) : Nat → Option Nat → List Nat
  | 0, _ => []
  | _, none => []
  | fuel + 1, some r =>
    match recs.find? (fun x => x.idx == r) with
    | none => []
    | some x => r :: recChain recs fuel x.parent

/-- The paths descended from a record. -/
def Team.descended (t : Team) (r : Nat) : List Path :=
  t.paths.filter (fun p => (recChain t.recs (t.recs.length + 1) p.split).contains r)

/-- Children of a split: each target's lanes, ascending (R83). -/
def splitTargets (targets : List (Nat × Nat)) : List (Nat × List Nat) :=
  (sortNat (targets.map Prod.snd)).map (fun ip => (ip, (targets.filter (fun x => x.2 == ip)).map Prod.fst))

/-- A child of a split. -/
def Path.child (p : Path) (idx ip : Nat) (lanes : List Nat) (r : Nat) : Path :=
  { p.keep (fun l => lanes.contains l) with
    idx := idx, ip := ip, split := some r, spinAt := none, spin := 0, still := true, passDone := 0, replay := none, faults := [],
    issue := 0, doneLanes := [], fl := 0 }

/-- The children after the first put at the tail of the ready order (R83). -/
def addChildren (p : Path) (r : Nat) : List (Nat × List Nat) → Team → Team
  | [], t => t
  | (ip, lanes) :: cs, t =>
    let i := t.freeIdx
    let q : Path := { p.child i ip lanes r with state := .ready, slice := 4096, hold := 0 }
    addChildren p r cs { t with paths := insertPath q t.paths, ready := t.ready ++ [i] }

/-- R83: the path `i`, with a target for each of its lanes. -/
def Team.split (t : Team) (i : Nat) (targets : List (Nat × Nat)) : Team :=
  match t.path? i, splitTargets targets with
  | some _, [] => t
  | some _, [(ip, _)] => t.setPath i (fun p => { p with ip := ip, passDone := 0 })
  | some p, (ip, lanes) :: cs =>
    let r := t.freeIdx
    let t := { t with recs := t.recs ++ [{ idx := r, parent := p.split, members := cs.length + 1 }] }
    addChildren p r cs (Team.setPath t i (fun p => p.child i ip lanes r))
  | none, _ => t

/-- The packed passes of a child (R85): within each parity class, pass j takes the j-th lane of every column. -/
def packClass (lanes : List Nat) : List (List Nat) :=
  let cols := (upTo 0 32).map (fun c => lanes.filter (fun l => l % 32 == c))
  ((upTo 0 32).map (fun j => cols.flatMap (fun ls => (ls.drop j).take 1))).filter (fun ls => !ls.isEmpty)

/-- The packed passes of a set of lanes; on a core pair the even slots first (R85). -/
def packPasses (pair : Bool) (lanes : List Nat) : List (List Nat) :=
  if pair then packClass (lanes.filter (fun l => l / 32 % 2 == 0)) ++ packClass (lanes.filter (fun l => l / 32 % 2 == 1))
  else packClass lanes

/-- A record's waiting members merged, one path for each JOIN address (R84). -/
def mergeAt (ip : Nat) (ps : List Path) (split : Option Nat) : Path :=
  let lanes := sortNat (ps.flatMap Path.lanes)
  { Path.make 0 ip lanes with split := split, swrites := ps.foldl (fun acc p => mergeWrites acc p.swrites) [] }

/-- Merged paths entered into the table. -/
def addMerged : List Path → Team → Team
  | [], t => t
  | p :: ps, t =>
    let i := t.freeIdx
    let t : Team := { t with paths := insertPath { p with idx := i } t.paths }
    addMerged ps (t.enqueue i)

/-- The members of a record: the paths and records that name it (R82, R365). -/
def Team.membersOf (t : Team) (r : Nat) : Nat :=
  (t.paths.filter (fun p => p.split == some r)).length + (t.recs.filter (fun x => x.parent == some r)).length

/-- R84 and R364 for a record none of whose members is running. A path that is held stays a member. -/
def Team.resolveRec (t : Team) (r : SplitRec) : Team :=
  let held := (t.descended r.idx).any (fun p => p.state == .held)
  let waiters := t.paths.filter (fun p => p.split == some r.idx && p.state == .waitJoin)
  let ips := sortNat (waiters.map Path.ip)
  if waiters.isEmpty then
    if held then t
    else
      { t with
        recs := (t.recs.filter (fun x => x.idx != r.idx)).map (fun x => if x.parent == some r.idx then { x with parent := r.parent } else x),
        paths := t.paths.map (fun p => if p.split == some r.idx then { p with split := r.parent } else p) }
  else
    let free := decide (ips.length = 1) && !held
    let split := if free then r.parent else some r.idx
    let t := { t with paths := t.paths.filter (fun p => !(waiters.any (fun q => q.idx == p.idx))) }
    let t :=
      if free then
        { t with
          recs := (t.recs.filter (fun x => x.idx != r.idx)).map (fun x => if x.parent == some r.idx then { x with parent := r.parent } else x),
          paths := t.paths.map (fun p => if p.split == some r.idx then { p with split := r.parent } else p) }
      else t
    let t := addMerged (ips.map (fun ip => mergeAt (ip + 1) (waiters.filter (fun p => p.ip == ip)) split)) t
    { t with recs := t.recs.map (fun x => if x.idx == r.idx then { x with members := t.membersOf r.idx } else x) }

/-- A record whose members are all at rest, and that a resolution would change. -/
def Team.restable (t : Team) (r : SplitRec) : Bool :=
  let ps := t.descended r.idx
  ps.all (fun p => !p.state.running)
    && (ps.any (fun p => p.split == some r.idx && p.state == .waitJoin) || !ps.any (fun p => p.state == .held))

/-- The next record to resolve: one none of whose inner records is to be resolved (R84). -/
def Team.nextRec (t : Team) : Option SplitRec :=
  let rs := t.recs.filter (fun r => t.restable r)
  rs.find? (fun r => !(rs.any (fun x => x.idx != r.idx && (recChain t.recs (t.recs.length + 1) x.parent).contains r.idx)))

/-- Records resolved until none is left to resolve. -/
def Team.resolveRecs : Nat → Team → Team
  | 0, t => t
  | fuel + 1, t =>
    match t.nextRec with
    | none => t
    | some r => Team.resolveRecs fuel (t.resolveRec r)

/-! ### Barriers (R254) -/

/-- The lanes of a barrier instance: the block's lanes of the group, or all, that are not retired. -/
def Team.instance_ (t : Team) (g : Option Nat) : List Nat :=
  match t.block with
  | none => []
  | some b => b.lanes.filter (fun l => !(t.lane l).retired && (match g with | none => true | some k => l / t.kern.gwidth == k))

/-- A lane that has arrived at a BAR and is not released. -/
def Path.barLane (p : Path) (l : Nat) : Bool :=
  match p.park with
  | some (.bar _ ls) => p.state == .parked && ls.contains l
  | _ => false

/-- A lane that is accounted for (R254). -/
def Team.accounted (t : Team) (l : Nat) : Bool :=
  t.paths.any (fun p => p.barLane l
    || (p.lanes.contains l && (p.state == .waitJoin || p.state == .waitPack || p.state == .waitLend)))

/-- An instance is complete. -/
def Team.barDone (t : Team) (g : Option Nat) : Bool := (t.instance_ g).all t.accounted

/-- Lanes of a kind released from a parked path. -/
def Path.release (p : Path) (k : BarKind) (ls : List Nat) : Path :=
  match p.park with
  | some (.bar k' ws) => if k' = k ∧ p.state = .parked then { p with park := some (.bar k' (ws.filter (fun l => !ls.contains l))) } else p
  | _ => p

/-- A path none of whose lanes waits at its BAR any more. -/
def Path.barFree (p : Path) : Bool :=
  match p.park with
  | some (.bar _ []) => p.state == .parked
  | _ => false

/-- The lanes each complete instance releases: kind and lanes. -/
def Team.releases (t : Team) : List (BarKind × List Nat) :=
  let waits (k : BarKind) (ls : List Nat) := t.paths.any (fun p => match p.park with
    | some (.bar k' ws) => k' == k && p.state == .parked && ws.any (fun l => ls.contains l)
    | _ => false)
  let groups := upTo 0 (t.kern.lanesN / max 1 t.kern.gwidth)
  ((groups.filter (fun g => t.barDone (some g) && waits .group (t.instance_ (some g)))).map (fun g => (BarKind.group, t.instance_ (some g))))
    ++ (if t.barDone none && waits .team (t.instance_ none) then [(BarKind.team, t.instance_ none)] else [])

/-- Paths that leave PARKED put into the ready order. -/
def wakeAll : List Nat → Team → Team
  | [], t => t
  | i :: is, t => wakeAll is ((t.setPath i (fun p => { p with park := none, ip := p.ip + 1 })).enqueue i)

/-- R254: complete instances release their lanes. -/
def Team.releaseBars (t : Team) : Team :=
  match t.releases with
  | [] => t
  | rs =>
    let t := { t with paths := t.paths.map (fun p => rs.foldl (fun p r => p.release r.1 r.2) p) }
    wakeAll ((t.paths.filter Path.barFree).map Path.idx) t

/-! ### Blocks (R78) -/

/-- The block takes up the lane stream: one path with every lane that is not retired, or the handler lanes (R340),
and the rounding states seeded where the snapshot says so (R129). -/
def Team.startBlock (t : Team) (b : Block) : Team :=
  let lanes := b.lanes.filter (fun l => !(t.lane l).retired)
  let t := match b.snap.seed with
    | none => t
    | some seed => { t with lanes := (t.lanes.zip (upTo 0 t.lanes.length)).map (fun (x : Lane × Nat) => { x.1 with sigma := seedSigma seed x.2 }) }
  let t := { t with block := some { b with lanes := lanes } }
  if lanes.isEmpty then t
  else Team.pickNext { t with paths := insertPath (Path.make t.freeIdx b.entry lanes) t.paths, ready := t.ready ++ [t.freeIdx] }

/-- The block is complete: every path waits at an LEND or has been retired (R78). -/
def Team.blockDone (t : Team) : Bool := t.block.isSome && t.paths.all (fun p => p.state == .waitLend)

/-- A complete block removed with its paths and its pending marks, and the next one started (R78, R48). -/
def Team.nextBlock : Nat → Team → Team
  | 0, t => t
  | fuel + 1, t =>
    if t.block.isNone || t.blockDone then
      let t := if t.block.isSome then { t with block := none, paths := [], recs := [], ready := [], curPath := none } else t
      match t.queue with
      | [] => t
      | b :: bs => Team.nextBlock fuel (Team.startBlock { t with queue := bs } b)
    else t

/-- An s register is pending (R48). -/
def Team.pending (t : Team) (r : Reg) : Bool :=
  (match t.block with | some b => b.pend.getLsbD r.toNat | none => false) || t.queue.any (fun b => b.pend.getLsbD r.toNat)

/-- Some register is pending. -/
def Team.anyPending (t : Team) : Bool :=
  (match t.block with | some b => b.pend != 0 | none => false) || t.queue.any (fun b => b.pend != 0)

/-- No block is queued or runs (R60). -/
def Team.lanesIdle (t : Team) : Bool := t.queue.isEmpty && t.block.isNone

/-! ### Lane fetch (R81) -/

/-- A lane word of the code that runs, or the code of its fault. -/
def State.fetchLane (s : State) (ip : Nat) : Except Nat (BitVec 96) :=
  if s.cur.code.lcount ≤ ip then .error codeIllegal
  else
    let a := s.cur.code.lbase.toNat + 12 * ip
    match s.fetchWord a, s.fetchWord (a + 4), s.fetchWord (a + 8) with
    | .ok x, .ok y, .ok z => .ok (z ++ y ++ x)
    | .error c, _, _ => .error c
    | _, .error c, _ => .error c
    | _, _, .error c => .error c

/-- What the lanes of a path read (R79, R104). -/
def State.env (s : State) (b : Block) (p : Path) : LaneEnv := { t := s.cur, s := pathS b p, gtc := s.gtc }

/-- The target of each lane of a branch (R162): lane and instruction index; `act` says which lanes are active. -/
def branchTargets (e : LaneEnv) (i : Instr) (p : Path) (act : Nat → Bool) : List (Nat × Nat) :=
  let tgt (l : Nat) : Nat := match i with
    | .bra _ x _ _ => x.toNat
    | .brx h _ => e.count h.a l
    | _ => p.ip + 1
  p.lanes.map (fun l => (l, if act l then tgt l else p.ip + 1))

/-- The guard of a branch word. -/
def branchGuard (e : LaneEnv) (i : Instr) (l : Nat) : Bool :=
  match laneHead i with
  | some h => (e.t.lane l).guard h.g
  | none => false

/-- Every path of the block waits at one .PACK address, at an LEND, or is retired (R85): that address. -/
def Team.packReady (t : Team) : Option Nat :=
  match t.paths.find? (fun p => p.state == .waitPack) with
  | none => none
  | some q =>
    if t.paths.all (fun p => p.state == .waitLend || (p.state == .waitPack && p.packAt == q.packAt)) then q.packAt
    else none

/-- R85: the paths at the .PACK merge, the split records go, and the branch is taken with packed children. The merged path
starts a fresh turn, and its taking of the branch issues no pass: the spec does not say whether it does (DESIGN CHOICE, log
entry 115). -/
def State.resolvePack (s : State) (ip : Nat) : State :=
  let t := s.cur
  let ps := t.paths.filter (fun p => p.state == .waitPack)
  let t : Team := { t with
    paths := (t.paths.filter (fun p => p.state != .waitPack)).map (fun (p : Path) => { p with split := none }), recs := [] }
  let i := t.freeIdx
  let m : Path := { mergeAt ip ps none with idx := i, state := .current }
  let t : Team := { t with paths := insertPath m t.paths, curPath := some i, ready := t.ready.filter (fun j => j != i) }
  match t.block, s.fetchLane ip with
  | some b, .ok w =>
    (match decodeLane w with
     | .ok ins =>
       let e := { s with cur := t }.env b m
       let t := t.split i (branchTargets e ins m (branchGuard e ins))
       { s with cur := { t with paths := t.paths.map (fun (p : Path) =>
         if p.state == .waitLend then p else { p with packed := some (packPasses t.pair p.lanes) }) } }
     | .error _ => { s with cur := t })
  | _, _ => { s with cur := t }

/-- The accesses of the block that runs, its retired lanes' among them, and the writes its lanes saw early are performed:
its end may be seen (R227). -/
def State.blockQuiet (s : State) : Bool :=
  match s.cur.block with
  | none => true
  | some b =>
    !s.reqs.any (fun r => r.uid == s.cur.uid && r.block == b.seq && !r.ordered s.ownPkg && r.accs.any (fun a => a.kind != 3))
      && !s.cur.seen.any (fun x => s.reqs.any (fun r => r.tag == x.2 && !r.ordered s.ownPkg))

/-- Complete blocks go and the next one starts (R78), once what R227 orders before it is performed. Where a block starts or
ends on a core pair, both cores' L1 lines go (R227, R231). -/
def State.turnBlocks (s : State) : State :=
  if s.blockQuiet then
    let t := s.cur.nextBlock (s.cur.queue.length + 2)
    let moved := t.block.map Block.seq != s.cur.block.map Block.seq
    let s := { s with cur := t }
    if moved && t.pair then s.discardCores else s
  else s

/-- What follows a change of the path table: a .PACK that is ready (R85), records at rest (R84), complete barriers
(R254), the next current path (R87), and a complete block (R78). A team on a core pair discards its L1 lines at a
barrier (R255). -/
def State.settle (s : State) : State :=
  let s := match s.cur.packReady with
    | some ip => s.resolvePack ip
    | none => s
  let t := s.cur.resolveRecs (s.cur.recs.length + s.cur.paths.length + 1)
  let bars := !t.releases.isEmpty
  let s := State.turnBlocks { s with cur := t.releaseBars.pickNext }
  if bars && s.cur.pair then s.discardCores else s

end Sys2Proof.Machine
end

