-- ==== Sys2Proof/Machine/Ops.lean ====
section
/-!
DEFINITION. The operations the meanings share: completing a scalar instruction (R47, R28), raising a trap or lane
faults (R34, R81, R333 to R337, R341), ending a team (R55, R266, R344), entering a handler and returning from it
(R338, R342), fault events (R345) and accounting (R443).
-/

namespace Sys2Proof.Machine

/-! ### Completing a scalar instruction -/

/-- An address with bits [1:0] zero, as SPC always has them (R13). -/
def wordAlign (a : Word) : Word := a &&& ~~~3#64

/-- R28 from the given levels on, for an instruction at address `a`. -/
def endLevels (a : Word) : List (BitVec 2) → Team → Team
  | [], t => t
  | k :: ks, t =>
    if t.armed.getLsbD k.toNat && t.le[k.toNat] == a then
      if t.lc[k.toNat].toNat ≤ 1 then
        endLevels a ks { t with lc := t.lc.set k.toNat 0, armed := t.armed &&& ~~~(1#4 <<< k.toNat) }
      else { t with lc := t.lc.set k.toNat (t.lc[k.toNat] - 1), spc := wordAlign t.ls[k.toNat] }
    else endLevels a ks t

/-- The end check of R28 after the instruction at address `a`, `next_spc` standing in SPC. -/
def Team.endCheck (t : Team) (a : Word) : Team := endLevels a [3, 2, 1, 0] t

/-- An instruction of `len` words that transfers no control completes (R47, R28, R31). -/
def Team.advance (t : Team) (len : Nat) : Team :=
  Team.endCheck { t with spc := t.spc + BitVec.ofNat 64 (4 * len) } (t.spc + BitVec.ofNat 64 (4 * (len - 1)))

/-- The focused team's instruction of `len` words completes. -/
def State.advance (s : State) (len : Nat) : State := { s with cur := s.cur.advance len }

/-- An instruction of `len` words that writes one s register completes. -/
def State.result (s : State) (len : Nat) (d : Reg) (x : Word) : State := { s with cur := (s.cur.setS d x).advance len }

/-- An instruction of `len` words that writes one condition register completes. -/
def State.resultC (s : State) (len : Nat) (k : Bit3) (b : Bool) : State := { s with cur := (s.cur.setC k b).advance len }

/-- R48: a scalar instruction waits while a register it reads or writes is pending. -/
def State.whenReady (s : State) (regs : List Reg) (f : State → State) : State := if regs.any s.cur.pending then s else f s

/-! ### Accounting (R443) -/

/-- `n` added to a counter of a context in a sett; it saturates and sets SAT. -/
def Accounting.add (a : Accounting) (cls n : Nat) : Accounting :=
  let x := FMap.getD a.counts cls 0 + n
  if n = 0 then a
  else if 2 ^ 64 ≤ x then { counts := FMap.set a.counts cls (2 ^ 64 - 1), sat := insertNat cls a.sat }
  else { a with counts := FMap.set a.counts cls x }

/-- A count taken for a context in a sett. -/
def State.count (s : State) (ctx sett cls n : Nat) : State :=
  s.setCtx ctx (fun c => { c with acct := FMap.set c.acct sett ((FMap.getD c.acct sett { counts := [], sat := [] }).add cls n) })

/-- A count taken for the focused team. -/
def State.countCur (s : State) (cls n : Nat) : State := if n = 0 then s else s.count s.cur.ctx s.cur.sett cls n

/-! ### Stops (R352) -/

/-- The context of a team is halted by a stop request (R352). -/
def State.halted (s : State) (ctx : Nat) : Bool :=
  match s.ctx? ctx with
  | some c => c.cut || (match c.stopAt with | some t => decide (t ≤ s.gtc) | none => false)
  | none => false

/-! ### Fault records and slots (R34, R81, R333, R334) -/

/-- A fault that is no data access. -/
def FaultInfo.plain (code : Nat) (addr : Word) : FaultInfo :=
  { code := code, op := 0, addr := addr, opnd := [], exp := [], width := 0, kind := 3 }

/-- A list of bytes cut or filled with zeros to `n` bytes. -/
def padBytes (n : Nat) (bs : List Byte) : List Byte := bs.take n ++ List.replicate (n - bs.length) 0

/-- The scalar trap record (R34). -/
def scalarRecord (t : Team) (f : FaultInfo) : List Byte :=
  bytesOf 1 f.code ++ bytesOf 1 1 ++ bytesOf 2 f.op ++ bytesOf 4 (t.spc - t.code.sbase).toNat ++ bytesOf 8 f.addr.toNat

/-- The lane fault record (R81). -/
def laneRecord (f : FaultInfo) (path ip : Nat) : List Byte :=
  bytesOf 1 f.code ++ bytesOf 1 2 ++ bytesOf 2 path ++ bytesOf 4 (12 * ip) ++ bytesOf 8 f.addr.toNat

/-- The 64 bytes of a slot (R334). -/
def slotBytes (f : FaultInfo) (record : List Byte) (disp : Nat) : List Byte :=
  record ++ padBytes 16 f.opnd ++ padBytes 8 f.exp ++ List.replicate 16 0 ++ bytesOf 1 f.width ++ bytesOf 1 f.kind
    ++ bytesOf 1 disp ++ List.replicate 5 0

/-- A slot of the focused team's handler area written (R333). -/
def State.writeSlot (s : State) (i : Nat) (bs : List Byte) : State :=
  s.devWrite s.cur.ctx (s.cur.area.toNat + 64 * i) bs

/-- Bytes of a slot at HREC, as TRET reads them (R339, R342); zeros where they cannot be read. -/
def State.slotAt (s : State) (i off n : Nat) : Nat :=
  match s.devNat s.cur.ctx (s.cur.hrec.toNat + 64 * i + off) n with
  | .ok x => x
  | .error _ => 0

/-- A byte of a slot at HREC written by TRET. -/
def State.setSlotByte (s : State) (i off x : Nat) : State :=
  s.devWrite s.cur.ctx (s.cur.hrec.toNat + 64 * i + off) (bytesOf 1 x)

/-! ### Fault events (R345) -/

/-- An event joins its context's order of entries. -/
def State.event (s : State) (ctx : Nat) (e : Event) : State := s.setCtx ctx (fun c => { c with events := c.events ++ [e] })

/-- An event of the focused team; ADDR is HREC for the team kinds. -/
def State.teamEvent (s : State) (kind code count : Nat) (addr : Word) : State :=
  let t := s.cur
  s.event t.ctx { kind := kind, code := code, count := count, team := t.teamIndex.toNat, grid := t.gridId, addr := addr,
                  slot := t.ctxSlot, gen := t.gen.toNat, uid := t.uid }

/-- An event of a context that concerns no team (R345). -/
def State.ctxEvent (s : State) (ctx kind code : Nat) (grid addr : Word) : State :=
  s.event ctx { kind := kind, code := code, count := 0, team := 0, grid := grid, addr := addr, slot := 0, gen := 0, uid := 0 }

/-! ### The end of a team (R55, R69, R204, R266, R344) -/

/-- The pages of a team written back and its frames freed, lent ones too. -/
def State.freeFrames (s : State) (uid : Nat) : State :=
  (s.frames.filter (fun x => match x.2.owner with | some (u, _) => u == uid | none => false)).foldl
    (fun s x => s.evict x.1) s

/-- What a gang's cluster-memory allocation is listed under. -/
def Team.gangKey (t : Team) : Nat := t.gridId.toNat * 2 ^ 32 + t.gangId.toNat

/-- The cluster memory of the focused team's gang is freed once none of its teams runs or has an operation that has fired and is
not complete (R204, R266). -/
def State.freeGang (s : State) : State :=
  let t := s.cur
  let live (u : Team) : Bool := u.gridId == t.gridId && u.gangId == t.gangId && (u.status == .running || !u.fired.isEmpty)
  if s.teams.any live then s
  else s.setSett t.sett (fun x => { x with calloc := x.calloc.filter (fun a => a.2.2.2 != t.gangKey) })

/-- The focused team ends with a status (R55, R344): what is left of its reservation returns to ENACC, its commands
that have not fired are discarded, it leaves its span, and its frames are freed once no operation of it runs. The
last team of a gang frees the gang's cluster memory. -/
def State.endTeam (s : State) (st : Status) : State :=
  let t := s.cur
  let s := s.setCtx t.ctx (fun c => { c with
    accounts := FMap.modify c.accounts t.sett (fun a => { a with balance := a.balance + t.reserve }), endedAt := s.gtc })
  let s := s.setGrid t.gridId.toNat (fun g => { g with ended := g.ended + 1, faulted := g.faulted || st == .faulted })
  let s := s.setSett t.sett (fun x => { x with clusterIdle := FMap.set x.clusterIdle (clusterOf t.core) s.gtc })
  let rounds := t.fired.any (fun f => match f.cmd.op with | .spanMma _ _ _ _ _ => true | _ => false)
  let s := s.setCur (fun t => { t with
    status := st, reserve := 0, mvq := [], mxq := [], wait := none, span := if rounds then t.span else none })
  let s := (s.dropFar (.code t.uid)).dropFar (.faults t.uid)
  let s := s.freeGang
  if t.fired.isEmpty then s.freeFrames t.uid else s

/-- The focused team stops FAULTED (R344), with its TEAM_STOPPED event (R345). -/
def State.stopTeam (s : State) (code count : Nat) : State :=
  (s.endTeam .faulted).teamEvent 1 code count s.cur.area

/-! ### The handler table (R335, R336) -/

/-- How a fault of a code resolves. -/
inductive Resolution where
  /-- A handler runs. -/
  | handler (k : Kernel)
  /-- No handler: ACTION 0 FAULTMODE, 1 RETIRE, 2 STOP. -/
  | action (a : Nat)
  deriving DecidableEq, Repr

/-- The entry of the handler table for a code, for the focused team (R335), or what is still to be read from another package
(`isAwait`). -/
def State.lookup (s : State) (code : Nat) : Except Nat Resolution :=
  match s.curCtx.bind Context.handlers with
  | none => .ok (.action 0)
  | some table =>
    match s.anyNat (.faults s.cur.uid) s.cur.ctx .load (table.toNat + 16 * code) 16 with
    | .error c => if isAwait c then .error c else .ok (.action 2)
    | .ok e =>
      let kobj := e % 2 ^ 64
      let act := e / 2 ^ 64
      if 3 ≤ act then .ok (.action 2)
      else if kobj = 0 then .ok (.action act)
      else if kobj % 4096 ≠ 0 then .ok (.action 2)
      else match s.loadObject (.faults s.cur.uid) s.cur.ctx kobj with
        | .error c => if isAwait c then .error c else .ok (.action 2)
        | .ok k => .ok (if k.gwidth = s.cur.kern.gwidth ∧ k.regsN ≤ s.cur.kern.regsN then .handler k else .action 2)

/-- How a fault of a code resolves, once all of it is read. -/
def State.resolution (s : State) (code : Nat) : Resolution :=
  match s.lookup code with
  | .ok r => r
  | .error _ => .action 2

/-- What is still to be read from another package before faults of some codes can be taken. -/
def State.unread (s : State) (codes : List Nat) : Option Nat :=
  codes.findSome? (fun c => match s.lookup c with
    | .error n => some n
    | .ok _ => none)

/-- The faults are taken: what was read for them is not needed any more. -/
def State.faultsRead (s : State) : State := (s.dropFar (.faults s.cur.uid)).dropRefused

/-! ### Taking an exception -/

/-- A scalar trap (R33, R34): the instruction has no effect, the record goes into its slot, and a handler is queued,
or the team stops. A trap within a handler stops the team and is recorded in slot L + 1 (R341). After a stop's cut the
instruction is left to be reissued at restore (R353, R354). While the handler's entry is still to be read from another
package the instruction stands where it is (log entry 22). -/
def State.takeTrap (s : State) (f : FaultInfo) : State :=
  if s.halted s.cur.ctx then { s with cur := { s.cur with sent := [], replies := [] } } else
  match (if s.cur.inv.isSome then none else s.unread [f.code]) with
  | some c => s.askFar (.faults s.cur.uid) c
  | none =>
  let how := s.resolution f.code
  let s := s.faultsRead
  let record := scalarRecord s.cur f
  let s := { s with cur := { s.cur with record := record } }
  if s.cur.inv.isSome then (s.writeSlot (s.cur.kern.lanesN + 1) (slotBytes f record 4)).stopTeam f.code 0
  else
    match how with
    | .handler k =>
      let s := s.writeSlot 0 (slotBytes f record 0)
      s.setCur (fun t => { t with hqueue := t.hqueue ++ [{ scalar := true, group := 0, code := f.code, paths := [], lanes := [],
                                                            addr := f.addr, kern := k }] })
    | .action _ => (s.writeSlot 0 (slotBytes f record 4)).stopTeam f.code 0

/-- A scalar trap that is no data access. -/
def State.trap (s : State) (code : Nat) (addr : Word) : State := s.takeTrap (.plain code addr)

/-- ILLEGAL (R32). -/
def State.illegal (s : State) : State := s.trap codeIllegal 0

/-- PRIV in user mode, else the effect (R10, R42). -/
def State.supervisorOnly (s : State) (f : State → State) : State :=
  if s.cur.mode = .user then s.trap codePriv 0 else f s

/-- A transfer of control whose target is checked first (R53); `reg` marks a register target. -/
def State.jump (s : State) (target : Word) (reg : Bool) (f : Team → Team) : State :=
  match s.fetchCheck target.toNat reg with
  | some c => if isAwait c then s.askFar (.code s.cur.uid) c else s.trap c target
  | none => { s with cur := { f s.cur with spc := wordAlign target } }

/-! ### Lane faults (R81, R333 to R337, R341, R345) -/

/-- A fault of a lane: the index of its instruction, where the lane resumes, and whether a reply carried it. -/
structure LaneFault where
  lane : Nat
  info : FaultInfo
  ip : Nat
  resume : Nat
  byReply : Bool
  deriving DecidableEq, Repr

/-- The path that holds a lane and can run it. -/
def Team.holder (t : Team) (l : Nat) : Option Path := t.paths.find? (fun p => p.lanes.contains l && p.state != .held)

/-- Member counts of the split records, as paths and records name them (R82, R337, R342). -/
def Team.recount (t : Team) : Team :=
  { t with recs := t.recs.map (fun r => { r with members := t.membersOf r.idx }) }

/-- Lanes that leave leave a park, the count of passes issued and the faults found so far. -/
def Path.without (p : Path) (ls : List Nat) : Path :=
  let q : Path := p.keep (fun l => !ls.contains l)
  { q with
    park := match p.park with
      | some (.bar k ws) => some (.bar k (ws.filter (fun l => !ls.contains l)))
      | some (.dark ws) => some (.dark (ws.filter (fun l => !ls.contains l)))
      | x => x,
    passDone := ((p.passes.take p.passDone).filter (fun g => g.any (fun l => !ls.contains l))).length,
    faults := p.faults.filter (fun f => !ls.contains f.1), doneLanes := p.doneLanes.filter (fun l => !ls.contains l) }

/-- Lanes taken out of the paths that hold them; a path left with no lane is removed. -/
def Team.takeLanes (t : Team) (ls : List Nat) : Team :=
  let out := t.paths.map (fun (p : Path) => if p.state == .held then p else p.without ls)
  let gone := (out.filter (fun p => p.lanes.isEmpty)).map Path.idx
  gone.foldl Team.dropPath { t with paths := out }

/-- Lanes retired (R81). -/
def Team.retire (t : Team) (ls : List Nat) : Team :=
  Team.recount (ls.foldl (fun t l => t.setLane l (fun x => { x with retired := true })) (t.takeLanes ls))

/-- The faulting lanes of one path held (R337): the new state and the index of the held path. -/
def Team.hold (t : Team) (y : Path) (ls : List Nat) (f : LaneFault) : Team × Nat :=
  let t := t.takeLanes ls
  let tr : Team × Nat := match y.split with
    | some r => (t, r)
    | none =>
      let r := t.freeIdx
      let u : Team := t.setPath y.idx (fun p => { p with split := some r })
      ({ u with recs := u.recs ++ [{ idx := r, parent := none, members := 2 }] }, r)
  let (t, r) := tr
  let i := t.freeIdx
  let h : Path := { y.keep (fun l => ls.contains l) with
    idx := i, ip := f.ip, state := .held, split := some r, resume := f.resume, byReply := f.byReply, passDone := 0, park := none,
    replay := none, packAt := none, faults := [], issue := 0, doneLanes := [], fl := 0 }
  (Team.recount { t with paths := insertPath h t.paths }, i)

/-- Faults at one instruction with one resume place, put together. -/
def faultPlaces : List LaneFault → List (List LaneFault)
  | [] => []
  | f :: fs =>
    match faultPlaces fs with
    | gs => if gs.any (fun g => g.any (fun x => x.ip == f.ip && x.resume == f.resume && x.byReply == f.byReply)) then
        gs.map (fun g => if g.any (fun x => x.ip == f.ip && x.resume == f.resume && x.byReply == f.byReply) then f :: g else g)
      else [f] :: gs

/-- Held paths made of lanes of one path, one for each instruction at fault (R337). -/
def holdPlaces (y : Path) : List (List LaneFault) → Team → List Nat → Team × List Nat
  | [], t, is => (t, is)
  | [] :: gs, t, is => holdPlaces y gs t is
  | (f :: fs) :: gs, t, is =>
    let (t, i) := t.hold ((t.path? y.idx).getD y) ((f :: fs).map LaneFault.lane) f
    holdPlaces y gs t (is ++ [i])

/-- Held paths made for the faults of each path in turn; the answer lists their indices. -/
def holdAll : List Path → List LaneFault → Team → Team × List Nat
  | [], _, t => (t, [])
  | y :: ys, fs, t =>
    let (t, is) := holdPlaces y (faultPlaces (fs.filter (fun f => y.lanes.contains f.lane))) t []
    let (t, js) := holdAll ys fs t
    (t, is ++ js)

/-- One invocation for each pair of group and code among held lanes (R337). -/
def invocations (t : Team) (held : List Nat) (fs : List LaneFault) (kern : Nat → Kernel) : List Invocation :=
  let group (f : LaneFault) : Nat := f.lane / t.kern.gwidth
  (sortNat (fs.map group)).flatMap (fun g =>
    (sortNat ((fs.filter (fun f => group f == g)).map (fun f => f.info.code))).map (fun c =>
      let mine := fs.filter (fun f => group f == g && f.info.code == c)
      { scalar := false, group := g, code := c,
        paths := held.filter (fun i => match t.path? i with | some p => mine.any (fun f => p.lanes.contains f.lane) | none => false),
        lanes := mine.map LaneFault.lane, addr := match mine with | f :: _ => f.info.addr | [] => 0, kern := kern c }))

/-- The fault records of lanes written to their slots with a disposition (R333). -/
def writeLaneSlots (disp : LaneFault → Nat) : List LaneFault → State → State
  | [], s => s
  | f :: fs, s =>
    let path := match s.cur.holder f.lane with | some p => p.idx | none => 0
    writeLaneSlots disp fs (s.writeSlot (f.lane + 1) (slotBytes f.info (laneRecord f.info path f.ip) (disp f)))

/-- The context of the focused team has a fault event queue (R345). -/
def State.hasEventq (s : State) : Bool := match s.curCtx with | some c => c.eventq.isSome | none => false

/-- LANES_RETIRED events, one for each code, ascending; the team then waits for their places (R345), where its context
has a queue. -/
def retiredEvents (lanes : List (Nat × Nat)) : List Nat → State → State
  | [], s => s
  | c :: cs, s =>
    let s := s.teamEvent 2 c (lanes.filter (fun x => x.2 == c)).length s.cur.area
    retiredEvents lanes cs { s with cur := { s.cur with evWait := s.hasEventq } }

/-- Lanes retired for their faults, as pairs of lane and code, with their events. -/
def State.retireLanes (s : State) (lanes : List (Nat × Nat)) : State :=
  retiredEvents lanes (sortNat (lanes.map Prod.snd)) { s with cur := s.cur.retire (lanes.map Prod.fst) }

/-- How the code of a lane fault resolves: 0 held for a handler, 1 retired, 2 stops the team (R336). -/
def laneOutcome (t : Team) : Resolution → Nat
  | .handler _ => 0
  | .action 0 => if t.kern.faultCont then 1 else 2
  | .action 1 => 1
  | .action _ => 2

/-- Faults in rising order of lanes. -/
def sortFaults (fs : List LaneFault) : List LaneFault :=
  (sortNat (fs.map LaneFault.lane)).flatMap (fun l => fs.filter (fun f => f.lane == l))

/-- The lane faults that become known at one instruction boundary (R337), in rising order of lanes. `inHandler` says
that a handler's block raised them (R341). After a stop's cut the lanes are held with a pending fault (R353), and so they
are while a handler's entry is still to be read from another package (log entry 22). -/
def State.laneFaults (s : State) (inHandler : Bool) (fs : List LaneFault) : State :=
  match sortFaults fs with
  | [] => s
  | f :: rest =>
    let fs := f :: rest
    if inHandler then
      let path := match s.cur.holder f.lane with | some p => p.idx | none => 0
      (s.writeSlot (s.cur.kern.lanesN + 1) (slotBytes f.info (laneRecord f.info path f.ip) 4)).stopTeam f.info.code fs.length
    else if s.halted s.cur.ctx || (s.unread (fs.map (fun f => f.info.code))).isSome then
      let s := match s.unread (fs.map (fun f => f.info.code)) with | some c => s.askFar (.faults s.cur.uid) c | none => s
      let s := writeLaneSlots (fun _ => 0) fs s
      let (t, _) := holdAll (s.cur.paths.filter (fun p => p.state != .held)) fs s.cur
      { s with cur := { t with pendf := sortNat (t.pendf ++ fs.map LaneFault.lane) } }
    else
      let known := (sortNat (fs.map (fun f => f.info.code))).map (fun c => (c, s.resolution c))
      let res (c : Nat) : Resolution := (known.find? (fun x => x.1 == c)).elim (.action 2) Prod.snd
      let how (f : LaneFault) : Nat := laneOutcome s.cur (res f.info.code)
      let s := s.faultsRead
      match fs.find? (fun f => how f == 2) with
      | some g => (writeLaneSlots (fun _ => 4) fs s).stopTeam g.info.code fs.length
      | none =>
        let s := writeLaneSlots (fun f => if how f = 1 then 2 else 0) fs s
        let out := fs.filter (fun f => how f == 1)
        let kept := fs.filter (fun f => how f == 0)
        let s := if out.isEmpty then s else s.retireLanes (out.map (fun f => (f.lane, f.info.code)))
        let (t, held) := holdAll (s.cur.paths.filter (fun p => p.state != .held)) kept s.cur
        let invs := invocations t held kept (fun c => match res c with | .handler k => k | .action _ => Kernel.none)
        { s with cur := { t with hqueue := t.hqueue ++ invs } }

/-! ### Entering a handler (R338) -/

/-- The user's lane work put aside; a path that the spin detector has flagged goes to the tail before (R87). -/
def Team.parkWork (t : Team) : Team :=
  let t := if t.flagged then { t.toTail with flagged := false } else t
  { t with
    userWork := some { queue := t.queue, block := t.block, paths := t.paths, recs := t.recs, ready := t.ready, curPath := t.curPath },
    queue := [], block := none, paths := [], recs := [], ready := [], curPath := none }

/-- The lane work that runs changed places with the user's that stands aside. -/
def Team.swapWork (t : Team) : Team :=
  match t.userWork with
  | none => t
  | some w => { t with
      userWork := some { queue := t.queue, block := t.block, paths := t.paths, recs := t.recs, ready := t.ready, curPath := t.curPath },
      queue := w.queue, block := w.block, paths := w.paths, recs := w.recs, ready := w.ready, curPath := w.curPath }

/-- The user's lane work taken up again. -/
def Team.unparkWork (t : Team) : Team :=
  match t.userWork with
  | none => t
  | some w => { t with userWork := none, queue := w.queue, block := w.block, paths := w.paths, recs := w.recs, ready := w.ready,
                       curPath := w.curPath }

/-- What a waiting instruction keeps while a handler runs: it is reissued, but an arrival made, an open rendezvous and a
wait for the host stand (R321, R338, R346), and so does a wait on a counter that a change has already met (R320). -/
def Wait.kept : Wait → Bool
  | .waitt _ | .queue _ _ | .post _ | .barxDesc _ | .struct _ => false
  | .cnt _ _ _ met => met
  | _ => true

/-- The user frame as it stands. -/
def Team.toFrame (t : Team) : Frame :=
  { sregs := t.sregs, creg := t.creg, ls := t.ls, le := t.le, lc := t.lc, armed := t.armed, spc := t.spc, fmode := t.fmode,
    ftrapen := t.ftrapen, pkr := t.pkr, wait := t.wait.filter Wait.kept }

/-- The user frame restored; the mode becomes user. -/
def Team.fromFrame (t : Team) (f : Frame) : Team :=
  { t with sregs := f.sregs, creg := f.creg, ls := f.ls, le := f.le, lc := f.lc, armed := f.armed, spc := f.spc, fmode := f.fmode,
           ftrapen := f.ftrapen, pkr := f.pkr, wait := f.wait, frame := none, inv := none, hkern := none, mode := .user }

/-- HCAUSE of an invocation (R339). -/
def causeWord (v : Invocation) : Word :=
  BitVec.ofNat 64 (v.code + (if v.scalar then 2 ^ 8 else 0) + v.group * 2 ^ 16
    + (match sortNat v.paths with | i :: _ => i * 2 ^ 32 | [] => 0))

/-- HMASK of an invocation (R339). -/
def maskWord (g : Nat) (v : Invocation) : Word := BitVec.ofNat 64 (bitsOf (sortNat (v.lanes.map (fun l => l % g))))

/-- R338: the head of the handler queue is entered. The user frame is saved where the team was in user mode; the
user's lane work stands aside. -/
def Team.enter (t : Team) : Team :=
  match t.hqueue with
  | [] => t
  | v :: vs =>
    let t := { t.parkWork with frame := some (t.frame.getD t.toFrame) }
    { t with
      mode := .supervisor, sregs := (Vector.replicate 64 0).set 1 t.area, creg := Vector.replicate 8 false,
      ls := Vector.replicate 4 0, le := Vector.replicate 4 0, lc := Vector.replicate 4 0, armed := 0, fmode := 0, ftrapen := 0,
      pkr := 0, hcause := causeWord v, hva := v.addr, hmask := maskWord t.kern.gwidth v, hrec := t.area,
      spc := v.kern.sbase + BitVec.ofNat 64 v.kern.sentry, hqueue := vs, inv := some v, hkern := some v.kern, wait := none }

/-- An invocation waits and the team is in user mode (R338). -/
def Team.wantsHandler (t : Team) : Bool := !t.hqueue.isEmpty && t.inv.isNone

/-! ### Return from a handler (R342) -/

/-- What a load delivers: the bytes read, narrowed or extended to the register form of a type (R247, R56). -/
def loadValue (t : LType) (narrow : BitVec 2) (x : Nat) : Nat :=
  let n := if narrow = 1 then 8 else if narrow = 2 then 16 else t.bits
  let x := x % 2 ^ n
  if t = .i32 then (sextNat x n % 2 ^ 32).toNat else x

/-- The destination of a load or an atomic in a lane, and how the delivered bytes are read. -/
def deliver (i : Instr) (x : Nat) : Option (Operand × Nat) :=
  match i with
  | .vld h m => some (h.d, loadValue h.ty m.narrow x)
  | .vatom h _ => some (h.d, x % 2 ^ h.ty.bits)
  | .vcas h _ => some (h.d, x % 2 ^ h.ty.bits)
  | _ => none

/-- A path that TRET or a completion entry forms from lanes of a held path (R342): READY at the tail with a fresh turn. -/
def Team.formPath (t : Team) (h : Path) (lanes : List Nat) (ip : Nat) (replay : Option (Nat × Nat)) : Team :=
  if lanes.isEmpty then t
  else
    let i := t.freeIdx
    let p : Path := { h.keep (fun l => lanes.contains l) with
      idx := i, ip := ip, state := .ready, slice := 4096, wdog := 0, resume := 0, byReply := false, replay := replay, passDone := 0, faults := [], hold := 0 }
    { t with paths := insertPath p t.paths, ready := t.ready ++ [i] }

/-- A replay of the lanes of a held path: it executes I, and after a fault that a reply carried goes on at the resume
LPC (R342). -/
def Team.replayPath (t : Team) (h : Path) (lanes : List Nat) : Team :=
  t.formPath h lanes h.ip (if h.byReply then some (h.ip, h.resume) else none)

/-- The dispositions TRET finds for lanes of a held path: to replay, completed, retired with a code, and left for the
host with their pages. -/
structure Disposed where
  replays : List Nat
  done : List Nat
  retired : List (Nat × Nat)
  hosted : List (Nat × Nat)

/-- R342 for the lanes of one held path. -/
def disposeLanes (v : Invocation) (i : Option Instr) : List Nat → Disposed → State → Disposed × State
  | [], a, s => (a, s)
  | l :: ls, a, s =>
    let raw := s.slotAt (l + 1) 58 1
    let asked := if s.cur.hmask.getLsbD (l % s.cur.kern.gwidth) then raw else 2
    let d := if 3 < asked then 2 else if asked = 3 ∧ v.code ≠ codeNotPresent then 2 else asked
    match d with
    | 0 => disposeLanes v i ls { a with replays := a.replays ++ [l] } s
    | 1 =>
      let kind := s.slotAt (l + 1) 57 1
      let res := s.slotAt (l + 1) 40 16
      let s := if kind = 0 ∨ kind = 2 then
          match i.bind (fun i => deliver i res) with
          | some (o, x) => { s with cur := s.cur.setLane l (fun y => y.write s.cur.kern.mview o x) }
          | none => s
        else s
      disposeLanes v i ls { a with done := a.done ++ [l] } s
    | 3 =>
      let page := s.slotAt (l + 1) 8 8 / 2 ^ 16
      disposeLanes v i ls { a with hosted := a.hosted ++ [(l, page)] } s
    | _ =>
      let s := if 3 < asked then s.setSlotByte (l + 1) 0 codeIllegal else s
      let s := s.setSlotByte (l + 1) 58 2
      disposeLanes v i ls { a with retired := a.retired ++ [(l, if 3 < asked then codeIllegal else v.code)] } s

/-- PAGE_REQUEST events (R346): one for each page, with the number of lanes that need it. -/
def pageRequests (pages : List Nat) : List Nat → State → State
  | [], s => s
  | p :: ps, s =>
    pageRequests pages ps
      (s.teamEvent 6 codeNotPresent (pages.filter (fun x => x == p)).length (BitVec.ofNat 64 (p * 2 ^ 16)))

/-- A held path after lanes left it: removed where none is left. -/
def Team.leaveHeld (t : Team) (i : Nat) (ls : List Nat) : Team :=
  let ps := t.paths.map (fun p => if p.idx == i then p.keep (fun l => !ls.contains l) else p)
  { t with paths := ps.filter (fun p => !(p.idx == i && p.lanes.isEmpty)) }

/-- R342 for the held paths of a lane invocation, in rising index; the user's lane work is in place. The answer lists
the retired lanes and the pages requested. -/
def returnHeld (v : Invocation) : List Path → State → List (Nat × Nat) × List Nat × State
  | [], s => ([], [], s)
  | h :: hs, s =>
    let mine := h.lanes.filter (fun l => l / s.cur.kern.gwidth == v.group && s.slotAt (l + 1) 0 1 == v.code)
    let i := match s.fetchLane h.ip with
      | .ok w => (match decodeLane w with | .ok i => some i | .error _ => none)
      | .error _ => none
    let (a, s) := disposeLanes v i mine { replays := [], done := [], retired := [], hosted := [] } s
    let gone := a.replays ++ a.done ++ a.retired.map Prod.fst
    let t := s.cur.leaveHeld h.idx gone
    let t := (t.replayPath h a.replays).formPath h a.done h.resume none
    let (rs, ps, s) := returnHeld v hs { s with cur := t.recount }
    (a.retired ++ rs, a.hosted.map Prod.snd ++ ps, s)

/-- The invocation that ended is followed by the next one, or by the user stream (R342). -/
def State.leaveHandler (s : State) : State :=
  if s.cur.hqueue.isEmpty then
    match s.cur.frame with
    | some f => { s with cur := s.cur.fromFrame f }
    | none => { s with cur := { s.cur with inv := none, hkern := none, mode := .user } }
  else { s with cur := s.cur.enter }

/-- Whether the access that faulted delivers a value to an s register (R342): its register and width in bytes. -/
def scalarDest : Instr → Option (Reg × Nat)
  | .sldw d _ _ => some (d, 4)
  | .sldd d _ _ => some (d, 8)
  | .satom d _ _ _ w _ => some (d, if w then 4 else 8)
  | _ => none

/-- The instruction at the user's SPC: the s register it would load, with the width, and its length in words. -/
def State.userInstr (s : State) (spc : Word) : Option (Reg × Nat) × Nat :=
  let at_ (a : Word) : Option Instr := match s.fetchWord a.toNat with
    | .ok w => (match decodeScalar w with | .ok i => some i | .error _ => none)
    | .error _ => none
  match at_ spc with
  | some (.sext _) => ((at_ (spc + 4)).bind scalarDest, 2)
  | some i => (scalarDest i, 1)
  | none => (none, 1)

/-- COMPLETE for a scalar invocation: the user frame with the loaded value, past the instruction (R342). -/
def State.completeScalar (s : State) : State :=
  match s.cur.frame with
  | none => s.leaveHandler
  | some f =>
    let (dst, len) := s.userInstr f.spc
    let user := s.cur.fromFrame f
    let user := match dst with
      | some (d, w) => user.setS d (BitVec.ofNat 64 (s.slotAt 0 40 w))
      | none => user
    let user := user.advance len
    State.leaveHandler { s with cur := { s.cur with frame := some { user.toFrame with wait := none } } }

/-- R342 once the handler's blocks are complete. -/
def State.trapReturn (s : State) : State :=
  match s.cur.inv with
  | none => s.leaveHandler
  | some v =>
    let s := { s with cur := s.cur.unparkWork }
    if v.scalar then
      let d := s.slotAt 0 58 1
      if d = 0 then s.leaveHandler
      else if d = 1 then s.completeScalar
      else if d = 3 ∧ v.code = codeNotPresent then
        let page := s.slotAt 0 8 8 / 2 ^ 16
        let s := s.teamEvent 6 codeNotPresent 0 (BitVec.ofNat 64 (page * 2 ^ 16))
        let fs := s.cur.frame.map (fun (f : Frame) => { f with wait := some (Wait.host (BitVec.ofNat 64 (page * 2 ^ 16))) })
        State.leaveHandler { s with cur := { s.cur with frame := fs } }
      else s.stopTeam (s.slotAt 0 0 1) 0
    else
      let s := { s with cur := { s.cur with hkern := none } }
      let held := s.cur.paths.filter (fun p => p.state == .held && v.paths.contains p.idx)
      let (out, pages, s) := returnHeld v held s
      let s := if out.isEmpty then s else s.retireLanes out
      let s := pageRequests pages (sortNat pages) s
      s.settle.leaveHandler

end Sys2Proof.Machine
end

