-- ==== Sys2Proof/Machine/Lane.lean ====
section
/-!
DEFINITION. What every lane word shares: its checks (R117), the waits of the scoreboard (R80, R245), its active lanes
in sweep order (R75, R142), register errors (R108, R110), and what it leaves when its sweep has retired: results, flags
(R135), the path past the word (R87, R163), lane faults (R81) and counts (R443).
-/

namespace Sys2Proof.Machine

/-! ### Elements (R120, R143) -/

/-- Bits of an element, number of elements, and whether elements are signed. -/
def elemOf : LType → Nat × Nat × Bool
  | .i32 => (32, 1, true)
  | .i64 => (64, 1, true)
  | .n64 | .b64 => (64, 1, false)
  | .i16x2 => (16, 2, true)
  | .n16x2 | .f16x2 | .bf16x2 => (16, 2, false)
  | .i8x4 => (8, 4, true)
  | .n8x4 => (8, 4, false)
  | .f16 | .bf16 => (16, 1, false)
  | .b128 => (128, 1, false)
  | _ => (32, 1, false)

/-- Element `i` of `n` bits. -/
def elemAt (n x i : Nat) : Nat := x / 2 ^ (n * i) % 2 ^ n

/-- Element `i` as a number (R145). -/
def elemInt (signed : Bool) (n x i : Nat) : Int := if signed then sextNat (elemAt n x i) n else (elemAt n x i : Int)

/-- Elements of `n` bits put together, the first lowest. -/
def packElems (n : Nat) : List Nat → Nat
  | [] => 0
  | x :: xs => x % 2 ^ n + 2 ^ n * packElems n xs

/-! ### Active lanes (R75, R142) -/

/-- The path executes again an instruction whose fault a reply carried (R342). -/
def Path.replaying (p : Path) : Bool := match p.replay with | some (i, _) => i == p.ip | none => false

/-- The path's word lies in a SKIP shadow (R163). The instruction that a replay executes again lies where it was issued, not in
the shadow that its lanes were taken from (DEDUCED, log entry 103). -/
def Path.shadowed (p : Path) : Bool := p.skipLeft != 0 && !p.replaying

/-- Lanes that a SKIP shadow does not remove and whose guard holds. The stored predicate decides, one that holds an
uncorrectable error too: a lane whose stored guard bit is false is inactive and does not fault (DESIGN CHOICE, log entry
104). -/
def Path.isActive (t : Team) (p : Path) (g : Guard) (l : Nat) : Bool :=
  (t.lane l).guard g && !(p.shadowed && p.skipLanes.contains l)

/-- The active lanes of a path in sweep order. -/
def Path.active (t : Team) (p : Path) (g : Guard) : List Nat := p.passes.flatten.filter (p.isActive t g)

/-- Passes a word has still to issue: none in a shadow that leaves no lane active (R163). -/
def Path.passCount (p : Path) (act : List Nat) : Nat :=
  if p.shadowed && act.isEmpty then 0 else p.passes.length - p.passDone

/-! ### Waits for replies (R80, R245) -/

/-- Register words of a list of operands. -/
def wordsOf (views : List Word32) (os : List Operand) : List Nat := os.flatMap (operandWords views)

/-- Two lists share a number. -/
def shares (a b : List Nat) : Bool := a.any (fun x => b.contains x)

/-- The order a memory word names. -/
def memOrd : Instr → Ordering4
  | .vld _ x | .vst _ x | .vatom _ x | .vcas _ x | .fence _ x => x.ord
  | _ => .relaxed

/-- Words that R245 holds back from every path with a reply outstanding. -/
def waitsReplies (i : Instr) : Bool :=
  match i with
  | .fence _ _ | .bar _ _ | .join _ | .lend _ => true
  | .bra _ _ _ x => x.pack
  | .brx _ x => x.pack
  | i => memOrd i != .relaxed

/-- Words that access memory. -/
def isMemory : Instr → Bool
  | .vld _ _ | .vst _ _ | .vatom _ _ | .vcas _ _ | .vpref _ _ | .fld _ _ | .fst _ _ | .fence _ _ | .bar _ _ => true
  | _ => false

/-- A load or an atomic with acquire order (R243, R251). -/
def acquires (i : Instr) : Bool := memOrd i == .acq || memOrd i == .acqrel

/-- Words that read the registers of other lanes (R155), the fragment product of a group among them (R186). -/
def readsAcross : Instr → Bool
  | .vshfl _ _ | .vbcast _ _ | .vreduce _ _ | .vscan _ _ | .vvote _ _ | .fmma _ => true
  | _ => false

/-- A request of the block whose words run now. -/
def GReq.current (t : Team) (r : GReq) : Bool := match t.block with | some b => b.seq == r.block | none => false

/-- A lane's reply is outstanding. In a handler's block a fault that a reply of the user's block carries, and that waits
for its lane's path, has returned. A prefetch has no reply that a word waits for (R252). -/
def GReq.outstanding (t : Team) (r : GReq) (l : Nat) : Bool :=
  r.accs.any (fun a => a.lane == l && a.kind != 3) && (r.current t || !r.answers.any (fun x => x.lane == l && x.code != 0))

/-- The s register an operand names. -/
def operandS : Operand → Option Reg
  | .s r => some r
  | _ => none

/-- A request in flight keeps a word of a path from issuing (R80, R245). -/
def GReq.blocks (t : Team) (views : List Word32) (p : Path) (i : Instr) (r : GReq) : Bool :=
  let reads := wordsOf views (readOperands i)
  let writes := wordsOf views [writeOperand i]
  let rviews := if r.current t then views else t.kern.mview
  let theirs := wordsOf rviews [writeOperand r.instr]
  let across := readsAcross i && shares reads theirs && r.accs.any (fun a => r.outstanding t a.lane)
  let mine := p.lanes.any (r.outstanding t)
  r.uid == t.uid
    && (across
      || (mine && (waitsReplies i || (acquires r.instr && isMemory i) || shares reads theirs || shares writes theirs
        || shares writes (wordsOf rviews (readOperands r.instr))
        || (match operandS (writeOperand i) with
            | some d => (readOperands r.instr).any (fun o => operandS o == some d)
            | none => false)
        || (match writePred i with | some d => d != 7 && (readPreds r.instr).contains d | none => false))))

/-- A write that a lane of the path read from L1 before it was performed is still not performed: what orders the path's
earlier accesses covers that write too (R226, R230). -/
def State.unseen (s : State) (p : Path) : Bool :=
  s.cur.seen.any (fun x => p.lanes.contains x.1 && s.reqs.any (fun r => r.tag == x.2 && !r.ordered s.ownPkg))

/-- A word of the current path waits: for replies, or, where it orders earlier accesses, for what they saw; and a memory
word for an acquire of the scalar stream that another package performs (R58). -/
def State.blocked (s : State) (p : Path) (i : Instr) : Bool :=
  s.reqs.any (GReq.blocks s.cur s.cur.code.mview p i) || (waitsReplies i && s.unseen p)
    || (isMemory i && s.cur.sent.any (fun x => x.1.toNat / 2 ^ 60 == acquireOp))

/-! ### Register errors (R108 to R110) -/

/-- The core of a pass slot: on a pair, odd slots live on the second core (R91). -/
def Team.slotCore (t : Team) (slot : Nat) : Nat := if t.pair && slot % 2 == 1 then pairOf t.core else t.core

/-- Bytes a team takes in each column of a core (R107). -/
def Team.columnBytes (t : Team) (core : Nat) : Nat :=
  4 * t.kern.regsN * ((upTo 0 ((t.kern.lanesN + 31) / 32)).filter (fun k => t.slotCore k == core)).length

/-- Where a register word lives: its core, column, physical bank, and place in the bank (R107). -/
def State.wordPlace (s : State) (l w : Nat) : Nat × Nat × Nat × Nat :=
  let t := s.cur
  let core := t.slotCore (l / 32)
  let below := (s.others.filter (fun u => u.status == .running && u.sett == t.sett && decide (u.placed < t.placed))).foldl
    (fun acc u => acc + u.columnBytes core) 0
  let slots := ((upTo 0 (l / 32)).filter (fun k => t.slotCore k == core)).length
  let addr := below + 4 * t.kern.regsN * slots + 4 * w
  let p := s.physical t.sett core
  let banks := (upTo 0 12).filter (fun b => !(mappedBanks (s.sett t.sett).merged p.1 p.2 (l % 32)).contains b)
  (core, l % 32, nth 0 banks (addr / 2048), addr % 2048 / 4)

/-- What corrections of a word are counted under. -/
def corrKey (core col bank w : Nat) : Nat := ((core * 32 + col) * 12 + bank) * 512 + w

/-- REGCORR of a core counts one more word; it saturates (R109). -/
def Sett.regCorrected (x : Sett) (core : Nat) : Sett :=
  let n := FMap.getD x.regcorr core 0
  { x with regcorr := FMap.set x.regcorr core (if n = 0xFFFFFFFF then n else n + 1) }

/-- One correction of a register word counted (R109, R110). -/
def State.corrected (s : State) (l w : Nat) : State :=
  let (core, col, bank, k) := s.wordPlace l w
  let key := corrKey core col bank k
  s.setSett s.cur.sett (fun x =>
    { x.regCorrected core with corrected := FMap.set x.corrected key (FMap.getD x.corrected key 0 + 1) })

/-- The words with single-bit errors that a lane reads are corrected. -/
def State.correctLane (s : State) (l : Nat) (words : List Nat) : State :=
  let hit := sortNat ((s.cur.lane l).soft.filter (fun w => words.contains w))
  let s := if hit.isEmpty then s
    else s.setCur (fun t => t.setLane l (fun (x : Lane) => { x with soft := x.soft.filter (fun w => !hit.contains w) }))
  hit.foldl (fun s w => s.corrected l w) s

/-- A single-bit error among a lane's predicates corrected. -/
def State.correctPreds (s : State) (l : Nat) : State :=
  if (s.cur.lane l).softPreds then
    let s := { s with cur := s.cur.setLane l (fun x => { x with softPreds := false }) }
    s.setSett s.cur.sett (fun x => x.regCorrected (s.cur.slotCore (l / 32)))
  else s

/-- A word reads predicates that can hold an error. -/
def readsPreds (i : Instr) : Bool := (readPreds i).any (fun p => p != 7)

/-- The errors among what active lanes read are corrected (R108). -/
def State.correct (s : State) (i : Instr) (words : List Nat) : List Nat → State
  | [] => s
  | l :: ls =>
    let s := s.correctLane l words
    State.correct (if readsPreds i then s.correctPreds l else s) i words ls

/-- The first of some register words that holds an uncorrectable error, as bytes 8 to 15 of a record name it. -/
def Lane.wordError (x : Lane) (words : List Nat) : Option Word :=
  (words.find? (fun w => x.bad.contains w)).map (fun w => BitVec.ofNat 64 (4 * w))

/-- The uncorrectable error a lane reads (R108). Of several, the rule names none: a predicate error comes first, then the
first word in the order of the operands (DESIGN CHOICE, log entry 104). -/
def Lane.error (x : Lane) (i : Instr) (words : List Nat) : Option Word :=
  if readsPreds i && x.badPreds then some 0xFFFFFFFFFFFFFFFF else x.wordError words

/-! ### The path past a word -/

/-- Where the lanes of a path go on after its word: past it, or where a replay resumes (R342). -/
def Path.after (p : Path) : Nat :=
  match p.replay with
  | some (i, r) => if i = p.ip then r else p.ip + 1
  | none => p.ip + 1

/-- The path when its word has retired: `passes` issue slots used (R87), the shadow one word shorter (R163), the
iteration still only where nothing changed. -/
def Path.past (p : Path) (passes : Nat) (changed : Bool) : Path :=
  { p with
    ip := p.after, replay := none, slice := p.slice - passes, passDone := 0, faults := [], park := none, still := p.still && !changed,
    issue := 0, doneLanes := [], fl := 0,
    skipLeft := if p.replaying then p.skipLeft else p.skipLeft - 1,
    skipLanes := if p.replaying then p.skipLanes else if p.skipLeft ≤ 1 then [] else p.skipLanes }

/-- A store, an atomic, a fence, a JOIN or an LEND restarts the watchdog (R90); the first three end a still iteration
(R87). -/
def Path.pet (p : Path) (store : Bool) : Path := { p with wdog := 0, still := p.still && !store }

/-! ### Running a word -/

/-- A lane word as it runs: its path, its block, what its lanes read, its active lanes in sweep order, and the code's
views. -/
structure LaneRun where
  i : Instr
  p : Path
  b : Block
  e : LaneEnv
  act : List Nat

/-- Every lane of a path faults at its word (R81, R117, R163). -/
def State.faultPath (s : State) (p : Path) (code : Nat) (addr : Word) : State :=
  let h := match s.cur.block with | some b => b.handler | none => false
  (s.laneFaults h (p.lanes.map (fun l =>
    { lane := l, info := .plain code addr, ip := p.ip, resume := p.after, byReply := false }))).settle

/-- Passes the word has still to issue. -/
def LaneRun.left (r : LaneRun) : Nat := r.p.passCount r.act

/-- The turn holds a slot for each of them (R87). -/
def LaneRun.whole (r : LaneRun) : Bool := decide (r.left ≤ r.p.slice)

/-- The lane stream of the focused team runs a word: ILLEGAL where a check of R117 fails (`ok` holds the ones that need
the team), a wait where R245 asks for one, else its effect, which may be that of some of its passes only. -/
def State.laneParts (s : State) (i : Instr) (ok : Team → Bool) (f : LaneRun → State → State) : State :=
  match s.cur.current, s.cur.block with
  | some p, some b =>
    if !(indicesOk s.cur.code.mview s.cur.code.regsN i && ok s.cur) then s.faultPath p codeIllegal 0
    else if s.blocked p i then s
    else
      let g := match laneHead i with | some h => h.g | none => ⟨false, 7⟩
      f { i := i, p := p, b := b, e := s.env b p, act := p.active s.cur g } s
  | _, _ => s

/-- The slots the turn has left are spent on passes of a word that does not end with them (R87); a word whose lanes work
together has its effect with its last pass. -/
def State.spend (s : State) (r : LaneRun) : State :=
  { s with cur := s.cur.setPath r.p.idx (fun p => { p with passDone := p.passDone + p.slice, slice := 0 }) }

/-- A word that has its effect when its sweep is complete. -/
def State.laneWord (s : State) (i : Instr) (ok : Team → Bool) (f : LaneRun → State → State) : State :=
  s.laneParts i ok (fun r s => if r.whole then f r s else s.spend r)

/-- The record of a lane that reads an uncorrectable word. -/
def LaneRun.regFault (r : LaneRun) (l : Nat) (addr : Word) : LaneFault :=
  { lane := l, info := .plain codeRegUe addr, ip := r.p.ip, resume := r.p.after, byReply := false }

/-! ### Faults that replies carry (R337) -/

/-- FLD and FST (R188). -/
def isFragment : Instr → Bool
  | .fld _ _ | .fst _ _ => true
  | _ => false

/-- A path within its word: passes of it, or lanes of the pass that parks, have issued. -/
def Path.within (p : Path) : Bool := p.passDone != 0 || (match p.park with | some (.dark _) => true | _ => false)

/-- A fault of a request's lane can be taken now: its path is at an instruction boundary (R337), or a stop has cut its
word (R353). -/
def Team.atBoundary (t : Team) (halted : Bool) (l : Nat) : Bool :=
  (t.lane l).retired || (match t.holder l with
    | some p => (halted || !p.within) && p.replay.isNone
    | none => false)

/-- A lane of a path has issued the word the path stands at. -/
def Path.issued (p : Path) (l : Nat) : Bool := p.doneLanes.contains l

/-- Where a lane whose fault a reply carries goes on (R337): where its path stands, past the word there where the lane
has issued it. -/
def Path.resumeAt (p : Path) (l : Nat) : Nat := if p.issued l then p.after else p.ip

/-- The faults of a reply, each with its lane's place (R337). -/
def replyFaults (t : Team) (r : GReq) (answers : List Answer) : List LaneFault :=
  (answers.filter (fun x => x.code != 0 && !(t.lane x.lane).retired)).filterMap (fun x =>
    (r.accs.find? (fun a => a.lane == x.lane && a.kind != 3)).map (fun a =>
      { lane := x.lane, byReply := true, ip := r.ip, resume := match t.holder x.lane with | some p => p.resumeAt x.lane | none => r.ip + 1,
        info := { code := x.code, op := 0, addr := a.ea, opnd := a.data, exp := a.exp,
                  width := if isFragment r.instr then 0 else a.width, kind := a.kind } }))

/-- Faults of different lanes: of several of one lane the first, each with the tag of its request. -/
def firstFaults : List (Nat × LaneFault) → List (Nat × LaneFault) → List (Nat × LaneFault)
  | [], out => out
  | f :: fs, out => firstFaults fs (if out.any (fun g => g.2.lane == f.2.lane) then out else out ++ [f])

/-- The faults that replies have brought and whose lanes have reached an instruction boundary (R337), and the state without
them. -/
def State.lateFaults (s : State) : List LaneFault × State :=
  let rs := s.reqs.filter (fun r => r.uid == s.cur.uid && r.back && r.current s.cur)
  if rs.isEmpty then ([], s)
  else
    let fs := firstFaults (rs.flatMap (fun r => ((replyFaults s.cur r r.answers).filter (fun f =>
      s.cur.atBoundary (s.halted s.cur.ctx) f.lane)).map (fun f => (r.tag, f)))) []
    let out (r : GReq) (l : Nat) : Bool := (s.cur.lane l).retired || fs.any (fun f => f.1 == r.tag && f.2.lane == l)
    let left := s.reqs.map (fun r => if rs.any (fun q => q.tag == r.tag) then
      { r with accs := r.accs.filter (fun a => !out r a.lane), answers := r.answers.filter (fun x => !out r x.lane) } else r)
    (fs.map Prod.snd, { s with reqs := left.filter (fun r => !(r.back && r.accs.isEmpty)) })

/-- The faults known at an instruction boundary are taken together (R337): those of the word that ended there and those of
replies. -/
def State.boundary (s : State) (inHandler : Bool) (faults : List LaneFault) : State :=
  let (late, s) := s.lateFaults
  let fs := faults ++ late.filter (fun f => !faults.any (fun g => g.lane == f.lane))
  if fs.isEmpty then s else (s.laneFaults inHandler fs).settle

/-- The word's path moves on, then the faults of its lanes are taken (R81, R337). -/
def State.finishWord (s : State) (r : LaneRun) (changed : Bool) (faults : List LaneFault) : State :=
  State.boundary { s with cur := s.cur.setPath r.p.idx (fun p => p.past (p.passCount r.act) changed) } r.b.handler faults

/-- What a word gives one lane: its new record, and flags. -/
abbrev LaneEff := LaneEnv → Nat → Lane × Flags5

/-- Results written in sweep order: each lane's result comes from what it read before any was written. -/
def applyLanes (e : LaneEnv) (eff : LaneEff) : List Nat → Team → Bool → Flags5 → Team × Bool × Flags5
  | [], t, changed, fl => (t, changed, fl)
  | l :: ls, t, changed, fl =>
    let old := e.t.lane l
    let (x, f) := eff e l
    applyLanes e eff ls (t.setLane l (fun _ => x)) (changed || x.regs != old.regs || x.preds != old.preds) (fl ||| f)

/-- The active lanes of the passes that issue now. -/
def LaneRun.part (r : LaneRun) : List Nat :=
  if r.p.passDone = 0 ∧ r.whole = true then r.act
  else r.act.filter (fun l => ((r.p.passes.drop r.p.passDone).take r.p.slice).any (fun ls => ls.contains l))

/-- The path of a word whose turn ends within its sweep keeps what the passes left. -/
def State.cutWord (s : State) (r : LaneRun) (changed : Bool) (fl : Flags5) (faults : List LaneFault) : State :=
  { s with cur := s.cur.setPath r.p.idx (fun p => { p with
      passDone := p.passDone + p.slice, slice := 0, still := p.still && !changed, fl := p.fl ||| fl,
      faults := p.faults ++ faults.map (fun f => (f.lane, f.info)) }) }

/-- The faults that earlier passes of the word found. -/
def LaneRun.earlier (r : LaneRun) : List LaneFault :=
  r.p.faults.map (fun f => { lane := f.1, info := f.2, ip := r.p.ip, resume := r.p.after, byReply := false })

/-- A word whose lanes work each on its own registers: R108's faults, results, flags, and `n` operations of a class
for each lane that completes (R443). -/
def State.laneEach (s : State) (r : LaneRun) (cls n : Nat) (eff : LaneEff) : State :=
  let words := wordsOf s.cur.code.mview (readOperands r.i)
  let act := r.part
  let bad := act.filterMap (fun l => ((s.cur.lane l).error r.i words).map (fun a => r.regFault l a))
  let good := act.filter (fun l => ((s.cur.lane l).error r.i words).isNone)
  let s := s.correct r.i words act
  let (t, changed, fl) := applyLanes { r.e with t := s.cur } eff good s.cur false 0
  let s := if r.whole then State.finishWord { s with cur := t.orFlags (fl ||| r.p.fl) } r changed (r.earlier ++ bad)
    else State.cutWord { s with cur := t } r changed fl bad
  s.countCur cls (n * good.length)

/-- A register result for a lane, with flags. -/
def LaneEnv.put (e : LaneEnv) (d : Operand) (l v : Nat) : Lane := (e.t.lane l).write e.t.code.mview d v

/-- A word that writes one register result in each active lane. -/
def State.laneResult (s : State) (i : Instr) (cls n : Nat) (d : Operand) (f : LaneEnv → Nat → Nat × Flags5) : State :=
  s.laneParts i (fun _ => true) (fun r s => s.laneEach r cls n (fun e l =>
    let (v, fl) := f e l
    (e.put d l v, fl)))

/-- A word that reads other lanes: R108 faults every active lane where one of them reads an uncorrectable word;
otherwise `f` runs. `reads` lists the lanes and words drawn on. A lane that is not active is read for its words only. Of
several failing words the record holds the first in the order of `reads` (DESIGN CHOICE, log entry 104). -/
def State.laneCross (s : State) (r : LaneRun) (reads : List (Nat × List Nat)) (f : State → State) : State :=
  let on (l : Nat) : Bool := r.act.contains l
  let errs := reads.filterMap (fun x => if on x.1 then (s.cur.lane x.1).error r.i x.2 else (s.cur.lane x.1).wordError x.2)
  let s := reads.foldl (fun s x => if on x.1 then s.correct r.i x.2 [x.1] else s.correctLane x.1 x.2) s
  match errs with
  | a :: _ => s.finishWord r false (r.act.map (fun l => r.regFault l a))
  | [] => f s

end Sys2Proof.Machine
end

