-- ==== Sys2Proof/Machine/LaneInt.lean ====
section
/-!
DEFINITION. Integer and bitwise lane instructions (R145 to R150), comparison, selection, predicates and moves (R151 to
R154).
-/

namespace Sys2Proof.Machine

/-- Exact results narrowed to `n` bits, clamped first under SAT (R145). -/
def narrowInt (signed sat : Bool) (n : Nat) (r : Int) : Nat :=
  let lo : Int := if signed then -(2 ^ (n - 1)) else 0
  let hi : Int := if signed then 2 ^ (n - 1) - 1 else 2 ^ n - 1
  let r := if sat then min (max r lo) hi else r
  (r % 2 ^ n).toNat

/-- R145 for one lane: `f` on each element of A, B and C. -/
def intResult (e : LaneEnv) (h : LaneHead) (sat : Bool) (f : Nat → Int → Int → Int → Int) (l : Nat) : Nat × Flags5 :=
  let (n, k, sg) := elemOf h.ty
  let a := e.val h.ty h.a l
  let b := e.val h.ty h.b l
  let c := e.val h.ty h.c l
  (packElems n ((upTo 0 k).map (fun i => narrowInt sg sat n (f n (elemInt sg n a i) (elemInt sg n b i) (elemInt sg n c i)))), 0)

/-- An integer word of R145. -/
def laneInt (i : Instr) (h : LaneHead) (sat : Bool) (f : Nat → Int → Int → Int → Int) (s : State) : State :=
  s.laneResult i 8 (elemOf h.ty).2.1 h.d (fun e l => intResult e h sat f l)

def execVadd (h : LaneHead) (x : AuxA) (s : State) : Out := .next (laneInt (.vadd h x) h x.sat (fun _ a b _ => a + b) s)
def execVsub (h : LaneHead) (x : AuxA) (s : State) : Out := .next (laneInt (.vsub h x) h x.sat (fun _ a b _ => a - b) s)
def execVmul (h : LaneHead) (x : AuxA) (s : State) : Out := .next (laneInt (.vmul h x) h x.sat (fun _ a b _ => a * b) s)
def execVmulh (h : LaneHead) (s : State) : Out := .next (laneInt (.vmulh h) h false (fun n a b _ => a * b / 2 ^ n) s)
def execVmad (h : LaneHead) (x : AuxA) (s : State) : Out := .next (laneInt (.vmad h x) h x.sat (fun _ a b c => a * b + c) s)
def execVmin (h : LaneHead) (s : State) : Out := .next (laneInt (.vmin h) h false (fun _ a b _ => min a b) s)
def execVmax (h : LaneHead) (s : State) : Out := .next (laneInt (.vmax h) h false (fun _ a b _ => max a b) s)
def execVabs (h : LaneHead) (x : AuxA) (s : State) : Out := .next (laneInt (.vabs h x) h x.sat (fun _ a _ _ => (a.natAbs : Int)) s)
def execVneg (h : LaneHead) (x : AuxA) (s : State) : Out := .next (laneInt (.vneg h x) h x.sat (fun _ a _ _ => -a) s)

/-! ### Bitwise (R147) -/

/-- A bitwise word of R147. -/
def laneBits (i : Instr) (h : LaneHead) (f : Nat → Nat → Nat → Nat) (s : State) : State :=
  s.laneResult i 8 1 h.d (fun e l => (f (elemOf h.ty).1 (e.val h.ty h.a l) (e.val h.ty h.b l), 0))

def execVand (h : LaneHead) (s : State) : Out := .next (laneBits (.vand h) h (fun _ a b => a &&& b) s)
def execVor (h : LaneHead) (s : State) : Out := .next (laneBits (.vor h) h (fun _ a b => a ||| b) s)
def execVxor (h : LaneHead) (s : State) : Out := .next (laneBits (.vxor h) h (fun _ a b => a ^^^ b) s)
def execVnot (h : LaneHead) (s : State) : Out := .next (laneBits (.vnot h) h (fun n a _ => 2 ^ n - 1 - a) s)

/-! ### Shifts and counts (R148, R149) -/

/-- A shift of R148: `f` on the width, A and the count modulo the width. -/
def laneShift (i : Instr) (h : LaneHead) (f : Nat → Nat → Nat → Nat) (s : State) : State :=
  s.laneResult i 8 1 h.d (fun e l =>
    let n := (elemOf h.ty).1
    (f n (e.val h.ty h.a l) (e.count h.b l % n), 0))

def execVshl (h : LaneHead) (s : State) : Out := .next (laneShift (.vshl h) h (fun n a k => a * 2 ^ k % 2 ^ n) s)
def execVshr (h : LaneHead) (s : State) : Out := .next (laneShift (.vshr h) h (fun _ a k => a / 2 ^ k) s)
def execVsra (h : LaneHead) (s : State) : Out :=
  .next (laneShift (.vsra h) h (fun n a k => (sextNat a n / 2 ^ k % 2 ^ n).toNat) s)
def execVrol (h : LaneHead) (s : State) : Out :=
  .next (laneShift (.vrol h) h (fun n a k => a * 2 ^ k % 2 ^ n + a / 2 ^ (n - k)) s)

def execVclz (h : LaneHead) (s : State) : Out := .next (laneBits (.vclz h) h (fun n a _ => clz a n) s)
def execVpopc (h : LaneHead) (s : State) : Out := .next (laneBits (.vpopc h) h (fun n a _ => popcount a n) s)

/-! ### Fields (R150) -/

/-- VBFX on a value: `sg` says whether the field is sign-extended. -/
def bitField (sg : Bool) (n a pos wid : Nat) : Nat :=
  if wid = 0 ∨ n ≤ pos then 0
  else
    let w := min wid (n - pos)
    let f := a / 2 ^ pos % 2 ^ w
    if sg then (sextNat f w % 2 ^ n).toNat else f

/-- VBFI on a value. -/
def bitInsert (n a b pos wid : Nat) : Nat :=
  if wid = 0 ∨ n ≤ pos then a
  else
    let w := min wid (n - pos)
    a % 2 ^ pos + b % 2 ^ w * 2 ^ pos + a / 2 ^ (pos + w) * 2 ^ (pos + w)

def execVbfx (h : LaneHead) (s : State) : Out :=
  .next (s.laneResult (.vbfx h) 8 1 h.d (fun e l =>
    let (n, _, sg) := elemOf h.ty
    (bitField sg n (e.val h.ty h.a l) (e.count h.b l) (e.count h.c l), 0)))

def execVbfi (h : LaneHead) (s : State) : Out :=
  .next (s.laneResult (.vbfi h) 8 1 h.d (fun e l =>
    let c := e.count h.c l
    (bitInsert (elemOf h.ty).1 (e.val h.ty h.a l) (e.val h.ty h.b l) (c % 256) (c / 256 % 256), 0)))

/-- VDOT4 (R146): C and the result are 32-bit numbers of the elements' sign. -/
def execVdot4 (h : LaneHead) (x : AuxA) (s : State) : Out :=
  .next (s.laneResult (.vdot4 h x) 8 4 h.d (fun e l =>
    let sg := h.ty == .i8x4
    let a := e.val h.ty h.a l
    let b := e.val h.ty h.b l
    let c := e.val (if sg then .i32 else .n32) h.c l
    let sum : Int := (upTo 0 4).foldl (fun (acc : Int) i => acc + elemInt sg 8 a i * elemInt sg 8 b i) (elemInt sg 32 c 0)
    (narrowInt sg x.sat 32 sum, 0)))

/-! ### Compare, select, predicates, moves (R151 to R154) -/

/-- The comparison of VCMP on operands of a type (R151). -/
def compareOf (t : LType) (k : Cond) (ftz : Bool) (a b : Nat) : Bool :=
  let (n, c, _) := elemOf t
  (upTo 0 c).all (fun i =>
    match fmtOf t with
    | some f => condFloat k (f.ftzIn ftz (f.value (elemAt n a i))) (f.ftzIn ftz (f.value (elemAt n b i)))
    | none => condInt k (elemInt true n a i) (elemInt true n b i) (elemAt n a i) (elemAt n b i))

/-- FTZ of a block (R131, R133). -/
def Block.ftz (b : Block) : Bool := b.snap.fmode.getLsbD 3

/-- The class an operation on a type is counted under (R443): 6 FP32, 7 FP16 and BF16, 8 integer. -/
def classOf (t : LType) : Nat :=
  match t with
  | .f32 => 6
  | .f16 | .bf16 | .f16x2 | .bf16x2 => 7
  | _ => 8

def execVcmp (h : LaneHead) (x : AuxC) (s : State) : Out :=
  .next (s.laneParts (.vcmp h x) (fun _ => true) (fun r s => s.laneEach r (classOf h.ty) (elemOf h.ty).2.1 (fun e l =>
    ((e.t.lane l).setPred x.pd (compareOf h.ty x.cond r.b.ftz (e.val h.ty h.a l) (e.val h.ty h.b l)), 0))))

def execVsel (h : LaneHead) (x : AuxC) (s : State) : Out :=
  .next (s.laneResult (.vsel h x) 8 0 h.d (fun e l => (e.val h.ty (if (e.t.lane l).pred x.pa then h.a else h.b) l, 0)))

def execVmov (h : LaneHead) (s : State) : Out := .next (s.laneResult (.vmov h) 8 0 h.d (fun e l => (e.val h.ty h.a l, 0)))

def execPlop (h : LaneHead) (x : AuxC) (s : State) : Out :=
  .next (s.laneParts (.plop h x) (fun _ => true) (fun r s => s.laneEach r 8 0 (fun e l =>
    let y := e.t.lane l
    (y.setPred x.pd (x.pfn.getLsbD (2 * b2n (y.pred x.pa) + b2n (y.pred x.pb))), 0))))

def execVli (g : Guard) (t : LType) (d : Operand) (i : BitVec 32) (s : State) : Out :=
  .next (s.laneResult (.vli g t d i) 8 0 d (fun _ _ => (if t = .b64 then (i.signExtend 64).toNat else i.toNat, 0)))

end Sys2Proof.Machine
end

