-- ==== Sys2Proof/Machine/LaneCross.lean ====
section
/-!
DEFINITION. Cross-lane instructions (R155 to R161): shuffles, broadcasts, reductions, scans and votes.
-/

namespace Sys2Proof.Machine

/-! ### Shared steps (R155) -/

/-- The words of A that lanes draw on, and the other words of the word in the active lanes themselves. -/
def crossReads (views : List Word32) (r : LaneRun) (h : LaneHead) (src : List Nat) : List (Nat × List Nat) :=
  r.act.map (fun l => (l, wordsOf views [h.b, h.c])) ++ (sortNat src).map (fun l => (l, operandWords views h.a))

/-- A cross-lane word that writes a register in each active lane: every source is read before any destination is
written (R155). `src` names the lanes whose A a lane draws on. -/
def State.crossResult (s : State) (i : Instr) (h : LaneHead) (cls : Nat) (ok : Team → Bool) (src : LaneRun → Nat → List Nat)
    (f : LaneRun → LaneEnv → Nat → Nat × Flags5) : State :=
  s.laneWord i ok (fun r s =>
    s.laneCross r (crossReads s.cur.code.mview r h (r.act.flatMap (src r))) (fun s =>
      let (t, changed, fl) := applyLanes { r.e with t := s.cur } (fun e l =>
        let (v, fl) := f r e l
        (e.put h.d l v, fl)) r.act s.cur false 0
      State.finishWord { s with cur := t.orFlags fl } r changed [] |>.countCur cls r.act.length))

/-- A cross-lane word that writes one s register, once, when its sweep has completed (R48, R79, R155). -/
def State.crossScalar (s : State) (r : LaneRun) (d : Reg) (v : Word) (fl : Flags5) (cls : Nat) : State :=
  let changed := decide (d ≠ 0) && decide (s.cur.s d ≠ v)
  let t := (s.cur.setS d v).setPath r.p.idx (fun p => { p with swrites := if d = 0 then p.swrites else FMap.set p.swrites d.toNat (s.tick, v) })
  State.finishWord { s with cur := t.orFlags fl, tick := s.tick + 1 } r changed [] |>.countCur cls r.act.length

/-- The lanes of a lane's group. -/
def groupLanes (t : Team) (l : Nat) : List Nat := upTo (l / t.kern.gwidth * t.kern.gwidth) t.kern.gwidth

/-! ### VSHFL and VBCAST (R156, R157) -/

/-- The GLANE a lane reads (R156). -/
def shuffleFrom (xop w i k : Nat) : Nat :=
  let base := i - i % w
  match xop with
  | 0 => base + k % w
  | 1 => if k ≤ i - base then i - k else i
  | 2 => if i + k < base + w then i + k else i
  | _ => base + ((i - base) ^^^ (k % w))

/-- The lane a lane of a VSHFL draws on. -/
def shuffleLane (e : LaneEnv) (h : LaneHead) (x : AuxX) (l : Nat) : Nat :=
  let g := e.t.kern.gwidth
  let w := if x.imm12 = 0 then g else x.imm12.toNat
  l / g * g + shuffleFrom x.xop.toNat w (l % g) (e.count h.b l)

/-- Segment widths of VSHFL (R156). -/
def segmentOk (imm g : Nat) : Bool := imm == 0 || ([2, 4, 8, 16, 32, 64].contains imm && decide (imm ≤ g))

def execVshfl (h : LaneHead) (x : AuxX) (s : State) : Out :=
  .next (s.crossResult (.vshfl h x) h 8 (fun t => segmentOk x.imm12.toNat t.kern.gwidth)
    (fun r l => [shuffleLane r.e h x l]) (fun _ e l => (e.val h.ty h.a (shuffleLane e h x l), 0)))

/-- The lane a VBCAST takes its value from, for a lane's group (R157). -/
def broadcastLane (e : LaneEnv) (h : LaneHead) (x : AuxX) (l : Nat) : Nat :=
  let g := e.t.kern.gwidth
  l / g * g + (e.count h.b l + x.imm12.toNat) % g

def execVbcast (h : LaneHead) (x : AuxX) (s : State) : Out :=
  .next (s.crossResult (.vbcast h x) h 8 (fun _ => true) (fun r l => [broadcastLane r.e h x l])
    (fun _ e l => (e.val h.ty h.a (broadcastLane e h x l), 0)))

/-! ### Reductions (R158, R159) -/

/-- The identity of an operation on a type (R158). -/
def redIdentity (t : LType) (xop : Nat) : Nat :=
  let (n, _, sg) := elemOf t
  if t = .f32 then (if xop = 1 then 0x7F800000 else if xop = 2 then 0xFF800000 else 0)
  else match xop with
    | 1 => if sg then 2 ^ (n - 1) - 1 else 2 ^ n - 1
    | 2 => if sg then 2 ^ (n - 1) else 0
    | 3 => 2 ^ n - 1
    | _ => 0

/-- One step of an integer or bitwise reduction (R158). -/
def redInt (t : LType) (xop a b : Nat) : Nat :=
  let (n, _, sg) := elemOf t
  match xop with
  | 0 => (a + b) % 2 ^ n
  | 1 => if elemInt sg n a 0 ≤ elemInt sg n b 0 then a else b
  | 2 => if elemInt sg n a 0 ≤ elemInt sg n b 0 then b else a
  | 3 => a &&& b
  | 4 => a ||| b
  | _ => a ^^^ b

/-- The smallest or largest of some numbers, none of them NaN. -/
def extreme (isMax : Bool) : List FV → FV → FV
  | [], m => m
  | x :: xs, m => extreme isMax xs (if (if isMax then m.below x else x.below m) then x else m)

/-- R159. -/
def redF32 (ftz : Bool) (xop : Nat) (terms : List Nat) : Nat × Flags5 :=
  let ts := terms.map (fun x => fmtF32.ftzIn ftz (fmtF32.value x))
  if xop = 0 then fmtF32.ftzOut ftz (fmtF32.sum ts .rne)
  else match ts.filter (fun t => !t.isNan) with
    | [] => (fmtF32.nanBits, 0)
    | t :: rest => ((fmtF32.round (extreme (xop == 2) rest t) false .rne false).1, 0)

/-- The result of an operation over the terms of a domain, which is not empty. -/
def redValue (t : LType) (ftz : Bool) (xop : Nat) (terms : List Nat) : Nat × Flags5 :=
  if t = .f32 then redF32 ftz xop terms else (terms.foldl (redInt t xop) (redIdentity t xop), 0)

/-- A 32-bit result as an s register takes it (R158). -/
def toScalar (t : LType) (v : Nat) : Word := if t = .i32 then (BitVec.ofNat 32 v).signExtend 64 else BitVec.ofNat 64 v

/-- VREDUCE (R158). -/
def execVreduce (h : LaneHead) (x : AuxX) (s : State) : Out :=
  .next (match h.d with
    | .s d => s.laneWord (.vreduce h x) (fun _ => true) (fun r s =>
        s.laneCross r (crossReads s.cur.code.mview r h r.act) (fun s =>
          let (v, fl) := if r.act.isEmpty then (redIdentity h.ty x.xop.toNat, 0)
            else redValue h.ty r.b.ftz x.xop.toNat (r.act.map (r.e.val h.ty h.a))
          s.crossScalar r d (toScalar h.ty v) fl (classOf h.ty)))
    | _ => s.crossResult (.vreduce h x) h (classOf h.ty) (fun _ => true) (fun _ l => [l]) (fun r e l =>
        redValue h.ty r.b.ftz x.xop.toNat ((r.act.filter (groupLanes e.t l).contains).map (e.val h.ty h.a))))

/-- VSCAN (R160). -/
def execVscan (h : LaneHead) (x : AuxX) (s : State) : Out :=
  .next (s.crossResult (.vscan h x) h (classOf h.ty) (fun _ => true) (fun _ l => [l]) (fun r e l =>
    redValue h.ty r.b.ftz x.xop.toNat
      ((r.act.filter (fun k => (groupLanes e.t l).contains k && decide (k ≤ l))).map (e.val h.ty h.a))))

/-! ### VVOTE (R161) -/

/-- The result of a vote over a domain: `index` numbers its lanes. -/
def voteValue (e : LaneEnv) (x : AuxX) (lanes : List Nat) (index : Nat → Nat) : Nat :=
  let yes := lanes.filter (fun l => (e.t.lane l).pred x.pa)
  match x.xop.toNat with
  | 0 => b2n (decide (yes.length = lanes.length))
  | 1 => b2n (!yes.isEmpty)
  | _ => bitsOf (yes.map index)

/-- The types BALLOT takes (R161). -/
def ballotOk (h : LaneHead) (x : AuxX) (t : Team) : Bool :=
  x.xop != 2 || (match h.d with
    | .s _ => decide (t.kern.lanesN ≤ (if h.ty = .b32 then 32 else 64))
    | _ => h.ty == .b64 || decide (t.kern.gwidth ≤ 32))

def execVvote (h : LaneHead) (x : AuxX) (s : State) : Out :=
  .next (match h.d with
    | .s d => s.laneWord (.vvote h x) (ballotOk h x) (fun r s =>
        s.laneCross r (r.act.map (fun l => (l, []))) (fun s =>
          s.crossScalar r d (BitVec.ofNat 64 (voteValue r.e x r.act (fun l => l))) 0 8))
    | _ => s.crossResult (.vvote h x) h 8 (ballotOk h x) (fun _ l => [l]) (fun r e l =>
        (voteValue e x (r.act.filter (groupLanes e.t l).contains) (fun k => k % e.t.kern.gwidth), 0)))

end Sys2Proof.Machine
end

