-- ==== Sys2Proof/Machine/LaneFp.lean ====
section
/-!
DEFINITION. Floating-point lane instructions (R167 to R176) and conversions (R128, R133, R177 to R182).
-/

namespace Sys2Proof.Machine

/-! ### Modes (R133, R167) -/

/-- The mode a word rounds with; none is SR (R133). -/
def rndMode (b : Block) (r : Rnd) : Option RMode :=
  match r with
  | .rne => some .rne
  | .rtz => some .rtz
  | .rdn => some .rdn
  | .rup => some .rup
  | .sr => none
  | .dyn => match (b.snap.fmode.extractLsb' 0 3).toNat with
    | 1 => some .rtz
    | 2 => some .rdn
    | 3 => some .rup
    | 4 => none
    | _ => some .rne

/-- The mode of an instruction that is no narrowing conversion: SR counts as RNE (R133). -/
def plainMode (b : Block) (r : Rnd) : RMode := (rndMode b r).getD .rne

/-! ### Arithmetic element by element (R167) -/

/-- `f` on each element of A, B and C of a floating type, operands and result under FTZ (R131). -/
def fpResult (b : Block) (e : LaneEnv) (h : LaneHead) (f : Fmt → FV → FV → FV → Nat × Flags5) (l : Nat) : Nat × Flags5 :=
  match fmtOf h.ty with
  | none => (0, 0)
  | some fm =>
    let (n, k, _) := elemOf h.ty
    let rd (o : Operand) (i : Nat) : FV := fm.ftzIn b.ftz (fm.value (elemAt n (e.val h.ty o l) i))
    let rs := (upTo 0 k).map (fun i => fm.ftzOut b.ftz (f fm (rd h.a i) (rd h.b i) (rd h.c i)))
    (packElems n (rs.map Prod.fst), rs.foldl (fun (acc : Flags5) r => acc ||| r.2) 0)

/-- A floating word of one result for each element; `ops` operations are counted for each element (R443). -/
def laneFp (i : Instr) (h : LaneHead) (ops : Nat) (f : Block → Fmt → FV → FV → FV → Nat × Flags5) (s : State) : State :=
  s.laneParts i (fun _ => true) (fun r s => s.laneEach r (classOf h.ty) (ops * (elemOf h.ty).2.1) (fun e l =>
    let (v, fl) := fpResult r.b e h (f r.b) l
    (e.put h.d l v, fl)))

def execVfadd (h : LaneHead) (x : AuxA) (s : State) : Out :=
  .next (laneFp (.vfadd h x) h 1 (fun b f u v _ => f.add u v (plainMode b x.rnd)) s)
def execVfsub (h : LaneHead) (x : AuxA) (s : State) : Out :=
  .next (laneFp (.vfsub h x) h 1 (fun b f u v _ => f.add u v.negate (plainMode b x.rnd)) s)
def execVfmul (h : LaneHead) (x : AuxA) (s : State) : Out :=
  .next (laneFp (.vfmul h x) h 1 (fun b f u v _ => f.mul u v (plainMode b x.rnd)) s)
def execVfma (h : LaneHead) (x : AuxA) (s : State) : Out :=
  .next (laneFp (.vfma h x) h 2 (fun b f u v w => f.fma u v w (plainMode b x.rnd)) s)
def execVfdiv (h : LaneHead) (x : AuxA) (s : State) : Out :=
  .next (laneFp (.vfdiv h x) h 1 (fun b f u v _ => f.div u v (plainMode b x.rnd)) s)
def execVfsqrt (h : LaneHead) (x : AuxA) (s : State) : Out :=
  .next (laneFp (.vfsqrt h x) h 1 (fun b f u _ _ => f.sqrt u (plainMode b x.rnd)) s)
def execVfrnd (h : LaneHead) (x : AuxA) (s : State) : Out :=
  .next (laneFp (.vfrnd h x) h 1 (fun b f u _ _ => f.rint u (plainMode b x.rnd)) s)

/-- The pattern of a value of a format, exactly. -/
def Fmt.bitsOf (f : Fmt) (x : FV) : Nat := (f.round x false .rne false).1

def execVfmin (h : LaneHead) (s : State) : Out :=
  .next (laneFp (.vfmin h) h 1 (fun _ f u v _ => (f.minMax false u v (f.bitsOf u) (f.bitsOf v), 0)) s)
def execVfmax (h : LaneHead) (s : State) : Out :=
  .next (laneFp (.vfmax h) h 1 (fun _ f u v _ => (f.minMax true u v (f.bitsOf u) (f.bitsOf v), 0)) s)

/-! ### The functions of R172 -/

/-- A transcendental word: counted as class 9 (R443). -/
def laneFn (i : Instr) (h : LaneHead) (f : FV → Nat × Flags5) (s : State) : State :=
  s.laneParts i (fun _ => true) (fun r s => s.laneEach r 9 1 (fun e l =>
    let (v, fl) := fpResult r.b e h (fun _ u _ _ => f u) l
    (e.put h.d l v, fl)))

def execVfrcp (h : LaneHead) (s : State) : Out := .next (laneFn (.vfrcp h) h fRcp s)
def execVfrsq (h : LaneHead) (s : State) : Out := .next (laneFn (.vfrsq h) h fRsq s)
def execVfexp2 (h : LaneHead) (s : State) : Out := .next (laneFn (.vfexp2 h) h fExp2 s)
def execVflog2 (h : LaneHead) (s : State) : Out := .next (laneFn (.vflog2 h) h fLog2 s)
def execVfsin (h : LaneHead) (s : State) : Out := .next (laneFn (.vfsin h) h fSin s)
def execVfcos (h : LaneHead) (s : State) : Out := .next (laneFn (.vfcos h) h fCos s)

/-! ### Signs, classes and exponents (R174 to R176) -/

/-- The sign bits of VFSGN for one element. -/
def signOf (op : Nat) (a b : Bool) : Bool := if op = 0 then b else if op = 1 then !b else a != b

def execVfsgn (h : LaneHead) (x : AuxA) (s : State) : Out :=
  .next (s.laneResult (.vfsgn h x) (classOf h.ty) (elemOf h.ty).2.1 h.d (fun e l =>
    let (n, k, _) := elemOf h.ty
    let a := e.val h.ty h.a l
    let b := e.val h.ty h.b l
    (packElems n ((upTo 0 k).map (fun i =>
      let u := elemAt n a i
      u % 2 ^ (n - 1) + 2 ^ (n - 1) * b2n (signOf x.imm12.toNat (bitAt u (n - 1)) (bitAt (elemAt n b i) (n - 1))))), 0)))

/-- A word whose result is a 32-bit number made from one floating operand. -/
def laneProbe (i : Instr) (h : LaneHead) (f : Fmt → FV → Nat) (s : State) : State :=
  s.laneParts i (fun _ => true) (fun r s => s.laneEach r (classOf h.ty) 1 (fun e l =>
    match fmtOf h.ty with
    | some fm => (e.put h.d l (f fm (fm.ftzIn r.b.ftz (fm.value (e.val h.ty h.a l)))), 0)
    | none => (e.t.lane l, 0)))

def execVfclass (h : LaneHead) (s : State) : Out := .next (laneProbe (.vfclass h) h (fun f x => f.classBit x) s)
def execVfexpo (h : LaneHead) (s : State) : Out := .next (laneProbe (.vfexpo h) h (fun _ x => expoBits x) s)

/-! ### Conversion (R128, R177 to R182) -/

/-- One step of the generator of R128. -/
def srAdvance (sigma : Nat) : Nat :=
  let a := sigma ^^^ (sigma * 2 ^ 13 % 2 ^ 32)
  let b := a ^^^ (a / 2 ^ 17)
  b ^^^ (b * 2 ^ 5 % 2 ^ 32)

/-- A source element as a value, with the exponent of its format's spacing there (R128). -/
def sourceValue (st : LType) (ftz : Bool) (x : Nat) : FV × Int :=
  match fmtOf st with
  | some f =>
    let v := if f.isWide then f.ftzIn ftz (f.value x) else f.value x
    (v, match v with | .fin _ _ e => e | _ => 0)
  | none =>
    let (n, _, sg) := elemOf st
    let i := elemInt sg n x 0
    (.fin (decide (i < 0)) i.natAbs 0, 0)

/-- A value times a power of two; NaN where the scale byte is 0xFF (R178, R179). -/
def scaleValue (scale : Option (Nat × Bool)) (x : FV × Int) : FV × Int :=
  match scale with
  | none => x
  | some (sb, down) =>
    if sb = 255 then (.nan, 0)
    else
      let k : Int := if down then 127 - sb else sb - 127
      match x with
      | (.fin n m e, g) => (.fin n m (e + k), g + k)
      | x => x

/-- One element converted (R179): its pattern, its flags, and the lane's rounding state after it. `mode` none is SR;
`scale` is the scale byte, with true where the value is divided by it. -/
def convert (st dt : LType) (ftz sat satf : Bool) (mode : Option RMode) (scale : Option (Nat × Bool)) (sigma x : Nat) :
    Nat × Flags5 × Nat :=
  let (v, g) := scaleValue scale (sourceValue st ftz x)
  let narrow := !exactPair st dt
  let sr := mode.isNone && narrow && !(st.isInt && dt.isInt)
  let sigma := if sr then srAdvance sigma else sigma
  let m : RMode := if sr then .sr sigma g else mode.getD .rne
  match fmtOf dt with
  | some f =>
    let r := f.round v false m satf
    let r := if f.isWide then f.ftzOut ftz r else r
    (r.1, r.2, sigma)
  | none =>
    let (n, _, sg) := elemOf dt
    let lo : Int := if sg then -(2 ^ (n - 1)) else 0
    let hi : Int := if sg then 2 ^ (n - 1) - 1 else 2 ^ n - 1
    if st.isInt then
      let i : Int := match v with | .fin neg k _ => if neg then -(k : Int) else k | _ => 0
      (narrowInt sg sat n i, 0, sigma)
    else
      let (i, fl) := roundInt v lo hi m
      ((i % 2 ^ n).toNat, fl, sigma)

/-- Elements converted in ascending order: patterns, flags and the rounding state. -/
def convertAll (f : Nat → Nat → Nat × Flags5 × Nat) : List Nat → Nat → List Nat × Flags5 × Nat
  | [], sigma => ([], 0, sigma)
  | x :: xs, sigma =>
    let (v, fl, sigma) := f sigma x
    let (vs, fl', sigma) := convertAll f xs sigma
    (v :: vs, fl ||| fl', sigma)

/-- A conversion word: `k` elements of `ns` bits each become elements of `nd` bits. -/
def laneConvert (i : Instr) (h : LaneHead) (x : AuxA) (st dt vt : LType) (k ns nd : Nat) (s : State) : State :=
  s.laneParts i (fun _ => true) (fun r s => s.laneEach r 10 k (fun e l =>
    let scale : Option (Nat × Bool) := if scaledPair dt st then some (e.scale h.b l, dt.scaledElem) else none
    let a := e.val vt h.a l
    let (vs, fl, sigma) := convertAll (convert st dt r.b.ftz x.sat x.satf (rndMode r.b x.rnd) scale)
      ((upTo 0 k).map (elemAt ns a)) (e.t.lane l).sigma.toNat
    ({ e.put h.d l (packElems nd vs) with sigma := BitVec.ofNat 32 sigma }, fl)))

/-- Bits an element of a conversion takes in its register (R177). -/
def cvtBits (t : LType) : Nat := if t.bits = 0 then 8 else (elemOf t).1

def execVcvt (h : LaneHead) (x : AuxA) (s : State) : Out :=
  .next (match LType.ofCode x.stype.toNat with
    | some st => laneConvert (.vcvt h x) h x st h.ty st (elemOf h.ty).2.1 (cvtBits st) (cvtBits h.ty) s
    | none => s)

/-- VPACK and VUNPK (R181, R182): `out` says that the packed format is the destination. -/
def lanePack (i : Instr) (h : LaneHead) (x : AuxA) (out : Bool) (s : State) : State :=
  match LType.ofCode x.stype.toNat with
  | none => s
  | some wide =>
    match packPair h.ty wide with
    | none => s
    | some (k, wp, _, inW) =>
      let ww := (elemOf wide).1
      if out then laneConvert i h x wide h.ty .b128 k ww wp s
      else laneConvert i h x h.ty wide (if inW then .b64 else .b32) k wp ww s

def execVpack (h : LaneHead) (x : AuxA) (s : State) : Out := .next (lanePack (.vpack h x) h x true s)
def execVunpk (h : LaneHead) (x : AuxA) (s : State) : Out := .next (lanePack (.vunpk h x) h x false s)

end Sys2Proof.Machine
end

