-- ==== Sys2Proof/Machine/LaneMat.lean ====
section
/-!
DEFINITION. The fragment product FMMA (R183 to R187), and the reading of K-major operand bytes (R138, R184), which the
matrix engine shares.
-/

namespace Sys2Proof.Machine

/-! ### K-major operands (R138, R184) -/

/-- Bits of an element along K (R184). -/
def matBits (fmt : Nat) : Nat := if fmt = 9 ∨ fmt = 10 then 16 else if fmt = 17 then 4 else 8

/-- Element `k` of a row of operand bytes, as its bits. -/
def rowElem (fmt row k : Nat) : Nat := elemAt (matBits fmt) row k

/-- An element of a floating format code, as a value (R123). -/
def matValue (fmt x : Nat) : FV :=
  match LType.ofCode fmt with
  | some t => (match fmtOf t with | some f => f.value x | none => .nan)
  | none => .nan

/-- An element of I8X4 or N8X4 as a number (R185). -/
def matInt (fmt x : Nat) : Int := if fmt = 6 then sextNat x 8 else (x % 256 : Nat)

/-- Families of element formats (R185): 0 none, 1 16-bit, 2 8-bit and 6-bit, 3 4-bit, 4 integer. -/
def formatFamily (c : Nat) : Nat :=
  if c = 9 ∨ c = 10 then 1 else if 13 ≤ c ∧ c ≤ 16 then 2 else if c = 17 then 3 else if c = 6 ∨ c = 7 then 4 else 0

/-- One chunk of 64 operand bytes along K over an incoming element: R139 for floating formats, R140 for integers. -/
def chunkOut (afmt bfmt : Nat) (acc : Nat) (rowA rowB : Nat) : Nat × Flags5 :=
  if formatFamily afmt = 4 then
    (chunkI32 acc ((upTo 0 64).map (fun k => (matInt afmt (rowElem afmt rowA k), matInt bfmt (rowElem bfmt rowB k)))), 0)
  else
    chunkF32 (fmtF32.value acc) ((upTo 0 (512 / matBits afmt)).map (fun k =>
      (matValue afmt (rowElem afmt rowA k), matValue bfmt (rowElem bfmt rowB k))))

/-- The counter class of matrix products, by A's format (R443). -/
def matClass (fmt : Nat) : Nat :=
  if fmt = 17 then 0 else if fmt = 13 ∨ fmt = 14 then 1 else if fmt = 15 ∨ fmt = 16 then 2 else if fmt = 6 ∨ fmt = 7 then 3
  else if fmt = 10 then 4 else 5

/-! ### FMMA -/

/-- The view an operand of class 3 names. -/
def viewOf (views : List Word32) : Operand → Word32
  | .m n _ => nth 0 views n.toNat
  | _ => 0

/-- A descriptor has a role, a format test and a size (R185). -/
def viewIs (d : Word32) (role bytes : Nat) (fmt : Nat → Bool) : Bool :=
  viewRole d == role && viewBytes d == bytes && fmt (viewFmt d)

/-- R185. -/
def fmmaOk (h : LaneHead) (t : Team) : Bool :=
  let views := t.code.mview
  let g := t.kern.gwidth
  let fa := viewFmt (viewOf views h.a)
  let fb := viewFmt (viewOf views h.b)
  let acc (o : Operand) : Bool := viewIs (viewOf views o) 2 (512 / g) (fun f => f == h.ty.code)
  acc h.d && acc h.c && viewIs (viewOf views h.a) 0 (512 / g) (fun _ => true) && viewIs (viewOf views h.b) 1 (1024 / g) (fun _ => true)
    && formatFamily fa != 0 && formatFamily fa == formatFamily fb && (h.ty == .i32) == (formatFamily fa == 4)

/-- The bytes of a tile over the lanes of a group, as one number (R184). -/
def tileOf (t : Team) (g lane0 : Nat) (o : Operand) : Nat :=
  let bytes := viewBytes (viewOf t.code.mview o)
  packElems (8 * bytes) ((upTo lane0 g).map (fun l =>
    match operandSpan t.code.mview o with
    | some (i, n) => (t.lane l).words i n
    | none => 0))

/-- The outputs of a group (R186): element (m, n) at place 16 m + n. -/
def fmmaTile (t : Team) (h : LaneHead) (group : Nat) : List (Nat × Flags5) :=
  let g := t.kern.gwidth
  let a := tileOf t g (group * g) h.a
  let b := tileOf t g (group * g) h.b
  let c := tileOf t g (group * g) h.c
  let fa := viewFmt (viewOf t.code.mview h.a)
  let fb := viewFmt (viewOf t.code.mview h.b)
  (upTo 0 128).map (fun i => chunkOut fa fb (elemAt 32 c i) (elemAt 512 a (i / 16)) (elemAt 512 b (i % 16)))

/-- The lowest uncorrectable fragment word of a group, by lane (R187). -/
def groupError (t : Team) (words : List Nat) (lanes : List Nat) : Option Word :=
  (lanes.filterMap (fun l => ((t.lane l).bad.foldl (fun (acc : Option Nat) w =>
      if words.contains w then some (match acc with | some v => min v w | none => w) else acc) none))).head?.map
    (fun w => BitVec.ofNat 64 (4 * w))

/-- The D fragments of a group's active lanes written. -/
def writeTile (t0 : Team) (h : LaneHead) (outs : List Nat) : List Nat → Team → Team
  | [], t => t
  | l :: ls, t =>
    let n := 128 / t.kern.gwidth
    let mine := (outs.drop (n * (l % t.kern.gwidth))).take n
    writeTile t0 h outs ls (t.setLane l (fun _ => (t0.lane l).write t.code.mview h.d (packElems 32 mine)))

/-- The groups of an FMMA one after another: the team, the flags, and the groups that fault with the word at fault.
`t0` is the team before. -/
def fmmaGroups (t0 : Team) (h : LaneHead) (words : List Nat) (act : List Nat) :
    List Nat → Team → Flags5 → List (Nat × Word) → Team × Flags5 × List (Nat × Word)
  | [], t, fl, bad => (t, fl, bad)
  | g :: gs, t, fl, bad =>
    match groupError t0 words (upTo (g * t0.kern.gwidth) t0.kern.gwidth) with
    | some a => fmmaGroups t0 h words act gs t fl (bad ++ [(g, a)])
    | none =>
      let outs := fmmaTile t0 h g
      let t := writeTile t0 h (outs.map Prod.fst) (act.filter (fun l => l / t0.kern.gwidth == g)) t
      fmmaGroups t0 h words act gs t (outs.foldl (fun acc o => acc ||| o.2) fl) bad

/-- FMMA (R186, R187). A guard predicate is the lane's own: where it holds an uncorrectable error the active lane faults by
itself, as R108 has it for words without cross-lane reads. -/
def execFmma (h : LaneHead) (s : State) : Out :=
  .next (s.laneWord (.fmma h) (fmmaOk h) (fun r s =>
    let gw := s.cur.kern.gwidth
    let words := wordsOf s.cur.code.mview [h.a, h.b, h.c]
    let groups := sortNat (r.act.map (fun l => l / gw))
    let guards := r.act.filterMap (fun l => ((s.cur.lane l).error r.i []).map (fun a => r.regFault l a))
    let on := r.act.filter (fun l => !(guards.any (fun f => f.lane == l)))
    let s := s.correct r.i [] r.act
    let s := (groups.flatMap (fun g => upTo (g * gw) gw)).foldl (fun s l => s.correctLane l words) s
    let (t, fl, bad) := fmmaGroups s.cur h words on groups s.cur 0 []
    let changed := decide (t.lanes ≠ s.cur.lanes)
    let faults := guards ++ on.filterMap (fun l => (bad.find? (fun b => b.1 == l / gw)).map (fun b => r.regFault l b.2))
    let fa := viewFmt (viewOf s.cur.code.mview h.a)
    let n := (groups.length - bad.length) * (128 * (512 / matBits fa))
    State.finishWord { s with cur := t.orFlags fl } r changed faults |>.countCur (matClass fa) n))

end Sys2Proof.Machine
end

