-- ==== Sys2Proof/Machine/Scalar.lean ====
section
/-!
DEFINITION. Scalar register arithmetic, immediates, loads and stores, atomics, transfers and loops (R26, R29, R31,
R49 to R58). Each effect takes the length of its instruction in words, 2 after a SEXT prefix (R31).
-/

namespace Sys2Proof.Machine

/-! ### Arithmetic (R24, R25, R49 to R51) -/

/-- The quotient of SDIV (R25). -/
def divS (a b : Word) : Word := if b = 0 then -1 else BitVec.ofInt 64 (a.toInt.tdiv b.toInt)
/-- The quotient of SDIVN (R25). -/
def divN (a b : Word) : Word := if b = 0 then -1 else BitVec.ofNat 64 (a.toNat / b.toNat)
/-- The number of leading zero bits of a word (R50). -/
def clzWord (a : Word) : Word := BitVec.ofNat 64 (clz a.toNat 64)
/-- The number of set bits of a word (R50). -/
def popWord (a : Word) : Word := BitVec.ofNat 64 (popcount a.toNat 64)
/-- A shift count: bits [5:0] (R49). -/
def shiftCount (b : Word) : Nat := b.toNat % 64

/-- `s[sd] := f(s[sa], s[sb])` (R49). -/
def aluRR (f : Word → Word → Word) (d a b : Reg) (s : State) : State :=
  s.whenReady [d, a, b] (fun s => s.result 1 d (f (s.cur.s a) (s.cur.s b)))

/-- `s[sd] := f(s[sa])` in an instruction of `len` words. -/
def aluR (f : Word → Word) (d a : Reg) (len : Nat) (s : State) : State :=
  s.whenReady [d, a] (fun s => s.result len d (f (s.cur.s a)))

/-- The immediate of an SI instruction: imm13, or the 38 bits of R31, sign-extended. -/
def imm13 (i : BitVec 13) : Word := i.signExtend 64
/-- The 38-bit immediate of a SEXT pair (R31). -/
def imm38 (hi : BitVec 25) (i : BitVec 13) : Word := (hi ++ i).signExtend 64

def execSadd (d a b : Reg) (s : State) : Out := .next (aluRR (fun x y => x + y) d a b s)
def execSsub (d a b : Reg) (s : State) : Out := .next (aluRR (fun x y => x - y) d a b s)
def execSmul (d a b : Reg) (s : State) : Out := .next (aluRR (fun x y => x * y) d a b s)
def execSmulh (d a b : Reg) (s : State) : Out :=
  .next (aluRR (fun x y => BitVec.ofInt 64 (x.toInt * y.toInt / 2 ^ 64)) d a b s)
def execSmulhn (d a b : Reg) (s : State) : Out :=
  .next (aluRR (fun x y => BitVec.ofNat 64 (x.toNat * y.toNat / 2 ^ 64)) d a b s)
def execSdiv (d a b : Reg) (s : State) : Out := .next (aluRR divS d a b s)
def execSdivn (d a b : Reg) (s : State) : Out := .next (aluRR divN d a b s)
def execSrem (d a b : Reg) (s : State) : Out := .next (aluRR (fun x y => x - divS x y * y) d a b s)
def execSremn (d a b : Reg) (s : State) : Out := .next (aluRR (fun x y => x - divN x y * y) d a b s)
def execSand (d a b : Reg) (s : State) : Out := .next (aluRR (fun x y => x &&& y) d a b s)
def execSor (d a b : Reg) (s : State) : Out := .next (aluRR (fun x y => x ||| y) d a b s)
def execSxor (d a b : Reg) (s : State) : Out := .next (aluRR (fun x y => x ^^^ y) d a b s)
def execSshl (d a b : Reg) (s : State) : Out := .next (aluRR (fun x y => x <<< shiftCount y) d a b s)
def execSshr (d a b : Reg) (s : State) : Out := .next (aluRR (fun x y => x >>> shiftCount y) d a b s)
def execSsra (d a b : Reg) (s : State) : Out := .next (aluRR (fun x y => x.sshiftRight (shiftCount y)) d a b s)
def execSmin (d a b : Reg) (s : State) : Out := .next (aluRR (fun x y => if x.slt y then x else y) d a b s)
def execSmax (d a b : Reg) (s : State) : Out := .next (aluRR (fun x y => if x.slt y then y else x) d a b s)
def execSminn (d a b : Reg) (s : State) : Out := .next (aluRR (fun x y => if x.ult y then x else y) d a b s)
def execSmaxn (d a b : Reg) (s : State) : Out := .next (aluRR (fun x y => if x.ult y then y else x) d a b s)

/-- `c[n] := condition on s[sa] and y` in an instruction of `len` words (R50, R51). -/
def compare (k : Cond) (c : Bit3) (a : Reg) (y : State → Word) (len : Nat) (s : State) : State :=
  s.resultC len c (condWord k (s.cur.s a) (y s))

def execScmp (k : Cond) (c : Bit3) (a b : Reg) (s : State) : Out :=
  .next (s.whenReady [a, b] (compare k c a (fun s => s.cur.s b) 1))
def execSsel (d a b : Reg) (c : Bit3) (s : State) : Out :=
  .next (s.whenReady [d, a, b] (fun s => s.result 1 d (if s.cur.c c then s.cur.s a else s.cur.s b)))
def execSclz (d a : Reg) (s : State) : Out := .next (aluR clzWord d a 1 s)
def execSpopc (d a : Reg) (s : State) : Out := .next (aluR popWord d a 1 s)

def execSaddi (d a : Reg) (i : BitVec 13) (s : State) : Out := .next (aluR (fun x => x + imm13 i) d a 1 s)
def execSandi (d a : Reg) (i : BitVec 13) (s : State) : Out := .next (aluR (fun x => x &&& imm13 i) d a 1 s)
def execSori (d a : Reg) (i : BitVec 13) (s : State) : Out := .next (aluR (fun x => x ||| imm13 i) d a 1 s)
def execSxori (d a : Reg) (i : BitVec 13) (s : State) : Out := .next (aluR (fun x => x ^^^ imm13 i) d a 1 s)
def execSshli (d a : Reg) (n : BitVec 6) (s : State) : Out := .next (aluR (fun x => x <<< n.toNat) d a 1 s)
def execSshri (d a : Reg) (n : BitVec 6) (s : State) : Out := .next (aluR (fun x => x >>> n.toNat) d a 1 s)
def execSsrai (d a : Reg) (n : BitVec 6) (s : State) : Out := .next (aluR (fun x => x.sshiftRight n.toNat) d a 1 s)
def execScmpi (k : Cond) (c : Bit3) (a : Reg) (i : BitVec 13) (s : State) : Out :=
  .next (s.whenReady [a] (compare k c a (fun _ => imm13 i) 1))
/-- SLI (R52). -/
def execSli (d : Reg) (i : BitVec 19) (s : State) : Out :=
  .next (s.whenReady [d] (fun s => s.result 1 d (i.signExtend 64)))

/-! ### Loads and stores (R56) -/

/-- A load of `w` bytes at s[sa] + x. -/
def load (w : Nat) (d a : Reg) (x : Word) (len : Nat) (s : State) : State :=
  s.whenReady [d, a] (fun s =>
    let addr := s.cur.s a + x
    match s.scalarLoad addr.toNat w with
    | .ok bs s => s.result len d (BitVec.ofNat 64 (natOf bs))
    | .trap c s => s.takeTrap { FaultInfo.plain c addr with width := w, kind := 0 }
    | .wait s => s)

/-- A store of the low `w` bytes of s[sd] at s[sa] + x. -/
def store (w : Nat) (d a : Reg) (x : Word) (len : Nat) (s : State) : State :=
  s.whenReady [d, a] (fun s =>
    let addr := s.cur.s a + x
    let bs := bytesOf w (s.cur.s d).toNat
    match s.scalarStore addr.toNat bs with
    | .ok _ s => s.advance len
    | .trap c s => s.takeTrap { FaultInfo.plain c addr with opnd := bs, width := w, kind := 1 }
    | .wait s => s)

def execSldw (d a : Reg) (i : BitVec 13) (s : State) : Out := .next (load 4 d a (imm13 i) 1 s)
def execSldd (d a : Reg) (i : BitVec 13) (s : State) : Out := .next (load 8 d a (imm13 i) 1 s)
def execSstw (d a : Reg) (i : BitVec 13) (s : State) : Out := .next (store 4 d a (imm13 i) 1 s)
def execSstd (d a : Reg) (i : BitVec 13) (s : State) : Out := .next (store 8 d a (imm13 i) 1 s)

/-! ### Atomics (R57, R58, R41) -/

/-- The new value of an atomic on `n` bits, or none where nothing is written (R57). -/
def atomNew (op : AtomOp) (n old b e : Nat) : Option Nat :=
  match op with
  | .add => some ((old + b) % 2 ^ n)
  | .and => some (old &&& b)
  | .or => some (old ||| b)
  | .xor => some (old ^^^ b)
  | .min => some (if sextNat old n ≤ sextNat b n then old else b)
  | .max => some (if sextNat old n ≤ sextNat b n then b else old)
  | .minn => some (min old b)
  | .maxn => some (max old b)
  | .swap => some b
  | .cas => if old = e then some b else none

/-- The scope of a scalar atomic is off-core (R41, R222): every window but S, and S on a core pair. -/
def satomOffCore (t : Team) (a : Nat) : Bool := a / 2 ^ 60 != 8 || t.pair

/-- An acquire of off-core scope by the scalar stream (R231); on a core pair the lanes of both cores come after it. -/
def State.scalarAcquire (s : State) (ord : Ordering4) (a : Nat) : State :=
  if (ord == .acq || ord == .acqrel) && satomOffCore s.cur a then s.discardCores else s

/-- What a request for an atomic carries: the operation, the operand and, for CAS, the expected value. -/
def satomData (op : AtomOp) (w x e : Nat) : List Byte :=
  bytesOf 1 op.toBits.toNat ++ bytesOf w x ++ (if op = .cas then bytesOf w e else [])

/-- SATOM (R57). A release waits until the accesses of the team's lanes are performed (R58). -/
def execSatom (d a b : Reg) (ord : Ordering4) (word : Bool) (op : AtomOp) (s : State) : Out :=
  .next (s.whenReady [d, a, b] (fun s =>
    let w := if word then 4 else 8
    let addr := s.cur.s a
    let x := (s.cur.s b).toNat % 2 ^ (8 * w)
    let e := (s.cur.s d).toNat % 2 ^ (8 * w)
    let exp := if op = .cas then bytesOf w e else []
    let acq := ord == .acq || ord == .acqrel
    if (ord == .rel || ord == .acqrel) && !s.quiet then s
    else match s.scalarAtomic acq addr.toNat w (satomData op w x e) (fun old => atomNew op (8 * w) old x e) with
    | .ok bs s => (s.scalarAcquire ord addr.toNat).result 1 d (BitVec.ofNat 64 (natOf bs))
    | .trap c s => s.takeTrap { FaultInfo.plain c addr with opnd := bytesOf w x, exp := exp, width := w, kind := 2 }
    | .wait s => s))

/-! ### Transfers (R53, R54) -/

/-- The target of an offset field in words from SPC. -/
def relTarget (s : State) (o : BitVec 21) : Word := s.cur.spc + (o.signExtend 64 <<< 2)

def execSbr (c : Bit3) (neg : Bool) (o : BitVec 21) (s : State) : Out :=
  .next (if s.cur.c c != neg then s.jump (relTarget s o) false id else s.advance 1)
def execSjmp (o : BitVec 21) (s : State) : Out := .next (s.jump (relTarget s o) false id)
def execScall (o : BitVec 21) (s : State) : Out :=
  .next (s.whenReady [62] (fun s => s.jump (relTarget s o) false (fun t => t.setS 62 (s.cur.spc + 4))))
def execSret (a : Reg) (s : State) : Out := .next (s.whenReady [a] (fun s => s.jump (s.cur.s a) true id))
def execSjmpr (d a : Reg) (s : State) : Out :=
  .next (s.whenReady [d, a] (fun s => s.jump (s.cur.s a) true (fun t => t.setS d (s.cur.spc + 4))))

/-! ### Loops (R26, R29) -/

/-- SLOOP (R26). -/
def execSloop (l : BitVec 2) (c : Reg) (o : BitVec 17) (s : State) : Out :=
  .next (s.whenReady [c] (fun s =>
    let t := s.cur
    let e := t.spc + (o.setWidth 64 <<< 2)
    if t.armed >>> l.toNat ≠ 0 ∨ o = 0 then s.illegal
    else if t.s c = 0 then s.jump (e + 4) false id
    else
      State.advance { s with cur := { t with
        ls := t.ls.set l.toNat (t.spc + 4), le := t.le.set l.toNat e, lc := t.lc.set l.toNat (t.s c),
        armed := t.armed ||| (1#4 <<< l.toNat) } } 1))

/-- The innermost armed level (R26). -/
def innermost (armed : BitVec 4) : Option (BitVec 2) := ([3, 2, 1, 0] : List (BitVec 2)).find? (fun k => armed.getLsbD k.toNat)

/-- SLEAVE (R29). -/
def execSleave (s : State) : Out :=
  .next (match innermost s.cur.armed with
    | none => s.illegal
    | some k =>
      s.jump (s.cur.le[k.toNat] + 4) false (fun t => { t with armed := t.armed &&& ~~~(1#4 <<< k.toNat) }))

end Sys2Proof.Machine
end

