-- ==== Sys2Proof/Machine/ScalarSys.lean ====
section
/-!
DEFINITION. System registers, dispatch and waits of the scalar stream, traps and returns, the SEXT prefix, page
mapping and energy reservation (R31, R43, R55, R59 to R69, R214).
-/

namespace Sys2Proof.Machine

/-! ### System registers (R15 to R18, R62, R72, R132, R193, R210, R273, R277, R293, R339, R375, R425, R441) -/

/-- ENACC of the focused team's context in its sett (R441). -/
def State.enacc (s : State) : Nat :=
  match s.curCtx with
  | none => 0
  | some c =>
    let b := (FMap.getD c.accounts s.cur.sett { balance := 0, rem := 0 }).balance
    b % 2 ^ 48 + (if b < c.floor then 2 ^ 63 else 0)

/-- CNTRANGE (R293). -/
def State.cntRange (s : State) : Nat :=
  match s.curCtx with
  | none => 0
  | some c => match FMap.get? c.cntBase s.cur.sett with
    | some b => b + c.cntCount * 2 ^ 16
    | none => 0

/-- The current value of a system register; none where no chapter assigns the number. -/
def State.sysReg (s : State) (n : Nat) : Option Word :=
  let t := s.cur
  let w (x : Nat) : Option Word := some (BitVec.ofNat 64 x)
  match n with
  | 0x000 => w t.teamIndex.toNat
  | 0x001 => some t.gridId
  | 0x002 => w t.gangId.toNat
  | 0x003 => w t.gangSize
  | 0x004 => w t.kern.lanesN
  | 0x005 => w t.kern.gwidth
  | 0x006 => w (t.core + t.sett * 2 ^ 8)
  | 0x007 => w ((s.physical t.sett t.core).2 + (s.physical t.sett t.core).1 * 2 ^ 5 + t.sett * 2 ^ 9)
  | 0x008 => w t.ctx
  | 0x010 => w s.gtc
  | 0x011 => w (s.skewBound + b2n s.locked * 2 ^ 16)
  | 0x020 => w t.fstat.toNat
  | 0x021 => w t.ftrapen.toNat
  | 0x022 => w t.fmode.toNat
  | 0x023 => w t.srseed.toNat
  | 0x030 => some t.pkr
  | 0x031 => some t.wdoglim
  | 0x040 => w Config.etgonLevel
  | 0x041 => w (s.regBytes t.sett t.core)
  | 0x042 => w (s.gridRows t.sett)
  | 0x043 => w (s.benchOf t.sett)
  | 0x044 => w ((s.sett t.sett).mapGen % 2 ^ 32 + s.wretired * 2 ^ 32 + s.nwithdrawn * 2 ^ 42)
  | 0x045 => w 0x701
  | 0x046 => w (FMap.getD (s.sett t.sett).regcorr t.core 0).toNat
  | 0x047 => w t.kern.scratch
  | 0x048 => w t.kern.lanepriv
  | 0x049 => w t.cmsize
  | 0x04A => w t.kspsize
  | 0x04B => w t.acctiles
  | 0x04C => w s.cntRange
  | 0x050 => some t.hcause
  | 0x051 => some t.hva
  | 0x052 => some t.hmask
  | 0x053 => some t.hrec
  | 0x060 => w s.enacc
  | 0x070 => some t.ls[0] | 0x071 => some t.ls[1] | 0x072 => some t.ls[2] | 0x073 => some t.ls[3]
  | 0x074 => some t.le[0] | 0x075 => some t.le[1] | 0x076 => some t.le[2] | 0x077 => some t.le[3]
  | 0x078 => some t.lc[0] | 0x079 => some t.lc[1] | 0x07A => some t.lc[2] | 0x07B => some t.lc[3]
  | 0x07C => w t.armed.toNat
  | _ => none

/-- A register with an SO field (R10). -/
def isSo (n : Nat) : Bool := n == 0x031 || (decide (0x050 ≤ n) && decide (n ≤ 0x053))

/-- FSTAT written (R132, R135). -/
def Team.setFstat (t : Team) (x : Word) : Team := { t with fstat := x.setWidth 5 }
/-- FMODE written: RM keeps its value where 5 to 7 is written (R132). -/
def Team.setFmode (t : Team) (x : Word) : Team :=
  { t with fmode := x.extractLsb' 3 1 ++ (if x.extractLsb' 0 3 ≤ (4 : BitVec 3) then x.extractLsb' 0 3 else t.fmode.setWidth 3) }
/-- SRSEED written; the next LGO records the write (R129). -/
def Team.setSrseed (t : Team) (x : Word) : Team := { t with srseed := x.setWidth 32, seedSet := true }
/-- PKR written (R210). -/
def Team.setPkr (t : Team) (x : Word) : Team := { t with pkr := x }
/-- A loop register written (R16, R17). -/
def Team.setLoop (t : Team) (r : LoopReg) (x : Word) : Team :=
  match r with
  | .ls n => { t with ls := t.ls.set n.toNat x }
  | .le n => { t with le := t.le.set n.toNat x }
  | .lc n => { t with lc := t.lc.set n.toNat x }
  | .lstat => { t with armed := x.setWidth 4 }

/-- The writable fields of a system register written, by their access codes (R10, R62); a register with none stays. -/
def Team.setSys (t : Team) (n : Nat) (x : Word) : Team :=
  match n with
  | 0x020 => t.setFstat x
  | 0x021 => { t with ftrapen := x.setWidth 5 }
  | 0x022 => t.setFmode x
  | 0x023 => t.setSrseed x
  | 0x030 => t.setPkr x
  | 0x031 => { t with wdoglim := x }
  | 0x050 => { t with hcause := x &&& 0x0000FFFF003F01FF }
  | 0x051 => { t with hva := x }
  | 0x052 => { t with hmask := x }
  | 0x053 => { t with hrec := x }
  | _ => if 0x070 ≤ n ∧ n ≤ 0x07C then t.setLoop (LoopReg.ofNumber (BitVec.ofNat 12 n)) x else t

/-- SRD in an instruction of `len` words (R62). -/
def sysRead (d : Reg) (n : BitVec 12) (len : Nat) (s : State) : State :=
  match s.sysReg n.toNat with
  | none => s.illegal
  | some x =>
    if isSo n.toNat && s.cur.mode == .user then s.trap codePriv 0 else s.whenReady [d] (fun s => s.result len d x)

/-- SWR in an instruction of `len` words (R62). -/
def sysWrite (a : Reg) (n : BitVec 12) (len : Nat) (s : State) : State :=
  match s.sysReg n.toNat with
  | none => s.illegal
  | some _ =>
    if isSo n.toNat && s.cur.mode == .user then s.trap codePriv 0
    else s.whenReady [a] (fun s => State.advance { s with cur := s.cur.setSys n.toNat (s.cur.s a) } len)

def execSrd (d : Reg) (n : BitVec 12) (s : State) : Out := .next (sysRead d n 1 s)
def execSwr (a : Reg) (n : BitVec 12) (s : State) : Out := .next (sysWrite a n 1 s)

/-- An SWR of a register that user mode may write, `f` writing it. -/
def userWrite (a : Reg) (f : Team → Word → Team) (len : Nat) (s : State) : State :=
  s.whenReady [a] (fun s => State.advance { s with cur := f s.cur (s.cur.s a) } len)

def execFstatWrite (a : Reg) (s : State) : Out := .next (userWrite a Team.setFstat 1 s)
def execFmodeWrite (a : Reg) (s : State) : Out := .next (userWrite a Team.setFmode 1 s)
def execSrseedWrite (a : Reg) (s : State) : Out := .next (userWrite a Team.setSrseed 1 s)
def execPkrWrite (a : Reg) (s : State) : Out := .next (userWrite a Team.setPkr 1 s)
def execLoopRegisterWrite (a : Reg) (r : LoopReg) (s : State) : Out :=
  .next (userWrite a (fun t x => t.setLoop r x) 1 s)

/-! ### The SEXT prefix (R31, R43) -/

/-- What an SI instruction does after a SEXT: `none` where the instruction is not SI. -/
def prefixed (hi : BitVec 25) : Instr → Option (State → State)
  | .saddi d a i => some (aluR (fun x => x + imm38 hi i) d a 2)
  | .sandi d a i => some (aluR (fun x => x &&& imm38 hi i) d a 2)
  | .sori d a i => some (aluR (fun x => x ||| imm38 hi i) d a 2)
  | .sxori d a i => some (aluR (fun x => x ^^^ imm38 hi i) d a 2)
  | .sshli d a n => some (if hi = 0 then aluR (fun x => x <<< n.toNat) d a 2 else State.illegal)
  | .sshri d a n => some (if hi = 0 then aluR (fun x => x >>> n.toNat) d a 2 else State.illegal)
  | .ssrai d a n => some (if hi = 0 then aluR (fun x => x.sshiftRight n.toNat) d a 2 else State.illegal)
  | .scmpi k c a i => some (fun s => s.whenReady [a] (compare k c a (fun _ => imm38 hi i) 2))
  | .sldw d a i => some (load 4 d a (imm38 hi i) 2)
  | .sldd d a i => some (load 8 d a (imm38 hi i) 2)
  | .sstw d a i => some (store 4 d a (imm38 hi i) 2)
  | .sstd d a i => some (store 8 d a (imm38 hi i) 2)
  | .srd d n => some (if hi = 0 then sysRead d n 2 else State.illegal)
  | .swr a n => some (if hi = 0 then sysWrite a n 2 else State.illegal)
  | .fstatWrite a => some (if hi = 0 then userWrite a Team.setFstat 2 else State.illegal)
  | .fmodeWrite a => some (if hi = 0 then userWrite a Team.setFmode 2 else State.illegal)
  | .srseedWrite a => some (if hi = 0 then userWrite a Team.setSrseed 2 else State.illegal)
  | .pkrWrite a => some (if hi = 0 then userWrite a Team.setPkr 2 else State.illegal)
  | .loopRegisterWrite a r => some (if hi = 0 then userWrite a (fun t x => t.setLoop r x) 2 else State.illegal)
  | _ => none

/-- An armed level ends at an address. -/
def endsLoop (t : Team) (a : Word) : Bool := ([0, 1, 2, 3] : List (BitVec 2)).any (fun k => t.armed.getLsbD k.toNat && t.le[k.toNat] == a)

/-- SEXT and the instruction behind it (R31). -/
def execSext (hi : BitVec 25) (s : State) : Out :=
  .next (if endsLoop s.cur s.cur.spc then s.illegal
    else match s.fetchWord (s.cur.spc + 4).toNat with
      | .error c => if isAwait c then s.askFar (.code s.cur.uid) c else s.trap c (s.cur.spc + 4)
      | .ok w =>
        match decodeScalar w with
        | .error _ => s.illegal
        | .ok i => match prefixed hi i with
          | some f => f s
          | none => s.illegal)

/-! ### Dispatch and waits (R59 to R61, R66, R129, R340) -/

/-- The lanes a block of the focused team starts with (R78, R340). -/
def Team.startLanes (t : Team) : List Nat :=
  match t.inv with
  | none => upTo 0 t.kern.lanesN
  | some v =>
    let held : List Nat := match t.userWork with
      | some w => (w.paths.filter (fun (p : Path) => p.state == PathState.held && v.paths.contains p.idx)).flatMap Path.lanes
      | none => []
    sortNat (held.filter (fun l => l / t.kern.gwidth == v.group && t.hmask.getLsbD (l % t.kern.gwidth)))

/-- The block an LGO enqueues (R59). -/
def Team.newBlock (t : Team) (entry : Nat) : Block :=
  { seq := t.blocks, entry := entry,
    snap := { s := t.sregs, fmode := t.fmode, pkr := t.pkr, seed := if t.seedSet then some t.srseed else none },
    pend := t.code.writeSet, lanes := t.startLanes, handler := t.inv.isSome, arr := t.arrives, rec_ := t.liveRec }

/-- LGO (R59). -/
def execLgo (i : BitVec 19) (s : State) : Out :=
  .next (let t := s.cur
    if 8 ≤ t.queue.length ∨ t.anyPending then s
    else
      let t := { t with queue := t.queue ++ [t.newBlock i.toNat], blocks := t.blocks + 1, seedSet := false }
      (State.settle { s with cur := t }).advance 1)

/-- The condition of LWAIT (R60). -/
def Team.lanesDone (t : Team) : Bool := t.lanesIdle && !t.anyPending

/-- LWAIT (R60). -/
def execLwait (s : State) : Out := .next (if s.cur.lanesDone then s.advance 1 else s)

/-- The wait of WAITT ends (R61). -/
def State.endWait (s : State) : State := State.advance { s with cur := { s.cur with wait := none } } 1

/-- WAITT (R61). -/
def execWaitt (a : Reg) (s : State) : Out :=
  .next (s.whenReady [a] (fun s =>
    let x := s.cur.s a
    if x.toNat ≤ s.gtc then s.endWait else { s with cur := { s.cur with wait := some (.waitt x) } }))

/-- WAITT_GTC_REACHED (R61). -/
def execWaittGtcReached (s : State) : Out :=
  .next (match s.cur.wait with
    | some (.waitt x) => if x.toNat ≤ s.gtc && s.cur.status == .running && !s.halted s.cur.ctx then s.endWait else s
    | _ => s)

/-- TFENCE (R66). -/
def execTfence (s : State) : Out :=
  .next (if s.cur.lanesDone then (if s.cur.arith then s.trap codeArith 0 else s.advance 1) else s)

/-- TRAP (R64). -/
def execTrap (n : BitVec 16) (s : State) : Out := .next (s.takeTrap { FaultInfo.plain codeTrapInstr 0 with op := n.toNat })

/-- TRET (R65, R342). -/
def execTret (s : State) : Out :=
  .next (s.supervisorOnly (fun s => if s.cur.lanesDone then s.trapReturn else s))

/-- HANDLER_ENTRY (R338). -/
def execHandlerEntry (s : State) : Out :=
  .next (if s.cur.status == .running && s.cur.wantsHandler && s.cur.sent.isEmpty && !s.halted s.cur.ctx then { s with cur := s.cur.enter } else s)

/-- PHINT (R67). -/
def execPhint (i : BitVec 19) (s : State) : Out :=
  .next (State.advance { s with cur := { s.cur with liveRec := some (s.cur.spc + (i.signExtend 64 <<< 2)) } } 1)

/-- The waits of SHALT (R55). -/
def State.haltReady (s : State) : Bool :=
  s.cur.lanesDone && s.cur.mvq.isEmpty && s.cur.mxq.isEmpty && s.cur.fired.isEmpty && s.cur.sent.isEmpty
    && !s.reqs.any (fun r => r.uid == s.cur.uid)

/-- SHALT (R55). -/
def execShalt (s : State) : Out := .next (if s.haltReady then s.endTeam .complete else s)

/-! ### Mapping (R68, R214) -/

/-- log2 of a page size. -/
def pageLog2 : PageSize → Nat | .k64 => 16 | .m2 => 21 | .g1 => 30

/-- The free frames of a size in a pool. -/
def Pool.free (p : Pool) : PageSize → List Nat | .k64 => p.k64 | .m2 => p.m2 | .g1 => p.g1

/-- The frames of a size in a pool replaced. -/
def Pool.setFree (p : Pool) (z : PageSize) (xs : List Nat) : Pool :=
  match z with | .k64 => { p with k64 := xs } | .m2 => { p with m2 := xs } | .g1 => { p with g1 := xs }

/-- The walk of R68 above the leaf's level: `none` where an entry fails a check of R209 (NO_TABLE), else the key of the
first entry with V = 0 with the levels still to come, or whether something is mapped already. -/
inductive WalkEnd where
  | bad
  | mapped
  | gap (entry : Nat) (levels : List (Nat × Nat × Bool))
  deriving DecidableEq, Repr

/-- An entry that fails R209 although its V is 1. -/
def entryWrong (e sh : Nat) (leafOk last : Bool) : Bool :=
  bitsNat e 63 48 != 0 || bitAt e 11
    || (if bitAt e 1 then !leafOk || entryAddr e % 2 ^ sh != 0 || decide (Config.dramBytes < entryAddr e + 2 ^ sh)
        else last || decide (Config.dramBytes ≤ entryAddr e))

/-- Some page below a table is mapped. -/
def subMapped (m : Memory) (sett : Nat) : List (Nat × Nat × Bool) → Nat → Bool
  | [], _ => false
  | (sh, n, leafOk) :: ls, table =>
    (upTo 0 (2 ^ n)).any (fun i =>
      let e := m.getNat (Config.dramKey sett (table + 8 * i)) 8
      bitAt e 0 && !entryWrong e sh leafOk ls.isEmpty && (bitAt e 1 || subMapped m sett ls (entryAddr e)))

/-- R68: the walk to a page of `2 ^ log2` bytes. Where a table maps nothing and stands at the place of the leaf, the leaf replaces it and
its slots are dropped: the spec is silent on that table (DESIGN CHOICE, log entry 121). -/
def mapWalk (m : Memory) (sett off log2 : Nat) : List (Nat × Nat × Bool) → Nat → WalkEnd
  | [], _ => .bad
  | (sh, n, leafOk) :: ls, table =>
    let k := Config.dramKey sett (table + 8 * (off / 2 ^ sh % 2 ^ n))
    let e := m.getNat k 8
    if !bitAt e 0 then .gap k ((sh, n, leafOk) :: ls)
    else if entryWrong e sh leafOk ls.isEmpty then .bad
    else if bitAt e 1 then .mapped
    else if sh = log2 then (if subMapped m sett ls (entryAddr e) then .mapped else .gap k ((sh, n, leafOk) :: ls))
    else mapWalk m sett off log2 ls (entryAddr e)

/-- Table slots a mapping needs: one for each level below the gap down to the leaf's. -/
def slotsNeeded (log2 : Nat) (ls : List (Nat × Nat × Bool)) : Nat := (ls.filter (fun x => decide (log2 < x.1))).length

/-- Table slots made available: free ones, else those of a free 64 KiB frame (R68). -/
def Pool.needSlots (p : Pool) (n : Nat) : Option Pool :=
  if n ≤ p.slots.length then some p
  else match p.k64 with
    | [] => none
    | f :: fs => some { p with k64 := fs, slots := p.slots ++ (upTo 0 16).map (fun i => f + 4096 * i) }

/-- A leaf entry (R209) with CMP = 0. -/
def leafEntry (frame : Nat) (key : BitVec 5) (x w r : Bool) : Nat :=
  frame + key.toNat * 2 ^ 5 + b2n x * 2 ^ 4 + b2n w * 2 ^ 3 + b2n r * 2 ^ 2 + 3

/-- Tables linked level by level from a gap, and the leaf put in: the memory and the table slots left. -/
def linkTables (m : Memory) (sett off log2 leaf : Nat) : List (Nat × Nat × Bool) → Nat → List Nat → Memory × List Nat
  | [], _, slots => (m, slots)
  | (sh, _, _) :: ls, k, slots =>
    if sh = log2 then (m.setNat k 8 leaf, slots)
    else match ls, slots with
      | (sh', n', _) :: _, t :: slots =>
        let m := (m.clear (Config.dramKey sett t) 4096).setNat k 8 (t + 1)
        linkTables m sett off log2 leaf ls (Config.dramKey sett (t + 8 * (off / 2 ^ sh' % 2 ^ n'))) slots
      | _, _ => (m, slots)

/-- Lines of a frame back to RAW: its bytes are filled anew. -/
def State.rawLines (s : State) (k n : Nat) : State :=
  { s with packed := s.packed.filter (fun x => decide (x.1 < k / 128) || decide ((k + n) / 128 ≤ x.1)) }

/-- R68 at the owning sett's translation unit: the status and the state after it. A withdrawn sett reports POOL_EMPTY (R371). -/
def State.mapPage (s : State) (ctx sett off : Nat) (size : PageSize) (key : BitVec 5) (x w r : Bool) : Nat × State :=
  let page := off / 2 ^ pageLog2 size * 2 ^ pageLog2 size
  if (s.sett sett).withdrawn then (2, s) else
  match (s.ctx? ctx).bind (fun c => (FMap.get? c.roots sett).map (fun root => (c, root))) with
  | none => (3, s)
  | some (c, root) =>
    if Config.dramBytes ≤ root then (3, s)
    else match mapWalk s.mem sett page (pageLog2 size) walkLevels root with
    | .bad => (3, s)
    | .mapped => (1, s)
    | .gap k levels =>
      let pool := FMap.getD c.pools sett { k64 := [], m2 := [], g1 := [], slots := [] }
      let need := slotsNeeded (pageLog2 size) levels
      let res : Option (Nat × Pool) := match pool.free size with
        | [] => none
        | f :: fs => ((pool.setFree size fs).needSlots need).map (fun p => (f, p))
      match res with
      | none => (2, s)
      | some (f, pool) =>
        let m := s.mem.clear (Config.dramKey sett f) (2 ^ pageLog2 size)
        let (m, slots) := linkTables m sett page (pageLog2 size) (leafEntry f key x w r) levels k pool.slots
        let s := { s with mem := m }.rawLines (Config.dramKey sett f) (2 ^ pageLog2 size)
        (0, s.setCtx ctx (fun c => { c with pools := FMap.set c.pools sett { pool with slots := slots } }))

/-- 64 KiB pages of a block that are mapped. -/
def State.mappedIn (s : State) (ctx sett block n : Nat) : List Nat :=
  (upTo 0 n).filter (fun i => (s.walk ctx sett (block + 0x10000 * i)).isSome)

/-- Pages mapped one after another. -/
def mapAll (ctx sett : Nat) (key : BitVec 5) (x w r : Bool) : List Nat → State → State
  | [], s => s
  | p :: ps, s => mapAll ctx sett key x w r ps (s.mapPage ctx sett p .k64 key x w r).2

/-- The widening of R214 for blocks of `2 ^ b` bytes. -/
def widen (ctx sett page : Nat) (key : BitVec 5) (x w r : Bool) : List Nat → State → State
  | [], s => s
  | b :: bs, s =>
    let block := page / 2 ^ b * 2 ^ b
    let n := 2 ^ b / 0x10000
    let have_ := s.mappedIn ctx sett block n
    let missing := (upTo 0 n).filter (fun i => !have_.contains i)
    let room := match s.ctx? ctx with
      | some c => (FMap.getD c.pools sett { k64 := [], m2 := [], g1 := [], slots := [] }).k64.length
      | none => 0
    if 2 * have_.length ≤ n ∨ room < missing.length then s
    else widen ctx sett page key x w r bs (mapAll ctx sett key x w r (missing.map (fun i => block + 0x10000 * i)) s)

/-- PGMAP of a page of this package with its widening (R68, R214). -/
def State.pgmapHere (s : State) (sett off : Nat) (size : PageSize) (key : BitVec 5) (x w r : Bool) : Nat × State :=
  let (st, s) := s.mapPage s.cur.ctx sett off size key x w r
  if st = 0 ∧ size = .k64 then (0, widen s.cur.ctx sett (off / 0x10000 * 0x10000) key x w r [17, 18, 19, 20, 21] s) else (st, s)

/-- What a PGMAP request carries beside its address. -/
def pgmapData (size : PageSize) (key : BitVec 5) (x w r : Bool) : List Byte :=
  bytesOf 2 ((match size with | .k64 => 0 | .m2 => 1 | .g1 => 2) + key.toNat * 4 + b2n r * 2 ^ 7 + b2n w * 2 ^ 8 + b2n x * 2 ^ 9)

/-- PGMAP (R68). -/
def execPgmap (a b : Reg) (x w r : Bool) (key : BitVec 5) (size : PageSize) (s : State) : Out :=
  .next (s.supervisorOnly (fun s => s.whenReady [a, b] (fun s =>
    let va := s.cur.s a
    let n := va.toNat
    let sett := bitsNat n 53 48
    if bitsNat n 63 60 ≠ 0 ∨ 48 ≤ sett then s.trap codeGvaFormat va
    else if !s.inDomain (bitsNat n 59 54) then s.trap codeRemoteUnreach va
    else match s.reach (bitsNat n 59 54) with
      | .own =>
        let (st, s) := s.pgmapHere sett (bitsNat n 47 0) size key x w r
        s.result 1 b (BitVec.ofNat 64 st)
      | .dark => s
      | .none => s.trap codeRemoteUnreach va
      | .lit =>
        match s.remoteScalar 5 n 8 (pgmapData size key x w r) with
        | .ok bs s => s.result 1 b (BitVec.ofNat 64 (natOf bs))
        | .trap c s => s.trap c va
        | .wait s => s)))

/-! ### Energy (R69) -/

/-- The account of the focused team's context in its sett, changed. -/
def State.setAccount (s : State) (f : Account → Account) : State :=
  s.setCtx s.cur.ctx (fun c => { c with
    accounts := FMap.set c.accounts s.cur.sett (f (FMap.getD c.accounts s.cur.sett { balance := 0, rem := 0 })) })

/-- BALANCE of the focused team's context in its sett. -/
def State.balance (s : State) : Nat :=
  match s.curCtx with
  | some c => (FMap.getD c.accounts s.cur.sett { balance := 0, rem := 0 }).balance
  | none => 0

/-- A reservation of R69: released where the amount is 0, taken where ENACC covers it; none where it does not. What is released is
added without a limit (DESIGN CHOICE, log entry 122). -/
def State.reserveEnergy (s : State) (amt : Nat) : Option State :=
  if amt = 0 then
    some { (s.setAccount (fun a => { a with balance := a.balance + s.cur.reserve })) with cur := { s.cur with reserve := 0 } }
  else if amt ≤ s.balance then
    some { (s.setAccount (fun a => { a with balance := a.balance - amt })) with cur := { s.cur with reserve := s.cur.reserve + amt } }
  else none

/-- ENRES (R69). -/
def execEnres (a : Reg) (s : State) : Out :=
  .next (s.whenReady [a] (fun s => match s.reserveEnergy (s.cur.s a).toNat with
    | some s => s.advance 1
    | none => s))

/-- ENRES.NOWAIT (R69). -/
def execEnresNowait (a : Reg) (c : Bit3) (s : State) : Out :=
  .next (s.whenReady [a] (fun s =>
    let amt := (s.cur.s a).toNat
    match s.reserveEnergy amt with
    | some s => if amt = 0 then s.advance 1 else s.resultC 1 c true
    | none => s.resultC 1 c false))

end Sys2Proof.Machine
end

