-- ==== Sys2Proof/Machine/Engine.lean ====
section
/-!
DEFINITION. The scalar instructions that define channels and issue commands to the mover and the matrix engine, and
that wait for them: their checks and their queues (R264, R267 to R271, R297 to R316).
-/

namespace Sys2Proof.Machine

/-! ### Structures in memory (R298) -/

/-- `n` 8-byte words read as SLDD reads them. -/
def State.loadWords (s : State) (a : Nat) : Nat → Acc (List Byte)
  | 0 => .ok [] s
  | n + 1 =>
    match s.scalarLoad a 8 with
    | .trap c s => .trap c s
    | .wait s => .wait s
    | .ok bs s =>
      match State.loadWords s (a + 8) n with
      | .trap c s => .trap c s
      | .wait s => .wait s
      | .ok cs s => .ok (bs ++ cs) s

/-- A structure of `n` words at an address of window 0x0 or 0x8; one of another package is asked for as a whole. -/
def State.readWords (s : State) (a n : Nat) : Acc (List Byte) :=
  if a / 2 ^ 60 = 0 ∧ bitsNat a 59 54 ≠ s.ownPkg then
    if gvaBad .scalar a then .trap codeGvaFormat s
    else if !s.inDomain (bitsNat a 59 54) then .trap codeRemoteUnreach s
    else match s.reach (bitsNat a 59 54) with
      | .lit | .own =>
        (match s.remoteKeep Kind.load.op a (8 * n) [] with
         | .ok bs s => .ok (padBytes (8 * n) bs) s
         | x => x)
      | .dark => .wait s
      | .none => .trap codeRemoteUnreach s
  else s.loadWords a n

/-- The address rule of R298. -/
def structOk (a align : Nat) : Bool := (a / 2 ^ 60 == 0 || a / 2 ^ 60 == 8) && a % align == 0

/-- Rejection with ENGINE_DESC (R297). -/
def State.reject (s : State) (addr : Nat) : State := (s.clearRemote).trap codeEngineDesc (BitVec.ofNat 64 addr)

/-- What an instruction has read stays with it until it is done (R298). -/
def State.holdStruct (s : State) (bs : List Byte) : State := { s with cur := { s.cur with wait := some (.struct bs) } }

/-- An instruction that had read a structure is done. -/
def State.dropStruct (s : State) : State :=
  match s.cur.wait with
  | some (.struct _) => { s with cur := { s.cur with wait := none } }
  | _ => s

/-- The 64-byte structure an instruction names, and what it does with its bytes: it is read once (R298). -/
def State.withStruct (s : State) (a : Nat) (f : List Byte → State → State) : State :=
  match s.cur.wait with
  | some (.struct bs) => f bs s
  | _ =>
    if !structOk a 64 then s.reject 0
    else match s.readWords a 8 with
      | .ok bs s => f bs (s.holdStruct bs)
      | .trap _ s => s.reject 0
      | .wait s => s

/-- A little-endian field of a structure. -/
def fieldAt (bs : List Byte) (a n : Nat) : Nat := natOf ((bs.drop a).take n)

/-- An address sum modulo 2^64. -/
def addrAdd (a : Nat) (d : Int) : Nat := (((a : Int) + d) % 2 ^ 64).toNat

/-! ### Extents (R271) -/

/-- Bytes up to the end of a 4 KiB unit, or of a 64 KiB unit for global addresses. -/
def unitLeft (a : Nat) : Nat := if a / 2 ^ 60 = 0 then 0x10000 - a % 0x10000 else 4096 - a % 4096

/-- The verdict on an extent: good, a wait for another package, or the lowest failing address. -/
inductive Extent where
  | good (s : State)
  | bad (a : Nat) (s : State)
  | wait (s : State)

/-- An address beyond a window's limit: the lowest byte of `[a, a + n)` that fails. -/
def overLimit (a n limit : Nat) : Option Nat :=
  if limit < winOff a + n then some (a + (limit - winOff a)) else none

/-- R271 for bytes within one unit. -/
def State.unitCheck (s : State) (a n : Nat) (wr dec : Bool) : Extent :=
  let t := s.cur
  let verdict (o : Option Nat) : Extent := match o with | some x => .bad x s | none => .good s
  if gvaBad .engine a then .bad a s
  else match a / 2 ^ 60 with
    | 0x0 =>
      let pkg := bitsNat a 59 54
      if !s.inDomain pkg then .bad a s
      else match s.reach pkg with
        | .none => .bad a s
        | .dark => .wait s
        | .lit =>
          (match s.remoteKeep (if wr then 15 else 6) a n (bytesOf 1 (b2n wr + 2 * b2n dec)) with
           | .ok _ s => .good s
           | .trap _ s => .bad a s
           | .wait s => .wait s)
        | .own =>
          match s.ownerCheck t.ctx (bitsNat a 53 48) (bitsNat a 47 0) (if wr then .store else .load) t.pkr with
          | .error _ => .bad a s
          | .ok l => if dec && !l.cmp then .bad a s else .good s
    | 0x9 => verdict (overLimit a n t.cmsize)
    | 0xA => verdict (overLimit a n t.kspsize)
    | w =>
      let limit := if w = 0x8 then t.kern.scratch else t.kern.lanesN * t.kern.lanepriv
      if limit ≤ winOff a then .bad a s
      else if (sttBad t .engine a wr).isSome then .bad a s
      else verdict (overLimit a n limit)

/-- R271 for an extent; `fuel` bounds its units. -/
def extentCheck (wr dec : Bool) : Nat → Nat → Nat → State → Extent
  | 0, _, _, s => .good s
  | fuel + 1, a, n, s =>
    if n = 0 then .good s
    else
      let k := min n (unitLeft a)
      match s.unitCheck a k wr dec with
      | .good s => extentCheck wr dec fuel ((a + k) % 2 ^ 64) (n - k) s
      | r => r

/-- Extents checked one after another: the lowest failing address of all. -/
def extentsCheck (wr dec : Bool) : List (Nat × Nat) → Option Nat → State → Extent
  | [], none, s => .good s
  | [], some a, s => .bad a s
  | (a, n) :: xs, low, s =>
    match extentCheck wr dec (n / 4096 + 3) a n s with
    | .wait s => .wait s
    | .good s => extentsCheck wr dec xs low s
    | .bad b s => extentsCheck wr dec xs (some (match low with | some c => min b c | none => b)) s

/-- The S and L pages of an extent (R200). -/
def pagesOf (t : Team) (a n : Nat) : List Nat :=
  if a / 2 ^ 60 = 8 ∨ a / 2 ^ 60 = 0xB then
    let b := spByte t .engine a
    upTo (b / 4096) ((b + n + 4095) / 4096 - b / 4096)
  else []

/-! ### Channels (R267 to R269, R301 to R303) -/

/-- The slot of a channel, where it is defined. -/
def Team.chan (t : Team) (h : Nat) : Option Chan := (FMap.get? t.chans h).filter Chan.defd

/-- Entries of a channel. -/
def Chan.n (c : Chan) : Nat := 2 ^ c.log2n
/-- Bytes of an entry. -/
def Chan.bytes (c : Chan) : Nat := c.esize * 128
/-- P - QC: entries produced and not yet claimed (R268). -/
def Chan.ready (c : Chan) : Nat := (c.p - c.qc).toNat
/-- Q + n - PC: free room (R268). -/
def Chan.room (c : Chan) : Nat := (c.q + BitVec.ofNat 32 c.n - c.pc).toNat
/-- Address of byte `o` counted from entry `i`. -/
def Chan.addr (c : Chan) (i o : Nat) : Nat := c.base.toNat + (i + o / c.bytes) % c.n * c.bytes + o % c.bytes

/-- A slot changed. -/
def Team.setChan (t : Team) (h : Nat) (f : Chan → Chan) : Team := { t with chans := FMap.modify t.chans h f }

/-- The channel slots a command names (R299). -/
def EngOp.slots : EngOp → List Nat
  | .mover _ d => d.inch.toList ++ d.outch.toList
  | .tmma _ _ _ _ ha hb => [ha, hb]
  | .tacc .zero _ _ => []
  | .tacc _ _ h => [h]
  | .spanMma _ _ _ ha hb => [ha, hb]
  | _ => []

/-- The commands of a team that are issued and not completed. -/
def Team.inFlight (t : Team) : List EngCmd := t.mvq ++ t.mxq ++ t.fired.map Fired.cmd

/-- CHDEF (R301). -/
def execChdef (a b : Reg) (l : BitVec 4) (h : BitVec 5) (s : State) : Out :=
  .next (s.whenReady [a, b] (fun s =>
    let t := s.cur
    let base := (t.s a).toNat
    let e := (t.s b).toNat
    if (base / 2 ^ 60 != 8 && base / 2 ^ 60 != 9) || base % 128 != 0 || e == 0 || decide (512 < e)
        || t.inFlight.any (fun c => c.op.slots.contains h.toNat) then s.reject 0
    else match extentCheck false false 0x2000 base (2 ^ l.toNat * e * 128) s with
      | .wait s => s
      | .bad x s => s.reject x
      | .good s =>
        let c : Chan := { defd := true, base := t.s a, esize := e, log2n := l.toNat, p := 0, q := 0, pc := 0, qc := 0,
                          outs := [], ins := [], arrive := [] }
        State.advance { s with cur := { s.cur with chans := FMap.set s.cur.chans h.toNat c } } 1))

/-- CHADV.P (R269, R302): the entries it publishes wait for the blocks enqueued before it. -/
def execChadvP (a : Reg) (h : BitVec 5) (s : State) : Out :=
  .next (s.whenReady [a] (fun s =>
    let k := (s.cur.s a).toNat
    match s.cur.chan h.toNat with
    | none => s.reject 0
    | some c =>
      if k = 0 then s.advance 1
      else if c.n < k ∨ c.room < k then s.reject 0
      else
        let kk := BitVec.ofNat 32 k
        State.advance { s with cur := s.cur.setChan h.toNat (fun c => { c with
          pc := c.pc + kk, p := c.p + kk, arrive := c.arrive ++ [(c.p, k, s.cur.blocks)] }) } 1))

/-- CHADV.C (R269, R302). -/
def execChadvC (a : Reg) (h : BitVec 5) (s : State) : Out :=
  .next (s.whenReady [a] (fun s =>
    let k := (s.cur.s a).toNat
    match s.cur.chan h.toNat with
    | none => s.reject 0
    | some c =>
      if k = 0 then s.advance 1
      else if c.n < k ∨ c.ready < k then s.reject 0
      else
        let kk := BitVec.ofNat 32 k
        State.advance { s with cur := s.cur.setChan h.toNat (fun c => { c with qc := c.qc + kk, q := c.q + kk }) } 1))

/-- The wait of CHWAIT on a quantity of the channel (R303). -/
def chwait (quantity : Chan → Nat) (a : Reg) (h : BitVec 5) (s : State) : State :=
  s.whenReady [a] (fun s =>
    let k := (s.cur.s a).toNat
    match s.cur.chan h.toNat with
    | none => s.reject 0
    | some c => if c.n < k then s.reject 0 else if k ≤ quantity c then s.advance 1 else s)

def execChwaitCnt (a : Reg) (h : BitVec 5) (s : State) : Out := .next (chwait Chan.ready a h s)
def execChwaitRoom (a : Reg) (h : BitVec 5) (s : State) : Out := .next (chwait Chan.room a h s)

/-! ### Queues (R264, R235, R311) -/

/-- Markers at the head of a queue leave it (R265). -/
def dropMarks : List EngCmd → List EngCmd
  | [] => []
  | c :: cs => match c.op with | .marker _ => dropMarks cs | _ => c :: cs

/-- A command made of an operation, as the scalar stream issues it now. -/
def State.command (s : State) (op : EngOp) : EngCmd :=
  { id := s.tick, op := op, pkr := s.cur.pkr, arr := s.cur.arrives, need := s.cur.need }

/-- A command that passed its checks enters its queue, or waits for room (R264, R299); its number is its own from its issue on
(R265). -/
def State.enqueueCmd (s : State) (matrix : Bool) (cmd : EngCmd) : State :=
  let t := s.cur
  if 16 ≤ (if matrix then t.mxq else t.mvq).length then
    let n := match t.wait with | some (.queue _ _) => s.tick | _ => s.tick + 1
    { s with cur := { t with wait := some (.queue matrix cmd), sent := [], replies := [] }, tick := n }
  else
    let t : Team := if matrix then { t with mxq := t.mxq ++ [cmd] } else { t with mvq := t.mvq ++ [cmd] }
    State.advance { s with cur := { t with wait := none, sent := [], replies := [] }, tick := s.tick + 1 } 1

/-- An engine instruction: one that waits for room goes on waiting, else `f` checks and issues it. -/
def State.issue (s : State) (regs : List Reg) (f : State → State) : State :=
  match s.cur.wait with
  | some (.queue matrix cmd) => s.enqueueCmd matrix cmd
  | _ => s.whenReady regs f

/-- TARRIVE (R311): a marker in both queues; later commands wait for the blocks enqueued so far. -/
def execTarrive (s : State) : Out :=
  .next (let t := s.cur
    if 16 ≤ t.mvq.length ∨ 16 ≤ t.mxq.length then s
    else
      let arr := t.arrives + 1
      let c : EngCmd := { id := s.tick, op := .marker t.blocks, pkr := t.pkr, arr := arr, need := t.blocks }
      let low := (t.inFlight.map EngCmd.arr ++ t.unwaited.map Unwaited.arr).foldl min arr
      State.advance { s with
        cur := { t with mvq := dropMarks (t.mvq ++ [c]), mxq := dropMarks (t.mxq ++ [c]), arrives := arr, need := t.blocks,
                        wlog := t.wlog.filter (fun x => decide (low ≤ x.2.2)) },
        tick := s.tick + 1 } 1)

/-- Nothing of the matrix queue is outstanding: commands, markers aside. -/
def Team.matrixDone (t : Team) : Bool :=
  !(t.mxq.any (fun c => match c.op with | .marker _ => false | _ => true))
    && !(t.fired.any (fun f => match f.cmd.op with | .mover _ _ => false | _ => true))

/-- Nothing of the mover queue is outstanding. -/
def Team.moverDone (t : Team) : Bool :=
  !(t.mvq.any (fun c => match c.op with | .marker _ => false | _ => true))
    && !(t.fired.any (fun f => match f.cmd.op with | .mover _ _ => true | _ => false))

/-- TWAIT (R312): the span status is delivered and cleared; it is the matching TWAIT of what it waited for (R236). -/
def execTwait (d : Reg) (w : WaitSel) (s : State) : Out :=
  .next (s.whenReady [d] (fun s =>
    let t := s.cur
    let m := w == .matrix || w == .both
    if (m && !t.matrixDone) || ((w == .mover || w == .both) && !t.moverDone) then s
    else
      let x : Word := t.spanStatus.setWidth 64
      State.result { s with cur := { t with spanStatus := 0, unwaited := if m then [] else t.unwaited } } 1 d x))

/-! ### Mover commands (R304 to R307) -/

/-- A channel side of a descriptor: nothing, a slot, or a broken field. -/
def sideOf (t : Team) (x cnt : Nat) : Option (Option Nat) :=
  if bitsNat x 6 5 ≠ 0 then none
  else if bitAt x 7 then
    match t.chan (x % 32) with
    | some c => if 1 ≤ cnt ∧ cnt ≤ c.n then some (some (x % 32)) else none
    | none => none
  else if cnt = 0 then some none else none

/-- The descriptor of a mover instruction, its field limits checked (R304). -/
def parseMover (t : Team) (bs : List Byte) : Option MvDesc :=
  let rowlen := fieldAt bs 16 4
  let rows := fieldAt bs 20 4
  match sideOf t (fieldAt bs 32 1) (fieldAt bs 34 1), sideOf t (fieldAt bs 33 1) (fieldAt bs 35 1) with
  | some i, some o =>
    if 1 ≤ rowlen ∧ rowlen ≤ 2 ^ 24 ∧ 1 ≤ rows ∧ rows ≤ 65536 ∧ rowlen * rows ≤ 2 ^ 26 ∧ fieldAt bs 36 4 = 0
        ∧ fieldAt bs 48 16 = 0 then
      some { src := BitVec.ofNat 64 (fieldAt bs 0 8), dst := BitVec.ofNat 64 (fieldAt bs 8 8), rowlen := rowlen, rows := rows,
             sstride := sextNat (fieldAt bs 24 4) 32, dstride := sextNat (fieldAt bs 28 4) 32, inch := i, outch := o,
             incnt := fieldAt bs 34 1, outcnt := fieldAt bs 35 1, aux := BitVec.ofNat 64 (fieldAt bs 40 8) }
    else none
  | _, _ => none

/-- The offsets of a channel side lie below count x E (R304). -/
def offsetsOk (start : Nat) (stride : Int) (rowlen rows limit : Nat) : Bool :=
  let first : Int := sextNat start 64
  let last : Int := first + stride * ((rows : Int) - 1)
  decide (0 ≤ min first last) && decide (max first last + rowlen ≤ limit)

/-- A channel side's offsets are good, where the side is a channel's. -/
def sideOk (t : Team) (h : Option Nat) (cnt : Nat) (start : Word) (stride : Int) (rowlen rows : Nat) : Bool :=
  match h.bind t.chan with
  | some c => offsetsOk start.toNat stride rowlen rows (cnt * c.bytes)
  | none => true

/-- The row addresses of an absolute side. -/
def rowsOf (start : Word) (stride : Int) (rowlen rows : Nat) : List (Nat × Nat) :=
  (upTo 0 rows).map (fun (i : Nat) => (addrAdd start.toNat (stride * (i : Int)), rowlen))

/-- Pages a channel side counts for R200. -/
def sidePages (t : Team) (h : Option Nat) (cnt : Nat) : Nat :=
  match h.bind t.chan with
  | some c => if c.base.toNat / 2 ^ 60 = 8 then (cnt * c.bytes + 4095) / 4096 + 1 else 0
  | none => 0

/-- The extents of a command that are checked at issue: sources and destinations. -/
def moverExtents (k : MvKind) (d : MvDesc) : List (Nat × Nat) × List (Nat × Nat) :=
  ((match k with
    | .gath list => list.map (fun a => (a.toNat, d.rowlen))
    | .fill => []
    | _ => if d.inch.isSome then [] else rowsOf d.src d.sstride d.rowlen d.rows),
   if d.outch.isSome then [] else rowsOf d.dst d.dstride d.rowlen d.rows)

/-- The pages a command references outside its channels, and the count of R200. -/
def moverPages (t : Team) (k : MvKind) (d : MvDesc) : List Nat :=
  let (src, dst) := moverExtents k d
  sortNat ((src ++ dst).flatMap (fun x => pagesOf t x.1 x.2))

/-- Extents and pages of a checked descriptor, and its issue (R271, R299). -/
def State.issueMover (s : State) (k : MvKind) (d : MvDesc) : State :=
  let (src, dst) := moverExtents k d
  match extentsCheck false (k == .dec) src none s with
  | .wait s => s
  | r =>
    let (low, s) : Option Nat × State := match r with | .bad a s => (some a, s) | .good s => (none, s) | .wait s => (none, s)
    match extentsCheck true false dst low s with
    | .wait s => s
    | .bad a s => s.reject a
    | .good s =>
      if 64 < (moverPages s.cur k d).length + sidePages s.cur d.inch d.incnt + sidePages s.cur d.outch d.outcnt then s.reject 0
      else s.enqueueCmd false (s.command (.mover k d))

/-- A mover instruction: `ok` is the instruction's own rule for the descriptor, read from its bytes. -/
def State.moverInstr (s : State) (a : Reg) (ok : List Byte → MvDesc → Bool) (run : MvDesc → Nat → State → State) : State :=
  s.issue [a] (fun s =>
    let at_ := (s.cur.s a).toNat
    s.withStruct at_ (fun bs s =>
      match parseMover s.cur bs with
      | none => s.reject at_
      | some d =>
        if ok bs d && sideOk s.cur d.inch d.incnt d.src d.sstride d.rowlen d.rows
            && sideOk s.cur d.outch d.outcnt d.dst d.dstride d.rowlen d.rows then run d at_ s
        else s.reject at_))

/-- MVCOPY (R305). -/
def execMvcopy (a : Reg) (dec : Bool) (s : State) : Out :=
  .next (s.moverInstr a
    (fun _ d => d.aux == 0 && (!dec || (d.inch.isNone && d.src.toNat / 2 ^ 60 == 0 && d.src.toNat % 128 == 0
      && d.sstride % 128 == 0 && d.rowlen % 128 == 0)))
    (fun d _ s => s.issueMover (if dec then .dec else .copy) d))

/-- MVGATH (R306): the list of rows is read once, after the descriptor (R298). -/
def execMvgath (a : Reg) (s : State) : Out :=
  .next (s.moverInstr a
    (fun _ d => d.src == 0 && d.sstride == 0 && d.inch.isNone && structOk d.aux.toNat 8)
    (fun d _ s =>
      let issue (bs : List Byte) (s : State) : State :=
        s.issueMover (.gath ((upTo 0 d.rows).map (fun i => BitVec.ofNat 64 (fieldAt bs (64 + 8 * i) 8)))) d
      match s.cur.wait with
      | some (.struct bs) =>
        if 64 < bs.length then issue bs s
        else
          (match extentCheck false false (d.rows + 3) d.aux.toNat (8 * d.rows) s with
           | .wait s => s
           | .bad x s => s.reject x
           | .good s =>
             (match s.readWords d.aux.toNat d.rows with
              | .wait s => s
              | .trap _ s => s.reject d.aux.toNat
              | .ok list s => issue (bs ++ list) (s.holdStruct (bs ++ list))))
      | _ => s))

/-- MVFILL (R307). -/
def execMvfill (a : Reg) (s : State) : Out :=
  .next (s.moverInstr a (fun bs d => d.src == 0 && d.sstride == 0 && fieldAt bs 32 1 == 0) (fun d _ s => s.issueMover .fill d))

/-! ### Matrix commands (R308 to R310, R314, R315) -/

/-- The shape word (R308), its limits checked for `acctiles` tiles; `tail` says whether the tiles of the product are the
team's (R314). -/
def parseShape (w : Word) (acctiles : Nat) (tail : Bool) : Option Shape :=
  let x := w.toNat
  let sh : Shape := { m8 := bitsNat x 9 0, n16 := bitsNat x 19 10, k64 := bitsNat x 35 20, afmt := bitsNat x 40 36,
                      bfmt := bitsNat x 45 41, t := bitsNat x 55 46, mx := bitAt x 56 }
  let inFmt (c : Nat) : Bool := formatFamily c != 0
  if bitsNat x 63 57 = 0 ∧ 1 ≤ sh.m8 ∧ sh.m8 ≤ 512 ∧ 1 ≤ sh.n16 ∧ sh.n16 ≤ 512 ∧ 1 ≤ sh.k64 ∧ inFmt sh.afmt ∧ inFmt sh.bfmt
      ∧ (sh.mx → 13 ≤ sh.afmt ∧ sh.afmt ≤ 17 ∧ 13 ≤ sh.bfmt ∧ sh.bfmt ≤ 17) ∧ sh.t < 512
      ∧ (tail → sh.t + sh.m8 * sh.n16 ≤ acctiles) then some sh
  else none

/-- Elements along K of `k` operand bytes of a format (R138). -/
def elemsOf (fmt k : Nat) : Nat := if fmt = 17 then 2 * k else if fmt = 9 ∨ fmt = 10 then k / 2 else k

/-- Bytes of a panel of `rows` rows of `k` bytes, with its MX scales (R274, R309). -/
def panelBytes (rows k fmt : Nat) (mx : Bool) : Nat := rows * k + (if mx then rows * (elemsOf fmt k / 32) else 0)

/-- TMMA (R309). -/
def execTmma (a : Reg) (bord aord zero : Bool) (hb ha : BitVec 5) (s : State) : Out :=
  .next (s.issue [a] (fun s =>
    let t := s.cur
    match parseShape (t.s a) t.acctiles true, t.chan ha.toNat, t.chan hb.toNat with
    | some sh, some ca, some cb =>
      let k := 64 * sh.k64
      if formatFamily sh.afmt = formatFamily sh.bfmt ∧ (aord → formatFamily sh.afmt = 1) ∧ (bord → formatFamily sh.bfmt = 1)
          ∧ panelBytes (8 * sh.m8) k sh.afmt sh.mx ≤ ca.bytes ∧ panelBytes (16 * sh.n16) k sh.bfmt sh.mx ≤ cb.bytes then
        s.enqueueCmd true (s.command (.tmma sh zero aord bord ha.toNat hb.toNat))
      else s.reject 0
    | _, _, _ => s.reject 0))

/-- The tile word (R310), its limits checked; `scaled` says whether X may be set. -/
def parseTile (w : Word) (acctiles : Nat) (scaled : Bool) : Option TileWord :=
  let x := w.toNat
  let tw : TileWord := { t := bitsNat x 9 0, nt := bitsNat x 19 10, c16 := bitsNat x 29 20, x := bitsNat x 37 30 }
  if bitsNat x 63 38 = 0 ∧ 1 ≤ tw.nt ∧ tw.nt ≤ 512 ∧ 1 ≤ tw.c16 ∧ tw.c16 ≤ 512 ∧ tw.nt % tw.c16 = 0
      ∧ tw.t + tw.nt ≤ acctiles ∧ (scaled ∨ tw.x = 0) then some tw
  else none

/-- Bytes a TACC operation needs in its entry (R310). -/
def TaccOp.bytes (nt : Nat) : TaccOp → Nat
  | .zero => 0
  | .load | .store => 512 * nt
  | .storeBf16 => 256 * nt
  | .storeE4m3 _ => 128 * nt

/-- A TACC instruction (R310). -/
def taccInstr (op : TaccOp) (scaled : Bool) (a : Reg) (h : Nat) (s : State) : State :=
  s.issue [a] (fun s =>
    let t := s.cur
    match parseTile (t.s a) t.acctiles scaled with
    | none => s.reject 0
    | some tw =>
      let room := op == .zero || (match t.chan h with | some c => decide (op.bytes tw.nt ≤ c.bytes) | none => false)
      if room then s.enqueueCmd true (s.command (.tacc op tw h)) else s.reject 0)

def execTaccZero (a : Reg) (s : State) : Out := .next (taccInstr .zero false a 0 s)
def execTaccLoad (a : Reg) (h : BitVec 5) (s : State) : Out := .next (taccInstr .load false a h.toNat s)
def execTaccStore (a : Reg) (h : BitVec 5) (s : State) : Out := .next (taccInstr .store false a h.toNat s)
def execTaccStoreBf16 (a : Reg) (h : BitVec 5) (s : State) : Out := .next (taccInstr .storeBf16 false a h.toNat s)
def execTaccStoreE4m3 (a : Reg) (satf : Bool) (h : BitVec 5) (s : State) : Out :=
  .next (taccInstr (.storeE4m3 satf) true a h.toNat s)

/-! ### Spans (R277, R278, R313 to R315) -/

/-- The global columns a team stands for (R277, R313). -/
def Team.columns (t : Team) : List Nat :=
  let g := 16 * (t.sett % 8) + t.core % 16
  if t.pair then [g, g + 1] else [g]

/-- The identity of a span (R278). -/
def sameSpan (t u : Team) (m : SpanMember) : Bool :=
  match u.span with
  | some x => u.ctx == t.ctx && x.row == m.row && x.bench == m.bench && x.number == m.number && x.g0 == m.g0 && x.len == m.len
  | none => false

/-- SPANOPEN (R313). -/
def execSpanopen (a : Reg) (s : State) : Out :=
  .next (match s.cur.wait with
    | some .span =>
      (match s.cur.span with
       | some m => if m.opened then s.endWait else s
       | none => s)
    | _ => s.whenReady [a] (fun s =>
      let t := s.cur
      let x := (t.s a).toNat
      let m : SpanMember := { number := bitsNat x 5 0, g0 := bitsNat x 12 6, len := bitsNat x 20 13, row := t.sett / 8,
                              bench := t.core / 16, opened := false, broken := false }
      let inRange := t.columns.any (fun g => decide (m.g0 ≤ g) && decide (g < m.g0 + m.len))
      let taken := s.others.any (fun u => u.status == .running && sameSpan t u m && u.columns.any (fun g => t.columns.contains g))
      if bitsNat x 63 21 ≠ 0 ∨ m.len = 0 ∨ 128 < m.g0 + m.len ∨ !inRange ∨ s.benchOf t.sett ≤ m.bench ∨ taken
          ∨ t.span.isSome then s.reject 0
      else { s with cur := { t with span := some m, wait := some .span } }))

/-- SPANMMA (R314). -/
def execSpanmma (a : Reg) (keep zero : Bool) (ha hb : BitVec 5) (s : State) : Out :=
  .next (s.issue [a] (fun s =>
    let t := s.cur
    match t.span, parseShape (t.s a) t.acctiles (t.span.any (fun m => t.columns.contains (m.g0 + m.len - 1))), t.chan hb.toNat with
    | some m, some sh, some cb =>
      let head := t.columns.contains m.g0
      if m.opened && (!head || (t.chan ha.toNat).isSome)
          && decide (panelBytes (16 * sh.n16) (64 * sh.k64) sh.bfmt sh.mx ≤ cb.bytes) then
        s.enqueueCmd true (s.command (.spanMma sh zero keep ha.toNat hb.toNat))
      else s.reject 0
    | _, _, _ => s.reject 0))

/-- SPANCLOSE (R315). -/
def execSpanclose (s : State) : Out :=
  .next (s.issue [] (fun s =>
    match s.cur.span with
    | some m => if m.opened then s.enqueueCmd true (s.command .spanClose) else s.reject 0
    | none => s.reject 0))

/-! ### DFENCE (R220, R316) -/

/-- Every PACKED line of a range of a sett becomes RAW with the same value, and a line that a write through the uncompressed
view left PACKED with its value unsaid shows what was written through either view (R240); pages that are not mapped are passed
over. -/
def rawRange (ctx sett : Nat) : Nat → Nat → State → State
  | 0, _, s => s
  | n + 1, off, s =>
    let s := match s.walk ctx sett off with
      | some l => s.setPack l.key 0
      | none => s
    rawRange ctx sett n (off + 128) s

/-- The frame lines a range maps (R220). -/
def rangeLines (s : State) (ctx sett off n : Nat) : List Nat :=
  ((upTo 0 n).filterMap (fun i => s.walk ctx sett (off + 128 * i))).map (fun l => l.key / 128)

/-- The L1 lines of a core of the team's that some test of their addresses names discarded. -/
def State.discardWhere (s : State) (core : Nat) (f : Nat → Bool) : State :=
  let t := s.cur
  State.staleFills { s with l1 := s.l1.filter (fun x =>
    !(x.1 / 2 ^ 55 == (t.ctx * 48 + t.sett) * 256 + core && f (x.1 % 2 ^ 55 * 32))) } t.sett core

/-- The lines of the issuing team's core, or of both cores of its pair, of a range discarded, by either view (R220): `lines` are
the range's lines in this package. Which lines of another package show the same bytes is not known here, so every line of that
package's sett goes. -/
def State.discardViews (s : State) (pkg sett : Nat) (lines : List Nat) : State :=
  let hit (a : Nat) : Bool :=
    if pkg = s.ownPkg then
      bitsNat a 59 54 == s.ownPkg
        && (match s.walk s.cur.ctx (bitsNat a 53 48) (bitsNat a 47 0) with | some l => lines.contains (l.key / 128) | none => false)
    else bitsNat a 59 54 == pkg && bitsNat a 53 48 == sett
  let s := s.discardWhere s.cur.core hit
  if s.cur.pair then s.discardWhere (pairOf s.cur.core) hit else s

/-- DFENCE (R316). -/
def execDfence (a b : Reg) (s : State) : Out :=
  .next (s.whenReady [a, b] (fun s =>
    let t := s.cur
    let base := (t.s a).toNat
    let n := (t.s b).toNat
    let sett := bitsNat base 53 48
    let pkg := bitsNat base 59 54
    if base / 2 ^ 60 ≠ 0 ∨ 48 ≤ sett ∨ (base + n - 1) / 2 ^ 48 ≠ base / 2 ^ 48 ∨ base % 128 ≠ 0 ∨ n % 128 ≠ 0 ∨ n < 128 ∨ 2 ^ 30 < n
        ∨ !s.inDomain pkg then s.reject 0
    else if !t.lanesDone || !t.moverDone || !s.quiet then s
    else match (if t.sent.isEmpty then s.reach pkg else .lit) with
      | .own =>
        let lines := rangeLines s t.ctx sett (base % 2 ^ 48) (n / 128)
        let s := rawRange t.ctx sett (n / 128) (base % 2 ^ 48) s
        (s.discardViews pkg sett lines).advance 1
      | .lit =>
        (match s.remoteScalar 7 base n [] with
         | .ok _ s => (s.discardViews pkg sett []).advance 1
         | .trap _ s => s.reject base
         | .wait s => s)
      | .dark => s
      | .none => s.trap codeRemoteUnreach (BitVec.ofNat 64 base)))

end Sys2Proof.Machine
end

