-- ==== Sys2Proof/Machine/Flit.lean ====
section
/-!
DEFINITION. The flit: its CRC, its header, and the payload of engine data (R380, R400); what a sett sends to other packages.
-/

namespace Sys2Proof.Machine

/-! ### Flits (R380, R400) -/

/-- One bit of the CRC of ECMA-182. -/
def crcBit (c : BitVec 64) : BitVec 64 := if c.msb then (c <<< 1) ^^^ 0x42F0E1EBA9EA3693#64 else c <<< 1

/-- One byte of the CRC, most significant bit first. -/
def crcByte (c : BitVec 64) (b : Byte) : BitVec 64 :=
  let x := c ^^^ (b.setWidth 64 <<< 56)
  crcBit (crcBit (crcBit (crcBit (crcBit (crcBit (crcBit (crcBit x)))))))

/-- CRC-64 of bytes: initial value zero, no final inversion (R380). -/
def crc64 (bs : List Byte) : BitVec 64 := bs.foldl crcByte 0

/-- 256 bytes whose CRC is good. -/
def flitGood (bs : List Byte) : Bool := bs.length == 256 && fieldAt bs 248 8 == (crc64 (bs.take 248)).toNat

/-- A flit with its CRC computed afresh. -/
def sealFlit (bs : List Byte) : List Byte := bs.take 248 ++ bytesOf 8 (crc64 (bs.take 248)).toNat

def flitClass (bs : List Byte) : Nat := bitsNat (fieldAt bs 0 2) 1 0
def flitKind (bs : List Byte) : Nat := bitsNat (fieldAt bs 0 2) 7 2
def flitSett (bs : List Byte) : Nat := bitsNat (fieldAt bs 2 2) 5 0
def flitPkg (bs : List Byte) : Nat := bitsNat (fieldAt bs 2 2) 11 6
def flitDstSett (bs : List Byte) : Nat := bitsNat (fieldAt bs 4 2) 5 0
def flitDstPkg (bs : List Byte) : Nat := bitsNat (fieldAt bs 4 2) 11 6
def flitSeq (bs : List Byte) : Nat := fieldAt bs 8 4
def flitAddr (bs : List Byte) : Nat := fieldAt bs 16 8
def flitLen (bs : List Byte) : Nat := fieldAt bs 24 2
def flitCtx (bs : List Byte) : Nat := fieldAt bs 28 2

def flitTag (bs : List Byte) : Nat := fieldAt bs 30 2

/-- A flit without its link's SEQ and its CRC. -/
def flitBody (bs : List Byte) : List Byte := bs.take 8 ++ (bs.take 248).drop 12

/-- A flit's end-to-end identity (R381, R400): source, class and TAG; of the other classes, whose tag has no given place, the
whole of it (log entry 55). -/
def flitIdentity (bs : List Byte) : Nat :=
  (if flitClass bs = 3 then flitTag bs else natOf (flitBody bs)) * 2 ^ 18 + fieldAt bs 2 2 * 4 + flitClass bs

/-- A class-3 flit (R380, R400): KIND, source and destination as sett and package, address, OP and ROPFMT, context, TAG and at
most 216 bytes. -/
def dataFlit (kind src dst a op ropfmt ctx tag : Nat) (bs : List Byte) : List Byte :=
  sealFlit (padBytes 248 (bytesOf 2 (3 + 4 * kind) ++ bytesOf 2 src ++ bytesOf 2 dst ++ List.replicate 10 0 ++ bytesOf 8 a
    ++ bytesOf 2 bs.length ++ bytesOf 1 op ++ bytesOf 1 ropfmt ++ bytesOf 2 ctx ++ bytesOf 2 tag ++ bs))

/-- Engine data of a sett for another package, at most 216 bytes of it within one line, joins what the sett sends (R377, R400);
`op` and `ropfmt` say what is done there, and KIND 1 that blocks are packed (R421). -/
def State.sendData (s : State) (sett ctx a op ropfmt kind : Nat) (bs : List Byte) : State :=
  let tag := (s.sett sett).tagOut
  let dst := bitsNat a 53 48 + bitsNat a 59 54 * 64
  let s := s.setSett sett (fun x => { x with tagOut := (tag + 1) % 65536 })
  { s with sendq := s.sendq ++ [(sett, dataFlit kind (sett + s.ownPkg * 64) dst a op ropfmt ctx tag bs)] }

end Sys2Proof.Machine
end

