-- ==== Sys2Proof/Machine/LaneCtl.lean ====
section
/-!
DEFINITION. Lane control: branches (R83, R85, R162), SKIP (R163), JOIN, LEND and YIELDL (R78, R84, R164), LTRAP (R165),
BAR (R254, R255), and the steps of the path scheduler: the end of a slice, the spin detector and the watchdog (R87, R90).
-/

namespace Sys2Proof.Machine

/-- A control word whose guard may fault a lane (R108): the faulting lanes are taken first, and `f` acts on the path with
the lanes that are left, where the team still runs. -/
def State.control (s : State) (r : LaneRun) (f : Path → State → State) : State :=
  let bad := r.act.filterMap (fun l => ((s.cur.lane l).error r.i (wordsOf s.cur.code.mview (readOperands r.i))).map (fun a => r.regFault l a))
  let s := s.correct r.i (wordsOf s.cur.code.mview (readOperands r.i)) r.act
  let s := if bad.isEmpty then s else s.laneFaults r.b.handler bad
  if s.cur.status != .running then s
  else match s.cur.path? r.p.idx with
    | none => s.settle
    | some p => (f p s).settle

/-! ### Branches (R83, R85, R162) -/

/-- The spin detector at a taking of a backward branch (R87): the count, and whether it flags the path. -/
def Path.spun (p : Path) (at_ : Nat) : Path × Bool :=
  let n := if p.spinAt = some at_ ∧ p.still then p.spin + 1 else 1
  ({ p with spinAt := some at_, spin := if n = 8 then 0 else n, still := true }, decide (n = 8))

/-- A branch of the current path with a target for each of its lanes (R83). -/
def Team.branch (t : Team) (p : Path) (targets : List (Nat × Nat)) : Team :=
  let t := t.setPath p.idx (fun q => { q with slice := q.slice - (q.passes.length - q.passDone), replay := none })
  match splitTargets targets with
  | [(ip, _)] =>
    if ip ≤ p.ip then
      let (_, flag) := p.spun p.ip
      { t.setPath p.idx (fun q => { (q.spun p.ip).1 with ip := ip, passDone := 0 }) with flagged := t.flagged || flag }
    else t.split p.idx targets
  | _ => t.split p.idx targets

/-- A branch word: taken at once, or, marked .PACK, when the whole block is there. -/
def laneBranch (i : Instr) (pack : Bool) (s : State) : State :=
  s.laneWord i (fun _ => true) (fun r s => s.control r (fun p s =>
    if pack then { s with cur := (s.cur.setPath p.idx (fun q => { q with packAt := some q.ip, replay := none, passDone := 0 })).leave p.idx .waitPack }
    else { s with cur := s.cur.branch p (branchTargets { r.e with t := s.cur } i p r.act.contains) }))

def execBra (g : Guard) (target : BitVec 32) (d : Operand) (x : AuxB) (s : State) : Out :=
  .next (laneBranch (.bra g target d x) x.pack s)
def execBrx (h : LaneHead) (x : AuxB) (s : State) : Out := .next (laneBranch (.brx h x) x.pack s)

/-! ### SKIP (R163) -/

/-- The look-ahead: the next `n` words lie in the section and none of them has an opcode from 0x0C0 to 0x0C6. A word that
cannot be read for another cause passes here and faults when it is fetched: the rule states no outcome at the SKIP (DESIGN
CHOICE, log entry 118). -/
def State.shadowOk (s : State) (ip : Nat) : Nat → Bool
  | 0 => true
  | n + 1 =>
    (match s.fetchLane (ip + n + 1) with
     | .ok w => let op := (w.extractLsb' 86 10).toNat; !(decide (0x0C0 ≤ op) && decide (op ≤ 0x0C6))
     | .error c => c != codeIllegal) && State.shadowOk s ip n

/-- A word of the shadow that is still to be fetched from another package. -/
def State.shadowUnread (s : State) (ip n : Nat) : Option Nat :=
  (upTo (ip + 1) n).findSome? (fun i => match s.fetchLane i with
    | .error c => if isAwait c then some c else none
    | .ok _ => none)

def execSkip (h : LaneHead) (x : AuxB) (s : State) : Out :=
  .next (s.laneWord (.skip h x) (fun _ => true) (fun r s =>
    let n := x.imm16.toNat
    match s.shadowUnread r.p.ip n with
    | some c => s.askFar (.code s.cur.uid) c
    | none =>
    if !s.shadowOk r.p.ip n then s.faultPath r.p codeIllegal 0
    else s.control r (fun p s => { s with cur := s.cur.setPath p.idx (fun q =>
      { q.past (q.passes.length - q.passDone) false with skipLanes := r.act, skipLeft := n }) })))

/-! ### JOIN, LEND, YIELDL, LTRAP (R164, R165) -/

def execJoin (h : LaneHead) (s : State) : Out :=
  .next (s.laneWord (.join h) (fun _ => true) (fun r s =>
    let n := r.left
    match r.p.split with
    | none => { s with cur := s.cur.setPath r.p.idx (fun q => { q.past n false with wdog := 0 }) }
    | some _ =>
      State.settle { s with cur := (s.cur.setPath r.p.idx (fun q => { q with wdog := 0, slice := q.slice - n, replay := none, passDone := 0 })).leave r.p.idx .waitJoin }))

def execLend (h : LaneHead) (s : State) : Out :=
  .next (s.laneWord (.lend h) (fun _ => true) (fun r s =>
    State.settle { s with cur := (s.cur.setPath r.p.idx (fun q =>
      { q with wdog := 0, slice := q.slice - r.left, replay := none, passDone := 0 })).leave r.p.idx .waitLend }))

def execYieldl (h : LaneHead) (s : State) : Out :=
  .next (s.laneWord (.yieldl h) (fun _ => true) (fun r s =>
    { s with cur := (s.cur.setPath r.p.idx (fun q => q.past r.left false)).toTail }))

def execLtrap (h : LaneHead) (x : AuxB) (s : State) : Out :=
  .next (s.laneWord (.ltrap h x) (fun _ => true) (fun r s =>
    let errs := r.act.map (fun l => (l, (s.cur.lane l).error r.i []))
    (s.correct r.i [] r.act).finishWord r false (errs.map (fun (l, err) =>
      match err with
      | some a => r.regFault l a
      | none => { lane := l, info := .plain codeTrapInstr (x.imm16.setWidth 64), ip := r.p.ip, resume := r.p.after, byReply := false }))))

/-! ### BAR (R254, R255) -/

/-- The lanes of the current path arrive at a barrier of a kind. Where that completes their instances, the path goes on
with its turn; otherwise it parks. The answer also says whether any instance completed. -/
def Team.arriveBar (t : Team) (p : Path) (k : BarKind) : Team × Bool :=
  let n := p.passes.length - p.passDone
  let t := t.setPath p.idx (fun q => { (q.past n false).pet true with ip := p.ip, state := .parked, park := some (.bar k q.lanes) })
  let rs := t.releases
  let t := { t with paths := t.paths.map (fun (q : Path) => rs.foldl (fun q r => q.release r.1 r.2) q) }
  let free := (t.paths.filter Path.barFree).map Path.idx
  let t := wakeAll (free.filter (fun i => i != p.idx)) t
  (if free.contains p.idx then t.setPath p.idx (fun q => { q with state := .current, park := none, ip := q.ip + 1 })
   else (t.leave p.idx .parked).pickNext, !rs.isEmpty)

def execBar (h : LaneHead) (x : AuxX) (s : State) : Out :=
  .next (s.laneWord (.bar h x) (fun _ => true) (fun r s =>
    let (t, met) := s.cur.arriveBar r.p (if x.xop = 0 then .group else .team)
    let s := { s with cur := t }
    if met && t.pair then s.discardCores else s))

/-! ### The scheduler (R87, R90) -/

/-- SLICE_EXPIRY: the current path's turn has no slot left. -/
def execSliceExpiry (s : State) : Out :=
  .next (match s.cur.current with
    | some p => if p.slice + p.hold = 0 ∧ ¬s.halted s.cur.ctx then { s with cur := s.cur.toTail } else s
    | none => s)

/-- SPIN_DETECTOR_FLAG: the flagged path goes to the tail. -/
def execSpinDetectorFlag (s : State) : Out :=
  .next (if s.cur.flagged && !s.halted s.cur.ctx then { s with cur := { s.cur.toTail with flagged := false } } else s)

/-- A path whose watchdog has reached the limit at an instruction boundary (R90). -/
def Team.wdogDue (t : Team) (p : Path) : Bool :=
  t.status == .running && t.inv.isNone && t.wdoglim != 0 && decide (t.wdoglim.toNat ≤ p.wdog)
    && (p.state == .current || p.state == .ready) && p.passDone == 0 && p.doneLanes.isEmpty

/-- WATCHDOG_FIRE (R90, R350). -/
def execWatchdogFire (path : Nat) (s : State) : Out :=
  .next (match s.cur.path? path with
    | some p =>
      if s.cur.wdogDue p && !s.halted s.cur.ctx then
        match s.lookup codeWatchdog with
        | .error c => s.askFar (.faults s.cur.uid) c
        | .ok (.handler _) => (s.teamEvent 7 codeWatchdog p.lanes.length s.cur.area).faultPath p codeWatchdog 0
        | .ok (.action _) => s.faultPath p codeWatchdog 0
      else s
    | none => s)

end Sys2Proof.Machine
end

