-- ==== Sys2Proof/Machine/LaneMem.lean ====
section
/-!
DEFINITION. Lane memory words (R188, R241 to R253): addresses, checks and waits of each lane, passes that park (R88),
accesses in the S, L, C and K windows and in L1 (R231), requests that cross to an owning sett and their replies (R207,
R218, R244, R245), prefetches and fences.
-/

namespace Sys2Proof.Machine

/-! ### The access of a lane (R241, R242) -/

/-- One lane's access: its address, width, required alignment, kind (0 load, 1 store, 2 atomic), the data it sends and
the expected value of a CAS. -/
structure MemOp where
  lane : Nat
  ea : Nat
  w : Nat
  align : Nat
  kind : Nat
  data : List Byte
  exp : List Byte

/-- The AUX field of a memory word. -/
def memAux : Instr → Option AuxM
  | .vld _ x | .vst _ x | .vatom _ x | .vcas _ x | .vpref _ x | .fence _ x | .fld _ x | .fst _ x => some x
  | _ => none

/-- Bytes a memory word accesses in each lane (R188, R242). -/
def memWidth (views : List Word32) (i : Instr) : Nat :=
  match i with
  | .vld h x | .vst h x => if x.narrow = 1 then 1 else if x.narrow = 2 then 2 else h.ty.bits / 8
  | .vatom h _ | .vcas h _ => h.ty.bits / 8
  | .fld h _ => viewBytes (viewOf' views h.d)
  | .fst h _ => viewBytes (viewOf' views h.c)
  | _ => 0
where
  viewOf' (views : List Word32) : Operand → Word32
    | .m n _ => nth 0 views n.toNat
    | _ => 0

/-- 0 load, 1 store, 2 atomic. -/
def memKind : Instr → Nat
  | .vst _ _ | .fst _ _ => 1
  | .vatom _ _ | .vcas _ _ => 2
  | _ => 0

/-- R241. -/
def laneEa (e : LaneEnv) (h : LaneHead) (x : AuxM) (l : Nat) : Nat :=
  (e.val .b64 h.a l + e.val .b64 h.b l + (x.off.signExtend 64).toNat) % 2 ^ 64

/-- The access a lane makes. -/
def memOp (r : LaneRun) (h : LaneHead) (x : AuxM) (l : Nat) : MemOp :=
  let views := r.e.t.code.mview
  let w := memWidth views r.i
  let word (o : Operand) : Nat := if isFragment r.i then
      (match operandSpan views o with | some (i, n) => (r.e.t.lane l).words i n | none => 0)
    else r.e.val h.ty o l
  { lane := l, ea := laneEa r.e h x l, w := w, align := if isFragment r.i then min w 16 else w, kind := memKind r.i,
    data := if memKind r.i = 0 then [] else bytesOf w (word h.c),
    exp := match r.i with | .vcas _ _ => bytesOf w (word h.d) | _ => [] }

/-- The fault of a lane's access (R334): FLD and FST have WIDTH 0. OPND of an FST holds the first 16 bytes of its fragment:
the rule names none of a longer one (DESIGN CHOICE, log entry 116). -/
def MemOp.fault (m : MemOp) (i : Instr) (code : Nat) : Nat × FaultInfo :=
  (m.lane, { code := code, op := 0, addr := BitVec.ofNat 64 m.ea, opnd := m.data, exp := m.exp,
             width := if isFragment i then 0 else m.w, kind := m.kind })

/-- An access cut at 16-byte units; only FLD and FST are longer. -/
def memPieces (a n : Nat) : List (Nat × Nat) := if n ≤ 16 then [(a, n)] else (upTo 0 (n / 16)).map (fun i => (a + 16 * i, 16))

/-- Bytes of an access cut as its pieces are. -/
def cutBytes : List (Nat × Nat) → List Byte → List (Nat × List Byte)
  | [], _ => []
  | (a, n) :: ps, bs => (a, bs.take n) :: cutBytes ps (bs.drop n)

/-! ### Atomics (R249 to R251) -/

/-- The new value of an atomic, none where a CAS fails, and its flags. -/
def atomValue (i : Instr) (old c exp : Nat) : Option Nat × Flags5 :=
  match i with
  | .vcas _ _ => (if old = exp then some c else none, 0)
  | .vatom h x =>
    let (n, _, sg) := elemOf h.ty
    let pick (isMax : Bool) : Nat := if (elemInt sg n old 0 ≤ elemInt sg n c 0) == isMax then c else old
    if h.ty = .f32 then
      let u := fmtF32.value old
      let v := fmtF32.value c
      match x.aop with
      | .add => let r := fmtF32.add u v .rne; (some r.1, r.2)
      | .min => (some (fmtF32.minMax false u v old c), 0)
      | .max => (some (fmtF32.minMax true u v old c), 0)
      | _ => (some c, 0)
    else match x.aop with
      | .add => (some ((old + c) % 2 ^ n), 0)
      | .and => (some (old &&& c), 0)
      | .or => (some (old ||| c), 0)
      | .xor => (some (old ^^^ c), 0)
      | .min => (some (pick false), 0)
      | .max => (some (pick true), 0)
      | .swap => (some c, 0)
  | _ => (none, 0)

/-! ### Scopes and L1 (R222, R231) -/

/-- A scope reaches agents of other cores (R222). -/
def offCore (t : Team) : Scope → Bool
  | .lane | .core => false
  | .team => t.pair
  | _ => true

/-- A load that L1 may serve (R231); NOL1 is served by the owner (R216). -/
def l1Eligible (t : Team) (i : Instr) : Bool :=
  match i with
  | .vld _ x => x.ord == .relaxed && !offCore t x.scope && x.cache != .noL1
  | .fld _ x => x.cache != .noL1
  | _ => false

/-- NOL1 (R216). -/
def noL1 (i : Instr) : Bool := match memAux i with | some x => x.cache == .noL1 | none => false

/-- The core whose L1 a lane uses (R222). -/
def Team.laneCore (t : Team) (l : Nat) : Nat := t.slotCore (l / 32)

/-- Every global line of the L1s of some lanes' cores discarded. -/
def State.discardLanes (s : State) (lanes : List Nat) : State :=
  (sortNat (lanes.map s.cur.laneCore)).foldl (fun s c => s.l1Discard s.cur.sett c) s

/-- The sector of an address that a core of the focused team's sett holds. -/
def State.heldSector (s : State) (core a : Nat) : Option Sector := FMap.get? s.l1 (l1Key s.cur.ctx s.cur.sett core a)

/-- The granules of an access. -/
def MemOp.grans (m : MemOp) : List Nat := upTo (m.ea / 8) ((m.ea + m.w + 7) / 8 - m.ea / 8)

/-- A load or an atomic of the lane to a granule of the access is still on its way: what L1 holds may be older (R229). -/
def State.laneAhead (s : State) (m : MemOp) : Bool :=
  s.reqs.any (fun r => r.uid == s.cur.uid && r.accs.any (fun a => a.lane == m.lane && (a.kind == 0 || a.kind == 2))
    && m.grans.any (fun g => !r.doneAt s.ownPkg g))

/-- The stores of a core on their way that an access to its L1 sees. -/
def State.earlyStores (s : State) (core : Nat) (m : MemOp) : List Nat :=
  (s.reqs.filter (fun r => r.ctx == s.cur.ctx && r.core == coreNo s.cur.sett core && r.accs.any (fun a => a.kind == 1)
    && m.grans.any (fun g => !r.doneAt s.ownPkg g))).map GReq.tag

/-- A lane that reads L1 remembers the writes it sees before they are performed (R226). -/
def State.sawEarly (s : State) (l : Nat) (tags : List Nat) : State :=
  if tags.isEmpty then s
  else
    let live := s.cur.seen.filter (fun x => s.reqs.any (fun r => r.tag == x.2 && !r.ordered s.ownPkg))
    { s with cur := { s.cur with seen := live ++ (tags.map (fun t => (l, t))).filter (fun x => !live.contains x) } }

/-- The rights of a held sector against a PKR (R211). -/
def sectorFault (x : Sector) (pkr : Word) (wr : Bool) : Option Nat :=
  if wr then (if !x.w then some codePerm else if pkr.getLsbD (2 * x.key + 1) then some codePkey else none)
  else (if !x.rd then some codePerm else if pkr.getLsbD (2 * x.key) then some codePkey else none)

/-! ### What an access comes to -/

/-- A lane's access when its checks are made. -/
inductive LaneAccess where
  | fault (code : Nat)
  | wait (on : ParkOn)
  | dark
  | here (keys : List (Nat × Nat))
  | hit (data : List Byte)
  | request (pkg sett : Nat)

/-- R191 for a global access of a lane, and its hit in L1 (R211, R231). -/
def State.globalLane (s : State) (i : Instr) (pkr : Word) (m : MemOp) : LaneAccess :=
  let pkg := bitsNat m.ea 59 54
  let core := s.cur.laneCore m.lane
  let held := (sectorsOf m.ea m.w).map (fun a => s.heldSector core a)
  let bad (wr : Bool) : Option Nat := held.findSome? (fun x => x.bind (fun y => sectorFault y pkr wr))
  if !s.inDomain pkg then .fault codeRemoteUnreach
  else match s.reach pkg with
    | .none => .fault codeRemoteUnreach
    | .dark => .dark
    | _ =>
      if m.kind = 0 then
        if l1Eligible s.cur i && held.all Option.isSome && !s.laneAhead m then
          match bad false with
          | some c => .fault c
          | none => .hit (((held.filterMap (fun x => x.map Sector.data)).flatten.drop (m.ea % 32)).take m.w)
        else .request pkg (bitsNat m.ea 53 48)
      else if m.kind = 1 then
        match bad true with
        | some c => .fault c
        | none => .request pkg (bitsNat m.ea 53 48)
      else .request pkg (bitsNat m.ea 53 48)

/-- Pieces located one after another: every page service they need starts. -/
def locateAll (l : Nat) (wr : Bool) : List (Nat × Nat) → State → State × LaneAccess
  | [], s => (s, .here [])
  | (a, n) :: ps, s =>
    let (s, here) := s.locate (.lane l) a n true wr
    let (s, rest) := locateAll l wr ps s
    (s, match here, rest with
      | .bad c, _ => .fault c
      | _, .fault c => .fault c
      | .wait on, _ => .wait on
      | _, .wait on => .wait on
      | .key k, .here ks => .here ((k, n) :: ks)
      | _, x => x)

/-- R191 for one lane's access. -/
def State.locateLane (s : State) (i : Instr) (pkr : Word) (m : MemOp) : State × LaneAccess :=
  match checkAccess s.cur (.lane m.lane) m.ea m.w (m.ea % m.align == 0) (m.kind != 0) with
  | some c => (s, .fault c)
  | none =>
    if m.ea / 2 ^ 60 = 0 then (s, s.globalLane i pkr m)
    else locateAll m.lane (m.kind != 0) (memPieces m.ea m.w) s

/-! ### Delivery -/

/-- The register and the value that a word delivers from the bytes read. -/
def delivered (i : Instr) (x : Nat) : Option (Operand × Nat) :=
  match i with
  | .fld h _ => some (h.d, x)
  | i => deliver i x

/-- What a word reads delivered to a lane, retired ones too: a word that has issued completes (R81). -/
def Team.deliverTo (t : Team) (views : List Word32) (i : Instr) (l : Nat) (bs : List Byte) : Team :=
  match delivered i (natOf bs) with
  | some (d, v) => t.setLane l (fun x => x.write views d v)
  | none => t

/-! ### Requests (R218) -/

/-- The sectors of a line-bound access, by their first address. -/
def GReq.sectors (r : GReq) : List Nat :=
  r.accs.flatMap (fun a => if a.kind = 0 ∨ a.kind = 3 then sectorsOf (a.lo r.line) (a.hi r.line - a.lo r.line) else [])

/-- The sectors for which a core holds miss-status entries (R218): those of loads and prefetches that have not replied. -/
def State.missed (s : State) (core : Nat) : List Nat :=
  sortNat ((s.reqs.filter (fun r => r.core == core && !r.back)).flatMap GReq.sectors)

/-- The sectors that the loads of a pass need entries for, each with its core. -/
def missesOf (t : Team) (xs : List (MemOp × LaneAccess)) : List (Nat × Nat) :=
  xs.flatMap (fun x => match x.2 with
    | .request _ _ => if x.1.kind = 0 then (sectorsOf x.1.ea x.1.w).map (fun a => (coreNo t.sett (t.laneCore x.1.lane), a)) else []
    | _ => [])

/-- Those of them that are not outstanding, each once. -/
def State.newMisses (s : State) (xs : List (Nat × Nat)) : List (Nat × Nat) :=
  xs.foldl (fun acc x => if acc.contains x || (s.missed x.1).contains x.2 then acc else acc ++ [x]) []

/-- The 256 miss-status entries of each core suffice for some sectors (R218). -/
def State.missRoom (s : State) (xs : List (Nat × Nat)) : Bool :=
  let new := s.newMisses xs
  (sortNat (new.map Prod.fst)).all (fun c => decide ((s.missed c).length + (new.filter (fun x => x.1 == c)).length ≤ 256))

/-- Two accesses share a granule of a line. -/
def sharesGranule (line : Nat) (a b : LaneAcc) : Bool := shares (a.grans line) (b.grans line)

/-- A request writes. -/
def GReq.writes (r : GReq) : Bool := r.accs.any (fun a => a.kind == 1 || a.kind == 2)

/-- An earlier request comes before a new one at the granules they share: an access of the same lane (R229), a write of the
same core before another (R231), an access of the same word (R76, R246), and a store that a lane of the new one has seen. -/
def State.comesBefore (s : State) (batch : Nat) (q r : GReq) : Bool :=
  let near (f : LaneAcc → LaneAcc → Bool) : Bool := r.accs.any (fun a => q.accs.any (fun b => a.kind != 3 && f a b && sharesGranule q.line a b))
  r.ctx == q.ctx && r.line == q.line && !r.ordered s.ownPkg && !(q.joint && decide (batch ≤ r.tag))
    && ((r.uid == q.uid && near (fun a b => a.lane == b.lane))
      || (near (fun _ _ => true)
        && ((r.core == q.core && r.writes && q.writes) || (r.uid == q.uid && r.word == q.word && (r.writes || q.writes))
          || q.accs.any (fun b => s.cur.seen.contains (b.lane, r.tag)))))

/-! ### One pass -/

/-- What some lanes of a word leave: flags, the lanes whose packages are dark (R396), faults, and the accesses that cross to
an owner, with pass and core. -/
structure PassOut where
  flags : Flags5
  dark : List Nat
  faults : List (Nat × FaultInfo)
  sent : List (Nat × Nat × LaneAcc)

/-- Bytes written in pieces at keys. -/
def pokeAll (arr : Nat) : List (Nat × Nat) → List Byte → State → State
  | [], _, s => s
  | (k, n) :: ks, bs, s => pokeAll arr ks (bs.drop n) (s.poke (some arr) k (bs.take n))

/-- A store that crosses to its owner updates, or drops, the sectors its core's L1 holds (R215, R216); an atomic drops
them (R224). -/
def State.l1Write (s : State) (i : Instr) (m : MemOp) : State :=
  let core := s.cur.laneCore m.lane
  let s := if m.kind = 0 then s else s.staleLine s.cur.ctx s.cur.sett core m.ea
  if m.kind = 0 then s
  else if m.kind = 2 || noL1 i then (sectorsOf m.ea m.w).foldl (fun s a => s.l1Drop s.cur.ctx s.cur.sett core a) s
  else (cutBytes (memPieces m.ea m.w) m.data).foldl (fun s x => s.l1Store s.cur.ctx s.cur.sett core x.1 x.2) s

/-- The pass of a path that holds a lane. -/
def Path.passOf (p : Path) (l : Nat) : Nat := p.passes.findIdx (fun g => g.contains l)

/-- The accesses of lanes, none of which waits, performed in order (R76, R246). -/
def runPass (r : LaneRun) : List (MemOp × LaneAccess) → PassOut → State → PassOut × State
  | [], o, s => (o, s)
  | (m, x) :: rest, o, s =>
    let views := s.cur.code.mview
    match x with
    | .fault c => runPass r rest { o with faults := o.faults ++ [m.fault r.i c] } s
    | .wait _ => runPass r rest o s
    | .dark => runPass r rest { o with dark := o.dark ++ [m.lane] } s
    | .hit bs =>
      let s := s.sawEarly m.lane (s.earlyStores (s.cur.laneCore m.lane) m)
      runPass r rest o (State.countCur { s with cur := s.cur.deliverTo views r.i m.lane bs } 11 m.w)
    | .here ks =>
      if m.kind = 1 then runPass r rest o (pokeAll r.b.arr ks m.data s)
      else
        let old := ks.flatMap (fun k => s.mem.getBytes k.1 k.2)
        let s := { s with cur := s.cur.deliverTo views r.i m.lane old }
        if m.kind = 0 then runPass r rest o s
        else
          let (new, fl) := atomValue r.i (natOf old) (natOf m.data) (natOf m.exp)
          let s := match new with | some v => pokeAll r.b.arr ks (bytesOf m.w v) s | none => s
          runPass r rest { o with flags := o.flags ||| fl } s
    | .request _ _ =>
      let a : LaneAcc := { lane := m.lane, ea := BitVec.ofNat 64 m.ea, width := m.w, kind := m.kind, data := m.data, exp := m.exp }
      runPass r rest { o with sent := o.sent ++ [(r.p.passOf m.lane, coreNo s.cur.sett (s.cur.laneCore m.lane), a)] } (s.l1Write r.i m)

/-- The lines an access touches. -/
def LaneAcc.lines (a : LaneAcc) : List Nat := upTo (a.ea.toNat / 128) ((a.ea.toNat + max a.width 1 - 1) / 128 + 1 - a.ea.toNat / 128)

/-- The requests of some accesses: one for each pass, core and line, each once, in the order they occur (R218). -/
def requestKeys (xs : List (Nat × Nat × LaneAcc)) : List (Nat × Nat × Nat) :=
  (xs.flatMap (fun x => x.2.2.lines.map (fun n => (x.1, x.2.1, n)))).foldl (fun acc k => if acc.contains k then acc else acc ++ [k]) []

/-- Requests made of the accesses that cross (R218): `batch` is the tag of the first. -/
def sendAll (r : LaneRun) (batch : Nat) : List (Nat × Nat × Nat) → List (Nat × Nat × LaneAcc) → State → State
  | [], _, s => s
  | k :: ks, xs, s =>
    let q : GReq := { tag := s.tick, uid := s.cur.uid, path := r.p.idx, ip := r.p.ip, block := r.b.seq, instr := r.i,
                      accs := (xs.filter (fun x => x.1 == k.1 && x.2.1 == k.2.1 && x.2.2.lines.contains k.2.2)).map (fun x => x.2.2),
                      pkg := bitsNat (128 * k.2.2) 59 54, pkr := r.b.snap.pkr, eligible := l1Eligible s.cur r.i, core := k.2.1,
                      sentAt := s.gtc, performed := false, answers := [], flags := 0, ctx := s.cur.ctx, line := k.2.2,
                      word := r.p.issue, joint := r.p.packed.isSome }
    let q := { q with after := (s.reqs.filter (s.comesBefore batch q)).map GReq.tag }
    sendAll r batch ks xs { s with reqs := s.reqs ++ [q], tick := s.tick + 1 }

/-- The accesses of a pass located: every lane's checks are made and every page service it needs starts. -/
def locatePass (i : Instr) (pkr : Word) : List MemOp → State → State × List (MemOp × LaneAccess)
  | [], s => (s, [])
  | m :: ms, s =>
    let (s, x) := s.locateLane i pkr m
    let (s, xs) := locatePass i pkr ms s
    (s, (m, x) :: xs)

/-- The first wait of a pass. -/
def passWait (xs : List (MemOp × LaneAccess)) : Option ParkOn :=
  xs.findSome? (fun x => match x.2 with | .wait on => some on | _ => none)

/-- The lanes of a pass whose packages are dark. -/
def passDark (xs : List (MemOp × LaneAccess)) : List Nat :=
  xs.filterMap (fun x => match x.2 with | .dark => some x.1.lane | _ => none)

/-! ### The word -/

/-- Why a sweep ends: its passes are all there, one of them parks (R88), waits for miss-status entries (R218), or finds no
slot left in the turn (R87). -/
inductive SweepEnd where
  | all | park (on : ParkOn) | full | turn
  deriving DecidableEq, Repr

/-- What a sweep has found: its lanes' accesses, the number of passes that issue, and why it ends. -/
structure Sweep where
  xs : List (MemOp × LaneAccess)
  passes : Nat
  stop : SweepEnd

/-- The passes of a memory word located in sweep order, as far as they issue now; `slots` are left in the turn, and
`claimed` are the entries that the passes before take. -/
def sweepPasses (r : LaneRun) (h : LaneHead) (x : AuxM) (words : List Nat) :
    List (List Nat) → Nat → List (Nat × Nat) → State → State × Sweep
  | [], _, _, s => (s, { xs := [], passes := 0, stop := .all })
  | _ :: _, 0, _, s => (s, { xs := [], passes := 0, stop := .turn })
  | ls :: rest, slots + 1, claimed, s =>
    let good := ls.filter (fun l => ((s.cur.lane l).error r.i words).isNone)
    let (s, xs) := locatePass r.i r.b.snap.pkr (good.map (memOp r h x)) s
    match passWait xs with
    | some on => (s, { xs := [], passes := 0, stop := .park on })
    | none =>
      let need := claimed ++ missesOf s.cur xs
      if !s.missRoom need then (s, { xs := [], passes := 0, stop := .full })
      else if !(passDark xs).isEmpty then (s, { xs := xs, passes := 1, stop := .park (.dark (passDark xs)) })
      else
        let (s, w) := sweepPasses r h x words rest slots need s
        (s, { xs := xs ++ w.xs, passes := w.passes + 1, stop := w.stop })

/-- Two accesses of one word meet in memory; in the L window lanes never do. -/
def MemOp.meets (a b : MemOp) : Bool :=
  a.ea / 2 ^ 60 != 0xB && decide (a.ea < b.ea + b.w) && decide (b.ea < a.ea + a.w)

/-- The lanes that are held back, of some in rising order: those whose access meets that of a lower lane in `later`, or of
one held back (R76, R246). -/
def heldBack (later : List MemOp) : List MemOp → List MemOp → List Nat
  | [], back => back.map MemOp.lane
  | m :: ms, back =>
    heldBack later ms (if (later ++ back).any (fun k => decide (k.lane < m.lane) && k.meets m) then back ++ [m] else back)

/-- The lanes a memory word still has to issue, pass by pass: first those that issued passes held back. -/
def memLanes (r : LaneRun) : List (List Nat) :=
  if r.p.shadowed && r.act.isEmpty then []
  else
    let passes := r.p.passes.map (fun ls => ls.filter r.act.contains)
    let back := ((passes.take r.p.passDone).flatten).filter (fun l => !r.p.doneLanes.contains l)
    match passes.drop r.p.passDone with
    | [] => if back.isEmpty then [] else [back]
    | ls :: rest => (back ++ ls) :: rest

/-- Lanes of a word issue: single-bit errors are corrected (R108), and accesses performed or sent. -/
def State.issueLanes (s : State) (r : LaneRun) (words : List Nat) (lanes : List Nat) (xs : List (MemOp × LaneAccess)) : PassOut × State :=
  let s := s.correct r.i words lanes
  let (o, s) := runPass r xs { flags := 0, dark := [], faults := [], sent := [] } s
  (o, sendAll r s.tick (requestKeys o.sent) o.sent s)

/-- No register of a lane differs. -/
def sameRegs (t u : Team) : Bool := t.lanes.map Lane.regs == u.lanes.map Lane.regs

/-- Flags of a word join FSTAT, or wait for the replies of its requests (R250). -/
def State.wordFlags (s : State) (word : Nat) (fl : Flags5) : State :=
  match s.reqs.find? (fun q => q.uid == s.cur.uid && q.word == word && word != 0 && !q.back) with
  | some q => { s with reqs := s.reqs.map (fun x => if x.tag == q.tag then { x with flags := x.flags ||| fl } else x) }
  | none =>
    if s.cur.paths.any (fun p => word != 0 && p.issue == word) then
      { s with cur := { s.cur with paths := s.cur.paths.map (fun p => if p.issue == word then { p with fl := p.fl ||| fl } else p) } }
    else { s with cur := s.cur.orFlags fl }

/-- The path of a memory word when its last pass has issued. -/
def State.memDone (s : State) (r : LaneRun) (passes : Nat) (changed : Bool) (fl : Flags5) (faults : List (Nat × FaultInfo)) : State :=
  let writes := memKind r.i != 0 && 0 < passes
  let s := { s with cur := s.cur.setPath r.p.idx (fun p =>
    let q := p.past passes changed
    if writes then q.pet true else q) }
  let s := s.wordFlags r.p.issue (r.p.fl ||| fl)
  s.boundary r.b.handler (faults.map (fun f => { lane := f.1, info := f.2, ip := r.p.ip, resume := r.p.after, byReply := false }))

/-- The path of a memory word some passes of which have issued. -/
def State.memCut (s : State) (r : LaneRun) (w : Sweep) (changed : Bool) (fl : Flags5) (faults : List (Nat × FaultInfo)) (done_ : List Nat) : State :=
  let whole := match w.stop with | .park (.dark _) => w.passes - 1 | _ => w.passes
  let t := s.cur.setPath r.p.idx (fun p => { p with
    passDone := p.passDone + whole, doneLanes := done_, faults := faults, slice := p.slice - w.passes,
    still := p.still && !changed && !(memKind r.i != 0 && 0 < w.passes), fl := p.fl ||| fl,
    wdog := if memKind r.i != 0 && 0 < w.passes then 0 else p.wdog })
  match w.stop with
  | .park on => { s with cur := (Team.leave (t.setPath r.p.idx (fun p => { p with park := some on })) r.p.idx .parked).pickNext }
  | _ => { s with cur := t }

/-- The passes of a memory word as far as they issue now, in sweep order. The lanes of a packed store or atomic act in rising
order, and one that meets a lower lane of a pass still to come is held back until that pass (R76, R246). -/
def State.memSweep (s : State) (r : LaneRun) (h : LaneHead) (x : AuxM) : State :=
  let before := s.cur
  let words := wordsOf s.cur.code.mview (readOperands r.i)
  let passes := memLanes r
  let (s, w) := sweepPasses r h x words passes r.p.slice [] s
  let lanes := (passes.take w.passes).flatten
  let later := if r.p.packed.isSome && memKind r.i != 0 then
      ((passes.drop w.passes).flatten.filter (fun l => ((s.cur.lane l).error r.i words).isNone)).map (memOp r h x) else []
  let back := if later.isEmpty then [] else
    heldBack later ((sortNat (w.xs.map (fun m => m.1.lane))).flatMap (fun l => (w.xs.filter (fun m => m.1.lane == l)).map Prod.fst)) []
  let xs := w.xs.filter (fun m => !back.contains m.1.lane)
  let xs := if r.p.packed.isSome && memKind r.i != 0 then (sortNat (xs.map (fun m => m.1.lane))).flatMap (fun l => xs.filter (fun m => m.1.lane == l)) else xs
  let bad := lanes.filterMap (fun l => ((s.cur.lane l).error r.i words).map (fun a => (l, FaultInfo.plain codeRegUe a)))
  let (o, s) := s.issueLanes r words lanes xs
  let faults := r.p.faults ++ bad ++ o.faults
  let changed := !(sameRegs s.cur before)
  match w.stop with
  | .all => s.memDone r w.passes changed o.flags faults
  | _ => s.memCut r w changed o.flags faults (r.p.doneLanes ++ lanes.filter (fun l => !back.contains l && !o.dark.contains l))

/-- A number that no request in flight and no word under way has. -/
def State.wordNumber (s : State) : Nat := (s.reqs.map GReq.word ++ s.cur.paths.map Path.issue).foldl max s.tick + 1

/-- A memory word (R244). An acquire of off-core scope discards the global lines of its cores' L1s (R231, R247). -/
def laneMemory (i : Instr) (h : LaneHead) (x : AuxM) (s : State) : State :=
  s.laneParts i (fun _ => true) (fun r s =>
    let s := if acquires i && offCore s.cur x.scope then s.discardLanes r.act else s
    if r.p.issue != 0 then s.memSweep r h x
    else
      let n := s.wordNumber
      let s := { s with cur := s.cur.setPath r.p.idx (fun p => { p with issue := n }), tick := n }
      s.memSweep { r with p := { r.p with issue := n } } h x)

def execVld (h : LaneHead) (x : AuxM) (s : State) : Out := .next (laneMemory (.vld h x) h x s)
def execVst (h : LaneHead) (x : AuxM) (s : State) : Out := .next (laneMemory (.vst h x) h x s)
def execVatom (h : LaneHead) (x : AuxM) (s : State) : Out := .next (laneMemory (.vatom h x) h x s)
def execVcas (h : LaneHead) (x : AuxM) (s : State) : Out := .next (laneMemory (.vcas h x) h x s)
def execFld (h : LaneHead) (x : AuxM) (s : State) : Out := .next (laneMemory (.fld h x) h x s)
def execFst (h : LaneHead) (x : AuxM) (s : State) : Out := .next (laneMemory (.fst h x) h x s)

/-! ### Prefetch and fences (R252, R253) -/

/-- A page that a VPREF of the focused team asks for: its service starts, or waits for a frame (R197, R252). -/
def State.wantPage (s : State) (page : Nat) : State :=
  match FMap.get? s.cur.stt page with
  | none => s
  | some e =>
    if e.st = 0 then s
    else match s.service page e with
      | some (_, s) => s
      | none => if s.cur.want.contains page then s else { s with cur := { s.cur with want := s.cur.want ++ [page] } }

/-- The prefetch of one lane (R252): a page service, or the access that is to fill its sector; `claimed` are the entries that
lanes before it take. The range test takes the access as one byte wide, since the rule gives it no width (DESIGN CHOICE, log
entry 117). -/
def State.prefetch (s : State) (cache : Cache) (l a : Nat) (claimed : List (Nat × Nat)) : State × Option LaneAcc :=
  match checkAccess s.cur (.lane l) a 1 true false with
  | some _ => (s, none)
  | none =>
    match a / 2 ^ 60 with
    | 0x0 =>
      let core := s.cur.laneCore l
      let miss := (coreNo s.cur.sett core, a / 32 * 32)
      let lit := s.inDomain (bitsNat a 59 54) && (match s.reach (bitsNat a 59 54) with | .own | .lit => true | _ => false)
      if cache = .noL1 ∨ lit = false ∨ (s.heldSector core a).isSome = true ∨ (s.missed miss.1).contains miss.2 = true
          ∨ claimed.contains miss = true ∨ s.missRoom (claimed ++ [miss]) = false then (s, none)
      else (s, some { lane := l, ea := BitVec.ofNat 64 a, width := 1, kind := 3, data := [], exp := [] })
    | 0x9 | 0xA => (s, none)
    | _ => (s.wantPage (spByte s.cur (.lane l) a / 4096), none)

/-- The prefetches of lanes one after another: the accesses they send, with pass and core. -/
def prefetchAll (r : LaneRun) (x : AuxM) (h : LaneHead) : List Nat → List (Nat × Nat × LaneAcc) → State → List (Nat × Nat × LaneAcc) × State
  | [], out, s => (out, s)
  | l :: ls, out, s =>
    let claimed := out.map (fun y => (y.2.1, y.2.2.ea.toNat / 32 * 32))
    match s.prefetch x.cache l (laneEa r.e h x l) claimed with
    | (s, some a) => prefetchAll r x h ls (out ++ [(r.p.passOf l, coreNo s.cur.sett (s.cur.laneCore l), a)]) s
    | (s, none) => prefetchAll r x h ls out s

/-- VPREF (R252). -/
def execVpref (h : LaneHead) (x : AuxM) (s : State) : Out :=
  .next (s.laneWord (.vpref h x) (fun _ => true) (fun r s =>
    let words := wordsOf s.cur.code.mview (readOperands r.i)
    let bad := r.act.filterMap (fun l => ((s.cur.lane l).error r.i words).map (fun a => r.regFault l a))
    let good := r.act.filter (fun l => ((s.cur.lane l).error r.i words).isNone)
    let s := s.correct r.i words r.act
    let (out, s) := prefetchAll r x h good [] s
    let s := sendAll r s.tick (requestKeys out) out s
    s.finishWord r false bad))

/-- FENCE (R253): R245 has it wait for every reply; an off-core acquire discards L1. It raises no REG_UE (R244). -/
def execFence (h : LaneHead) (x : AuxM) (s : State) : Out :=
  .next (s.laneWord (.fence h x) (fun _ => true) (fun r s =>
    let s := s.correct r.i [] r.act
    let s := if x.ord != .rel && offCore s.cur x.scope then s.discardLanes r.act else s
    let s := { s with cur := s.cur.setPath r.p.idx (fun p => if p.passCount r.act = 0 then p else p.pet true) }
    s.finishWord r false []))

/-! ### Requests performed (R207, R212, R223) -/

/-- A granule of a request can be performed: those that come before it have been. -/
def State.granReady (s : State) (r : GReq) (g : Nat) : Bool :=
  r.after.all (fun t => match s.reqs.find? (fun q => q.tag == t) with | some q => q.doneAt s.ownPkg g | none => true)

/-- Every granule of a request can be performed. -/
def State.inOrder (s : State) (r : GReq) : Bool := r.grans.all (s.granReady r)

/-- A request changed. -/
def State.setReq (s : State) (tag : Nat) (f : GReq → GReq) : State :=
  { s with reqs := s.reqs.map (fun r => if r.tag == tag then f r else r) }

/-- A request made by the same word as another. -/
def GReq.mate (r q : GReq) : Bool := q.uid == r.uid && q.word == r.word && (r.word != 0 || q.tag == r.tag)

/-- What R212 gives the part of an access in a request's line. -/
def State.checkAcc (s : State) (r : GReq) (a : LaneAcc) : Checked :=
  let kind : Kind := if a.kind = 1 then .store else if a.kind = 2 then .atomic else .load
  match s.ownerCheck r.ctx (bitsNat (a.lo r.line) 53 48) (bitsNat (a.lo r.line) 47 0) kind r.pkr with
  | .error c => .bad c
  | .ok l => .ok l

/-- The requests that carry parts of a lane's access, by line. -/
def State.partsOf (s : State) (r : GReq) (l : Nat) : List GReq := s.reqs.filter (fun q => r.mate q && q.accs.any (fun a => a.lane == l))

/-- The code of the first part of a lane's access that fails, by line: a lane that faults stores none of its bytes (R188). -/
def State.partsBad (s : State) (r : GReq) (l : Nat) : Option Nat :=
  (s.partsOf r l).findSome? (fun q => (q.accs.filter (fun a => a.lane == l)).findSome? (fun a =>
    match s.checkAcc q a with | .bad c => some c | .ok _ => none))

/-- The checks of one lane of a request. -/
def State.checkLane (s : State) (r : GReq) (a : LaneAcc) : Checked :=
  match s.partsBad r a.lane with
  | some c => .bad c
  | none => s.checkAcc r a

/-- The answer that a check starts. -/
def firstAnswer (r : GReq) (a : LaneAcc) : Checked → Answer
  | .bad c => { lane := a.lane, code := c, data := [] }
  | .ok _ => { lane := a.lane, code := 0, data := if a.kind = 1 then [] else List.replicate (a.hi r.line - a.lo r.line) 0 }

/-- A request reaches its owner: its lanes are checked, with the parts of their accesses that other lines hold. -/
def State.checkReq (s : State) (r : GReq) : State :=
  let group := s.reqs.filter (fun q => q.tag == r.tag || (r.mate q && shares (q.accs.map LaneAcc.lane) (r.accs.map LaneAcc.lane)))
  { s with reqs := s.reqs.map (fun q =>
      if group.any (fun x => x.tag == q.tag) && q.checks.isEmpty then
        let cs := (byLane q.accs).map (fun a => (a, s.checkLane q a))
        { q with checks := cs.map (fun c => (c.1.lane, c.2)), answers := cs.map (fun c => firstAnswer q c.1 c.2) }
      else q) }

/-- The priority of the lines a word fills (R216). -/
def fillPrio (i : Instr) : Nat :=
  match memAux i with
  | some x => if x.cache = .stream then 1 else if x.cache = .keep then 2 else 0
  | none => 0

/-- Bytes read for a lane put into its answer. -/
def GReq.answer (r : GReq) (l at_ : Nat) (bs : List Byte) : GReq :=
  { r with answers := r.answers.map (fun x => if x.lane == l then { x with data := spliceBytes x.data at_ bs } else x) }

/-- The part of one lane's access that lies in a granule, performed at the point of order (R223, R224): `x` is the request
and the access. -/
def State.performPiece (s : State) (g : Nat) (x : Nat × LaneAcc) : State :=
  let a := x.2
  match s.reqs.find? (fun r => r.tag == x.1) with
  | none => s
  | some r =>
    match (r.checks.find? (fun c => c.1 == a.lane)).map Prod.snd with
    | some (.ok leaf) =>
      let lo := max (a.lo r.line) (8 * g)
      let n := min (a.hi r.line) (8 * g + 8) - lo
      let y : Leaf := { leaf with key := leaf.key + (lo - a.lo r.line) }
      if n = 0 then s
      else if a.kind = 1 then s.writeLine none y.cmp y.key ((a.data.drop (lo - a.ea.toNat)).take n)
      else if a.kind = 3 then s.l1Fill r.ctx (r.core / 256) (r.core % 256) lo (fillPrio r.instr) y
      else
        let (old, s) := s.readLine y.cmp y.key n
        let s := s.setReq r.tag (fun q => q.answer a.lane (lo - a.lo r.line) old)
        if a.kind = 2 then
          let s := match (atomValue r.instr (natOf old) (natOf a.data) (natOf a.exp)).1 with
            | some v => s.writeLine none y.cmp y.key (bytesOf n v)
            | none => s
          s.l1Drop r.ctx (r.core / 256) (r.core % 256) lo
        else if r.eligible then s.l1Fill r.ctx (r.core / 256) (r.core % 256) lo (fillPrio r.instr) y
        else s.l1Refresh r.ctx (r.core / 256) (r.core % 256) lo y
    | _ => s

/-- The requests performed together at a granule: of a packed word all that touch it, so that R76 and R246 hold. -/
def State.together (s : State) (r : GReq) (g : Nat) : List GReq :=
  if r.joint then s.reqs.filter (fun q => q.tag == r.tag || (r.mate q && q.line == r.line && !q.doneAt s.ownPkg g))
  else s.reqs.filter (fun q => q.tag == r.tag)

/-- A granule of a request performed, in rising order of lanes (R76, R246). -/
def State.performGranule (s : State) (r : GReq) (g : Nat) : State :=
  let qs := s.together r g
  if qs.all (fun q => s.granReady q g) then
    let s := qs.foldl (fun s q => s.checkReq q) s
    let xs := qs.flatMap (fun q => q.accs.map (fun a => (q.tag, a)))
    let s := ((sortNat (xs.map (fun x => x.2.lane))).flatMap (fun l => xs.filter (fun x => x.2.lane == l))).foldl (fun s x => s.performPiece g x) s
    qs.foldl (fun s q => s.setReq q.tag (fun r => { r with done := r.done ++ [g] })) s
  else s

/-- The stores of a request write its whole line (R219). -/
def GReq.wholeLine (r : GReq) : Bool :=
  let good := r.accs.filter (fun a => a.kind == 1 && r.checks.any (fun c => c.1 == a.lane && (match c.2 with | .ok _ => true | .bad _ => false)))
  (upTo (128 * r.line) 128).all (fun b => good.any (fun a => decide (a.lo r.line ≤ b) && decide (b < a.hi r.line)))

/-- A request none of whose granules is left is performed; a prefetch is over then. A whole-line write settles its line's
metadata (R219). -/
def State.endReq (s : State) (tag : Nat) : State :=
  match s.reqs.find? (fun r => r.tag == tag) with
  | none => s
  | some r =>
    if r.checks.isEmpty || !r.grans.all r.done.contains then s
    else
      let s := match r.checks.findSome? (fun c => match c.2 with | .ok l => (r.accs.find? (fun a => a.lane == c.1)).map (fun a => (l, a)) | .bad _ => none) with
        | some (l, a) => if r.wholeLine then s.setPack (l.key - a.lo r.line % 128) (if l.cmp then 1 else 0) else s
        | none => s
      if r.accs.all (fun a => a.kind == 3) then { s with reqs := s.reqs.filter (fun q => q.tag != tag) }
      else s.setReq tag (fun q => { q with performed := true })

/-- What a request tells another package beside the access itself: the operation and type of an atomic, then the data. -/
def remoteData (i : Instr) (a : LaneAcc) : List Byte :=
  (match i with
   | .vatom h x => bytesOf 1 x.aop.toBits.toNat ++ bytesOf 1 h.ty.code
   | .vcas h _ => bytesOf 1 15 ++ bytesOf 1 h.ty.code
   | _ => []) ++ a.data ++ a.exp

/-- The message that carries the part of an access in a request's line to another package. -/
def remoteMessage (now : Nat) (r : GReq) (a : LaneAcc) : List Byte :=
  let n := a.hi r.line - a.lo r.line
  let part : LaneAcc := { a with data := (a.data.drop (a.lo r.line - a.ea.toNat)).take n, exp := a.exp }
  requestBytes (if a.kind = 3 then 1 else a.kind + 1) r.ctx (a.lo r.line) n r.pkr r.tag now (remoteData r.instr part)

/-- The team whose request or scalar access carries a tag is in focus. -/
def State.focusTag (s : State) (tag : Nat) : State :=
  match s.reqs.find? (fun r => r.tag == tag) with
  | some r => s.focus r.uid
  | none =>
    match s.teams.find? (fun t => t.sent.any (fun x => x.2.1 == tag)) with
    | some t => s.focus t.uid
    | none => s

/-- The granules of a request that a step names and that can be performed. -/
def State.chosen (s : State) (r : GReq) (part : Nat) : List Nat :=
  r.grans.filter (fun g => bitAt part (g % 16) && !r.done.contains g && s.granReady r g)

/-- GLOBAL_REQUEST (R207): a request reaches its owner, which performs the granules named (R223). -/
def execGlobalRequest (x : ReqPart) (s : State) : Out :=
  let tag := x.tag
  let s := s.focusTag tag
  .next (match s.reqs.find? (fun r => r.tag == tag && r.uid == s.cur.uid && !r.performed) with
    | none => s
    | some r =>
      if r.pkg = s.ownPkg then
        let gs := s.chosen r x.part
        let s := gs.foldl (fun s g => s.performGranule r g) (s.checkReq r)
        (sortNat ((s.reqs.filter (fun q => q.tag == tag || (r.joint && r.mate q))).map GReq.tag)).foldl State.endReq s
      else if !s.inOrder r then s
      else State.setReq { s with outbox := s.outbox ++ (byLane r.accs).map (remoteMessage s.gtc r) } tag (fun q => { q with performed := true }))

/-! ### Replies (R244, R245) -/

/-- The flags that atomics of another package raised are not part of its answers: the old values give them again. -/
def answerFlags (r : GReq) (answers : List Answer) : Flags5 :=
  answers.foldl (fun acc x => if x.code != 0 then acc else
    match r.accs.find? (fun a => a.lane == x.lane && a.kind == 2) with
    | some a => acc ||| (atomValue r.instr (natOf x.data) (natOf a.data) (natOf a.exp)).2
    | none => acc) 0

/-- The sectors that a reply of another package carries for the L1 of its request's core (R231): a load that L1 may serve fills
them, and another writes those that the L1 holds. Where the L1 has been written since the request was made, what is older cannot
be told, and the sector goes. -/
def State.takeFill (s : State) (r : GReq) (f : Fill) : State :=
  let k := l1Key r.ctx (r.core / 256) (r.core % 256) f.addr
  let x : Sector := { data := s.overlay r.ctx r.core (f.addr / 32 * 32) f.data, key := f.key, rd := f.rd, w := f.w, ctx := r.ctx, prio := fillPrio r.instr }
  match FMap.get? s.l1 k with
  | some y => if y.at_ < r.tag then s.l1Put (r.core / 256) (r.core % 256) k x else { s with l1 := FMap.erase s.l1 k }
  | none => if r.eligible then s.l1Put (r.core / 256) (r.core % 256) k x else s

/-- What a reply of another package does to the L1 of its request's core. -/
def State.takeFills (s : State) (r : GReq) (answers : List Answer) : State :=
  if r.pkg = s.ownPkg then s
  else
    let s := (r.accs.filter (fun a => a.kind == 2)).foldl (fun s a => s.l1Drop r.ctx (r.core / 256) (r.core % 256) a.ea.toNat) s
    (answers.flatMap (fun x => if x.code = 0 then x.fills else [])).foldl (fun s f => s.takeFill r f) s

/-- Good answers delivered: registers, counts (R443) and flags (R250). -/
def State.takeAnswers (s : State) (r : GReq) (answers : List Answer) : State :=
  let handler := match s.cur.block with | some b => b.handler | none => false
  let views := if handler then s.cur.code.mview else s.cur.kern.mview
  let good := answers.filter (fun x => x.code == 0)
  let t := good.foldl (fun t x => t.deliverTo views r.instr x.lane x.data) s.cur
  let moved := (good.map Answer.lane).filter (fun l => (t.lane l).regs != (s.cur.lane l).regs)
  let t : Team := { t with paths := t.paths.map (fun (p : Path) => if shares p.lanes moved then { p with still := false } else p) }
  let bytes := (r.accs.filter (fun a => (a.kind == 0 || a.kind == 1) && answers.any (fun x => x.lane == a.lane && x.code == 0))).foldl
    (fun acc a => acc + a.width) 0
  State.countCur (State.wordFlags { s with cur := t, reqs := s.reqs.filter (fun q => q.tag != r.tag) } r.word
    (r.flags ||| answerFlags r answers)) 11 bytes

/-- What stays of a request whose reply has returned: the lanes whose faults wait for an instruction boundary. -/
def State.keepFaults (s : State) (r : GReq) (ls : List Nat) (answers : List Answer) : State :=
  if ls.isEmpty then s
  else
    let q : GReq := { r with
      accs := r.accs.filter (fun a => ls.contains a.lane), answers := answers.filter (fun x => ls.contains x.lane), performed := true,
      back := true }
    { s with reqs := s.reqs ++ [q] }

/-- A reply taken where the request's block is the one in place. -/
def State.takeReply (s : State) (r : GReq) (answers : List Answer) : State :=
  let h := match s.cur.block with | some b => b.handler | none => false
  if s.cur.status != .running then s.takeAnswers r answers
  else
    let bad := (replyFaults s.cur r answers).map LaneFault.lane
    let s := (s.takeAnswers r answers).keepFaults r bad answers
    let s := match memAux r.instr with
      | some x => if acquires r.instr && offCore s.cur x.scope then s.discardLanes (r.accs.map LaneAcc.lane) else s
      | none => s
    s.boundary h []

/-- The parts of a lane's answer put together, by line. -/
def joinParts (parts : List (Nat × Answer)) (l : Nat) : Answer :=
  let ps := (sortNat (parts.map Prod.fst)).flatMap (fun n => (parts.filter (fun p => p.1 == n)).map Prod.snd)
  match ps.find? (fun p => p.code != 0) with
  | some p => p
  | none => { lane := l, code := 0, data := ps.flatMap Answer.data }

/-- The request of another line whose reply a lane of the word still awaits. -/
def State.awaited (s : State) (r : GReq) (l : Nat) : Option GReq :=
  s.reqs.find? (fun q => q.tag != r.tag && r.mate q && !q.back && q.accs.any (fun a => a.lane == l))

/-- The answers of a reply: a lane's answer that another line still owes a part of is kept there (R218). -/
def State.joinLines (s : State) (r : GReq) (answers : List Answer) : List Answer × State :=
  answers.foldl (fun acc x =>
    let mine := r.early.filter (fun e => e.2.lane == x.lane)
    match acc.2.awaited r x.lane with
    | some q => (acc.1, acc.2.setReq q.tag (fun y => { y with early := y.early ++ mine ++ [(r.line, x)] }))
    | none => (acc.1 ++ [if mine.isEmpty then x else joinParts (mine ++ [(r.line, x)]) x.lane], acc.2)) ([], s)

/-- The reply of a request: its answers, once they are all there. A request of the user's block may be answered while a
handler runs: the user's lane work is taken up for it and put aside again. -/
def State.reply (s : State) (r : GReq) (answers : List Answer) : State :=
  if !(r.accs.all (fun a => answers.any (fun x => x.lane == a.lane))) then s
  else
    let (answers, s) := if r.back then (answers, s) else (s.takeFills r answers).joinLines r answers
    if (match s.cur.block with | some b => b.seq == r.block | none => false) || s.cur.userWork.isNone then s.takeReply r answers
    else
      let s := State.takeReply { s with cur := s.cur.swapWork } r answers
      { s with cur := s.cur.swapWork }

/-- The answer of another package to an access of the scalar stream (R207, R379): numbered lane 0. -/
def State.scalarReply (s : State) (tag : Nat) (ext : List Answer) : State :=
  match s.cur.sent.find? (fun x => x.2.1 == tag), ext.find? (fun x => x.lane == 0) with
  | some (key, _), some a =>
    if s.cur.replies.any (fun r => r.1 == key) then s
    else { s with cur := { s.cur with replies := s.cur.replies ++ [(key, a.code, a.data)] } }
  | _, _ => s

/-- The Ultra Ethernet transport's answer: an error mark and bytes (R385). -/
def State.ueAnswer (s : State) (bad : Bool) (bs : List Byte) : State := { s with ueOut := s.ueOut ++ [bytesOf 1 (b2n bad) ++ bs] }

/-- The answer of another package to what the device asked for itself; a signal that could not be decremented there gives
SIGNAL_FAILED (R287). -/
def State.farAnswer (s : State) (tag code : Nat) (bs : List Byte) : State :=
  match s.far.find? (fun x => x.tag == tag && x.code.isNone) with
  | none => s
  | some x => match x.who with
    | .signal grid addr =>
      let s : State := { s with far := s.far.erase x }
      if code % 256 = 0 then s else s.ctxEvent x.ctx 8 (code % 256) grid addr
    | .ue => State.ueAnswer { s with far := s.far.erase x } (code % 256 != 0) (if code % 256 = 0 then bs else [])
    | _ => s.farReply tag code bs

/-- GLOBAL_REPLY (R244): the reply of a performed request returns. `ext` holds the answers of another package. -/
def execGlobalReply (tag : Nat) (ext : List Answer) (s : State) : Out :=
  let s := s.focusTag tag
  .next (match s.reqs.find? (fun r => r.tag == tag && r.uid == s.cur.uid && r.performed) with
    | none =>
      if s.farPending tag then (match ext with | a :: _ => s.farAnswer tag a.code a.data | [] => s)
      else s.scalarReply tag ext
    | some r => s.reply r (if r.pkg = s.ownPkg ∨ !r.answers.isEmpty then r.answers else ext))

/-! ### The end of a park (R87, R88) -/

/-- Parked paths whose wait is over join the ready order. Paths whose waits one event ends join it in rising order of their
indices: the spec gives them no order (DESIGN CHOICE, log entry 24). -/
def Team.wakePaths (t : Team) (ended : ParkOn → Bool) : Team :=
  ((t.paths.filter (fun p => p.state == .parked && (match p.park with | some on => ended on | none => false))).map Path.idx).foldl
    (fun t i => (t.setPath i (fun p => { p with park := none })).enqueue i) t

/-- The lanes of a path that parks on dark circuits and whose packages have lit are sent; once none is left the path
joins the ready order (R396). -/
def State.lightPath (s : State) (p : Path) : State :=
  match p.park, s.cur.block, s.fetchLane p.ip with
  | some (.dark ls), some b, .ok w =>
    (match decodeLane w with
     | .ok i =>
       (match laneHead i, memAux i with
        | some h, some x =>
          let r : LaneRun := { i := i, p := p, b := b, e := s.env b p, act := ls }
          let words := wordsOf s.cur.code.mview (readOperands i)
          let (s, xs) := locatePass i b.snap.pkr (ls.map (memOp r h x)) s
          if (passWait xs).isSome || !s.missRoom (missesOf s.cur xs) then s
          else
            let (o, s) := s.issueLanes r words [] xs
            let t := s.cur.setPath p.idx (fun p => { p with
              faults := p.faults ++ o.faults, park := some (.dark o.dark), fl := p.fl ||| o.flags,
              doneLanes := p.doneLanes ++ ls.filter (fun l => !o.dark.contains l), still := p.still && memKind i == 0 })
            if o.dark.isEmpty then
              let n := b2n ((nth [] p.passes p.passDone).any (fun l => p.lanes.contains l))
              { s with cur := (t.setPath p.idx (fun p => { p with park := none, passDone := p.passDone + n })).enqueue p.idx }
            else { s with cur := t }
        | _, _ => s)
     | .error _ => s)
  | _, _, _ => s

/-- The wait of a parked path tested again (R354): a page that was saved is asked for anew, and the path joins the ready order
where no lane of its pass has to wait. -/
def State.repark (s : State) (p : Path) : State :=
  match p.park, s.cur.block, s.fetchLane p.ip with
  | some (.line _ _), some b, .ok w | some (.frame _ _), some b, .ok w =>
    (match decodeLane w with
     | .ok i =>
       (match laneHead i, memAux i with
        | some h, some x =>
          let r : LaneRun := { i := i, p := p, b := b, e := s.env b p, act := p.active s.cur h.g }
          let words := wordsOf s.cur.code.mview (readOperands i)
          let ls := ((memLanes r).headD []).filter (fun l => ((s.cur.lane l).error i words).isNone)
          let (s, xs) := locatePass i b.snap.pkr (ls.map (memOp r h x)) s
          (match passWait xs with
           | some on => { s with cur := s.cur.setPath p.idx (fun p => { p with park := some on }) }
           | none => { s with cur := (s.cur.setPath p.idx (fun p => { p with park := none })).enqueue p.idx })
        | _, _ => s)
     | .error _ => s)
  | _, _, _ => s

/-- The paths of the focused team that wait for lines and frames test their waits again. -/
def State.reparkAll (s : State) : State := (s.cur.paths.filter (fun p => p.state == .parked)).foldl (fun s p => s.repark p) s

/-- A path parks on dark circuits. -/
def Path.onDark (p : Path) : Bool := p.state == .parked && (match p.park with | some (.dark _) => true | _ => false)

/-- The paths of the focused team that park on dark circuits take up what is lit now. -/
def State.lightPaths (s : State) : State := (s.cur.paths.filter Path.onDark).foldl (fun s p => s.lightPath p) s

/-- The same for the user's lane work while a handler runs. -/
def Team.wake (t : Team) (ended : ParkOn → Bool) : Team :=
  let t := t.wakePaths ended
  if t.userWork.isSome then (t.swapWork.wakePaths ended).swapWork else t

/-- Pages that prefetches asked for and that a frame is free for now (R252). -/
def State.wantPages (s : State) : State :=
  (s.teams.filter (fun t => !t.want.isEmpty)).foldl (fun s t =>
    let s := s.focus t.uid
    t.want.foldl (fun s p => (State.wantPage { s with cur := { s.cur with want := s.cur.want.filter (fun q => q != p) } } p)) s) s

/-- Waits for lines and frames that are over now. -/
def State.wakeMemory (s : State) : State :=
  let uid := s.cur.uid
  let s := s.mapTeams (fun t => t.wake (fun on => match on with
    | .line f l => s.present f l
    | .frame sett core => (s.takeFrame sett core).isSome
    | _ => false))
  if s.teams.all (fun t => t.want.isEmpty) then s else s.wantPages.focus uid

end Sys2Proof.Machine
end

