-- ==== Sys2Proof/Machine/EngineRun.lean ====
section
/-!
DEFINITION. What the mover and the matrix engine do with the commands of a team (R264 to R281): firing, the arrival of
lines (R201, R234), the completion of mover operations (R270, R304 to R307), of products and accumulator transfers
(R236, R274, R275, R309, R310), and the rounds of matrix spans (R278 to R280).
-/

namespace Sys2Proof.Machine

/-! ### Addresses of the engines -/

/-- The key of a byte as an engine of the focused team reaches it; none in another package, or where nothing is. -/
def State.engLeaf (s : State) (a : Nat) (k : Kind) (pkr : Word) : Option Leaf :=
  if a / 2 ^ 60 = 0 ∧ bitsNat a 59 54 = s.ownPkg then
    match s.ownerCheck s.cur.ctx (bitsNat a 53 48) (bitsNat a 47 0) k pkr with
    | .ok l => some l
    | .error _ => none
  else none

/-- Frame and byte of an address in the S, L or C window. -/
def State.engFrame (s : State) (a : Nat) : Option (Nat × Nat) :=
  match a / 2 ^ 60 with
  | 0x9 => some (s.clusterFrame s.cur (winOff a), (s.cur.cbase + winOff a) % 4096)
  | 0x8 | 0xB =>
    let b := spByte s.cur .engine a
    (FMap.get? s.cur.stt (b / 4096)).bind (fun e => if e.st = 0 then some (Config.frameNo s.cur.sett s.cur.core e.frame, b % 4096) else none)
  | _ => none

/-- The line of an address is present, where it has a presence bit (R201). -/
def State.engPresent (s : State) (a : Nat) : Bool :=
  match s.engFrame a with
  | some (fr, b) => s.present fr (b / 128)
  | none => true

/-- Key of an address outside the global window. -/
def State.engKey (s : State) (a : Nat) : Option Nat :=
  if a / 2 ^ 60 = 0xA then some (Config.chipKey s.cur.sett (s.chipBase s.cur + winOff a))
  else (s.engFrame a).map (fun x => Config.frameKey x.1 x.2)

/-- The frame that holds an address marked used by an engine (R199). -/
def State.engUse (s : State) (a : Nat) : State :=
  match s.engFrame a with
  | some (fr, _) => { s with frames := FMap.modify s.frames fr (fun f => { f with used := s.tick }), tick := s.tick + 1 }
  | none => s

/-- Bytes of one line read by an engine through a view, with what its core's L1 takes of them (R231): none in another
package. -/
def State.engRead (s : State) (a n : Nat) (pkr : Word) : Option (List Byte × State) :=
  if a / 2 ^ 60 = 0 then (s.engLeaf a .load pkr).map (fun l =>
    let (bs, s) := s.readLine l.cmp l.key n
    (bs, s.l1Through s.cur.ctx s.cur.sett s.cur.core a bs))
  else (s.engKey a).map (fun k => (s.mem.getBytes k n, s.engUse a))

/-- Addresses cut where a line of 128 bytes ends; `fuel` bounds the pieces. -/
def cutLines : Nat → Nat → Nat → List (Nat × Nat)
  | 0, _, _ => []
  | fuel + 1, a, n =>
    if n = 0 then []
    else
      let k := min n (128 - a % 128)
      (a, k) :: cutLines fuel (a + k) (n - k)

/-- The lines of a range. -/
def lineCut (a n : Nat) : List (Nat × Nat) := cutLines (n / 128 + 2) a n

/-- Keys of a range of S, L or C addresses, as R236 knows them. -/
def State.keysOf (s : State) (a n : Nat) : List (Nat × Nat) :=
  (lineCut a n).filterMap (fun x => (s.engKey x.1).map (fun k => (s.logKey k, x.2)))

/-- Bytes of a range of S, L or C addresses, none while a line of it is absent. -/
def State.readRange (s : State) (a n : Nat) : Option (List Byte) :=
  let ps := lineCut a n
  if ps.all (fun x => s.engPresent x.1) then
    some (ps.flatMap (fun x => match s.engKey x.1 with | some k => s.mem.getBytes k x.2 | none => List.replicate x.2 0))
  else none

/-- The frames of a range marked used (R199). -/
def State.useRange (s : State) (a n : Nat) : State := (lineCut a n).foldl (fun s x => s.engUse x.1) s

/-! ### Claims (R265, R269) -/

/-- The channel sides a command claims: slot, whether it is an output, and count; inputs in claim order. A span command
claims at the firing of its round. -/
def EngOp.claims : EngOp → List (Nat × Bool × Nat)
  | .mover _ d =>
    (match d.inch with | some h => [(h, false, d.incnt)] | none => []) ++ (match d.outch with | some h => [(h, true, d.outcnt)] | none => [])
  | .tmma _ _ _ _ ha hb => [(ha, false, 1), (hb, false, 1)]
  | .tacc .zero _ _ => []
  | .tacc .load _ h => [(h, false, 1)]
  | .tacc _ _ h => [(h, true, 1)]
  | _ => []

/-- Every block enqueued before number `n` is complete (R235). -/
def Team.blocksDone (t : Team) (n : Nat) : Bool :=
  let open_ := t.queue ++ t.block.toList ++ (match t.userWork with | some w => w.queue ++ w.block.toList | none => [])
  open_.all (fun b => decide (n ≤ b.seq))

/-- Entries that CHADV.P published are open to a claim of `k` from QC once their blocks are complete (R269). -/
def Team.published (t : Team) (c : Chan) (k : Nat) : Bool :=
  c.arrive.all (fun x => t.blocksDone x.2.2
    || (decide (k ≤ (x.1 - c.qc).toNat) && decide (x.2.1 ≤ (c.qc - x.1).toNat)))

/-- Claims are possible, taken one after another. -/
def claimsOk : List (Nat × Bool × Nat) → Team → Bool
  | [], _ => true
  | (h, out, k) :: cs, t =>
    match t.chan h with
    | none => false
    | some c =>
      if out then decide (k ≤ c.room) && claimsOk cs (t.setChan h (fun c => { c with pc := c.pc + BitVec.ofNat 32 k }))
      else decide (k ≤ c.ready) && t.published c k && claimsOk cs (t.setChan h (fun c => { c with qc := c.qc + BitVec.ofNat 32 k }))

/-- Claims made for an operation: the team and where each claim's entries start. -/
def claimAll (op : Nat) : List (Nat × Bool × Nat) → Team → Team × List Nat
  | [], t => (t, [])
  | (h, out, k) :: cs, t =>
    let at_ := match t.chan h with | some c => if out then c.pc.toNat else c.qc.toNat | none => 0
    let kk := BitVec.ofNat 32 k
    let t := t.setChan h (fun c =>
      if out then { c with pc := c.pc + kk, outs := c.outs ++ [{ op := op, count := k, done := false }] }
      else { c with qc := c.qc + kk, ins := c.ins ++ [{ op := op, count := k, done := false }],
                    arrive := c.arrive.filter (fun x => !t.blocksDone x.2.2) })
    let (t, xs) := claimAll op cs t
    (t, at_ :: xs)

/-- The entries of completed claims at the front of a side, and the claims left (R269). -/
def popClaims : List Claim → Nat × List Claim
  | [] => (0, [])
  | c :: cs => if c.done then let (n, r) := popClaims cs; (n + c.count, r) else (0, c :: cs)

/-- The claims of an operation complete (R269). -/
def Team.completeClaims (t : Team) (op : Nat) : Team :=
  let mark (cs : List Claim) : List Claim := cs.map (fun (c : Claim) => if c.op = op then { c with done := true } else c)
  { t with chans := t.chans.map (fun x =>
      let (i, ins) := popClaims (mark x.2.ins)
      let (o, outs) := popClaims (mark x.2.outs)
      (x.1, { x.2 with q := x.2.q + BitVec.ofNat 32 i, p := x.2.p + BitVec.ofNat 32 o, ins := ins, outs := outs })) }

/-! ### Pins (R200) -/

/-- The bytes of `k` entries of a channel from entry `i` on, as addresses. -/
def Chan.entries (c : Chan) (i k : Nat) : List (Nat × Nat) := (upTo i k).map (fun j => (c.addr j 0, c.bytes))

/-- The S and L pages a command references (R200): those outside channels, and those of the entries it would claim. -/
def Team.commandPages (t : Team) (op : EngOp) : List Nat :=
  let sides := (op.claims.zip (claimAll 0 op.claims t).2).flatMap (fun x => match t.chan x.1.1 with
    | some c => c.entries x.2 x.1.2.2
    | none => [])
  let outside := match op with | .mover k d => moverPages t k d | _ => []
  sortNat (outside ++ sides.flatMap (fun x => pagesOf t x.1 x.2))

/-- Pages of the focused team made RESIDENT where they are not, the resident ones marked used first; the answer says
whether all are. -/
def State.bringPages (s : State) (pages : List Nat) : State × Bool :=
  let s := pages.foldl (fun s p => match FMap.get? s.cur.stt p with
    | some e => if e.st = 0 then s.touch (Config.frameNo s.cur.sett s.cur.core e.frame) p false else s
    | none => s) s
  let s := pages.foldl (fun s p => match FMap.get? s.cur.stt p with
    | some e => if e.st = 0 then s else (match s.service p e with | some (_, s) => s | none => s)
    | none => s) s
  (s, pages.all (fun p => match FMap.get? s.cur.stt p with | some e => e.st == 0 | none => false))

/-- The frames of resident pages of the focused team. -/
def State.framesOf (s : State) (pages : List Nat) : List Nat :=
  pages.filterMap (fun p => (FMap.get? s.cur.stt p).map (fun e => Config.frameNo s.cur.sett s.cur.core e.frame))

/-- Frames of a core that are pinned. -/
def State.pinned (s : State) (sett core : Nat) : List Nat :=
  (coreFrames sett core).filter (fun f => match s.frame? f with | some x => decide (0 < x.pins) | none => false)

/-- At most 64 frames of the core stay pinned with these (R200). -/
def State.pinsOk (s : State) (frames : List Nat) : Bool :=
  decide ((sortNat (s.pinned s.cur.sett s.cur.core ++ frames)).length ≤ 64)

/-- The pins of a team's pages can be taken within the limit of R200, those not yet RESIDENT counted as well (R265). -/
def State.couldPin (s : State) (t : Team) (pages : List Nat) : Bool :=
  let pinned := s.pinned t.sett t.core
  let fresh := pages.filter (fun p => match FMap.get? t.stt p with
    | some e => !(e.st == 0 && pinned.contains (Config.frameNo t.sett t.core e.frame))
    | none => true)
  decide (pinned.length + fresh.length ≤ 64)

/-- Frames pinned once more. -/
def State.pin (s : State) (frames : List Nat) : State :=
  { s with frames := frames.foldl (fun m f => FMap.modify m f (fun x => { x with pins := x.pins + 1 })) s.frames }

/-- Pins released. -/
def State.unpin (s : State) (frames : List Nat) : State :=
  { s with frames := frames.foldl (fun m f => FMap.modify m f (fun x => { x with pins := x.pins - 1 })) s.frames }

/-- Pages written by an operation become dirty (R195). -/
def State.dirtyPages (s : State) (pages : List Nat) : State :=
  { s with cur := { s.cur with stt := pages.foldl (fun m p => FMap.modify m p (fun e => { e with dirty := true })) s.cur.stt } }

/-! ### Mover transfers (R234, R270, R304 to R307) -/

/-- A piece of a transfer within one line of either side: row, destination, source (none for a fill), offset in the row,
and length. -/
structure Seg where
  row : Nat
  dst : Nat
  src : Option Nat
  off : Nat
  n : Nat

/-- The address of byte `o` of a side: absolute, or counted in the claimed entries of a channel (R304). -/
def sideAddr (t : Team) (h : Option Nat) (start : Nat) (base : Word) (stride : Int) (row off : Nat) : Nat :=
  let o := addrAdd base.toNat (stride * row + off)
  match h.bind t.chan with
  | some c => c.addr start o
  | none => o

/-- The pieces of one row; `fuel` bounds them. -/
def rowSegs (t : Team) (k : MvKind) (d : MvDesc) (f : Fired) (row : Nat) : Nat → Nat → List Seg
  | 0, _ => []
  | fuel + 1, off =>
    if d.rowlen ≤ off then []
    else
      let dst := sideAddr t d.outch f.outStart d.dst d.dstride row off
      let src : Option Nat := match k with
        | .fill => none
        | .gath list => some (addrAdd (nth 0 list row).toNat off)
        | _ => some (sideAddr t d.inch f.inStart d.src d.sstride row off)
      let n := min (d.rowlen - off) (min (128 - dst % 128) (match src with | some a => 128 - a % 128 | none => 128))
      { row := row, dst := dst, src := src, off := off, n := n } :: rowSegs t k d f row fuel (off + n)

/-- Every piece of a fired mover operation, in order. -/
def segsOf (t : Team) (f : Fired) : List Seg :=
  match f.cmd.op with
  | .mover k d => (upTo 0 d.rows).flatMap (fun row => rowSegs t k d f row (d.rowlen / 64 + 4) 0)
  | _ => []

/-- The source of a piece lies in another package. -/
def State.remoteSrc (s : State) (g : Seg) : Bool :=
  match g.src with
  | some a => a / 2 ^ 60 == 0 && bitsNat a 59 54 != s.ownPkg
  | none => false

/-- The pattern of a fill from byte `off` of a row on (R307). -/
def fillBytes (d : MvDesc) (off n : Nat) : List Byte := (upTo off n).map (fun j => nth 0 (bytesOf 8 d.aux.toNat) (j % 8))

/-- The line of an address is present but for the copies of the operation itself. -/
def State.engOwn (s : State) (op a : Nat) : Bool :=
  match s.engFrame a with
  | some (fr, b) =>
    (match s.frame? fr with
     | some f => !f.absent.contains (b / 128)
         || (!f.filling.contains (b / 128) && f.copies.all (fun c => c.2 != b / 128 || c.1 == op))
     | none => true)
  | none => true

/-- A source in this package read at its point of order: through the compressed view for a decompressing copy (R305). -/
def State.srcRead (s : State) (f : Fired) (a n : Nat) : Option (List Byte × State) :=
  match f.cmd.op with
  | .mover .dec _ => (s.engLeaf a .load f.cmd.pkr).map (fun l =>
    let (bs, s) := s.readLine true l.key n
    (bs, s.l1Through s.cur.ctx s.cur.sett s.cur.core a bs))
  | _ => s.engRead a n f.cmd.pkr

/-- Bytes of a piece's source; none where another package has not sent them, or a line of it is absent. -/
def State.segBytes (s : State) (f : Fired) (ext : List Answer) (g : Seg) : Option (List Byte × State) :=
  match g.src with
  | none => some ((match f.cmd.op with | .mover _ d => fillBytes d g.off g.n | _ => []), s)
  | some a =>
    if s.remoteSrc g then
      (ext.find? (fun x => x.lane == g.row && x.code == 0)).map (fun x =>
        let bs := (x.data.drop g.off).take g.n
        (bs, s.l1Through s.cur.ctx s.cur.sett s.cur.core a bs))
    else match (f.kept.getD []).find? (fun x => x.1 == g.row && x.2.1 == g.off) with
      | some x => some (x.2.2, s)
      | none => if s.engPresent a then s.srcRead f a g.n else none

/-- The key of the first byte of an address that an engine reaches in this package. -/
def State.anyKey (s : State) (a : Nat) (k : Kind) (pkr : Word) : Option Nat :=
  if a / 2 ^ 60 = 0 then (s.engLeaf a k pkr).map Leaf.key else s.engKey a

/-- Keys the sources of an operation cover: a destination byte among them takes an undefined value (R270). -/
def State.srcKeys (s : State) (f : Fired) (segs : List Seg) : List (Nat × Nat) :=
  segs.filterMap (fun g => g.src.bind (fun a => (s.anyKey a .load f.cmd.pkr).map (fun k => (k, g.n))))

/-- Keys the destinations of an operation cover. -/
def State.dstKeys (s : State) (f : Fired) (segs : List Seg) : List (Nat × Nat) :=
  segs.filterMap (fun g => (s.anyKey g.dst .store f.cmd.pkr).map (fun k => (k, g.n)))

/-- Pieces read one after another: row, offset and bytes; none while a line is absent for another reason than the operation. -/
def keepSegs (f : Fired) : List Seg → State → Option (List (Nat × Nat × List Byte) × State)
  | [], s => some ([], s)
  | g :: gs, s =>
    match g.src with
    | none => keepSegs f gs s
    | some a =>
      if !s.engOwn f.id a then none
      else match s.srcRead f a g.n with
        | none => none
        | some (bs, s) => (keepSegs f gs s).map (fun r => ((g.row, g.off, bs) :: r.1, r.2))

/-- Before a first byte is written, the sources that the operation's own writes will meet are read (R270). -/
def State.keepSources (s : State) (f : Fired) (segs : List Seg) : Option (Fired × State) :=
  if f.kept.isSome then some (f, s)
  else
    let dsts := s.dstKeys f segs
    let mine := segs.filter (fun g => !s.remoteSrc g && (match g.src.bind (fun a => s.anyKey a .load f.cmd.pkr) with
      | some k => dsts.any (fun d => meets d.1 d.2 k g.n)
      | none => false))
    (keepSegs f mine s).map (fun r =>
      let f : Fired := { f with kept := some r.1 }
      (f, { r.2 with cur := { r.2.cur with fired := r.2.cur.fired.map (fun x => if x.id == f.id then f else x) } }))

/-- Bytes of a piece as they are written at a key: those that overlap a source are undefined (R270). -/
def State.overlapped (s : State) (srcs : List (Nat × Nat)) (k : Nat) (bs : List Byte) : List Byte × State :=
  if srcs.any (fun r => meets r.1 r.2 k bs.length) then breakBytes s srcs k bs else (bs, s)

/-- Pieces that land in frames written (S, L and C lines); none where a source is not there. -/
def landSegs (f : Fired) (ext : List Answer) (srcs : List (Nat × Nat)) : List Seg → State → Option State
  | [], s => some s
  | g :: gs, s =>
    if f.lost.contains g.row then landSegs f ext srcs gs s
    else match s.segBytes f ext g, s.engKey g.dst with
    | some (bs, s), some k =>
      let (bs, s) := s.overlapped srcs k bs
      landSegs f ext srcs gs ((s.engUse g.dst).poke none k bs)
    | _, _ => none

/-- The pieces of an operation that land in a line of a frame. -/
def State.segsIn (s : State) (fr line : Nat) (segs : List Seg) : List Seg :=
  segs.filter (fun g => match s.engFrame g.dst with | some (x, b) => x == fr && b / 128 == line | none => false)

/-- The lines of frames that an operation writes: frame and line, each once. -/
def State.linesOf (s : State) (segs : List Seg) : List (Nat × Nat) :=
  (sortNat (segs.filterMap (fun g => (s.engFrame g.dst).map (fun x => x.1 * 32 + x.2 / 128)))).map (fun k => (k / 32, k % 32))

/-- A copy clears the presence bits of the lines it will write when it fires (R201). -/
def State.clearLines (s : State) (op : Nat) (lines : List (Nat × Nat)) : State :=
  { s with frames := lines.foldl (fun (m : FMap FrameInfo) (x : Nat × Nat) =>
      let f : FrameInfo := (FMap.get? m x.1).getD
        { owner := none, absent := [], filling := [], copies := [], pins := 0, used := 0, lent := false }
      FMap.set m x.1 { f with absent := insertNat x.2 f.absent, copies := f.copies ++ [(op, x.2)] }) s.frames }

/-- A line that nothing fills or copies into any more is present (R201). -/
def FrameInfo.settleLine (f : FrameInfo) (line : Nat) : FrameInfo :=
  if f.filling.contains line || f.copies.any (fun c => c.2 == line) then f
  else { f with absent := f.absent.filter (fun l => l != line) }

/-- A copy's bytes in a line have arrived. -/
def State.arrived (s : State) (op fr line : Nat) : State :=
  { s with frames := FMap.modify s.frames fr (fun f =>
      ({ f with copies := f.copies.filter (fun c => !(c.1 == op && c.2 == line)) } : FrameInfo).settleLine line) }

/-- A fired operation of the package and its team. -/
def State.firedOp (s : State) (op : Nat) : Option (Nat × Fired) :=
  s.teams.findSome? (fun t => (t.fired.find? (fun f => f.id == op)).map (fun f => (t.uid, f)))

/-- A step on another team: focused, run, and focused back. -/
def State.onTeam (s : State) (uid : Nat) (f : State → State) : State :=
  if s.cur.uid = uid ∧ s.cur.status ≠ .absent then f s
  else if s.cur.status = .absent then f (s.focus uid)
  else
    let me := s.cur.uid
    (f (s.focus uid)).focus me

/-- The bytes of a copy for one line, where their sources are there. -/
def State.copyLine (s : State) (op fr line : Nat) : State :=
  match s.cur.fired.find? (fun f => f.id == op) with
  | none => s.arrived op fr line
  | some f =>
    let segs := segsOf s.cur f
    match s.keepSources f segs with
    | none => s
    | some (f, s) =>
      match landSegs f [] (s.srcKeys f segs) (s.segsIn fr line segs) s with
      | some s => s.arrived op fr line
      | none => s

/-- LINE_ARRIVAL (R201): a line that a service fills arrives, then the copies into it, one a step. -/
def execLineArrival (frame line : Nat) (s : State) : Out :=
  .next (match s.frame? frame with
    | none => s
    | some f =>
      if f.filling.contains line then
        State.wakeMemory { s with frames := FMap.modify s.frames frame (fun f =>
          ({ f with filling := f.filling.filter (fun l => l != line) } : FrameInfo).settleLine line) }
      else match f.copies.find? (fun c => c.2 == line) with
        | none => s
        | some (op, _) =>
          match s.firedOp op with
          | none => (s.arrived op frame line).wakeMemory
          | some (uid, _) => (s.onTeam uid (fun s => s.copyLine op frame line)).wakeMemory)

/-! ### Firing (R265) -/

/-- Teams whose engines are those of a core. -/
def State.onCore (s : State) (sett core : Nat) : List Team := s.teams.filter (fun t => t.sett == sett && t.core == core)

/-- A fired operation of the mover. -/
def Fired.isMover (f : Fired) : Bool := match f.cmd.op with | .mover _ _ => true | _ => false

/-- The engine of a core has capacity (R264). -/
def State.capacity (s : State) (sett core : Nat) (matrix : Bool) : Bool :=
  let fs := (s.onCore sett core).flatMap Team.fired
  if matrix then !(fs.any (fun f => !f.isMover)) else decide ((fs.filter Fired.isMover).length < 8)

/-- The head of a queue. -/
def Team.head (t : Team) (matrix : Bool) : Option EngCmd := (if matrix then t.mxq else t.mvq).head?

/-- The head leaves its queue. -/
def Team.popHead (t : Team) (matrix : Bool) : Team :=
  if matrix then { t with mxq := dropMarks (t.mxq.drop 1) } else { t with mvq := dropMarks (t.mvq.drop 1) }

/-- The teams of the open span of a team, by column (R278). -/
def State.members (s : State) (t : Team) (m : SpanMember) : List Team :=
  (upTo m.g0 m.len).filterMap (fun g => s.teams.find? (fun u => u.columns.contains g && u.span.any SpanMember.opened && sameSpan t u m))

/-- Each team of the span once, in column order: a team on a core pair is one member. -/
def State.memberIds (s : State) (t : Team) (m : SpanMember) : List Nat :=
  (s.members t m).foldl (fun acc u => if acc.contains u.uid then acc else acc ++ [u.uid]) []

/-- A span command at the head of a team's matrix queue. -/
def Team.spanHead (t : Team) : Option (EngCmd × Shape × Bool × Bool × Nat × Nat) :=
  match t.head true with
  | some c => (match c.op with | .spanMma sh z k ha hb => some (c, sh, z, k, ha, hb) | _ => none)
  | none => none

/-- What a member of a round claims: the head its A entry, and each its B entry unless it keeps it. -/
def roundClaims (head : Bool) (keep : Bool) (ha hb : Nat) : List (Nat × Bool × Nat) :=
  (if head then [(ha, false, 1)] else []) ++ (if keep then [] else [(hb, false, 1)])

/-- The pages that a member's part in a round references: of the entries it reads (R200, R279). -/
def Team.roundPages (t : Team) (head : Bool) (ha hb : Nat) : List Nat :=
  let claims := roundClaims head false ha hb
  sortNat (((claims.zip (claimAll 0 claims t).2).flatMap (fun x => match t.chan x.1.1 with
    | some c => c.entries x.2 1
    | none => [])).flatMap (fun x => pagesOf t x.1 x.2))

/-- What a member of a round needs: an entry in each channel it reads (R279), its blocks and its pins (R265). -/
def State.roundReady (s : State) (t : Team) (head : Bool) : Bool :=
  match t.spanHead with
  | none => false
  | some (c, _, _, _, ha, hb) =>
    t.blocksDone c.need && claimsOk (roundClaims head false ha hb) t && s.couldPin t (t.roundPages head ha hb)

/-- The round at the head of a team's queue can fire: every member is there with its command, and the engines are idle. -/
def State.roundFires (s : State) (t : Team) : Bool :=
  match t.span with
  | none => false
  | some m =>
    let ids := s.memberIds t m
    m.opened && (s.members t m).length == m.len
      && (ids.filterMap s.team?).all (fun u => s.roundReady u (some u.uid == ids.head?) && s.capacity u.sett u.core true)

/-- The head of a team's queue passes what R265 asks of it beside the engine's capacity. -/
def State.headReady (s : State) (t : Team) (matrix : Bool) : Bool :=
  match t.head matrix with
  | none => false
  | some c => !s.halted t.ctx && t.blocksDone c.need && (match c.op with
    | .marker _ => false
    | .spanClose => !t.fired.any (fun f => match f.cmd.op with | .spanMma _ _ _ _ _ => true | _ => false)
    | .spanMma _ _ _ _ _ => s.roundFires t
    | op => claimsOk op.claims t && s.couldPin t (t.commandPages op))

/-- No other team of the core has an earlier command that can fire on the engine. -/
def State.firstInLine (s : State) (t : Team) (matrix : Bool) (c : EngCmd) : Bool :=
  !((s.onCore t.sett t.core).any (fun u => u.uid != t.uid && u.status == .running
    && (match u.head matrix with | some d => decide (d.id < c.id) | none => false) && s.headReady u matrix))

/-- Keys of the operands of a product (R236). -/
def State.operandKeys (s : State) (sh : Shape) (ha hb a0 b0 : Nat) : List (Nat × Nat) :=
  let k := 64 * sh.k64
  (match s.cur.chan ha with | some c => s.keysOf (c.addr a0 0) (panelBytes (8 * sh.m8) k sh.afmt sh.mx) | none => [])
    ++ (match s.cur.chan hb with | some c => s.keysOf (c.addr b0 0) (panelBytes (16 * sh.n16) k sh.bfmt sh.mx) | none => [])

/-- The team's own writes since the TARRIVE of a product that meet its operands: their bytes become undefined (R236). -/
def breakLogged (ranges : List (Nat × Nat)) : List (Nat × Nat × Nat) → State → State
  | [], s => s
  | (k, n, _) :: ws, s =>
    let at_ := s.storeKey k
    let (bs, s) := breakBytes s ranges k (s.mem.getBytes at_ n)
    breakLogged ranges ws { s with mem := s.mem.setBytes at_ bs }

/-- A command of the focused team fires: its claims, its pins, and what a copy or a product leaves at firing. -/
def State.fire (s : State) (matrix : Bool) (c : EngCmd) (frames : List Nat) : State :=
  let (t, starts) := claimAll c.id c.op.claims s.cur
  let ins := (c.op.claims.zip starts).filterMap (fun x => if x.1.2.1 then none else some x.2)
  let outs := (c.op.claims.zip starts).filterMap (fun x => if x.1.2.1 then some x.2 else none)
  let f : Fired := { id := c.id, cmd := c, inStart := nth 0 ins 0, in2Start := nth 0 ins 1, outStart := nth 0 outs 0, pins := frames,
                     ranges := [], raced := false }
  let s := State.pin { s with cur := t.popHead matrix } frames
  match c.op with
  | .mover _ _ =>
    let lines := s.linesOf (segsOf s.cur f)
    let s := s.dirtyPages (sortNat ((segsOf s.cur f).flatMap (fun g => pagesOf s.cur g.dst g.n)))
    State.clearLines { s with cur := { s.cur with fired := s.cur.fired ++ [f] } } c.id lines
  | .tmma sh _ _ _ ha hb =>
    let ranges := s.operandKeys sh ha hb f.inStart f.in2Start
    let late := s.cur.wlog.filter (fun w => decide (0 < c.arr) && decide (c.arr ≤ w.2.2) && ranges.any (fun r => meets r.1 r.2 w.1 w.2.1))
    let s := breakLogged ranges late s
    { s with cur := { s.cur with fired := s.cur.fired ++ [{ f with ranges := ranges, raced := !late.isEmpty }] } }
  | _ => { s with cur := { s.cur with fired := s.cur.fired ++ [f] } }

/-- SPANCLOSE at the head of its queue: its team leaves the span (R280). -/
def State.closeSpan (s : State) : State := { s with cur := { s.cur.popHead true with span := none } }

/-- ENGINE_COMMAND_FIRE (R265) for the focused team's head of a queue. -/
def execEngineCommandFire (matrix : Bool) (s : State) : Out :=
  .next (match s.cur.status, s.cur.head matrix, s.halted s.cur.ctx with
    | .running, some c, false =>
      (match c.op with
       | .marker _ => { s with cur := if matrix then { s.cur with mxq := dropMarks s.cur.mxq } else { s.cur with mvq := dropMarks s.cur.mvq } }
       | .spanMma _ _ _ _ _ => s
       | op =>
         if !(s.headReady s.cur matrix && s.capacity s.cur.sett s.cur.core matrix && s.firstInLine s.cur matrix c) then s
         else if op == .spanClose then s.closeSpan
         else
           let pages := s.cur.commandPages op
           let (s, ready) := s.bringPages pages
           let frames := s.framesOf pages
           if ready && s.pinsOk frames then s.fire matrix c frames else s)
    | _, _, _ => s)

/-! ### Completion -/

/-- What follows the completion of an operation of the focused team: its claims, its pins, waits that end, and the frames
and cluster memory of a team that has ended (R266, R269). -/
def State.retireOp (s : State) (f : Fired) : State :=
  let t := s.cur.completeClaims f.id
  let s := State.unpin { s with cur := { t with fired := t.fired.filter (fun x => x.id != f.id) } } f.pins
  let s := if s.cur.status != .running && s.cur.fired.isEmpty then State.freeFrames (State.freeGang { s with cur := { s.cur with span := none } }) s.cur.uid else s
  s.wakeMemory

/-- Address ranges of sources in other packages. -/
def State.farSources (s : State) (segs : List Seg) : List (Nat × Nat) :=
  segs.filterMap (fun g => if s.remoteSrc g then g.src.map (fun a => (a, g.n)) else none)

/-- A piece goes to another package. -/
def State.remoteDst (s : State) (g : Seg) : Bool := g.dst / 2 ^ 60 == 0 && bitsNat g.dst 59 54 != s.ownPkg

/-- Pieces that go to K and global addresses, or to another package, written at their points of order (R234) or sent (R400);
`far` are the sources of other packages. -/
def putSegs (f : Fired) (ext : List Answer) (srcs far : List (Nat × Nat)) : List Seg → State → Option State
  | [], s => some s
  | g :: gs, s =>
    if f.lost.contains g.row then putSegs f ext srcs far gs s
    else match s.segBytes f ext g with
    | none => none
    | some (bs, s) =>
      if g.dst / 2 ^ 60 = 0 then
        if s.remoteDst g then
          let (bs, s) := s.overlapped far g.dst bs
          putSegs f ext srcs far gs (s.sendData s.cur.sett s.cur.ctx g.dst 0 0 0 bs)
        else match s.engLeaf g.dst .store f.cmd.pkr with
          | none => putSegs f ext srcs far gs s
          | some l =>
            let (bs, s) := s.overlapped srcs l.key bs
            putSegs f ext srcs far gs ((s.writeLine none l.cmp l.key bs).l1Through s.cur.ctx s.cur.sett s.cur.core g.dst bs)
      else match s.engKey g.dst with
        | some k =>
          let (bs, s) := s.overlapped srcs k bs
          putSegs f ext srcs far gs (s.poke none k bs)
        | none => putSegs f ext srcs far gs s

/-- Lines of this package that pieces write wholly: their metadata are set (R219). -/
def State.settleLines (s : State) (pkr : Word) (segs : List Seg) : State :=
  let mine := segs.filter (fun g => g.dst / 2 ^ 60 == 0 && !s.remoteDst g)
  (sortNat (mine.map (fun g => g.dst / 128))).foldl (fun s n =>
    let here := mine.filter (fun g => g.dst / 128 == n)
    if (upTo (128 * n) 128).all (fun b => here.any (fun g => decide (g.dst ≤ b) && decide (b < g.dst + g.n))) then
      match s.engLeaf (128 * n) .store pkr with
      | some l => s.setPack l.key (if l.cmp then 1 else 0)
      | none => s
    else s) s

/-- A fired operation of the focused team changed. -/
def State.setFired (s : State) (id : Nat) (g : Fired → Fired) : State :=
  { s with cur := { s.cur with fired := s.cur.fired.map (fun f => if f.id == id then g f else f) } }

/-- The rows that a mover operation has still to ask of other packages: those of lit packages are asked for, those of a package
that no timetable lights are lost (R395, R396); their bytes are not written (DESIGN CHOICE, log entry 119). -/
def State.askRows (s : State) (f : Fired) : List Seg → State
  | [] => s
  | g :: gs =>
    let s := if !s.remoteSrc g || f.asked.contains g.row || f.lost.contains g.row || g.off != 0 then s
      else match g.src.map (fun a => (a, s.reach (bitsNat a 59 54))), f.cmd.op with
        | some (a, .lit), .mover _ d =>
          State.setFired { s with outbox := s.outbox ++ [requestBytes 1 s.cur.ctx a d.rowlen f.cmd.pkr f.id s.gtc []] } f.id
            (fun f => { f with asked := f.asked ++ [g.row] })
        | some (_, .none), _ => s.setFired f.id (fun f => { f with lost := f.lost ++ [g.row] })
        | _, _ => s
    State.askRows s f gs

/-- How the packages that an operation writes to stand: all lit, one dark, or the rows of those that no timetable lights. -/
def State.rowsTo (s : State) (segs : List Seg) : Option (List Nat) :=
  let far := segs.filter s.remoteDst
  if far.any (fun g => s.reach (bitsNat g.dst 59 54) == .dark) then none
  else some (sortNat ((far.filter (fun g => s.reach (bitsNat g.dst 59 54) == .none)).map Seg.row))

/-- A mover operation is done: its claims, its pins, and its bytes counted. -/
def State.finishMover (s : State) (f : Fired) : State :=
  (s.retireOp f).countCur 13 (match f.cmd.op with | .mover _ d => d.rows * d.rowlen | _ => 0)

/-- A mover operation whose rows have all been asked for: what is there lands, and what goes elsewhere is written or sent; it is
done once no other package has still to acknowledge its writes (R234, R307). -/
def State.landMover (s : State) (f : Fired) (segs : List Seg) (ext : List Answer) : State :=
  let framed (g : Seg) : Bool := (s.engFrame g.dst).isSome
  let lines := s.linesOf (segs.filter (fun g => framed g && s.remoteSrc g))
  if s.frames.any (fun x => x.2.copies.any (fun c => c.1 == f.id && !lines.contains (x.1, c.2))) then s
  else match s.rowsTo segs with
    | none => s
    | some gone =>
      let f : Fired := { f with lost := f.lost ++ gone }
      match s.keepSources f segs with
      | none => s
      | some (f, s1) =>
        let srcs := s1.srcKeys f segs
        match landSegs f ext srcs (segs.filter (fun g => match s.engFrame g.dst with
            | some (fr, b) => lines.contains (fr, b / 128) | none => false)) s1 with
        | none => s
        | some s1 =>
          match putSegs f ext srcs (s.farSources segs) (segs.filter (fun g => !framed g)) s1 with
          | none => s
          | some s2 =>
            let good := segs.filter (fun g => !f.lost.contains g.row)
            let s2 := (lines.foldl (fun s x => s.arrived f.id x.1 x.2) s2).settleLines f.cmd.pkr good
            if good.any s.remoteDst then s2.setFired f.id (fun f => { f with sent := true }) else s2.finishMover f

/-- MOVER_OPERATION_COMPLETE (R307): the operation asks other packages for its rows (R395), lands what arrives, writes or sends
the rest, and completes once its last byte has been written. `ext` holds the rows that other packages sent, and under the number
of rows the acknowledgement of what was written there. -/
def execMoverOperationComplete (op : Nat) (ext : List Answer) (s : State) : Out :=
  .next (match s.cur.fired.find? (fun f => f.id == op && f.isMover) with
    | none => s
    | some f =>
      let rows := match f.cmd.op with | .mover _ d => d.rows | _ => 0
      if f.sent then (if ext.any (fun x => x.lane == rows) then s.finishMover f else s)
      else
        let segs := segsOf s.cur f
        let todo := segs.filter (fun g => s.remoteSrc g && !f.asked.contains g.row && !f.lost.contains g.row)
        if todo.isEmpty then s.landMover f segs ext else s.askRows f todo)

/-! ### Products (R124, R139, R140, R274, R309) -/

/-- A panel of operand bytes: format, rows (or columns), bytes along K, order bit, MX, and its bytes as one number. -/
structure Panel where
  fmt : Nat
  rows : Nat
  kb : Nat
  ord : Bool
  mx : Bool
  data : Nat

/-- Element (r, k) of a panel, as its bits (R274). -/
def Panel.elem (p : Panel) (r k : Nat) : Nat :=
  if p.ord then elemAt 16 p.data (k * p.rows + r) else elemAt (matBits p.fmt) p.data (r * elemsOf p.fmt p.kb + k)

/-- The scale byte of row r at element k; 127 without MX. -/
def Panel.scale (p : Panel) (r k : Nat) : Nat :=
  if p.mx then elemAt 8 p.data (p.rows * p.kb + r * (elemsOf p.fmt p.kb / 32) + k / 32) else 127

/-- The scaled value of an element (R124). -/
def Panel.val (p : Panel) (r k : Nat) : FV := (scaleValue (some (p.scale r k, false)) (matValue p.fmt (p.elem r k), 0)).1

/-- The chunks of a panel along K, one after another, over an incoming element: `a0` is A's first element along K. -/
def chunkRun (a b : Panel) (m n a0 : Nat) : List Nat → Nat → Flags5 → Nat × Flags5
  | [], acc, fl => (acc, fl)
  | c :: cs, acc, fl =>
    let e := elemsOf b.fmt 64
    if formatFamily b.fmt = 4 then
      chunkRun a b m n a0 cs (chunkI32 acc ((upTo (e * c) e).map (fun k => (matInt a.fmt (a.elem m (a0 + k)), matInt b.fmt (b.elem n k))))) fl
    else
      let (x, f) := chunkF32 (fmtF32.value acc) ((upTo (e * c) e).map (fun k => (a.val m (a0 + k), b.val n k)))
      chunkRun a b m n a0 cs x (fl ||| f)

/-- One output over the panels of a chain (R279); a TMMA is a chain of one. -/
def chainRun (a : Panel) (m n : Nat) : List Panel → Nat → Nat → Flags5 → Nat × Flags5
  | [], _, acc, fl => (acc, fl)
  | b :: bs, a0, acc, fl =>
    let (x, f) := chunkRun a b m n a0 (upTo 0 (b.kb / 64)) acc fl
    chainRun a m n bs (a0 + elemsOf b.fmt b.kb) x f

/-- Place of element (m, n) of a product with `n16` tile columns, from tile `t` on (R273, R274). -/
def tilePlace (t n16 m n : Nat) : Nat := 128 * (t + m / 8 * n16 + n / 16) + 16 * (m % 8) + n % 16

/-- The outputs of a product written to a team's tiles. -/
def productInto (a : Panel) (bs : List Panel) (t0 n16 : Nat) (zero : Bool) (acc0 : FMap Word32) :
    List (Nat × Nat) → FMap Word32 → Flags5 → FMap Word32 × Flags5
  | [], acc, fl => (acc, fl)
  | (m, n) :: rest, acc, fl =>
    let at_ := tilePlace t0 n16 m n
    let (x, f) := chainRun a m n bs 0 (if zero then 0 else (FMap.getD acc0 at_ 0).toNat) 0
    productInto a bs t0 n16 zero acc0 rest (FMap.set acc at_ (BitVec.ofNat 32 x)) (fl ||| f)

/-- The places of an M x N result, row by row. -/
def gridOf (m n : Nat) : List (Nat × Nat) := (upTo 0 m).flatMap (fun i => (upTo 0 n).map (fun j => (i, j)))

/-- An operand panel read from a channel entry; none while a line of it is absent. -/
def State.panel (s : State) (h entry rows k fmt : Nat) (ord mx : Bool) : Option Panel :=
  (s.cur.chan h).bind (fun c => (s.readRange (c.addr entry 0) (panelBytes rows k fmt mx)).map (fun bs =>
    { fmt := fmt, rows := rows, kb := k, ord := ord, mx := mx, data := natOf bs }))

/-- The frames of channel entries, by slot and entry, marked used (R199). -/
def State.useRanges (s : State) (es : List (Nat × Nat)) : State :=
  es.foldl (fun s e => match s.cur.chan e.1 with
    | some c => s.useRange (c.addr e.2 0) c.bytes
    | none => s) s

/-- TMMA completes (R274, R309): tiles broken by R236 take undefined values, and the operation awaits its TWAIT. -/
def State.completeTmma (s : State) (f : Fired) (sh : Shape) (zero aord bord : Bool) (ha hb : Nat) : State :=
  let k := 64 * sh.k64
  match s.panel ha f.inStart (8 * sh.m8) k sh.afmt aord sh.mx, s.panel hb f.in2Start (16 * sh.n16) k sh.bfmt bord sh.mx with
  | some a, some b =>
    let (acc, fl) := productInto a [b] sh.t sh.n16 zero s.cur.acc (gridOf (8 * sh.m8) (16 * sh.n16)) s.cur.acc 0
    let u : Unwaited := { arr := f.cmd.arr, ranges := f.ranges, tile := sh.t, tiles := sh.m8 * sh.n16 }
    let s : State := { s with cur := { s.cur.orFlags fl with acc := acc, unwaited := s.cur.unwaited ++ [u] } }
    let s := s.useRanges [(ha, f.inStart), (hb, f.in2Start)]
    let s := if f.raced then s.freeTiles [(sh.t, sh.m8 * sh.n16)] else s
    (s.retireOp f).countCur (matClass sh.afmt) (8 * sh.m8 * (16 * sh.n16) * elemsOf sh.afmt k)
  | _, _ => s

/-! ### Accumulator transfers (R275, R310) -/

/-- Place of element (m, n) of a TACC matrix. -/
def TileWord.place (tw : TileWord) (m n : Nat) : Nat := tilePlace tw.t tw.c16 m n

/-- Rows and columns of the matrix of a TACC. -/
def TileWord.shape (tw : TileWord) : List (Nat × Nat) := gridOf (8 * (tw.nt / tw.c16)) (16 * tw.c16)

/-- A stored element: its bytes and flags. -/
def TaccOp.out (op : TaccOp) (x : Nat) (scale : Nat) : List Byte × Flags5 :=
  match op with
  | .storeBf16 => let r := fmtBF16.round (fmtF32.value x) false .rne false; (bytesOf 2 r.1, r.2)
  | .storeE4m3 satf =>
    let r := fmtE4M3.round (scaleValue (some (scale, true)) (fmtF32.value x, 0)).1 false .rne satf
    (bytesOf 1 r.1, r.2)
  | _ => (bytesOf 4 x, 0)

/-- Bytes written to S, L or C addresses, line by line. -/
def State.writeRange (s : State) (a : Nat) (bs : List Byte) : State :=
  (cutBytes (lineCut a bs.length) bs).foldl (fun s x => match s.engKey x.1 with | some k => (s.engUse x.1).poke none k x.2 | none => s) s

/-- TACC completes (R275). -/
def State.completeTacc (s : State) (f : Fired) (op : TaccOp) (tw : TileWord) (h : Nat) : State :=
  let set (s : State) (g : Nat → Nat) : State :=
    { s with cur := { s.cur with acc := (tw.shape.zip (upTo 0 tw.shape.length)).foldl (fun m x =>
        FMap.set m (tw.place x.1.1 x.1.2) (BitVec.ofNat 32 (g x.2))) s.cur.acc } }
  match op with
  | .zero => (set s (fun _ => 0)).retireOp f
  | .load =>
    (match (s.cur.chan h).bind (fun c => s.readRange (c.addr f.inStart 0) (512 * tw.nt)) with
     | none => s
     | some bs => ((set s (elemAt 32 (natOf bs))).useRanges [(h, f.inStart)]).retireOp f)
  | op =>
    match s.cur.chan h with
    | none => s.retireOp f
    | some c =>
      let rs := tw.shape.map (fun x => op.out (FMap.getD s.cur.acc (tw.place x.1 x.2) 0).toNat tw.x)
      let a := c.addr f.outStart 0
      let bs := rs.flatMap Prod.fst
      if !((lineCut a bs.length).all (fun x => s.engPresent x.1)) then s
      else
        let s := (s.writeRange a bs).dirtyPages (pagesOf s.cur a bs.length)
        State.retireOp { s with cur := s.cur.orFlags (rs.foldl (fun (acc : Flags5) r => acc ||| r.2) 0) } f

/-- MATRIX_OPERATION_COMPLETE (R274). -/
def execMatrixOperationComplete (op : Nat) (s : State) : Out :=
  .next (match s.cur.fired.find? (fun f => f.id == op) with
    | none => s
    | some f =>
      (match f.cmd.op with
       | .tmma sh zero aord bord ha hb => s.completeTmma f sh zero aord bord ha hb
       | .tacc op tw h => s.completeTacc f op tw h
       | _ => s))

/-! ### Spans (R278 to R280) -/

/-- SPAN_RENDEZVOUS (R278): the span of the focused team opens for all that wait for it. A span holds the cores of its range
until its last member leaves (R280). -/
def execSpanRendezvous (s : State) : Out :=
  .next (match s.cur.span with
    | none => s
    | some m =>
      let us := (upTo m.g0 m.len).filterMap (fun g => s.teams.find? (fun u =>
        u.columns.contains g && u.span.any (fun x => !x.opened) && sameSpan s.cur u m))
      let taken := s.teams.any (fun u => u.span.any (fun x => x.opened && x.row == m.row && x.bench == m.bench
        && decide (x.g0 < m.g0 + m.len) && decide (m.g0 < x.g0 + x.len)))
      if m.opened || us.length ≠ m.len || us.any (fun u => u.status != .running) || taken || s.halted s.cur.ctx then s
      else
        let ids := us.map Team.uid
        s.mapTeams (fun (t : Team) => if ids.contains t.uid && t.status != .absent then
          { t with span := t.span.map (fun (x : SpanMember) => { x with opened := true }) } else t))

/-- Members agree on M, N, the format family and MX, and the head's A entry is large enough (R280, R314). -/
def roundAgrees (hs : List (EngCmd × Shape × Bool × Bool × Nat × Nat)) (abytes : Nat) : Bool :=
  match hs with
  | [] => true
  | (_, sh, _) :: _ =>
    let ktot := hs.foldl (fun acc x => acc + 64 * x.2.1.k64) 0
    hs.all (fun x => x.2.1.m8 == sh.m8 && x.2.1.n16 == sh.n16 && formatFamily x.2.1.afmt == formatFamily sh.afmt
      && formatFamily x.2.1.bfmt == formatFamily sh.afmt && x.2.1.mx == sh.mx)
      && decide (panelBytes (8 * sh.m8) ktot sh.afmt sh.mx ≤ abytes)

/-- A member's command of an abandoned or unmatched round completes with a status bit (R280). -/
def Team.dropRound (t : Team) (bit : BitVec 2) : Team := { t.popHead true with spanStatus := t.spanStatus ||| bit }

/-- A member's part in the firing of a round: its pages are brought in, and then its command fires. -/
def State.fireRound (s : State) (head : Bool) : Option State :=
  match s.cur.spanHead with
  | none => none
  | some (c, _, _, keep, ha, hb) =>
    let pages := s.cur.roundPages head ha hb
    let (s, ready) := s.bringPages pages
    let frames := s.framesOf pages
    if !(ready && s.pinsOk frames) then none
    else
      let a0 := match s.cur.chan ha with | some ch => ch.qc.toNat | none => 0
      let (t, _) := claimAll c.id (if head then [(ha, false, 1)] else []) s.cur
      let b0 := match t.chan hb with | some ch => ch.qc.toNat | none => 0
      let (t, _) := claimAll c.id (if keep then [] else [(hb, false, 1)]) t
      let f : Fired := { id := c.id, cmd := c, inStart := a0, in2Start := b0, outStart := 0, pins := frames, ranges := [], raced := false }
      let t := t.popHead true
      some (State.pin { s with cur := { t with fired := t.fired ++ [f] } } frames)

/-- Members fire one after another; none where one of them cannot yet. -/
def fireMembers : List (Nat × Bool) → State → Option State
  | [], s => some s
  | (uid, head) :: us, s =>
    match (s.focus uid).fireRound head with
    | some s => fireMembers us s
    | none => none

/-- The pages of every member asked for, where a round cannot fire for want of them. -/
def bringMembers : List (Nat × Bool) → State → State
  | [], s => s
  | (uid, head) :: us, s =>
    bringMembers us (s.onTeam uid (fun s => match s.cur.spanHead with
      | none => s
      | some (_, _, _, _, ha, hb) => (s.bringPages (s.cur.roundPages head ha hb)).1))

/-- SPAN_ROUND_FIRE (R279, R280) for the focused team's span. -/
def execSpanRoundFire (s : State) : Out :=
  .next (match s.cur.span, s.cur.spanHead with
    | some m, some _ =>
      let ids := s.memberIds s.cur m
      let us := ids.filterMap s.team?
      let me := s.cur.uid
      if !m.opened || s.halted s.cur.ctx then s
      else if (s.members s.cur m).length < m.len || us.any (fun u => u.status != .running) then { s with cur := s.cur.dropRound 2 }
      else if us.any (fun u => u.spanHead.isNone) then s
      else
        let abytes := match us with
          | u :: _ => (match u.spanHead with | some (_, _, _, _, ha, _) => (match u.chan ha with | some c => c.bytes | none => 0) | none => 0)
          | [] => 0
        if m.broken || !roundAgrees (us.filterMap Team.spanHead) abytes then
          s.mapTeams (fun (t : Team) => if ids.contains t.uid && t.status != .absent then
            { t.dropRound 1 with span := t.span.map (fun (x : SpanMember) => { x with broken := true }) } else t)
        else
          let heads := ids.map (fun i => (i, some i == ids.head?))
          let first := us.all (fun u => match u.head true with | some c => s.firstInLine u true c | none => false)
          if !(s.roundFires s.cur && first) then s
          else match fireMembers heads s with
            | some s => s.focus me
            | none => bringMembers heads s
    | _, _ => s)

/-- A member's fired command of the round. -/
def Team.roundOp (t : Team) : Option (Fired × Shape × Bool × Bool × Nat × Nat) :=
  t.fired.findSome? (fun f => match f.cmd.op with | .spanMma sh z k ha hb => some (f, sh, z, k, ha, hb) | _ => none)

/-- The B panels of a round in chain order; none while a line is absent. -/
def roundPanels (s : State) : List Nat → Option (List Panel)
  | [] => some []
  | uid :: us =>
    let t := s.focus uid
    match t.cur.roundOp with
    | none => none
    | some (f, sh, _, _, _, hb) =>
      match t.panel hb f.in2Start (16 * sh.n16) (64 * sh.k64) sh.bfmt false sh.mx, roundPanels s us with
      | some p, some ps => some (p :: ps)
      | _, _ => none

/-- Every member's command completes, and is counted in its own sett (R443). -/
def retireRound (afmt : Nat) : List Nat → State → State
  | [], s => s
  | uid :: us, s =>
    let s := s.focus uid
    let s := match s.cur.roundOp with
      | some (f, sh, _, _, ha, hb) => ((s.useRanges [(ha, f.inStart), (hb, f.in2Start)]).retireOp f).countCur (matClass afmt) (8 * sh.m8 * (16 * sh.n16) * elemsOf sh.bfmt (64 * sh.k64))
      | none => s
    retireRound afmt us s

/-- SPAN_ROUND_COMPLETE (R279): the round of which a fired command of the focused team is part. -/
def execSpanRoundComplete (op : Nat) (s : State) : Out :=
  .next (match s.cur.span, s.cur.fired.find? (fun f => f.id == op) with
    | some m, some _ =>
      let ids := s.memberIds s.cur m
      let me := s.cur.uid
      (match ids.head?.bind s.team?, ids.getLast?.bind s.team? with
       | some hd, some tl =>
         (match hd.roundOp, tl.roundOp, roundPanels s ids with
          | some (fa, sha, _, _, ha, _), some (_, sht, zero, _, _, _), some bs =>
            let ktot := bs.foldl (fun acc b => acc + b.kb) 0
            (match (s.focus hd.uid).panel ha fa.inStart (8 * sha.m8) ktot sha.afmt false sha.mx with
             | none => s
             | some a =>
               let (acc, fl) := productInto a bs sht.t sht.n16 zero tl.acc (gridOf (8 * sht.m8) (16 * sht.n16)) tl.acc 0
               let s := s.setTeam tl.uid (fun t => { t.orFlags fl with acc := acc })
               (retireRound sha.afmt ids s).focus me)
          | _, _, _ => s)
       | _, _ => s)
    | _, _ => s)

end Sys2Proof.Machine
end

