-- ==== Sys2Proof/Machine/Cle.lean ====
section
/-!
DEFINITION. The collective engine of a sett: trigger counters (R293 to R295), armed entries and their accesses (R290 to
R292, R296, R317, R421), messages of class 0 between setts (R377, R383, R384, R426, R427), the counter instructions
(R318 to R320) and barriers (R321, R429).
-/

namespace Sys2Proof.Machine

/-! ### Messages of class 0 (R383, R426, R427) -/

/-- The body of a message as it leaves for another package (log entry 21). -/
def ctlBodyBytes : CtlBody → List Byte
  | .increment ctx i n => bytesOf 1 0 ++ bytesOf 2 ctx ++ bytesOf 2 i ++ bytesOf 2 n
  | .flag ctx a v c => bytesOf 1 1 ++ bytesOf 2 ctx ++ bytesOf 8 a.toNat ++ bytesOf 8 v.toNat ++ bytesOf 4 c.toNat
  | .arrival ctx i m x lag recd team =>
    bytesOf 1 2 ++ bytesOf 2 ctx ++ bytesOf 2 i ++ bytesOf 4 m ++ bytesOf 4 x ++ bytesOf 4 lag ++ bytesOf 8 recd.toNat ++ bytesOf 8 team
  | .arrived ctx team v => bytesOf 1 3 ++ bytesOf 2 ctx ++ bytesOf 8 team ++ (match v with | some x => bytesOf 1 0 ++ bytesOf 4 x | none => bytesOf 1 1)
  | .record ctx a bs c => bytesOf 1 4 ++ bytesOf 2 ctx ++ bytesOf 8 a.toNat ++ bytesOf 2 c ++ bs
  | .abort ctx g => bytesOf 1 5 ++ bytesOf 2 ctx ++ bytesOf 8 g

/-- The context a message concerns. -/
def ctlContext : CtlBody → Nat
  | .increment ctx _ _ | .flag ctx _ _ _ | .arrival ctx _ _ _ _ _ _ | .record ctx _ _ _ | .arrived ctx _ _ | .abort ctx _ => ctx

/-- The number of a sett over all packages. -/
def pairKey (pkg sett : Nat) : Nat := pkg * 64 + sett

/-- A message for another package in the outbox: code 8, destination, CSEQ, SGTC and body (log entry 21). -/
def ctlBytes (pkg sett : Nat) (m : CtlMsg) : List Byte :=
  bytesOf 1 8 ++ bytesOf 2 (pairKey pkg sett) ++ bytesOf 2 (pairKey m.srcPkg m.srcSett) ++ bytesOf 4 m.cseq ++ bytesOf 8 m.sgtc
    ++ ctlBodyBytes m.body

/-- A message of a sett to another one, numbered (R383) and stamped (R426). -/
def State.sendCtl (s : State) (src pkg sett : Nat) (b : CtlBody) : State :=
  let n := FMap.getD (s.sett src).cseqOut (pairKey pkg sett) 1
  let m : CtlMsg := { srcPkg := s.ownPkg, srcSett := src, cseq := n, sgtc := s.gtc, body := b }
  let s := s.setSett src (fun x => { x with cseqOut := FMap.set x.cseqOut (pairKey pkg sett) (n + 1) })
  if pkg = s.ownPkg then { s with transit := s.transit ++ [(sett, m)] }
  else { s with outbox := s.outbox ++ [ctlBytes pkg sett m] }

/-- A copy with this CSEQ has not been accepted (R383). -/
def Sett.fresh (x : Sett) (key n : Nat) : Bool :=
  let (h, seen) := FMap.getD x.cseqIn key (0, [])
  decide (h < n) || (decide (n < h) && decide (h ≤ n + 1024) && !seen.contains n && n != 0)

/-- A CSEQ accepted: the highest number and the 1,024 below it are kept (R383). -/
def Sett.accept (x : Sett) (key n : Nat) : Sett :=
  let (h, seen) := FMap.getD x.cseqIn key (0, [])
  let h' := max h n
  { x with cseqIn := FMap.set x.cseqIn key (h', (insertNat n seen).filter (fun k => decide (h' ≤ k + 1024))) }

/-- The receipt stamp (R427). -/
def State.stamp (s : State) (sgtc : Nat) : Nat := max s.gtc (sgtc + 1)

/-! ### Counters (R293, R294) -/

/-- The number in its sett of a context's counter; none beyond the context's range. -/
def State.ctrNo (s : State) (ctx sett i : Nat) : Option Nat :=
  (s.ctx? ctx).bind (fun c => if i < c.cntCount then (FMap.get? c.cntBase sett).map (fun b => b + i) else none)

/-- A counter of a sett. -/
def State.counter (s : State) (sett no : Nat) : Counter := FMap.getD (s.sett sett).counters no { value := 0, gen := 0 }

/-- sext(x, 32) >= 0. -/
def notNeg (x : BitVec 32) : Bool := !x.msb

/-- THRESH of an entry. -/
def Entry.thresh (e : Entry) : BitVec 32 := BitVec.ofNat 32 (fieldAt e.bytes 8 4)

/-- The entries armed on a counter whose test holds fire (R294), those of contexts that `run` (R352). -/
def fireEntries (run : Nat → Bool) (no : Nat) (v : BitVec 32) (es : List Entry) : List Entry :=
  es.map (fun (e : Entry) =>
    if run e.ctx && e.ctr == no && !e.fired && e.waitBlocks.isNone && e.group.isNone && notNeg (v - e.thresh) then { e with fired := true } else e)

/-- A counter given a value, its armed entries tested. -/
def Sett.setCounter (x : Sett) (run : Nat → Bool) (no : Nat) (c : Counter) : Sett :=
  { x with counters := FMap.set x.counters no c, entries := fireEntries run no c.value x.entries }

/-- A wait for a counter after a change to it: one that the value meets is over, whatever the counter is given next (R320,
R321). -/
def Wait.seen (sett no : Nat) (v : BitVec 32) : Wait → Wait
  | .cnt a b thr met => .cnt a b thr (met || (a == sett && b == no && notNeg (v - thr)))
  | .barx (some (a, b)) t => if a = sett ∧ b = no ∧ notNeg (v - t) then .barxDone else .barx (some (a, b)) t
  | w => w

/-- A team's waits changed, the one its user frame keeps too. -/
def Team.mapWait (t : Team) (f : Wait → Wait) : Team :=
  { t with wait := t.wait.map f, frame := t.frame.map (fun (x : Frame) => { x with wait := x.wait.map f }) }

/-- The waits of every team of the package changed, the saved ones (R353) too. -/
def State.mapWaits (s : State) (f : Wait → Wait) : State :=
  { s.mapTeams (fun t => t.mapWait f) with
    ctxs := s.ctxs.map (fun x => (x.1, ({ x.2 with saved := x.2.saved.map (fun ts => ts.map (fun t => t.mapWait f)) } : Context))) }

/-- Every wait at a counter tested after a change to it: those of this package's teams, and those of members in other packages,
which a message tells. -/
def State.counterSeen (s : State) (sett no : Nat) : State :=
  let v := (s.counter sett no).value
  let hit (m : FarMember) : Bool := m.no == no && notNeg (v - m.target)
  let ms := (s.sett sett).members
  let s := (s.mapWaits (Wait.seen sett no v)).setSett sett (fun x => { x with members := ms.filter (fun m => !hit m) })
  (ms.filter hit).foldl (fun s m => s.sendCtl sett m.pkg m.sett (.arrived m.ctx m.team (some v.toNat))) s

/-- `n` added to a counter in one step. -/
def State.bump (s : State) (sett no n : Nat) : State :=
  let c := s.counter sett no
  (s.setSett sett (fun x => x.setCounter (fun c => !s.halted c) no { c with value := c.value + BitVec.ofNat 32 n })).counterSeen sett no

/-- An increment of a context's counter; one beyond its range is discarded with an event (R296). -/
def State.increment (s : State) (ctx sett i n : Nat) : State :=
  match s.ctrNo ctx sett i with
  | some no => s.bump sett no n
  | none => s.ctxEvent ctx 4 0 0 0

/-! ### Writes of the engines and the device to any global address -/

/-- A write of bytes within one page, with PKR zero, to this package or through the outbox to another one (code 9): the
code of the check that fails, or 0. -/
def State.cleWrite (s : State) (ctx a : Nat) (pkr : Word) (bs : List Byte) : Nat × State :=
  if gvaBad .scalar a || a / 2 ^ 60 != 0 then (codeGvaFormat, s)
  else if !s.inDomain (bitsNat a 59 54) then (codeRemoteUnreach, s)
  else if bitsNat a 59 54 ≠ s.ownPkg then (0, { s with outbox := s.outbox ++ [requestBytes 9 ctx a bs.length pkr 0 s.gtc bs] })
  else match s.ownerCheck ctx (bitsNat a 53 48) (bitsNat a 47 0) .store pkr with
    | .error c => (c, s)
    | .ok l => (0, s.writeLine none l.cmp l.key bs)

/-- The fields of an entry (R291). -/
structure EntryFields where
  kind : Nat
  rop : Nat
  fmt : Nat
  mxt : Bool
  imm : Bool
  remote : Bool
  trig : Nat
  thresh : Nat
  cctr : Nat
  csett : Nat
  cpkg : Nat
  src : Nat
  dst : Nat
  len : Nat
  inc : Nat
  recd : Nat
  deriving DecidableEq, Repr

/-- The fields of the 64 bytes of an entry. -/
def entryFields (bs : List Byte) : EntryFields :=
  let w := fieldAt bs 0 4
  let c := fieldAt bs 12 4
  { kind := bitsNat w 3 0, rop := bitsNat w 6 4, fmt := bitsNat w 9 7, mxt := bitAt w 10, imm := bitAt w 11, remote := bitAt w 12,
    trig := fieldAt bs 4 2 % 4096, thresh := fieldAt bs 8 4, cctr := bitsNat c 11 0, csett := bitsNat c 17 12,
    cpkg := bitsNat c 23 18, src := fieldAt bs 16 8, dst := fieldAt bs 24 8, len := fieldAt bs 32 4, inc := fieldAt bs 36 2,
    recd := fieldAt bs 40 8 }

/-- Bytes of an element of an FMT (R291). -/
def fmtBytes : Nat → Nat | 1 => 2 | 2 => 1 | _ => 4

/-- The rules on the fields of an entry alone (R291, R317). -/
def entryOk (bs : List Byte) : Bool :=
  let f := entryFields bs
  let w := fieldAt bs 0 4
  bitsNat w 31 13 == 0 && decide (f.kind ≤ 2) && decide (f.rop ≤ 2) && decide (f.fmt ≤ 3) && bitsNat (fieldAt bs 4 2) 15 12 == 0
    && fieldAt bs 6 2 == 0 && bitsNat (fieldAt bs 12 4) 31 24 == 0 && fieldAt bs 38 2 == 0 && fieldAt bs 48 16 == 0
    && (!f.mxt || (f.fmt == 0 && f.rop == 0 && f.len % 128 == 0))
    && (!f.imm || (f.trig == 0 && f.thresh == 0))
    && (if f.kind = 2 then f.src == 0 && f.dst == 0 && f.len == 0 else decide (1 ≤ f.len) && decide (f.len ≤ 2 ^ 24))
    && (f.kind != 1 || f.len % fmtBytes f.fmt == 0)
    && (f.remote || (f.csett == 0 && f.cpkg == 0)) && decide (f.csett < 48)
    && decide (1 ≤ f.inc) && f.recd % 8 == 0

/-! ### Arming (R290, R294, R317) -/

/-- A place of the context is free among the armed entries of a sett (R290). -/
def State.placeFree (s : State) (ctx sett : Nat) : Bool :=
  match s.ctx? ctx with
  | some c => decide (((s.sett sett).entries.filter (fun e => e.ctx == ctx && e.armed)).length < c.places)
  | none => false

/-- An entry armed on its counter, or fired (R294). -/
def State.arm (s : State) (sett : Nat) (e : Entry) : State :=
  let c := s.counter sett e.ctr
  let go := !s.halted e.ctx && ((entryFields e.bytes).imm || notNeg (c.value - e.thresh))
  s.setSett sett (fun x => { x with entries := x.entries ++ [{ e with gen := c.gen, waitBlocks := none, fired := go }] })

/-- The threshold is more than 2^31 ahead of the counter (R294). -/
def State.tooFar (s : State) (sett no : Nat) (thresh : BitVec 32) : Bool :=
  decide (2 ^ 31 < (thresh - (s.counter sett no).value).toNat)

/-- A checked entry armed once a place is free, else QPOST waits (R290, R317). With .ARRIVE it takes its place now and
is armed once the blocks before it are done. -/
def State.postEntry (s : State) (at_ : Nat) (arrive : Bool) (bs : List Byte) : State :=
  let t := s.cur
  if !s.placeFree t.ctx t.sett then { s with cur := { t with wait := some (.post bs), sent := [], replies := [] } }
  else
    let f := entryFields bs
    let no := (s.ctrNo t.ctx t.sett f.trig).getD 0
    let e : Entry := { id := s.tick, ctx := t.ctx, bytes := bs, pkr := t.pkr, gen := 0, ctr := no,
                       waitBlocks := if arrive then some (t.uid, t.blocks) else none, fired := false, grid := t.gridId, group := none,
                       base := s.chipBase t }
    if !f.imm && s.tooFar t.sett no e.thresh then s.reject at_
    else
      let s := { s with tick := s.tick + 1, cur := { t with wait := none, sent := [], replies := [] } }
      let s := if arrive then s.setSett t.sett (fun x => { x with entries := x.entries ++ [e] }) else s.arm t.sett e
      s.advance 1

/-- The windows and extents of a checked entry at an address (R271, R291, R317): what a WRITE_REDUCE writes it reads as well. -/
def State.entryExtents (s : State) (at_ : Nat) (f : EntryFields) : Extent :=
  let windowOk (a : Nat) : Bool := a / 2 ^ 60 == 0 || a / 2 ^ 60 == 0xA
  if f.kind ≠ 2 ∧ !(windowOk f.src && windowOk f.dst) then .bad at_ s
  else if f.recd / 2 ^ 60 ≠ 0 then .bad at_ s
  else
    match extentsCheck false false (match f.kind with
      | 0 => [(f.src, f.len)]
      | 1 => [(f.src, f.len), (f.dst, f.len)]
      | _ => []) none s with
    | .wait s => .wait s
    | r =>
      let (low, s) : Option Nat × State := match r with | .bad a s => (some a, s) | .good s => (none, s) | .wait s => (none, s)
      extentsCheck true false ((if f.kind = 2 then [] else [(f.dst, f.len)]) ++ (if f.recd = 0 then [] else [(f.recd, 8)])) low s

/-- QPOST (R317). -/
def execQpost (a : Reg) (arrive : Bool) (s : State) : Out :=
  .next (match s.cur.wait with
    | some (.post bs) => s.postEntry (s.cur.s a).toNat arrive bs
    | _ => s.whenReady [a] (fun s =>
      let at_ := (s.cur.s a).toNat
      s.withStruct at_ (fun bs s =>
        let f := entryFields bs
        let inRange (i : Nat) : Bool := (s.ctrNo s.cur.ctx s.cur.sett i).isSome
        if !entryOk bs || !inRange f.trig || !(f.remote || inRange f.cctr) then s.reject at_
        else match s.entryExtents at_ f with
          | .wait s => s
          | .bad x s => s.reject x
          | .good s => s.postEntry at_ arrive bs)))

/-- Every block of a team enqueued before number `n` is complete and its accesses are performed (R317). -/
def State.blocksPerformed (s : State) (uid n : Nat) : Bool :=
  match s.team? uid with
  | none => false
  | some t => t.blocksDone n && !(s.reqs.any (fun r => r.uid == uid && decide (r.block < n) && !r.ordered s.ownPkg && r.accs.any (fun a => a.kind != 3)))

/-- The entries of a sett that wait for blocks and need wait no longer are armed, in the order posted. -/
def armReady (sett : Nat) : List Entry → State → State
  | [], s => s
  | e :: es, s =>
    let s := match e.waitBlocks with
      | some (uid, n) =>
        if s.blocksPerformed uid n then
          (s.setSett sett (fun x => { x with entries := x.entries.filter (fun y => y.id != e.id) })).arm sett e
        else s
      | none => s
    armReady sett es s

/-! ### The accesses of an entry (R292, R296, R421) -/

/-- A stretch of storage within one line. -/
structure Spot where
  key : Nat
  n : Nat
  cmp : Bool

/-- Bytes of a line as a collective engine reaches them (R291, R205), or the code of the check that fails. -/
def State.cleSpot (s : State) (e : Entry) (sett : Nat) (k : Kind) (a n : Nat) : Except Nat Spot :=
  if a / 2 ^ 60 = 0xA then
    .ok { key := Config.chipKey sett (e.base + winOff a), n := n, cmp := false }
  else match s.ownerCheck e.ctx (bitsNat a 53 48) (bitsNat a 47 0) k e.pkr with
    | .ok l => .ok { key := l.key, n := n, cmp := l.cmp }
    | .error c => .error c

/-- The stretches of a range up to the first that fails, and the code of that failure, 0 where none fails. -/
def cleSpots (s : State) (e : Entry) (sett : Nat) (k : Kind) : List (Nat × Nat) → List Spot × Nat
  | [] => ([], 0)
  | (a, n) :: ps =>
    match s.cleSpot e sett k a n with
    | .error c => ([], c)
    | .ok x => let (xs, c) := cleSpots s e sett k ps; (x :: xs, c)

/-- Bytes of stretches read at their points of order. -/
def readSpots : List Spot → State → List Byte × State
  | [], s => ([], s)
  | x :: xs, s =>
    let (bs, s) := s.readLine x.cmp x.key x.n
    let (cs, s) := readSpots xs s
    (bs ++ cs, s)

/-- Bytes written over stretches from the first on, as far as they go; a byte that also lies in a source range has no
stated value (log entry 40). -/
def writeSpots (srcs : List (Nat × Nat)) : List Spot → List Byte → State → State
  | [], _, s => s
  | x :: xs, bs, s =>
    let now := bs.take x.n
    if now.isEmpty then s
    else
      let (now, s) := s.overlapped srcs x.key now
      writeSpots srcs xs (bs.drop x.n) (s.writeLine none x.cmp x.key now)

/-- An E4M3, BF16 or FP32 sum with the E4M3 saturate flag (R292). -/
def sumSat (f : Fmt) (satf : Bool) (x y : FV) : Nat × Flags5 :=
  match x, y with
  | .fin _ _ _, .fin _ _ _ =>
    let z := Dy.add x.dy y.dy
    if z.n = 0 then f.sum [x, y] .rne else f.round z.fv false .rne satf
  | x, y => f.sum [x, y] .rne

/-- The format of a floating FMT (R291). -/
def reduceFmt : Nat → Fmt | 1 => fmtBF16 | 2 => fmtE4M3 | _ => fmtF32

/-- One step of a reduction on patterns: `d` in memory, `x` the source's (R292). -/
def reduceElem (rop fmt d x : Nat) : Nat × Flags5 :=
  if fmt = 3 then
    let a := sextNat d 32
    let b := sextNat x 32
    let r : Int := if rop = 0 then a + b else if rop = 1 then max a b else min a b
    ((r % 2 ^ 32).toNat, 0)
  else
    let f := reduceFmt fmt
    if rop = 0 then sumSat f (fmt == 2) (f.value d) (f.value x) else (f.minMax (rop == 1) (f.value d) (f.value x) d x, 0)

/-- The scale X of a block of FP32 patterns (R421). -/
def mxScale (xs : List Nat) : Nat :=
  let exps := xs.filterMap (fun x => match fmtF32.value x with
    | .fin _ m e => if m = 0 then none else some (exponentOf m e)
    | _ => none)
  match exps with
  | [] => 0
  | e :: es => (max 0 (es.foldl max e + 119)).toNat

/-- One element of a block quantised: the E4M3 pattern and its flags (R421). -/
def mxQuant (scale x : Nat) : Nat × Flags5 :=
  let v := match fmtF32.value x with
    | .fin n m e => FV.fin n m (e + 127 - scale)
    | v => v
  fmtE4M3.round v false .rne true

/-- The value received for an element: 2^(X - 127) x e (R421). -/
def mxValue (scale e : Nat) : FV :=
  match fmtE4M3.value e with
  | .fin n m k => .fin n m (k + scale - 127)
  | v => v

/-- A block of 32 elements applied to its destination (R421). -/
def mxBlock (ds xs : List Nat) : List Nat × Flags5 :=
  let scale := mxScale xs
  let rs := (ds.zip xs).map (fun p =>
    let (q, fl) := mxQuant scale p.2
    let (r, fl') := sumSat fmtF32 false (fmtF32.value p.1) (mxValue scale q)
    (r, fl ||| fl'))
  (rs.map Prod.fst, rs.foldl (fun (acc : Flags5) r => acc ||| r.2) 0)

/-- A block as it travels: 32 element bytes and the scale byte, with the flags raised (R421). -/
def mxPack (xs : List Nat) : List Byte × Flags5 :=
  let scale := mxScale xs
  let rs := xs.map (mxQuant scale)
  (rs.flatMap (fun r => bytesOf 1 r.1) ++ bytesOf 1 scale, rs.foldl (fun (acc : Flags5) r => acc ||| r.2) 0)

/-- The elements of bytes. -/
def elemsIn (n : Nat) (bs : List Byte) : List Nat := (chunks n bs.length bs).map natOf

/-- The new bytes of a destination and the flags raised (R292). -/
def reduceBytes (f : EntryFields) (dst src : List Byte) : List Byte × Flags5 :=
  let n := fmtBytes f.fmt
  let (xs, fl) : List Nat × Flags5 :=
    if f.mxt then
      let bs := ((chunks 32 dst.length (elemsIn 4 dst)).zip (chunks 32 src.length (elemsIn 4 src))).map (fun p => mxBlock p.1 p.2)
      (bs.flatMap Prod.fst, bs.foldl (fun (acc : Flags5) r => acc ||| r.2) 0)
    else
      let rs := ((elemsIn n dst).zip (elemsIn n src)).map (fun p => reduceElem f.rop f.fmt p.1 p.2)
      (rs.map Prod.fst, rs.foldl (fun (acc : Flags5) r => acc ||| r.2) 0)
  (xs.flatMap (bytesOf n), fl)

/-- What a fired entry's accesses come to: a wait for another package, data sent to one, a failure with its code and the flags
raised so far, or success with the flags raised and the GTC of completion. -/
inductive Moved where
  | wait
  | sent (fl : Flags5) (s : State)
  | failed (code : Nat) (fl : Flags5) (s : State)
  | done (fl : Flags5) (stamp : Nat) (s : State)

/-- How an address stands to a collective engine. -/
def State.cleReach (s : State) (a : Nat) : Reach :=
  if a / 2 ^ 60 ≠ 0 then .own
  else if !s.inDomain (bitsNat a 59 54) then .none
  else s.reach (bitsNat a 59 54)

/-- Writes counted for the release flags of a pair (R384): one for each line touched. -/
def State.countWrites (s : State) (e : Entry) (src pkg dst n : Nat) : State :=
  let key (p q : Nat) : Nat := pairKey p q * 65536 + e.ctx
  let s := s.setSett src (fun x => { x with
    sentCount := FMap.set x.sentCount (key pkg dst) (FMap.getD x.sentCount (key pkg dst) 0 + BitVec.ofNat 32 n) })
  if pkg = s.ownPkg then
    s.setSett dst (fun x => { x with
      performed := FMap.set x.performed (key s.ownPkg src) (FMap.getD x.performed (key s.ownPkg src) 0 + BitVec.ofNat 32 n) })
  else s

/-- The sett an address of this package belongs to. -/
def settOf (sett a : Nat) : Nat := if a / 2 ^ 60 = 0 then bitsNat a 53 48 else sett

/-- An entry of a sett changed. -/
def State.setEntry (s : State) (sett id : Nat) (f : Entry → Entry) : State :=
  s.setSett sett (fun x => { x with entries := x.entries.map (fun e => if e.id == id then f e else e) })

/-- The sources of an entry that have still to be asked of other packages (R395): those of lit packages are asked for, those of
dark ones wait. None where nothing is left to ask. -/
def State.askFrom (s : State) (sett : Nat) (e : Entry) (srcs : List (Nat × Nat)) : Option State :=
  let far := srcs.filter (fun x => !e.asked.contains x.1 && (s.cleReach x.1 == .lit || s.cleReach x.1 == .dark))
  if far.isEmpty then none
  else some ((far.filter (fun x => s.cleReach x.1 == .lit)).foldl (fun s x =>
    State.setEntry { s with outbox := s.outbox ++ [requestBytes 1 e.ctx x.1 x.2 e.pkr e.id s.gtc []] } sett e.id
      (fun e => { e with asked := e.asked ++ [x.1], at_ := s.gtc })) s)

/-- The source bytes of an entry as far as they can be read, and the code of the first failure. -/
def State.cleSource (s : State) (e : Entry) (sett : Nat) (f : EntryFields) (ext : List Answer) : Option (List Byte × Nat × State) :=
  if s.cleReach f.src = .own then
    let (spots, c) := cleSpots s e sett .load (lineCut f.src f.len)
    let (bs, s) := readSpots spots s
    some (bs, c, s)
  else if e.asked.contains f.src then (ext.find? (fun x => x.lane == 0)).map (fun x => (x.data.take f.len, x.code, s))
  else if s.cleReach f.src = .none then some ([], codeRemoteUnreach, s)
  else none

/-- The flits that carry an entry's data to another package (R400, R421): address, KIND and data, with the flags raised. A plain
write's lie within one line each. -/
def entryFlits (f : EntryFields) (bs : List Byte) : List (Nat × Nat × List Byte) × Flags5 :=
  if f.kind = 0 then ((cutBytes (lineCut f.dst bs.length) bs).map (fun x => (x.1, 0, x.2)), 0)
  else if f.mxt then
    let gs := (chunks 768 bs.length bs).map (fun g => (chunks 32 g.length (elemsIn 4 g)).map mxPack)
    ((gs.zip (upTo 0 gs.length)).map (fun x => (f.dst + 768 * x.2, 1, x.1.flatMap Prod.fst)),
     gs.foldl (fun (acc : Flags5) g => g.foldl (fun (acc : Flags5) r => acc ||| r.2) acc) 0)
  else
    let gs := chunks 128 bs.length bs
    ((gs.zip (upTo 0 gs.length)).map (fun x => (f.dst + 128 * x.2, 0, x.1)), 0)

/-- An entry's data sent to another package, and counted for its release flags (R384). -/
def State.sendEntry (s : State) (sett : Nat) (e : Entry) (f : EntryFields) (bs : List Byte) : State × Flags5 :=
  let (xs, fl) := entryFlits f bs
  let s := xs.foldl (fun s x => s.sendData sett e.ctx x.1 f.kind (if f.kind = 0 then 0 else f.rop + 8 * f.fmt) x.2.1 x.2.2) s
  (s.countWrites e sett (bitsNat f.dst 59 54) (bitsNat f.dst 53 48) xs.length, fl)

/-- R292 for a WRITE or a WRITE_REDUCE whose source bytes are there; `code` is the failure that ended them. Data for another
package are sent, and then acknowledged there: the answer numbered 1 tells the GTC and the flags. -/
def State.cleApply (s : State) (e : Entry) (sett : Nat) (f : EntryFields) (src : List Byte) (code : Nat) (ext : List Answer) : Moved :=
  if s.cleReach f.dst = .own then
    if e.sent then .done 0 s.gtc s
    else
      let (spots, c) := cleSpots s e sett (if f.kind = 1 then .atomic else .store) (lineCut f.dst f.len)
      let room := spots.foldl (fun acc x => acc + x.n) 0
      let n := fmtBytes f.fmt * (if f.mxt then 32 else 1)
      let good := min room src.length / (if f.kind = 1 then n else 1) * (if f.kind = 1 then n else 1)
      let srcs := if f.src = f.dst then [] else
        (cleSpots s e sett .load (if s.cleReach f.src = .own then lineCut f.src f.len else [])).1.map (fun x => (x.key, x.n))
      let (new, fl, s) : List Byte × Flags5 × State :=
        if f.kind = 1 then
          let (old, s) := readSpots spots s
          let (bs, fl) := reduceBytes f (old.take good) (src.take good)
          (bs, fl, s)
        else (src.take good, 0, s)
      let s := writeSpots srcs spots new s
      let s := s.countWrites e sett s.ownPkg (settOf sett f.dst) (lineCut f.dst good).length
      if code ≠ 0 then .failed code fl s else if c ≠ 0 then .failed c fl s else .done fl s.gtc s
  else if e.sent then
    match ext.find? (fun x => x.lane == 1) with
    | none => .wait
    | some x =>
      let fl : Flags5 := e.fl ||| BitVec.ofNat 5 (natOf (x.data.drop 8))
      if x.code ≠ 0 then .failed x.code fl s else .done fl (s.stamp (natOf (x.data.take 8))) s
  else if code ≠ 0 then .failed code 0 s
  else match s.cleReach f.dst with
    | .none => .failed codeRemoteUnreach 0 s
    | .dark => .wait
    | _ =>
      let (s, fl) := s.sendEntry sett e f src
      .sent fl s

/-- The accesses of a fired entry. -/
def State.cleMove (s : State) (sett : Nat) (e : Entry) (ext : List Answer) : Moved :=
  let f := entryFields e.bytes
  if f.kind = 2 then .done 0 s.gtc s
  else if e.sent then s.cleApply e sett f [] 0 ext
  else match s.askFrom sett e [(f.src, f.len)] with
    | some _ => .wait
    | none => match s.cleSource e sett f ext with
      | none => .wait
      | some (bs, code, s) => s.cleApply e sett f bs code ext

/-- The 8 bytes of a completion record (R292). -/
def recordWord (status : Nat) (fl : Flags5) (stamp : Nat) : List Byte := bytesOf 8 (status + fl.toNat * 2 ^ 8 + stamp % 2 ^ 48 * 2 ^ 16)

/-- A completion record written where REC is set (R292): the code of a failure, or 0. -/
def State.entryRecord (s : State) (e : Entry) (status : Nat) (fl : Flags5) (stamp : Nat) : Nat × State :=
  let f := entryFields e.bytes
  if f.recd = 0 then (0, s)
  else s.cleWrite e.ctx f.recd e.pkr (recordWord status fl stamp)

/-- An entry leaves its sett. -/
def State.dropEntry (s : State) (sett id : Nat) : State :=
  s.setSett sett (fun x => { x with entries := x.entries.filter (fun y => y.id != id) })

/-- The completion increment of an entry (R292, R295, R296). -/
def State.entryIncrement (s : State) (sett : Nat) (e : Entry) : State :=
  let f := entryFields e.bytes
  if f.remote then s.sendCtl sett f.cpkg f.csett (.increment e.ctx f.cctr f.inc) else s.increment e.ctx sett f.cctr f.inc

/-- The end of an entry with an outcome and the code of its record's failure: its increment, or the event of R296. -/
def State.endEntry (s : State) (sett : Nat) (e : Entry) (r : Nat × Flags5 × Nat × Nat) (code : Nat) : State :=
  let f := entryFields e.bytes
  if r.1 = 2 ∨ code ≠ 0 then
    (s.dropEntry sett e.id).ctxEvent e.ctx 3 (if r.1 = 2 then r.2.2.2 else code) e.grid (BitVec.ofNat 64 f.recd)
  else
    let s := if f.kind = 1 then s.count e.ctx sett 12 (f.len / fmtBytes f.fmt) else s
    (s.dropEntry sett e.id).entryIncrement sett e

/-- The record of an entry whose accesses are made, and then its end: in another package the record is sent once that is lit
(R395), and acknowledged by the answer numbered 2 before the increment (R237). -/
def State.recordEntry (s : State) (sett : Nat) (e : Entry) (r : Nat × Flags5 × Nat × Nat) (ext : List Answer) : State :=
  let a := (entryFields e.bytes).recd
  if a = 0 ∨ s.cleReach a = .own then
    let (c, s) := s.entryRecord e r.1 r.2.1 r.2.2.1
    s.endEntry sett e r c
  else if e.recSent then
    match ext.find? (fun x => x.lane == 2) with
    | none => s
    | some x => s.endEntry sett e r x.code
  else match s.cleReach a with
    | .none => s.endEntry sett e r codeRemoteUnreach
    | .dark => s.setEntry sett e.id (fun e => { e with res := some r })
    | _ => ((s.entryRecord e r.1 r.2.1 r.2.2.1).2).setEntry sett e.id (fun e => { e with res := some r, recSent := true, at_ := s.gtc })

/-- R296: an access fails: the record says FAULTED, with the flags raised so far. -/
def State.faultEntry (s : State) (sett : Nat) (e : Entry) (code : Nat) (fl : Flags5) : State :=
  s.recordEntry sett e (2, fl, s.gtc, code) []

/-- What a move of an entry brings about. -/
def State.finishEntry (s : State) (sett : Nat) (e : Entry) : Moved → State
  | .wait => (s.askFrom sett e [((entryFields e.bytes).src, (entryFields e.bytes).len)]).getD s
  | .sent fl s => s.setEntry sett e.id (fun e => { e with sent := true, fl := fl, at_ := s.gtc })
  | .failed c fl s => s.faultEntry sett e c fl
  | .done fl stamp s' => s'.recordEntry sett e (0, fl, stamp, 0) []

/-- A fired entry of a sett. -/
def State.firedEntry (s : State) (sett id : Nat) : Option Entry := (s.sett sett).entries.find? (fun e => e.id == id && e.fired)

/-! ### Counter instructions (R318 to R320) -/

/-- Entries cancelled one after another: each record receives CANCELLED (R295). -/
def cancelEntries (sett : Nat) : List Entry → State → State
  | [], s => s
  | e :: es, s => cancelEntries sett es (((s.entryRecord e 1 0 s.gtc).2).dropEntry sett e.id)

/-- A counter set, with the cancellation of what is armed on it (R295). -/
def State.setCounter (s : State) (sett no : Nat) (v : BitVec 32) : State :=
  let c := s.counter sett no
  let old := (s.sett sett).entries.filter (fun e => e.ctr == no && !e.fired && e.waitBlocks.isNone)
  (cancelEntries sett old (s.setSett sett (fun x => { x with counters := FMap.set x.counters no { value := v, gen := c.gen + 1 } }))).counterSeen
    sett no

/-- A counter of the focused team's sett named by a register. -/
def State.ownCounter (s : State) (i : Word) : Option Nat := s.ctrNo s.cur.ctx s.cur.sett i.toNat

/-- CNTSET (R318). -/
def execCntset (a b : Reg) (s : State) : Out :=
  .next (s.whenReady [a, b] (fun s => match s.ownCounter (s.cur.s a) with
    | none => s.reject 0
    | some no => (s.setCounter s.cur.sett no ((s.cur.s b).setWidth 32)).advance 1))

/-- An increment of CNTADD made: at this sett's counter, or by a message (R319). -/
def State.makeIncrement (s : State) (i : Increment) (remote : Bool) : State :=
  if remote then s.sendCtl i.src i.pkg i.sett (.increment i.ctx i.idx i.inc) else s.increment i.ctx i.src i.idx i.inc

/-- CNTADD (R319). -/
def execCntadd (a b : Reg) (arrive remote : Bool) (s : State) : Out :=
  .next (s.whenReady [a, b] (fun s =>
    let t := s.cur
    let w := (t.s b).toNat
    let i := (t.s a).toNat
    let sett := bitsNat w 21 16
    let pkg := bitsNat w 27 22
    if bitsNat w 15 0 = 0 ∨ bitsNat w 63 28 ≠ 0 ∨ 48 ≤ sett ∨ (!remote && (sett != 0 || pkg != 0 || (s.ownCounter (t.s a)).isNone)) then s.reject 0
    else if remote && !s.inDomain pkg then s.trap codeRemoteUnreach 0
    else
      let n : Increment := { uid := t.uid, need := t.blocks, ctx := t.ctx, src := t.sett, pkg := if remote then pkg else 64,
                             sett := sett, idx := i, inc := bitsNat w 15 0 }
      if arrive && !s.blocksPerformed t.uid t.blocks then State.advance { s with incs := s.incs ++ [n] } 1
      else (s.makeIncrement n remote).advance 1))

/-- Increments whose blocks are done are made, in the order issued. -/
def makeReady : List Increment → State → State
  | [], s => s
  | n :: ns, s =>
    makeReady ns (if s.blocksPerformed n.uid n.need then
      State.makeIncrement { s with incs := s.incs.filter (fun x => x != n) } n (n.pkg != 64) else s)

/-- What .ARRIVE deferred and need wait no longer (R317, R319). -/
def State.arriveReady (s : State) : State :=
  let s := s.setts.foldl (fun s x => if x.2.entries.any (fun e => e.waitBlocks.isSome) then armReady x.1 x.2.entries s else s) s
  if s.incs.isEmpty then s else makeReady s.incs s

/-- An acquire of off-core scope by the scalar stream (R231), for both cores of a pair. -/
def State.acquire (s : State) : State := s.discardCores

/-- CNTWAIT (R320): the test is made after every change (`State.counterSeen`), and one that held ends the wait. -/
def execCntwait (a b : Reg) (s : State) : Out :=
  .next (match s.cur.wait with
    | some (.cnt _ _ _ met) => if met then s.acquire.endWait else s
    | _ => s.whenReady [a, b] (fun s =>
      let thr : BitVec 32 := (s.cur.s b).setWidth 32
      match s.ownCounter (s.cur.s a) with
      | none => s.reject 0
      | some no =>
        if s.tooFar s.cur.sett no thr then s.reject 0
        else if notNeg ((s.counter s.cur.sett no).value - thr) then s.acquire.endWait
        else { s with cur := { s.cur with wait := some (.cnt s.cur.sett no thr false) } }))

/-- CNTWAIT.NOWAIT (R320). -/
def execCntwaitNowait (a b : Reg) (c : Bit3) (s : State) : Out :=
  .next (s.whenReady [a, b] (fun s =>
    let thr : BitVec 32 := (s.cur.s b).setWidth 32
    match s.ownCounter (s.cur.s a) with
    | none => s.reject 0
    | some no =>
      if s.tooFar s.cur.sett no thr then s.reject 0
      else
        let met := notNeg ((s.counter s.cur.sett no).value - thr)
        (if met then s.acquire else s).resultC 1 c met))

/-! ### Barriers (R321, R429) -/

/-- The rules on the fields of a barrier descriptor. -/
def State.barxOk (s : State) (bs : List Byte) : Bool :=
  let m := fieldAt bs 4 4
  bitsNat (fieldAt bs 0 2) 15 12 == 0 && decide (fieldAt bs 2 1 < 48) && decide (fieldAt bs 3 1 < 64) && s.inDomain (fieldAt bs 3 1)
    && decide (1 ≤ m) && decide (m ≤ 2 ^ 24) && decide (fieldAt bs 8 4 < m) && fieldAt bs 24 40 == 0
    && fieldAt bs 16 8 / 2 ^ 60 == 0

/-- A barrier's arrival is sent once the lanes are idle and the team's accesses are performed. -/
def State.barxArrive (s : State) (bs : List Byte) : State :=
  if !(s.cur.lanesDone && s.quiet) then { s with cur := { s.cur with wait := some (.barxDesc bs), sent := [], replies := [] } }
  else
    let m := fieldAt bs 4 4
    let s := { s with cur := { s.cur with wait := some (.barxSent m), sent := [], replies := [] } }
    s.sendCtl s.cur.sett (fieldAt bs 3 1) (fieldAt bs 2 1)
      (.arrival s.cur.ctx (fieldAt bs 0 2) m (fieldAt bs 8 4) (fieldAt bs 12 4) (BitVec.ofNat 64 (fieldAt bs 16 8)) s.cur.uid)

/-- BARX (R321): the wait at the home counter ends at the change that meets it. -/
def execBarx (a : Reg) (sc : BarScope) (s : State) : Out :=
  .next (match sc, s.cur.wait with
    | _, some (.barxDesc bs) => s.barxArrive bs
    | _, some (.barxSent _) => s
    | _, some .barxFault => State.reject { s with cur := { s.cur with wait := none } } (s.cur.s a).toNat
    | _, some .barxDone => s.acquire.endWait
    | _, some (.barx _ _) => s
    | _, _ => s.whenReady [a] (fun s =>
      let at_ := (s.cur.s a).toNat
      s.withStruct at_ (fun bs s =>
        if !s.barxOk bs then s.reject at_
        else
          let recd := fieldAt bs 16 8
          match extentsCheck true false (if recd = 0 then [] else [(recd, 64 + 144 * fieldAt bs 4 4)]) none s with
          | .wait s => s
          | .bad x s => s.reject x
          | .good s => s.barxArrive bs)))

/-- Bytes of a straggler record written by the home's engine; a write that fails raises CLE_FAULTED (R429). -/
def State.stragglerWrite (s : State) (ctx a : Nat) (bs : List Byte) : State :=
  let (c, s) := s.cleWrite ctx a 0 bs
  if c = 0 then s else s.ctxEvent ctx 3 c 0 0

/-- A number of a straggler record in this package; 0 where it cannot be read. -/
def State.stragglerRead (s : State) (ctx a n : Nat) : Nat :=
  match s.devNat ctx a n with | .ok x => x | .error _ => 0

/-- The update of member `m` when round `r` completes (R429). -/
def stragglerMember (ctx recd k lag first : Nat) (s : State) (m : Nat) : State :=
  let at_ := recd + 64 + 144 * m
  let bits := (s.stragglerRead ctx (at_ + 128) 2 * 2 + b2n (decide (lag < s.stragglerRead ctx (at_ + 8 * k) 8 - first))) % 2 ^ 16
  let s := s.stragglerWrite ctx (at_ + 128) (bytesOf 2 bits)
  s.stragglerWrite ctx (at_ + 130) (bytesOf 1 (b2n (decide (4 ≤ popcount bits 8))))

/-- The straggler record of an arrival with home counter value `v` (R429). A record of another package is kept there: it
is asked to take the arrival in (outbox code 11). -/
def State.straggler (s : State) (ctx members index lag recd v stamp : Nat) : State :=
  let r := v / members
  let k := r % 16
  if recd = 0 then s
  else if bitsNat recd 59 54 ≠ s.ownPkg then
    { s with outbox := s.outbox ++ [requestBytes 11 ctx recd (64 + 144 * members) 0 0 s.gtc
        (bytesOf 4 members ++ bytesOf 4 index ++ bytesOf 4 lag ++ bytesOf 4 v ++ bytesOf 8 stamp)] }
  else
    let s := s.stragglerWrite ctx recd (bytesOf 4 members)
    let s := s.stragglerWrite ctx (recd + 8) (bytesOf 4 lag)
    let s := s.stragglerWrite ctx (recd + 64 + 144 * index + 8 * k) (bytesOf 8 stamp)
    if (v + 1) % members ≠ 0 then s
    else
      let all := (upTo 0 members).map (fun m => s.stragglerRead ctx (recd + 64 + 144 * m + 8 * k) 8)
      let first := match all with | x :: xs => xs.foldl min x | [] => 0
      let s := (upTo 0 members).foldl (stragglerMember ctx recd k lag first) s
      s.stragglerWrite ctx (recd + 4) (bytesOf 4 ((s.stragglerRead ctx (recd + 4) 4 + 1) % 2 ^ 32))

/-- The value a member waits for (R321). -/
def barxTarget (v members : Nat) : BitVec 32 := BitVec.ofNat 32 ((v / members + 1) * members)

/-- A team changed, running or saved (R353). -/
def State.setAny (s : State) (uid : Nat) (f : Team → Team) : State :=
  let g (t : Team) : Team := if t.uid == uid then f t else t
  let s := s.setTeam uid f
  { s with ctxs := s.ctxs.map (fun x => (x.1, ({ x.2 with saved := x.2.saved.map (fun ts => ts.map g) } : Context))) }

/-- Every team of the package, the saved ones too. -/
def State.allTeams (s : State) : List Team := s.teams ++ s.ctxs.flatMap (fun x => x.2.saved.getD [])

/-- The home's answer to a member of this package: the counter with the value to reach, or the fault; the member whose arrival
meets the value itself waits no more. -/
def State.barxAnswer (s : State) (uid : Nat) (home : Option (Nat × Nat)) (v : Option Nat) : State :=
  let now := match home with | some (sett, no) => some (s.counter sett no).value | none => none
  let f (w : Option Wait) : Option Wait := match w with
    | some (.barxSent m) => some (match v with
      | some v => if now.any (fun x => notNeg (x - barxTarget v m)) then .barxDone else .barx home (barxTarget v m)
      | none => .barxFault)
    | w => w
  s.setAny uid (fun t => { t with wait := f t.wait, frame := t.frame.map (fun (x : Frame) => { x with wait := f x.wait }) })

/-- The answer to a member: at once to one of this package; to another package by a message that tells the value before the
arrival, and by a second one when the counter reaches the member's value (log entry 41). -/
def State.answerArrival (s : State) (sett ctx members : Nat) (m : CtlMsg) (team : Nat) (home : Option (Nat × Nat)) (v : Option Nat) : State :=
  if m.srcPkg = s.ownPkg then s.barxAnswer team home v
  else
    let s := s.sendCtl sett m.srcPkg m.srcSett (.arrived ctx team v)
    match home, v with
    | some (_, no), some v =>
      let x : FarMember := { no := no, target := barxTarget v members, ctx := ctx, pkg := m.srcPkg, sett := m.srcSett, team := team }
      (s.setSett sett (fun y => { y with members := y.members ++ [x] })).counterSeen sett no
    | _, _ => s

/-- An arrival applied at its home counter (R321, R429). -/
def State.applyArrival (s : State) (sett : Nat) (r : Receipt) : State :=
  match r.msg.body with
  | .arrival ctx i members index lag recd team =>
    (match s.ctrNo ctx sett i with
     | none => s.answerArrival sett ctx members r.msg team none none
     | some no =>
       let v := (s.counter sett no).value.toNat
       let s := s.straggler ctx members index lag recd.toNat v r.stamp
       (s.bump sett no 1).answerArrival sett ctx members r.msg team (some (sett, no)) (some v))
  | _ => s

/-- The first message of a kind that a sett has received is taken from its list. -/
def State.takeReceipt (s : State) (sett : Nat) (kind : CtlBody → Bool) (f : Receipt → State → State) : State :=
  match (s.sett sett).inbox.find? (fun r => kind r.msg.body) with
  | none => s
  | some r => f r (s.setSett sett (fun x => { x with inbox := x.inbox.erase r }))

/-- BARX_ARRIVAL (R321). -/
def execBarxArrival (sett : Nat) (s : State) : Out :=
  .next (s.takeReceipt sett (fun b => match b with | .arrival _ _ _ _ _ _ _ => true | _ => false) (fun r s => s.applyArrival sett r))

/-- REMOTE_COUNTER_INCREMENT (R319, R296). -/
def execRemoteCounterIncrement (sett : Nat) (s : State) : Out :=
  .next (s.takeReceipt sett (fun b => match b with | .increment _ _ _ => true | _ => false) (fun r s =>
    match r.msg.body with
    | .increment ctx i n => s.increment ctx sett i n
    | _ => s))

/-- A trap record of a Sumac slot, and the increment after it (R406). -/
def State.trapRecord (s : State) (sett ctx : Nat) (a : Word) (bs : List Byte) (ctr : Nat) : State :=
  let (c, s) := s.cleWrite ctx a.toNat 0 bs
  if c ≠ 0 ∨ ctr = 0xFFFF then s else s.increment ctx sett ctr 1

/-- The answer of a home in another package: the first tells the value before the arrival, a later one with the value to
reach ends the wait (log entry 41). -/
def State.barxRemote (s : State) (uid : Nat) (v : Option Nat) : State :=
  let f (w : Option Wait) : Option Wait := match w, v with
    | some (.barx none t), some x => if notNeg (BitVec.ofNat 32 x - t) then some .barxDone else w
    | w, _ => w
  let done := (s.allTeams.any (fun t => t.uid == uid && (match t.wait with | some (.barx none _) => true | _ => false)))
    || s.allTeams.any (fun t => t.uid == uid && (match t.frame.bind Frame.wait with | some (.barx none _) => true | _ => false))
  if done then s.setAny uid (fun t => { t with wait := f t.wait, frame := t.frame.map (fun (x : Frame) => { x with wait := f x.wait }) })
  else s.barxAnswer uid none v

/-- A message accepted by a sett, by its body. -/
def State.receive (s : State) (sett : Nat) (m : CtlMsg) : State :=
  match m.body with
  | .flag _ _ _ _ => { s with flags := s.flags ++ [(sett, m)] }
  | .record ctx a bs c => s.trapRecord sett ctx a bs c
  | .arrived _ team v => s.barxRemote team v
  | _ => s.setSett sett (fun x => { x with inbox := x.inbox ++ [{ stamp := s.stamp m.sgtc, msg := m }] })

/-- A message of this package is on its way: it is among the first 1,024 of its source and destination that are not yet
acknowledged (R383); those behind them wait at their source. -/
def State.underWay (s : State) (sett : Nat) (m : CtlMsg) : Bool :=
  ((s.transit.filter (fun x => x.1 == sett && x.2.srcSett == m.srcSett)).take 1024).contains (sett, m)

/-- CONTROL_MESSAGE_RECEIVED (R383): the first copy is accepted, every later one is discarded. -/
def execControlMessageReceived (sett : Nat) (m : CtlMsg) (s : State) : Out :=
  .next (
    let here := m.srcPkg == s.ownPkg
    let key := pairKey m.srcPkg m.srcSett
    if 48 ≤ sett ∨ (here && !s.underWay sett m) ∨ !(s.sett sett).fresh key m.cseq then s
    else
      let s := { s with transit := s.transit.erase (sett, m) }
      (s.setSett sett (fun x => x.accept key m.cseq)).receive sett m)

/-- What marks the event of an entry or of a counter of a collective run: its group and its position. -/
def lossMark (gid p : Nat) : Nat := 2 ^ 64 + gid * 2 ^ 16 + p

/-- The mark of a counter of a sett, in this package or (`away`) another one, that a run of a context uses; 0 where none does
(R412, R417). -/
def State.counterMark (s : State) (ctx sett idx : Nat) (away : Bool) : Nat :=
  (s.groups.findSome? (fun x =>
    let mine (y : Position × Nat) : Bool :=
      x.2.ctx == ctx && y.1.sett == sett && (y.1.pkg != s.ownPkg) == away && decide (y.1.ctr ≤ idx) && decide (idx ≤ y.1.ctr + 3)
    (((x.2.positions.take x.2.n).zip (upTo 0 x.2.n)).find? mine).map (fun y => lossMark x.1 y.2))).getD 0

/-- A class-0 message that neither copy delivers within 100 us is dropped, with an event (R383); so is a flag that has been held
that long because a flit it covers was never performed (R405). -/
def execControlMessageTimeout (sett : Nat) (m : CtlMsg) (s : State) : Out :=
  .next (
    let out := m.srcPkg == s.ownPkg && s.outbox.any (fun b => b.drop 3 == (ctlBytes 0 sett m).drop 3)
    if (s.transit.contains (sett, m) || out || s.flags.contains (sett, m)) && decide (m.sgtc + 100000 ≤ s.gtc) then
      let uid := match m.body with
        | .increment ctx i _ => s.counterMark ctx sett i out
        | _ => 0
      State.event { s with transit := s.transit.erase (sett, m), flags := s.flags.erase (sett, m) } (ctlContext m.body)
        { kind := 4, code := 0, count := 0, team := 0, grid := 0, addr := 0, slot := 0, gen := 0, uid := uid }
    else s)

/-- A flag of a sett whose covered writes have all been performed (R384). -/
def State.flagReady (s : State) (sett : Nat) (x : Nat × CtlMsg) : Bool :=
  x.1 == sett && (match x.2.body with
    | .flag ctx _ _ cover => notNeg (FMap.getD (s.sett sett).performed (pairKey x.2.srcPkg x.2.srcSett * 65536 + ctx) 0 - cover)
    | _ => false)

/-- RELEASE_FLAG_APPLY (R384, R238): the first flag held that is ready is written at its address. -/
def execReleaseFlagApply (sett : Nat) (s : State) : Out :=
  .next (match s.flags.find? (s.flagReady sett) with
    | none => s
    | some x =>
      let s := { s with flags := s.flags.erase x }
      (match x.2.body with
       | .flag ctx a v _ => (s.cleWrite ctx a.toNat 0 (bytesOf 8 v.toNat)).2
       | _ => s))

end Sys2Proof.Machine
end

