-- ==== Sys2Proof/Machine/Pages.lean ====
section
/-!
DEFINITION. Scratchpad management and migration (R322 to R324, R203), and what the teams of a core take of its room
(R91, R92, R273).
-/

namespace Sys2Proof.Machine

/-! ### Room on a core (R91, R92, R273) -/

/-- Pass slots of a team of L lanes (R73). -/
def slotsOf (l : Nat) : Nat := (l + 31) / 32

/-- Lanes of a team in a pass slot. -/
def slotLanes (l k : Nat) : Nat := min 32 (l - 32 * k)

/-- The pass slots on a core: all of them, or on a pair the even ones on the first core and the odd ones on the second
(R91). -/
def slotsOn (l : Nat) (pair second : Bool) : List Nat :=
  (upTo 0 (slotsOf l)).filter (fun k => !pair || (k % 2 == 1) == second)

/-- What takes room on a core. -/
structure Room where
  regs : Nat
  teams : Nat
  lanes : Nat
  tiles : Nat
  deriving DecidableEq, Repr

/-- The need of a team on a core. -/
def roomNeed (l r tiles : Nat) (pair second : Bool) : Room :=
  let ks := slotsOn l pair second
  { regs := 128 * r * ks.length, teams := 1, lanes := ks.foldl (fun acc k => acc + slotLanes l k) 0,
    tiles := if second then 0 else tiles }

def Room.add (a b : Room) : Room :=
  { regs := a.regs + b.regs, teams := a.teams + b.teams, lanes := a.lanes + b.lanes, tiles := a.tiles + b.tiles }

def Room.none : Room := { regs := 0, teams := 0, lanes := 0, tiles := 0 }

/-- A core with some room taken holds one need more. -/
def Room.fits (used need : Room) (capreg : Nat) : Bool :=
  let x := used.add need
  decide (x.regs ≤ capreg) && decide (x.teams ≤ 16) && decide (x.lanes ≤ 2048) && decide (x.tiles ≤ 512)

/-- A team still takes room: it runs, or operations of it that have fired are not complete (R266). -/
def Team.resident (t : Team) : Bool := t.status == .running || !t.fired.isEmpty

/-- The room taken on a core, a team with a number aside. -/
def State.roomUsed (s : State) (sett core : Nat) (but : Option Nat) : Room :=
  (s.teams.filter (fun t => t.resident && t.sett == sett && some t.uid != but)).foldl (fun acc t =>
    let need (second : Bool) : Room := roomNeed t.kern.lanesN t.kern.regsN t.acctiles t.pair second
    if t.core = core then acc.add (need false)
    else if t.pair && pairOf t.core == core then acc.add (need true)
    else acc) Room.none

/-! ### Mapping of scratchpad pages (R322, R323) -/

/-- A page lies in the range of its half (R322). -/
def pageInside (t : Team) (p : Nat) : Bool :=
  if p < 1024 then decide (4096 * p < t.kern.scratch) else decide (4096 * (p - 1024) < t.kern.lanesN * t.kern.lanepriv)

/-- SPMAP (R322). -/
def execSpmap (a b : Reg) (we : Bool) (s : State) : Out :=
  .next (s.whenReady [a, b] (fun s =>
    let t := s.cur
    let p := (t.s a).toNat
    let k := (t.s b).toNat
    if k = 0 then s.advance 1
    else if 2048 < p + k then s.reject 0
    else
      let pages := upTo p k
      if pages.any (fun q => !pageInside t q || (FMap.get? t.stt q).isSome) then s.reject 0
      else
        let e : Stt := { we := we, st := 2, frame := 0, rcore := 0, dirty := false }
        State.advance { s with cur := { t with stt := pages.foldl (fun m q => FMap.set m q e) t.stt } } 1))

/-- The scratchpad bytes of a defined channel, as pages (R299). -/
def Chan.pages (t : Team) (c : Chan) : List Nat := pagesOf t c.base.toNat (c.n * c.bytes)

/-- A page is covered by a defined channel, or by a command issued and not completed (R323). -/
def Team.covers (t : Team) (p : Nat) : Bool :=
  t.chans.any (fun x => x.2.defd && (x.2.pages t).contains p)
    || t.inFlight.any (fun c => match c.op with | .mover k d => (moverPages t k d).contains p | _ => false)

/-- A page of the focused team unmapped: its frame or lent frame is free, its backing slot dropped (R323). -/
def State.unmapPage (s : State) (p : Nat) : State :=
  match FMap.get? s.cur.stt p with
  | none => s
  | some e =>
    let t := s.cur
    let frames :=
      if e.st = 0 then FMap.erase s.frames (Config.frameNo t.sett t.core e.frame)
      else if e.st = 3 then FMap.erase s.frames (Config.frameNo t.sett e.rcore e.frame)
      else s.frames
    { s with frames := frames, mem := s.mem.clear (Config.backKey t.uid p 0) 4096, cur := { t with stt := FMap.erase t.stt p } }

/-- SPUNMAP (R323). -/
def execSpunmap (a b : Reg) (s : State) : Out :=
  .next (s.whenReady [a, b] (fun s =>
    let t := s.cur
    let p := (t.s a).toNat
    let k := (t.s b).toNat
    if !t.lanesDone then s
    else if 2048 < p + k then s.reject 0
    else
      let pages := upTo p k
      if pages.any t.covers then s.reject 0
      else ((pages.foldl State.unmapPage s).advance 1).wakeMemory))

/-! ### Migration (R324, R203) -/

/-- Every command issued by the focused team has completed. -/
def Team.enginesDone (t : Team) : Bool := t.matrixDone && t.moverDone

/-- The core has room for the focused team (R91, R92, R273). -/
def State.coreTakes (s : State) (core : Nat) : Bool :=
  let t := s.cur
  (s.roomUsed t.sett core (some t.uid)).fits (roomNeed t.kern.lanesN t.kern.regsN t.acctiles false false) (s.regBytes t.sett core)

/-- A cluster that a team leaves is idle from now on, where no other team is on it (R442). -/
def State.leaveCluster (s : State) : State :=
  s.setSett s.cur.sett (fun x => { x with clusterIdle := FMap.set x.clusterIdle (clusterOf s.cur.core) s.gtc })

/-- The focused team moved to another core of its sett (R203, R324): its RESIDENT pages become REMOTE, their frames
lent, and the new core's L1 is discarded (R231). -/
def State.migrate (s : State) (core : Nat) : State :=
  let t := s.cur
  let pages := t.stt.filter (fun x => x.2.st == 0)
  let frames := pages.foldl (fun (m : FMap FrameInfo) x =>
    FMap.modify m (Config.frameNo t.sett t.core x.2.frame) (fun f => { f with lent := true })) s.frames
  let stt := t.stt.map (fun x => if x.2.st == 0 then (x.1, { x.2 with st := 3, rcore := t.core }) else x)
  let s := s.leaveCluster
  State.l1Discard { s with frames := frames, cur := { s.cur with stt := stt, core := core, placed := s.tick }, tick := s.tick + 1 } t.sett core

/-- SPMIG (R324). -/
def execSpmig (a : Reg) (c : Bit3) (s : State) : Out :=
  .next (s.whenReady [a] (fun s =>
    let t := s.cur
    let x := (t.s a).toNat
    if bitsNat x 63 8 ≠ 0 ∨ s.gridRows t.sett ≤ bitsNat x 7 4 ∨ t.pair ∨ t.span.isSome then s.reject 0
    else if !(t.lanesDone && t.enginesDone && s.quiet) then s
    else if x = t.core then s.resultC 1 c true
    else if !s.coreTakes x then s.resultC 1 c false
    else (s.migrate x).resultC 1 c true))

end Sys2Proof.Machine
end

