-- ==== Sys2Proof/Machine/Launch.lean ====
section
/-!
DEFINITION. Launching work: user queues and packets (R282 to R287, R329, R330), gang placement (R91 to R94, R204, R205,
R273, R333, R347, R442), tail lists (R97, R325), and the end of a grid (R287).
-/

namespace Sys2Proof.Machine

/-! ### Packets (R283, R284, R287) -/

/-- The fields of a launch packet. -/
def parsePacket (bs : List Byte) : Packet :=
  { hdr := fieldAt bs 0 4, gp := fieldAt bs 4 2, gf := fieldAt bs 6 2, kobj := BitVec.ofNat 64 (fieldAt bs 8 8),
    args := BitVec.ofNat 64 (fieldAt bs 16 8), teams := fieldAt bs 24 4, cmpages := fieldAt bs 28 2, acctiles := fieldAt bs 30 2,
    setts := fieldAt bs 32 8, ksppages := fieldAt bs 40 4, signal := BitVec.ofNat 64 (fieldAt bs 48 8),
    reserved := fieldAt bs 44 4 != 0 || fieldAt bs 56 8 != 0 }

/-- TYPE of a packet. -/
def Packet.type (p : Packet) : Nat := p.hdr % 256
/-- ACQ of a packet. -/
def Packet.acq (p : Packet) : Nat := bitsNat p.hdr 11 10
/-- BARRIER of a packet. -/
def Packet.barrier (p : Packet) : Bool := bitAt p.hdr 9

/-- An address field of a packet: window 0x0, aligned. -/
def addrOk (a : Word) (n : Nat) : Bool := a.toNat % n == 0 && a.toNat / 2 ^ 60 == 0

/-- No cause of REFUSED_PACKET (R287). TEAMS, CMPAGES and ACCTILES have limits of REFUSED_LIMITS (R70, R91, R204; log entry 57). -/
def Packet.ok (p : Packet) : Bool :=
  (p.type == 1 || p.type == 2) && bitsNat p.hdr 15 14 == 0 && bitsNat p.hdr 31 24 == 0 && p.acq != 3 && bitsNat p.hdr 13 12 != 3
    && !p.reserved && decide (p.gp ≤ 256) && decide (1 ≤ p.gf) && decide (p.gf ≤ p.gp) && addrOk p.kobj 4096 && addrOk p.args 8
    && addrOk p.signal 8 && decide (p.setts < 2 ^ 48) && decide (p.ksppages ≤ 16384)

/-- The setts a packet names. -/
def Packet.settList (p : Packet) : List Nat := bitList p.setts 48

/-! ### First fit (R204, R205, R333) -/

/-- The lowest free base of a run of `n` bytes below `limit`, past the allocations given in rising order. -/
def firstFit (limit n : Nat) : Nat → List (Nat × Nat) → Option Nat
  | cur, [] => if cur + n ≤ limit then some cur else none
  | cur, (a, m) :: xs => if cur + n ≤ a then some cur else firstFit limit n (max cur (a + m)) xs

/-- Allocations in rising order of base. -/
def sortRuns (xs : List (Nat × Nat)) : List (Nat × Nat) := xs.foldl (fun (m : FMap Nat) x => FMap.set m x.1 x.2) []

/-! ### Room in a cluster (R91 to R94, R204) -/

/-- The cores, or core pairs, of a cluster that can take teams of a kernel (R91). -/
def State.unitsOf (s : State) (sett cl : Nat) (k : Kernel) : List (List Nat) :=
  let cores := clusterCores (s.gridRows sett) cl
  let need (n : Nat) : Nat := 128 * k.regsN * n
  let single := cores.filter (fun c => decide (need (slotsOf k.lanesN) ≤ s.regBytes sett c))
  if single.isEmpty then
    (cores.filter (fun c => c % 2 == 0 && decide (need ((slotsOf k.lanesN + 1) / 2) ≤ s.regBytes sett c)
      && decide (need ((slotsOf k.lanesN + 1) / 2) ≤ s.regBytes sett (pairOf c)))).map (fun c => [c, pairOf c])
  else single.map (fun c => [c])

/-- A unit with its cores' rooms takes a team more. -/
def State.unitFits (s : State) (sett : Nat) (k : Kernel) (tiles : Nat) (used : FMap Room) (u : List Nat) : Bool :=
  let pair := decide (u.length = 2)
  (u.zip [false, true]).all (fun x =>
    (FMap.getD used x.1 Room.none).fits (roomNeed k.lanesN k.regsN tiles pair x.2) (s.regBytes sett x.1))

/-- Free register bytes of a unit (R94). -/
def State.freeRegs (s : State) (sett : Nat) (used : FMap Room) (u : List Nat) : Nat :=
  (u.map (fun c => s.regBytes sett c - (FMap.getD used c Room.none).regs)).foldl min (2 ^ 32)

/-- The rooms after a unit took a team. -/
def takeUnit (k : Kernel) (tiles : Nat) (used : FMap Room) (u : List Nat) : FMap Room :=
  (u.zip [false, true]).foldl (fun m x =>
    FMap.set m x.1 ((FMap.getD m x.1 Room.none).add (roomNeed k.lanesN k.regsN tiles (decide (u.length = 2)) x.2))) used

/-- Units for `n` teams, each in turn the one with the most free register bytes, ties to the lowest (R94). -/
def planTeams (s : State) (sett : Nat) (k : Kernel) (tiles : Nat) (units : List (List Nat)) : Nat → FMap Room → Option (List (List Nat))
  | 0, _ => some []
  | n + 1, used =>
    let best := units.foldl (fun (acc : Option (List Nat)) u =>
      match acc with
      | some v => if s.freeRegs sett used v < s.freeRegs sett used u then some u else acc
      | none => some u) none
    match best with
    | none => none
    | some u => if !s.unitFits sett k tiles used u then none else (planTeams s sett k tiles units n (takeUnit k tiles used u)).map (fun us => u :: us)

/-- Bytes of cluster memory of a cluster (R204). -/
def State.clusterBytes (s : State) (sett cl : Nat) : Nat := (clusterCores (s.gridRows sett) cl).length * 0x20000

/-- The gangs' allocations in a cluster. -/
def Sett.runsIn (x : Sett) (cl : Nat) : List (Nat × Nat) := sortRuns ((x.calloc.filter (fun a => a.1 == cl)).map (fun a => (a.2.1, a.2.2.1)))

/-- A cluster's room for a gang of `n` teams: its units, and the base of its cluster memory. -/
def State.planGang (s : State) (sett cl : Nat) (k : Kernel) (p : Packet) (n : Nat) (empty : Bool) : Option (List (List Nat) × Nat) :=
  let cores := clusterCores (s.gridRows sett) cl
  let used : FMap Room := if empty then [] else cores.map (fun c => (c, s.roomUsed sett c none))
  let base := if p.cmpages = 0 then some 0
    else firstFit (s.clusterBytes sett cl) (4096 * p.cmpages) 0 (if empty then [] else (s.sett sett).runsIn cl)
  match planTeams s sett k p.acctiles (s.unitsOf sett cl k) n used, base with
  | some us, some b => some (us, b)
  | _, _ => none

/-! ### Handler areas (R333) -/

/-- Bytes of a handler area. -/
def areaBytes (l : Nat) : Nat := 64 * (l + 2)

/-- An event of an area's team is still to be posted, or stands in the ring unfreed by the host (R333, R345). -/
def State.areaNamed (s : State) (ctx : Nat) (c : Context) (a : Nat) : Bool :=
  c.events.any (fun e => e.addr.toNat == a) || (match c.eventq with
    | none => false
    | some r => (upTo 0 (2 ^ r.log2)).any (fun i =>
      match s.devNat ctx (r.base.toNat + 32 * i) 24 with
      | .ok x => x % 256 != 0 && x / 2 ^ 128 == a
      | .error _ => false))

/-- A context's region in a sett with the areas freed that can be: their teams have ended, and no entry names them. -/
def State.freshRegion (s : State) (ctx sett : Nat) : Option Region :=
  (s.ctx? ctx).bind (fun c => (FMap.get? c.regions sett).map (fun r => { r with areas := r.areas.filter (fun a =>
    (match s.team? a.2.2 with | some t => t.status == .running | none => false)
      || (match c.saved with | some ts => ts.any (fun t => t.uid == a.2.2) | none => false) || s.areaNamed ctx c a.1) }))

/-- Areas for `n` teams carved, lowest first. -/
def carve (r : Region) (size : Nat) : Nat → List (Nat × Nat) → Option (List Nat)
  | 0, _ => some []
  | n + 1, runs =>
    match firstFit (r.base.toNat + r.len) size r.base.toNat runs with
    | none => none
    | some a => (carve r size n (sortRuns (runs ++ [(a, size)]))).map (fun as => a :: as)

/-- Areas for a gang in a sett. -/
def State.carveAreas (s : State) (ctx sett l n : Nat) : Option (List Nat × Region) :=
  match s.freshRegion ctx sett with
  | none => none
  | some r => (carve r (areaBytes l) n (sortRuns (r.areas.map (fun a => (a.1, a.2.1))))).map (fun as => (as, r))

/-! ### Refusal (R287, R289) -/

/-- A sett that a packet may not name for its context (R287, R333). -/
def settsBad (c : Context) (p : Packet) : Bool :=
  p.settList.isEmpty || p.settList.any (fun n => !c.setts.contains n || (FMap.get? c.regions n).isNone)

/-- Why a KERNEL packet is refused, after the packet test: 6, 4, 5, or 0 with its kernel; or what is still to be read of its
object from another package (`isAwait`). -/
def State.launchTest (s : State) (who : Asker) (ctx : Nat) (p : Packet) : Nat × Kernel :=
  match s.ctx? ctx with
  | none => (6, Kernel.none)
  | some c =>
    let setts := p.settList
    if settsBad c p then (6, Kernel.none)
    else match s.loadObject who ctx p.kobj.toNat with
    | .error n => (if isAwait n then n else 4, Kernel.none)
    | .ok k =>
      let n := p.gf
      let room := setts.any (fun t => (clustersOf (s.gridRows t)).any (fun cl => (s.planGang t cl k p n true).isSome))
      let area := setts.all (fun t => match FMap.get? c.regions t with
        | some r => decide (areaBytes k.lanesN ≤ r.len)
        | none => false)
      if room && area && decide (1 ≤ p.teams) then (0, k) else (5, Kernel.none)

/-! ### Starting a grid (R205, R287, R289) -/

/-- Chip scratchpad for a grid in every sett it names, where each has a free run (R205). -/
def allocChip (gid n : Nat) : List Nat → State → Option (FMap Nat × State)
  | [], s => some ([], s)
  | t :: ts, s =>
    match firstFit 0x4000000 n 0 (sortRuns ((s.sett t).kalloc.map (fun a => (a.1, a.2.1)))) with
    | none => none
    | some b =>
      let s := s.setSett t (fun x => { x with kalloc := FMap.set x.kalloc b (n, gid) })
      (allocChip gid n ts { s with mem := s.mem.clear (Config.chipKey t b) n }).map (fun r => (FMap.set r.1 t b, r.2))

/-- The grid has its chip scratchpad, or gets it now, or must wait. -/
def State.chipReady (s : State) (g : Grid) : Option State :=
  if g.pkt.ksppages = 0 ∨ !g.kbase.isEmpty then some s
  else (allocChip g.id (4096 * g.pkt.ksppages) g.setts s).map (fun r => r.2.setGrid g.id (fun g => { g with kbase := r.1 }))

/-- A grid that has passed its tests comes to start. -/
def State.startGrid (s : State) (ctx site : Nat) (queue : Option (Nat × Nat)) (parent : Option Nat) (prio : Nat) (p : Packet)
    (k : Kernel) : State :=
  let g : Grid := { id := s.tick + 1, ctx := ctx, site := site, queue := queue, parent := parent, pkt := p, setts := p.settList,
                    kern := k, next := 0, gang := 0, ended := 0, faulted := false, tail := [], child := parent.isSome, kbase := [],
                    prio := prio }
  let s : State := { s with tick := s.tick + 1, grids := FMap.set s.grids g.id g }
  (s.chipReady g).getD s

/-! ### Signals and headers (R287, R330) -/

/-- Step 5 of R287: the signal is decremented, or SIGNAL_FAILED is raised; in another package once its reply says so. -/
def State.signalDown (s : State) (ctx : Nat) (grid a : Word) : State :=
  let n := a.toNat
  let fail (c : Nat) : State := s.ctxEvent ctx 8 c grid a
  if n = 0 then s
  else if gvaBad .scalar n || n / 2 ^ 60 != 0 then fail codeGvaFormat
  else if n % 8 ≠ 0 then fail codeAlign
  else if !s.inDomain (bitsNat n 59 54) then fail codeRemoteUnreach
  else if bitsNat n 59 54 ≠ s.ownPkg then
    match s.reach (bitsNat n 59 54) with
    | .none => fail codeRemoteUnreach
    | _ => { s with
        far := s.far ++ [{ who := .signal grid a, ctx := ctx, op := Kind.atomic.op, line := n / 128, tag := s.tick, sentAt := s.gtc,
                           code := none, data := [] }],
        outbox := s.outbox ++ [requestBytes Kind.atomic.op ctx n 8 0 s.tick s.gtc (bytesOf 8 (2 ^ 64 - 1))], tick := s.tick + 1 }
  else match s.ownerCheck ctx (bitsNat n 53 48) (bitsNat n 47 0) .atomic 0 with
    | .error c => fail c
    | .ok l =>
      let (old, s) := s.readLine l.cmp l.key 8
      s.writeLine none l.cmp l.key (bytesOf 8 ((natOf old + (2 ^ 64 - 1)) % 2 ^ 64))

/-- HEADER with VALID = 0 and a STATUS, the rest as it was read (R330). -/
def doneHeader (hdr status : Nat) : Nat := bitsNat hdr 7 0 + bitsNat hdr 15 9 * 2 ^ 9 + status * 2 ^ 16 + bitsNat hdr 31 24 * 2 ^ 24

/-! ### User queues (R282, R285, R286) -/

/-- The table number of a queue. -/
def queueKey (site n : Nat) : Nat := site * 1024 + n

/-- The address of a packet's slot. -/
def UserQueue.slot (q : UserQueue) (i : Nat) : Nat := q.base.toNat + 64 * (i % 2 ^ q.log2)

/-- The 64 bytes of a packet; zeros where they cannot be read. -/
def State.packetBytes (s : State) (q : UserQueue) (i : Nat) : List Byte :=
  match s.devRead q.ctx (q.slot i) 64 with
  | .ok bs => bs
  | .error _ => []

/-- The header of a packet reads VALID = 1. -/
def State.headerValid (s : State) (q : UserQueue) (i : Nat) : Bool :=
  match s.devNat q.ctx (q.slot i) 4 with
  | .ok x => bitAt x 8
  | .error _ => false

/-- A queue changed. -/
def State.setQueue (s : State) (key : Nat) (f : UserQueue → UserQueue) : State := { s with queues := FMap.modify s.queues key f }

/-- Headers of the packets from `a` on, `n` of them, read where they were not seen valid. -/
def State.readHeaders (s : State) (key a n : Nat) : State :=
  s.setQueue key (fun q => { q with seen := (upTo a n).foldl (fun xs i =>
    if xs.contains i || !s.headerValid q i then xs else insertNat i xs) q.seen })

/-- The packet at the read index becomes eligible once its header was read with VALID = 1 (R286). -/
def State.promote (s : State) (key : Nat) : State :=
  match FMap.get? s.queues key with
  | none => s
  | some q =>
    if q.running || q.eligible.isSome || !q.seen.contains q.rd then s
    else State.setQueue { s with tick := s.tick + 1 } key (fun q => { q with eligible := some s.tick })

/-- USER_QUEUE_DOORBELL (R285): a value not greater than the last one is ignored. -/
def execUserQueueDoorbell (site queue value : Nat) (s : State) : Out :=
  .next (match FMap.get? s.queues (queueKey site queue) with
    | none => s
    | some q =>
      if value ≤ q.db then s
      else
        let s := s.setQueue (queueKey site queue) (fun q => { q with db := value })
        (s.readHeaders (queueKey site queue) q.rd (min value (q.rd + 2 ^ q.log2) - q.rd)).promote (queueKey site queue))

/-- Step 6 of R287: the read index moves past the packet, and the next one may become eligible. -/
def State.nextPacket (s : State) (key : Nat) : State :=
  let s := s.setQueue key (fun q => { q with
    rd := q.rd + 1, running := false, eligible := none, seen := q.seen.filter (fun i => decide (q.rd < i)) })
  match FMap.get? s.queues key with
  | none => s
  | some q =>
    let last := q.rd + 2 ^ q.log2 - 1
    (if last < q.db then s.readHeaders key last 1 else s).promote key

/-- Steps 4 to 6 of R287 for a packet of a queue. -/
def State.endPacket (s : State) (key : Nat) (p : Packet) (status : Nat) (grid : Word) : State :=
  match FMap.get? s.queues key with
  | none => s
  | some q =>
    let s := s.devWrite q.ctx (q.slot q.rd) (bytesOf 4 (doneHeader p.hdr status))
    (s.signalDown q.ctx grid p.signal).nextPacket key

/-- An eligible packet waits for others under BARRIER (R286). -/
def State.barred (s : State) (key : Nat) (q : UserQueue) : Bool :=
  match q.eligible with
  | none => true
  | some e =>
    bitAt (fieldAt (s.packetBytes q q.rd) 0 4) 9 && s.queues.any (fun x => x.1 != key && x.1 / 1024 == key / 1024 && x.2.ctx == q.ctx
      && (match x.2.eligible with | some f => decide (f < e) | none => false))

/-- The queue whose packet starts next at a site (R286): highest priority, earliest eligible, lowest number. -/
def State.nextQueue (s : State) (site : Nat) : Option (Nat × UserQueue) :=
  (s.queues.filter (fun x => x.1 / 1024 == site && x.2.eligible.isSome && !x.2.running && !s.halted x.2.ctx && !s.barred x.1 x.2)).foldl
    (fun (acc : Option (Nat × UserQueue)) x => match acc with
      | none => some x
      | some y => if y.2.prio < x.2.prio || (y.2.prio == x.2.prio && decide (x.2.eligible.getD 0 < y.2.eligible.getD 0)) then some x else acc)
    none

/-- PACKET_START (R286, R287). -/
def execPacketStart (site : Nat) (s : State) : Out :=
  .next (match s.nextQueue site with
    | none => s
    | some (key, q) =>
      let p := parsePacket (s.packetBytes q q.rd)
      let run := s.setQueue key (fun q => { q with running := true })
      if !p.ok then run.endPacket key p 3 0
      else if p.type = 2 then run.endPacket key p (match s.ctx? q.ctx with | some c => if settsBad c p then 6 else 1 | none => 6) 0
      else match s.launchTest (.packet key) q.ctx p with
        | (0, k) => (run.dropFar (.packet key)).startGrid q.ctx site (some (key, q.rd)) none q.prio p k
        | (st, _) => if isAwait st then s.askFar (.packet key) st else (run.dropFar (.packet key)).endPacket key p st 0)

/-! ### Waking clusters (R442) -/

/-- Effective priority of a request. -/
def InrushReq.effective (r : InrushReq) (now : Nat) : Nat := r.priority + (now - r.at_) / 1000000

/-- The request a freed token goes to. -/
def nextInrush (now : Nat) (rs : List InrushReq) : Option InrushReq :=
  rs.foldl (fun (acc : Option InrushReq) r => match acc with
    | none => some r
    | some b =>
      let x := r.effective now
      let y := b.effective now
      if y < x || (x == y && (decide (r.at_ < b.at_) || (r.at_ == b.at_ && decide (r.source < b.source)))) then some r else acc) none

/-- A cluster is powered; or its wake is under way or asked for now. -/
def State.wakeCluster (s : State) (sett cl prio source : Nat) : Bool × State :=
  let x := s.sett sett
  if !x.clusterOff.contains cl then (true, s)
  else if x.tokens.any (fun t => t.1 == cl) || x.inrush.any (fun r => r.cluster == cl) then (false, s)
  else if x.tokens.length < 8 then (false, s.setSett sett (fun x => { x with tokens := x.tokens ++ [(cl, s.gtc)] }))
  else
    let r : InrushReq := { cluster := cl, priority := prio, at_ := s.gtc, source := source }
    (false, s.setSett sett (fun x => { x with inrush := x.inrush ++ [r] }))

/-- INRUSH_TOKEN_RELEASE (R442): 20 us after its taking a token frees; its cluster is awake, and the first waiting request
takes the token. -/
def execInrushTokenRelease (sett : Nat) (s : State) : Out :=
  .next (match (s.sett sett).tokens.find? (fun t => decide (t.2 + 20000 ≤ s.gtc)) with
    | none => s
    | some t =>
      let s := s.setSett sett (fun x => { x with
        tokens := x.tokens.erase t, clusterOff := x.clusterOff.filter (fun c => c != t.1), clusterIdle := FMap.set x.clusterIdle t.1 s.gtc })
      match nextInrush s.gtc (s.sett sett).inrush with
      | none => s
      | some r => s.setSett sett (fun x => { x with inrush := x.inrush.erase r, tokens := x.tokens ++ [(r.cluster, s.gtc)] }))

/-- CLUSTER_POWER_DOWN (R442): a cluster with no resident team for 1 ms. -/
def execClusterPowerDown (sett cluster : Nat) (s : State) : Out :=
  .next (
    let x := s.sett sett
    let busy := s.teams.any (fun t => t.resident && t.sett == sett && clusterOf t.core == cluster)
    if busy || x.clusterOff.contains cluster || decide (s.gtc < FMap.getD x.clusterIdle cluster 0 + 1000000)
        || !(clustersOf (s.gridRows sett)).contains cluster then s
    else s.setSett sett (fun x => { x with clusterOff := insertNat cluster x.clusterOff }))

/-! ### Gang placement (R94, R347) -/

/-- The lowest slot number that no live team of a context holds. -/
def State.freeSlot (s : State) (ctx : Nat) : Nat :=
  let used := (s.teams.filter (fun t => t.ctx == ctx && t.status == .running)).map Team.ctxSlot
    ++ (match (s.ctx? ctx).bind Context.saved with | some ts => ts.map Team.ctxSlot | none => [])
  firstFree (used.length + 1) 0 used

/-- The state words of the lanes at launch (R99, R102, R129). -/
def freshLanes (l r : Nat) : List Lane :=
  (upTo 0 l).map (fun i => { regs := List.replicate r 0, preds := 0, sigma := if i = 0 then 0x2545F491 else BitVec.ofNat 32 i,
                             retired := false, bad := [], soft := [], badPreds := false, softPreds := false })

/-- The scratchpad table at launch (R196). -/
def freshStt (k : Kernel) : FMap Stt :=
  (upTo 0 ((k.scratch + 4095) / 4096) ++ upTo 1024 ((k.lanesN * k.lanepriv + 4095) / 4096)).map (fun p =>
    (p, { we := true, st := 2, frame := 0, rcore := 0, dirty := false }))

/-- A team placed (R35, R72, R193, R273, R347). -/
def State.placeTeam (s : State) (g : Grid) (sett cl cbase gang size idx area : Nat) (u : List Nat) : State :=
  let k := g.kern
  let slot := s.freeSlot g.ctx
  let c := s.ctx? g.ctx
  let gen : BitVec 32 := (match c with | some c => FMap.getD c.gens slot 0 | none => 0) + 1
  let t : Team := { Team.launch with
    uid := s.tick, status := .running, placed := s.tick, sregs := Team.launch.sregs.set 1 g.pkt.args, spc := k.sbase + BitVec.ofNat 64 k.sentry,
    wdoglim := (match c with | some c => c.wdog | none => 0), hrec := BitVec.ofNat 64 area, area := BitVec.ofNat 64 area,
    teamIndex := BitVec.ofNat 32 idx, gridId := BitVec.ofNat 64 g.id, gangId := BitVec.ofNat 32 gang, gangSize := size, sett := sett,
    core := u.headD 0, pair := decide (u.length = 2), ctx := g.ctx, kern := k, cmsize := 4096 * g.pkt.cmpages,
    kspsize := 4096 * g.pkt.ksppages, acctiles := g.pkt.acctiles, cbase := cbase, ccluster := cl, ctxSlot := slot, gen := gen,
    lanes := freshLanes k.lanesN k.regsN, stt := freshStt k }
  let s := s.setCtx g.ctx (fun c => { c with
    gens := FMap.set c.gens slot gen, firstPlaced := some (c.firstPlaced.getD s.gtc),
    placedGens := if (FMap.get? c.placedGens sett).isSome then c.placedGens else FMap.set c.placedGens sett (s.sett sett).mapGen,
    regions := FMap.modify c.regions sett (fun r => { r with areas := FMap.set r.areas area (areaBytes k.lanesN, s.tick) }) })
  let s : State := if g.pkt.acq = 0 then s else u.foldl (fun s c => s.l1Discard sett c) s
  { s with tick := s.tick + 1, others := insertTeam t s.others }

/-- Zeros written for the device, piece by piece within lines. -/
def State.devZero (s : State) (ctx a n : Nat) : State :=
  (lineCut a n).foldl (fun s x => s.devWrite ctx x.1 (List.replicate x.2 0)) s

/-- A gang placed: its cluster memory, its areas and its teams. -/
def State.placeGang (s : State) (g : Grid) (sett cl base : Nat) (us : List (List Nat)) (areas : List Nat) (r : Region) : State :=
  let n := us.length
  let cm := 4096 * g.pkt.cmpages
  let cores := clusterCores (s.gridRows sett) cl
  let pages := upTo (base / 4096) (cm / 4096)
  let mem := pages.foldl (fun (m : Memory) p =>
    m.clear (Config.frameKey (Config.frameNo sett (nth 0 cores (p % cores.length)) (96 + p / cores.length)) 0) 4096) s.mem
  let s := State.setSett { s with mem := mem } sett (fun x => { x with
    calloc := if cm = 0 then x.calloc else x.calloc ++ [(cl, base, cm, g.id * 2 ^ 32 + g.gang)], clusterIdle := FMap.erase x.clusterIdle cl })
  let s := s.setCtx g.ctx (fun c => { c with regions := FMap.set c.regions sett r })
  let s := areas.foldl (fun s a => s.devZero g.ctx a (areaBytes g.kern.lanesN)) s
  let s := ((us.zip areas).zip (upTo g.next n)).foldl (fun s x => s.placeTeam g sett cl base g.gang n x.2 x.1.2 x.1.1) s
  s.setGrid g.id (fun g => { g with next := g.next + n, gang := g.gang + 1 })

/-- Where a gang of `n` teams finds room: the first cluster in search order with cores, cluster memory and areas. -/
def State.findRoom (s : State) (g : Grid) (n : Nat) : Option (Nat × Nat × List (List Nat) × Nat × List Nat × Region) :=
  g.setts.findSome? (fun t => (clustersOf (s.gridRows t)).findSome? (fun cl =>
    match s.planGang t cl g.kern g.pkt n false, s.carveAreas g.ctx t g.kern.lanesN n with
    | some (us, b), some (as, r) => some (t, cl, us, b, as, r)
    | _, _ => none))

/-- Live teams of a context. -/
def State.liveTeams (s : State) (ctx : Nat) : Nat := (s.teams.filter (fun t => t.ctx == ctx && t.status == .running)).length

/-- GANG_PLACEMENT (R94, R204, R205, R333, R347, R442): the next gang of a grid is placed where there is room for it. -/
def execGangPlacement (grid : Nat) (s : State) : Out :=
  .next (match FMap.get? s.grids grid with
    | none => s
    | some g =>
      if g.pkt.teams ≤ g.next ∨ s.halted g.ctx then s
      else match s.chipReady g with
        | none => s
        | some s =>
          let left := g.pkt.teams - g.next
          let room (n : Nat) : Option (Nat × Nat × List (List Nat) × Nat × List Nat × Region) :=
            if 65536 < s.liveTeams g.ctx + n then none else s.findRoom g n
          match (room (min g.pkt.gp left)).orElse (fun _ => room (min g.pkt.gf left)) with
          | none => s
          | some (t, cl, us, b, as, r) =>
            let (awake, s) := s.wakeCluster t cl g.prio (0x210 + g.site)
            if awake then s.placeGang g t cl b us as r else s)

/-! ### Tail lists (R97, R325) -/

/-- An entry's place in a tail list: by GTC, then team index, then order. -/
def TailEntry.before (a b : TailEntry) : Bool :=
  decide (a.gtc < b.gtc) || (a.gtc == b.gtc && (decide (a.team < b.team) || (a.team == b.team && decide (a.order < b.order))))

/-- An entry put into a tail list. -/
def insertTail (e : TailEntry) : List TailEntry → List TailEntry
  | [] => [e]
  | x :: xs => if e.before x then e :: x :: xs else x :: insertTail e xs

/-- TLAUNCH (R325). -/
def execTlaunch (a : Reg) (s : State) : Out :=
  .next (s.whenReady [a] (fun s =>
    let at_ := (s.cur.s a).toNat
    s.withStruct at_ (fun bs s =>
      match FMap.get? s.grids s.cur.gridId.toNat, s.curCtx with
      | some g, some c =>
        let p := parsePacket bs
        let p : Packet := if p.setts = 0 then { p with setts := bitsOf g.setts } else p
        if !p.ok || p.barrier || p.settList.any (fun n => !c.setts.contains n) then s.reject at_
        else if 1024 ≤ g.tail.length then s.reject 0
        else
          let e : TailEntry := { gtc := s.gtc, team := s.cur.teamIndex.toNat, order := s.tick, pkt := p }
          let s := { s.clearRemote.dropStruct with tick := s.tick + 1 }
          (s.setGrid g.id (fun g => { g with tail := insertTail e g.tail })).advance 1
      | _, _ => s.reject at_)))

/-- Every team of a grid has ended, and nothing of theirs is under way. -/
def State.teamsEnded (s : State) (g : Grid) : Bool :=
  g.next == g.pkt.teams && g.ended == g.pkt.teams
    && s.teams.all (fun t => t.gridId.toNat != g.id || (t.fired.isEmpty && !s.reqs.any (fun r => r.uid == t.uid)))

/-- A child of a grid is live. -/
def State.childLive (s : State) (id : Nat) : Bool := s.grids.any (fun x => x.2.parent == some id)

/-- TAIL_CHILD_START (R97, R325): the head of the tail list of a grid whose teams have ended starts. -/
def execTailChildStart (grid : Nat) (s : State) : Out :=
  .next (match FMap.get? s.grids grid with
    | none => s
    | some g =>
      match g.tail with
      | [] => s
      | e :: es =>
        if g.faulted || !s.teamsEnded g || s.childLive grid || s.halted g.ctx then s
        else
          let run := (s.dropFar (.child grid)).setGrid grid (fun g => { g with tail := es })
          if e.pkt.type = 2 ∧ (s.ctx? g.ctx).any (fun c => !settsBad c e.pkt) then run.signalDown g.ctx (BitVec.ofNat 64 grid) e.pkt.signal
          else match s.launchTest (.child grid) g.ctx e.pkt with
            | (0, k) => run.startGrid g.ctx g.site none (some grid) g.prio e.pkt k
            | (st, _) =>
              if isAwait st then s.askFar (.child grid) st
              else (run.signalDown g.ctx (BitVec.ofNat 64 grid) e.pkt.signal).ctxEvent g.ctx 5 st (BitVec.ofNat 64 grid) 0)

/-! ### The end of a grid (R205, R266, R287) -/

/-- Armed entries of a grid that name its chip scratchpad are cancelled in every sett (R266). -/
def State.cancelChip (s : State) (id : Nat) : State :=
  s.setts.foldl (fun s x =>
    cancelEntries x.1 (x.2.entries.filter (fun e => e.grid.toNat == id && !e.fired
      && (fieldAt e.bytes 16 8 / 2 ^ 60 == 0xA || fieldAt e.bytes 24 8 / 2 ^ 60 == 0xA))) s) s

/-- What a grid held is freed: its chip scratchpad and the records of its teams. -/
def State.freeGrid (s : State) (g : Grid) : State :=
  let s := if g.kbase.isEmpty then s else s.cancelChip g.id
  let s : State := { s with setts := s.setts.map (fun x => (x.1, { x.2 with kalloc := x.2.kalloc.filter (fun a => a.2.2 != g.id) })) }
  { s with grids := FMap.erase s.grids g.id, others := s.others.filter (fun t => t.gridId.toNat != g.id),
           cur := if s.cur.gridId.toNat = g.id then Team.launch else s.cur }

/-- GRID_COMPLETE (R287): steps 3 to 6 once every team and the tail list have ended; a faulted grid's tail list is
discarded, its signals decremented (R97, R325). -/
def execGridComplete (grid : Nat) (s : State) : Out :=
  .next (match FMap.get? s.grids grid with
    | none => s
    | some g =>
      let id : Word := BitVec.ofNat 64 grid
      let posted := match s.ctx? g.ctx with | some c => c.eventq.isNone || !c.events.any (fun e => e.grid == id) | none => true
      if !s.teamsEnded g || s.childLive grid || !(g.faulted || g.tail.isEmpty) || !posted then s
      else
        let s := g.tail.foldl (fun s e => s.signalDown g.ctx id e.pkt.signal) s
        let s := s.freeGrid g
        match g.queue with
        | some (key, _) => s.endPacket key g.pkt (if g.faulted then 2 else 1) id
        | none => s.signalDown g.ctx id g.pkt.signal)

end Sys2Proof.Machine
end

