-- ==== Sys2Proof/Machine/Faults.lean ====
section
/-!
DEFINITION. The fault event queue (R345), the fault-completion queue (R346, R348, R349), and the resolution of faults
that were pending across a stop (R353, R360).
-/

namespace Sys2Proof.Machine

/-! ### The fault event queue (R345) -/

/-- Bytes 1 to 31 of an entry. -/
def Event.bytes (e : Event) : List Byte :=
  bytesOf 1 e.code ++ bytesOf 2 e.count ++ bytesOf 4 e.team ++ bytesOf 8 e.grid.toNat ++ bytesOf 8 e.addr.toNat ++ bytesOf 2 e.slot
    ++ bytesOf 2 0 ++ bytesOf 4 e.gen

/-- A team waits for the place of a LANES_RETIRED entry (R345): nothing waits where no queue is registered. -/
def Context.retiring (c : Context) (uid : Nat) : Bool := c.eventq.isSome && c.events.any (fun e => e.kind == 2 && e.uid == uid)

/-- A run under way (R417). -/
def RunStatus.live : RunStatus → Bool
  | .running | .paused => true
  | _ => false

/-- A loss found for a position of a group: the one handled, or one that waits for the end of a recovery (R417). -/
def Group.lose (g : Group) (p : Nat) : Group :=
  if !g.st.live then g
  else match g.lost with
    | none => { g with lost := some p }
    | some q => if q = p ∧ g.phase ≠ 2 ∨ g.more.contains p then g else { g with more := g.more ++ [p] }

/-- R417: an event for an entry or a counter of a run, or for a member team, loses its position. A team is a member where a position
of its context names its sett. -/
def State.noteLoss (s : State) (ctx : Nat) (e : Event) : State :=
  if 2 ^ 64 ≤ e.uid then
    { s with groups := FMap.modify s.groups ((e.uid - 2 ^ 64) / 2 ^ 16) (fun g => g.lose ((e.uid - 2 ^ 64) % 2 ^ 16)) }
  else if e.kind = 1 then
    match s.teams.find? (fun t => t.uid == e.uid) with
    | none => s
    | some t =>
      let hit (g : Group) : Group :=
        if g.ctx = ctx then
          match ((g.positions.take g.n).zip (upTo 0 g.n)).find? (fun x => x.1.pkg == s.ownPkg && x.1.sett == t.sett) with
          | some x => g.lose x.2
          | none => g
        else g
      { s with groups := s.groups.map (fun x => (x.1, hit x.2)) }
  else s

/-- FAULT_EVENT_POST (R345, R417): the context's next entry goes into its place, where that is free. -/
def execFaultEventPost (ctx : Nat) (s : State) : Out :=
  .next (match s.ctx? ctx with
    | none => s
    | some c => match c.events, c.eventq with
      | e :: es, some r =>
        let a := r.base.toNat + 32 * (r.next % 2 ^ r.log2)
        (match s.devNat ctx a 1 with
         | .ok 0 =>
           let s := s.devWrite ctx (a + 1) e.bytes
           let s := s.devWrite ctx a (bytesOf 1 e.kind)
           let s := s.setCtx ctx (fun c => { c with events := es, eventq := some { r with next := r.next + 1 } })
           let s := s.noteLoss ctx e
           let more := Context.retiring { c with events := es } e.uid
           if e.kind = 2 ∧ ¬more then s.setTeam e.uid (fun t => { t with evWait := false }) else s
         | _ => s)
      | _, _ => s)

/-! ### Held lanes outside a handler -/

/-- A change of the user's lane work, wherever it stands, under the user's code. -/
def State.onUserWork (s : State) (f : State → State) : State :=
  if s.cur.userWork.isSome then
    let k := s.cur.hkern
    let s := f { s with cur := { s.cur.swapWork with hkern := none } }
    { s with cur := { s.cur.swapWork with hkern := k } }
  else f s

/-- The lanes of the focused team that are held (R337, R348): for the host, for an invocation, or with a pending fault. -/
def Team.hostedLanes (t : Team) : List Nat := (t.paths.filter (fun p => p.state == .held)).flatMap Path.lanes

/-- A number of a slot of the focused team's area. -/
def State.areaNat (s : State) (slot off n : Nat) : Nat :=
  match s.devNat s.cur.ctx (s.cur.area.toNat + 64 * slot + off) n with
  | .ok x => x
  | .error _ => 0

/-- A byte of a slot of the focused team's area written. -/
def State.setAreaByte (s : State) (slot off x : Nat) : State :=
  s.devWrite s.cur.ctx (s.cur.area.toNat + 64 * slot + off) (bytesOf 1 x)

/-- Held lanes go on: each held path forms a path that replays them (R342, R348). -/
def replayHeld (ls : List Nat) : List Path → Team → Team
  | [], t => t
  | h :: hs, t =>
    let mine := h.lanes.filter (fun l => ls.contains l)
    replayHeld ls hs (if mine.isEmpty then t else Team.recount ((t.leaveHeld h.idx mine).replayPath h mine))

/-- Held lanes leave their paths. -/
def dropHeld (ls : List Nat) : List Path → Team → Team
  | [], t => t
  | h :: hs, t => dropHeld ls hs (Team.recount (t.leaveHeld h.idx ls))

/-- The held paths of a team. -/
def Team.heldPaths (t : Team) : List Path := t.paths.filter (fun p => p.state == .held)

/-- Held lanes resolved without a handler: retired with their codes, their slots saying so (R336, R344). -/
def State.retireHeld (s : State) (lanes : List (Nat × Nat)) : State :=
  let s := lanes.foldl (fun s x => s.setAreaByte (x.1 + 1) 58 2) s
  let s := { s with cur := dropHeld (lanes.map Prod.fst) s.cur.heldPaths s.cur }
  (s.retireLanes lanes).settle

/-- The focused team stops for faults of held lanes, every slot saying so (R345). -/
def State.stopHeld (s : State) (lanes : List Nat) (code : Nat) : State :=
  (lanes.foldl (fun s l => s.setAreaByte (l + 1) 58 4) s).stopTeam code lanes.length

/-! ### The fault-completion queue (R348) -/

/-- An entry applied to the held lanes whose records lie in its page. -/
def State.completeLanes (s : State) (page : Nat) (mapped : Bool) : State :=
  s.onUserWork (fun s =>
    let ls := s.cur.hostedLanes.filter (fun l => s.areaNat (l + 1) 8 8 / 2 ^ 16 == page)
    let s : State := { s with cur := { s.cur with pendf := s.cur.pendf.filter (fun l => !ls.contains l) } }
    if ls.isEmpty then s
    else if mapped then State.settle { s with cur := replayHeld ls s.cur.heldPaths s.cur }
    else if s.cur.kern.faultCont then s.retireHeld (ls.map (fun l => (l, codeNotPresent)))
    else s.stopHeld ls codeNotPresent)

/-- The scalar stream waits under HOST for a page. -/
def waitsPage (page : Nat) : Option Wait → Bool
  | some (.host p) => p.toNat / 2 ^ 16 == page
  | _ => false

/-- An entry applied to a scalar stream that waits for its page. -/
def State.completeStream (s : State) (page : Nat) (mapped : Bool) : State :=
  if s.cur.status != .running then s
  else if waitsPage page s.cur.wait then
    if mapped then { s with cur := { s.cur with wait := none } } else (s.setAreaByte 0 58 4).stopTeam codeNotPresent 0
  else if waitsPage page (s.cur.frame.bind Frame.wait) then
    if mapped then s.setCur (fun t => { t with frame := t.frame.map (fun (f : Frame) => { f with wait := none }) })
    else (s.setAreaByte 0 58 4).stopTeam codeNotPresent 0
  else s

/-- The 16 bytes of a completion entry applied (R348). -/
def State.applyCompletion (s : State) (ctx : Nat) (bs : List Byte) : State :=
  let page := fieldAt bs 10 6
  let mapped := fieldAt bs 8 1 % 4 == 0
  if fieldAt bs 0 2 ≠ ctx then s
  else match s.teams.find? (fun t => t.ctx == ctx && t.status == .running && t.ctxSlot == fieldAt bs 2 2) with
    | none => s
    | some t =>
      if t.gen.toNat ≠ fieldAt bs 4 4 then s
      else s.onTeam t.uid (fun s => (s.completeLanes page mapped).completeStream page mapped)

/-- The next completion entry taken, where its place holds one (a nonzero CTX; log entry 42): the place is freed. -/
def State.takeCompletion (s : State) (ctx : Nat) : Option State :=
  (s.ctx? ctx).bind (fun c => c.complq.bind (fun r =>
    let a := r.base.toNat + 16 * (r.next % 2 ^ r.log2)
    match s.devRead ctx a 16 with
    | .error _ => none
    | .ok bs =>
      if fieldAt bs 0 2 = 0 then none
      else
        let s := s.devWrite ctx a (bytesOf 2 0)
        let s := s.setCtx ctx (fun c => { c with complq := some { r with next := r.next + 1 } })
        some (s.applyCompletion ctx bs)))

/-- FAULT_COMPLETION_ENTRY (R348, R349): while the context is resident its entries are consumed in order. -/
def execFaultCompletionEntry (ctx : Nat) (s : State) : Out :=
  .next (match s.ctx? ctx with
    | none => s
    | some c => if c.saved.isSome then s else (s.takeCompletion ctx).getD s)

/-- Entries consumed one after another. -/
def takeCompletions (ctx : Nat) : Nat → State → State
  | 0, s => s
  | n + 1, s =>
    match s.takeCompletion ctx with
    | none => s
    | some s => takeCompletions ctx n s

/-! ### Pending faults (R353, R360) -/

/-- The pending faults of the focused team's lanes resolved under R336, or queued as invocations under R337. -/
def State.resolvePending (s : State) : State :=
  let codes := s.cur.pendf.map (fun l => s.areaNat (l + 1) 0 1)
  if s.cur.pendf.isEmpty || s.cur.status != .running then s
  else match s.unread codes with
  | some c => s.askFar (.faults s.cur.uid) c
  | none => State.faultsRead (s.onUserWork (fun s =>
    let ls := s.cur.pendf
    let s := { s with cur := { s.cur with pendf := [] } }
    let fs : List LaneFault := ls.map (fun l =>
      { lane := l, info := .plain (s.areaNat (l + 1) 0 1) (BitVec.ofNat 64 (s.areaNat (l + 1) 8 8)), ip := 0, resume := 0, byReply := true })
    let how (f : LaneFault) : Nat := laneOutcome s.cur (s.resolution f.info.code)
    match fs.find? (fun f => how f == 2) with
    | some g => s.stopHeld ls g.info.code
    | none =>
      let out := fs.filter (fun f => how f == 1)
      let kept := fs.filter (fun f => how f == 0)
      let kern (c : Nat) : Kernel := match s.resolution c with | .handler k => k | .action _ => Kernel.none
      let held := (s.cur.heldPaths.filter (fun p => kept.any (fun f => p.lanes.contains f.lane))).map Path.idx
      let invs := invocations s.cur held kept kern
      let s := if out.isEmpty then s else s.retireHeld (out.map (fun f => (f.lane, f.info.code)))
      { s with cur := { s.cur with hqueue := s.cur.hqueue ++ invs } }))

end Sys2Proof.Machine
end

