-- ==== Sys2Proof/Machine/HostCmd.lean ====
section
/-!
DEFINITION. The host link and the host command ring (R438, R439): accesses of the host, the ring's slots, and the
commands that allot and register what a context has (R293, R333, R335, R345), energy (R441) and records (R444, R445).
-/

namespace Sys2Proof.Machine

/-! ### The ring (R439) -/

/-- The key of a slot of a site's ring. -/
def ringSlot (site i : Nat) : Nat := Config.ringKey site (64 * (i % 256))

/-- A site changed. -/
def State.setSite (s : State) (site : Nat) (f : Site → Site) : State := { s with sites := FMap.modify s.sites site f }

/-- Headers of slots from `a` on, `n` of them, read where they were not seen valid. -/
def State.readSlots (s : State) (site a n : Nat) : State :=
  s.setSite site (fun x => { x with seen := (upTo a n).foldl (fun xs i =>
    if xs.contains i || !bitAt (s.mem.getNat (ringSlot site i) 4) 8 then xs else insertNat i xs) x.seen })

/-- HOST_RING_DOORBELL (R439): from step 6 of R446 on, a value not greater than the last one is ignored. -/
def execHostRingDoorbell (site value : Nat) (s : State) : Out :=
  .next (match FMap.get? s.sites site with
    | none => s
    | some x =>
      if value ≤ x.db ∨ s.bringup < 6 then s
      else (s.setSite site (fun x => { x with db := value })).readSlots site x.rd (min value (x.rd + 256) - x.rd))

/-- The command ends: its HEADER receives VALID = 0 and its STATUS, then the read index advances. What it had asked of other
packages is forgotten. -/
def State.hostDone (s : State) (status : Nat) : State :=
  let site := s.hcmd.site
  let s := s.dropFar (.host site)
  match FMap.get? s.sites site with
  | none => s
  | some x =>
    let k := ringSlot site x.rd
    let s : State := { s with mem := s.mem.setNat k 4 (doneHeader (s.mem.getNat k 4) status) }
    let s := s.setSite site (fun y => { y with rd := y.rd + 1, seen := y.seen.filter (fun i => decide (x.rd < i)) })
    if x.rd + 256 < x.db then s.readSlots site (x.rd + 256) 1 else s

/-- Parameter `i` of the command held. -/
def State.param (s : State) (i : Nat) : Nat := (nth 0 s.hcmd.params i).toNat

/-- A command that must be one of `n` parameters: 0x08 before step 7 of R446 is over, 0x07 where a further parameter is
set; else `f` says STATUS and effect; STATUS 0 leaves the command to be run again: it awaits another package. -/
def State.command8 (s : State) (n : Nat) (f : State → Nat × State) : State :=
  if s.bringup < 8 then s.hostDone 8
  else if (s.hcmd.params.drop n).any (fun w => w != 0) then s.hostDone 7
  else
    let (st, s) := f s
    if st = 0 then s else s.hostDone st

/-- A command of a context: 0x07 where CTX names no live one. -/
def State.ctxCommand (s : State) (n : Nat) (f : Nat → Context → State → Nat × State) : State :=
  s.command8 n (fun s => match s.ctx? s.hcmd.ctx with
    | none => (7, s)
    | some c => f s.hcmd.ctx c s)

/-! ### What a command reads from other packages -/

/-- A command's read or check failed with a code: it awaits another package's answer, which is asked for now, or ends with a
STATUS. -/
def State.hostWait (s : State) (c st : Nat) : Nat × State := if isAwait c then (0, s.askFar (.host s.hcmd.site) c) else (st, s)

/-! ### Contexts (R439, R290, R293) -/

/-- Counter ranges taken in a sett, in rising order. -/
def State.counterRuns (s : State) (sett : Nat) : List (Nat × Nat) :=
  sortRuns (s.ctxs.filterMap (fun x => if x.2.cntCount = 0 then none else (FMap.get? x.2.cntBase sett).map (fun b => (b, x.2.cntCount))))

/-- Entry places allotted in a sett. -/
def State.placesIn (s : State) (sett : Nat) : Nat :=
  s.ctxs.foldl (fun acc x => if x.2.setts.contains sett then acc + x.2.places else acc) 0

/-- CNTBASE in each sett, first fit; none where a sett has no run. -/
def State.allotCounters (s : State) (n : Nat) : List Nat → Option (FMap Nat)
  | [] => some []
  | t :: ts =>
    match firstFit 4096 n 0 (s.counterRuns t), State.allotCounters s n ts with
    | some b, some m => some (FMap.set m t b)
    | _, _ => none

/-- A context as CTX_CREATE makes it. -/
def Context.new (job : Word) (setts : List Nat) (base : FMap Nat) (count places floor : Nat) : Context :=
  { job := job, setts := setts, cntBase := base, cntCount := count, places := places, floor := floor,
    accounts := setts.map (fun t => (t, { balance := 0, rem := 0 })), roots := [], pools := [], handlers := none, regions := [],
    eventq := none, complq := none, wdog := 0x100000000, gens := [], events := [], stopAt := none, cut := false, saved := none,
    savedMem := [], acct := [], firstPlaced := none, endedAt := 0, placedGens := [] }

/-- CTX_CREATE (R439). -/
def execCtxCreate (s : State) : Out :=
  .next (s.command8 5 (fun s =>
    let setts := bitList (s.param 1) 48
    let count := s.param 2
    let places := s.param 3
    let id := FMap.free s.ctxs 1 65535
    if s.hcmd.ctx ≠ 0 ∨ 2 ^ 48 ≤ s.param 1 ∨ 4096 < count ∨ 16384 < places ∨ 2 ^ 48 ≤ s.param 4
        ∨ setts.any (fun t => (s.sett t).withdrawn) then (7, s)
    else match s.allotCounters count setts with
      | none => (8, s)
      | some base =>
        if 65535 < id ∨ setts.any (fun t => decide (16384 < s.placesIn t + places)) then (8, s)
        else
          let c := Context.new (nth 0 s.hcmd.params 0) setts base count places (s.param 4)
          let k := match FMap.get? s.sites s.hcmd.site with | some x => ringSlot s.hcmd.site x.rd + 4 | none => ringSlot s.hcmd.site 0 + 4
          (1, { s with ctxs := FMap.set s.ctxs id c, mem := s.mem.setNat k 2 id })))

/-- The context has a team, a run or a slot (R439). -/
def State.ctxBusy (s : State) (id : Nat) (c : Context) : Bool :=
  s.teams.any (fun t => t.ctx == id) || (c.saved.getD []) != [] || s.grids.any (fun g => g.2.ctx == id)
    || s.groups.any (fun g => g.2.ctx == id && (g.2.st == .running || g.2.st == .paused))
    || s.chips.any (fun x => x.2.slots.any (fun y => y.2.ctx == id))

/-- CTX_DESTROY (R439): everything allotted to the context is freed. -/
def execCtxDestroy (s : State) : Out :=
  .next (s.ctxCommand 0 (fun id c s =>
    if s.ctxBusy id c then (8, s)
    else
      (1, { s with
        ctxs := FMap.erase s.ctxs id, bound := s.bound.filter (fun x => x.2 != id), queues := s.queues.filter (fun x => x.2.ctx != id),
        groups := s.groups.filter (fun x => x.2.ctx != id), incs := s.incs.filter (fun x => x.ctx != id),
        l1 := s.l1.filter (fun x => x.2.ctx != id),
        setts := s.setts.map (fun x => (x.1, { x.2 with entries := x.2.entries.filter (fun e => e.ctx != id) })) })))

/-- Units of the window. -/
def windowUnits : Nat := 2 ^ 33

/-- BIND (R438, R439). -/
def execBind (s : State) : Out :=
  .next (s.ctxCommand 2 (fun id _ s =>
    let first := s.param 0 / 2 ^ 21
    let n := s.param 1
    if s.param 0 % 2 ^ 21 ≠ 0 ∨ n = 0 ∨ windowUnits < first + n
        ∨ s.bound.any (fun x => decide (first ≤ x.1) && decide (x.1 < first + n) && x.2 != id) then (7, s)
    else (1, { s with bound := (upTo first n).foldl (fun m u => FMap.set m u id) s.bound })))

/-- PAGETABLE (R208, R439). -/
def execPagetable (s : State) : Out :=
  .next (s.ctxCommand 2 (fun id c s =>
    if !c.setts.contains (s.param 0) || s.param 1 % 4096 != 0 || decide (Config.dramBytes ≤ s.param 1) then (7, s)
    else (1, s.setCtx id (fun c => { c with roots := FMap.set c.roots (s.param 0) (s.param 1) }))))

/-- Frames added to a pool. -/
def Pool.add (p : Pool) (size : Nat) (fs : List Nat) : Pool :=
  if size = 0 then { p with k64 := p.k64 ++ fs } else if size = 1 then { p with m2 := p.m2 ++ fs } else { p with g1 := p.g1 ++ fs }

/-- log2 of the page of a SIZE value (R68). -/
def sizeLog2 (n : Nat) : Nat := if n = 0 then 16 else if n = 1 then 21 else 30

/-- POOL_ADD (R68, R439). -/
def execPoolAdd (s : State) : Out :=
  .next (s.ctxCommand 4 (fun id c s =>
    let b := 2 ^ sizeLog2 (s.param 3)
    if !c.setts.contains (s.param 0) || decide (2 < s.param 3) || s.param 1 % b != 0 || decide (Config.dramBytes < s.param 1 + s.param 2 * b)
    then (7, s)
    else
      let fs := (upTo 0 (s.param 2)).map (fun i => s.param 1 + i * b)
      (1, s.setCtx id (fun c => { c with
        pools := FMap.set c.pools (s.param 0) ((FMap.getD c.pools (s.param 0) { k64 := [], m2 := [], g1 := [], slots := [] }).add (s.param 3) fs) }))))

/-- A global address that can be one of a context's. -/
def globalOk (a : Nat) : Bool := !gvaBad .scalar a && a / 2 ^ 60 == 0

/-- QUEUE (R282, R439). -/
def execQueue (s : State) : Out :=
  .next (s.ctxCommand 4 (fun id _ s =>
    let key := queueKey s.hcmd.site (s.param 0)
    let q : UserQueue := { ctx := id, base := BitVec.ofNat 64 (s.param 1), log2 := s.param 2, prio := s.param 3, rd := 0, db := 0,
                           seen := [], eligible := none, running := false }
    if 1023 < s.param 0 ∨ s.param 1 % 64 ≠ 0 ∨ !globalOk (s.param 1) ∨ s.param 2 = 0 ∨ 16 < s.param 2 ∨ 3 < s.param 3 then (7, s)
    else match FMap.get? s.queues key with
      | none => (1, { s with queues := FMap.set s.queues key q })
      | some old =>
        if old.ctx ≠ id then (7, s)
        else if old.rd ≠ old.db ∨ old.running then (8, s)
        else (1, { s with queues := FMap.set s.queues key q })))

/-- HANDLERS (R335, R439). -/
def execHandlers (s : State) : Out :=
  .next (s.ctxCommand 1 (fun id _ s =>
    if s.param 0 % 16 ≠ 0 ∨ !globalOk (s.param 0) then (7, s)
    else (1, s.setCtx id (fun c => { c with handlers := some (BitVec.ofNat 64 (s.param 0)) }))))

/-- A ring a command registers, its place aligned. -/
def State.newRing (s : State) (align : Nat) : Option Ring :=
  if s.param 0 % align ≠ 0 ∨ !globalOk (s.param 0) ∨ s.param 1 < 4 ∨ 16 < s.param 1 then none
  else some { base := BitVec.ofNat 64 (s.param 0), log2 := s.param 1, next := 0 }

/-- EVENTQ (R345, R439). -/
def execEventq (s : State) : Out :=
  .next (s.ctxCommand 2 (fun id _ s => match s.newRing 32 with
    | none => (7, s)
    | some r => (1, s.setCtx id (fun c => { c with eventq := some r }))))

/-- COMPLQ (R348, R439). -/
def execComplq (s : State) : Out :=
  .next (s.ctxCommand 2 (fun id _ s => match s.newRing 16 with
    | none => (7, s)
    | some r => (1, s.setCtx id (fun c => { c with complq := some r }))))

/-- WATCHDOG (R72, R439). -/
def execWatchdog (s : State) : Out :=
  .next (s.ctxCommand 1 (fun id _ s => (1, s.setCtx id (fun c => { c with wdog := nth 0 s.hcmd.params 0 }))))

/-- Every page of a range of this package is mapped readable and writable with key 0 for a context. -/
def State.rangeRw0 (s : State) (ctx a n : Nat) : Bool :=
  (upTo (a / 0x10000) ((a + n + 0xFFFF) / 0x10000 - a / 0x10000)).all (fun p =>
    match s.walk ctx (bitsNat a 53 48) (bitsNat (max a (p * 0x10000)) 47 0) with
    | some l => l.rd && l.w && l.pkey == 0
    | none => false)

/-- HAREA (R333, R439). -/
def execHarea (s : State) : Out :=
  .next (s.ctxCommand 3 (fun id c s =>
    let sett := s.param 0
    let a := s.param 1
    let n := s.param 2
    if !c.setts.contains sett || a % 64 != 0 || n % 64 != 0 || !globalOk a || bitsNat a 59 54 != s.ownPkg || bitsNat a 53 48 != sett
        || decide (2 ^ 48 < bitsNat a 47 0 + n) || !s.rangeRw0 id a n then (7, s)
    else
      let areas := match FMap.get? c.regions sett with | some r => r.areas | none => []
      (1, s.setCtx id (fun c => { c with regions := FMap.set c.regions sett { base := BitVec.ofNat 64 a, len := n, areas := areas } }))))

/-! ### The device memory window and the ring area (R438) -/

/-- Pieces of a host access within lines, checked with PKR zero: none where one fails. -/
def State.hostSpots (s : State) (ctx a n : Nat) (k : Kind) : Option (List Spot) :=
  (lineCut a n).foldr (fun x acc => match acc, s.devLeaf ctx x.1 k with
    | some xs, .ok l => some ({ key := l.key, n := x.2, cmp := l.cmp } :: xs)
    | _, _ => none) (some [])

/-- What the host is answered, in the outbox: code 12, an error mark, and the bytes read (log entry 21). -/
def State.hostReply (s : State) (bad : Bool) (bs : List Byte) : State :=
  { s with outbox := s.outbox ++ [bytesOf 1 12 ++ bytesOf 1 (b2n bad) ++ bs] }

/-- An access through the device memory window (R438). -/
def State.hostWindow (s : State) (off : Nat) (acc : HostAccess) : State :=
  let a := s.ownPkg * 2 ^ 54 + off
  let n := match acc with | .read n => n | .write bs => bs.length
  let units := upTo (off / 2 ^ 21) ((off + n + 2 ^ 21 - 1) / 2 ^ 21 - off / 2 ^ 21)
  let ctx := match units with | u :: us => (FMap.get? s.bound u).filter (fun c => us.all (fun v => FMap.get? s.bound v == some c)) | [] => none
  match ctx with
  | none => s.hostReply true (match acc with | .read n => List.replicate n 0xFF | .write _ => [])
  | some c =>
    match acc with
    | .read n =>
      (match s.hostSpots c a n .load with
       | none => s.hostReply true (List.replicate n 0xFF)
       | some xs => let (bs, s) := readSpots xs s; s.hostReply false bs)
    | .write bs =>
      match s.hostSpots c a bs.length .store with
      | none => s.hostReply true []
      | some xs => (writeSpots [] xs bs s).hostReply false []

/-- A doorbell rung by an aligned 8-byte write (R438). -/
def ringDoorbell (site page value : Nat) (s : State) : Out :=
  if page = 1024 then execHostRingDoorbell site value s else execUserQueueDoorbell site page value s

/-- The value of a byte of the ring area: the slots, and the read index on page 1,029. -/
def State.areaByte (s : State) (site o : Nat) : Byte :=
  if 1025 * 4096 ≤ o ∧ o < 1029 * 4096 then s.mem.get (Config.ringKey site (o - 1025 * 4096))
  else if 1029 * 4096 ≤ o ∧ o < 1029 * 4096 + 8 then
    BitVec.ofNat 8 ((match FMap.get? s.sites site with | some x => x.rd | none => 0) / 2 ^ (8 * (o - 1029 * 4096)))
  else 0

/-- A write to the pages of the ring's slots. -/
def State.areaWrite (s : State) (site o : Nat) (bs : List Byte) : State :=
  if 1025 * 4096 ≤ o ∧ o + bs.length ≤ 1029 * 4096 then { s with mem := s.mem.setBytes (Config.ringKey site (o - 1025 * 4096)) bs } else s

/-- HOST_MEMORY_ACCESS (R438): an access at an offset of the device memory window, or, from 2^54 on, of the doorbell and
ring area. A site whose link is down carries none. -/
def execHostMemoryAccess (site off : Nat) (acc : HostAccess) (s : State) : Out :=
  match FMap.get? s.sites site with
  | none => .next s
  | some x =>
    if x.level = 0 then .next s
    else if off < 2 ^ 54 then .next (s.hostWindow off acc)
    else
      let o := off - 2 ^ 54
      match acc with
      | .read n => .next (s.hostReply false ((upTo o n).map (s.areaByte site)))
      | .write bs =>
        if o < 1025 * 4096 then
          if o % 4096 = 0 ∧ bs.length = 8 then ringDoorbell site (o / 4096) (natOf bs) s else .next s
        else .next (s.areaWrite site o bs)

/-! ### Energy (R441) -/

/-- GRANT (R441). -/
def execGrant (s : State) : Out :=
  .next (s.ctxCommand 2 (fun id c s =>
    if !c.setts.contains (s.param 0) then (7, s)
    else
      let a := FMap.getD c.accounts (s.param 0) { balance := 0, rem := 0 }
      (1, s.setCtx id (fun c => { c with
        accounts := FMap.set c.accounts (s.param 0) { a with balance := min (2 ^ 48 - 1) (a.balance + s.param 1) } }))))

/-- One share charged: from the team's reservation, then from BALANCE; the unpaid rest counts in class 15. -/
def State.charge (s : State) (sett : Nat) (x : Charge) : State :=
  match s.ctx? x.ctx with
  | none => s
  | some c =>
    if !s.teams.any (fun t => t.ctx == x.ctx && t.sett == sett && t.status == .running) then s
    else
      let a := FMap.getD c.accounts sett { balance := 0, rem := 0 }
      let total := x.amount + a.rem
      let due := total / 1000
      let held := match x.team.bind s.team? with
        | some t => if t.ctx = x.ctx ∧ t.sett = sett then t.reserve else 0
        | none => 0
      let own := min due held
      let paid := min (due - own) a.balance
      let s := match x.team with
        | some u => if 0 < own then s.setTeam u (fun t => { t with reserve := t.reserve - own }) else s
        | none => s
      let s := s.setCtx x.ctx (fun c => { c with accounts := FMap.set c.accounts sett { balance := a.balance - paid, rem := total % 1000 } })
      s.count x.ctx sett 15 (due - own - paid)

/-- ENERGY_CHARGE (R441): at every GTC multiple of 10,000. -/
def execEnergyCharge (sett : Nat) (bill : List Charge) (s : State) : Out :=
  .next (if s.gtc % 10000 = 0 then bill.foldl (fun s x => s.charge sett x) s else s)

/-! ### Signed records (R444, R445) -/

/-- A record with the signature of a module over its bytes. -/
def signed (module : Nat) (bs : List Byte) : List Byte := bs ++ bytesOf 64 (Config.signature (natOf bs * 64 + module)).toNat

/-- A record's part in one line sent to another package (R444). -/
def State.sendRecord (s : State) (ctx a : Nat) (bs : List Byte) : State :=
  ((lineCut a bs.length).foldl (fun (acc : State × List Byte) x =>
    ({ acc.1 with outbox := acc.1.outbox ++ [requestBytes 9 ctx x.1 x.2 0 0 s.gtc (acc.2.take x.2)] }, acc.2.drop x.2)) (s, bs)).1

/-- A record written at a destination, where every page of it may be written. -/
def State.writeRecord (s : State) (ctx a : Nat) (bs : List Byte) : Nat × State :=
  if !globalOk a then (7, s)
  else if bitsNat a 59 54 = s.ownPkg then
    match s.hostSpots ctx a bs.length .store with
    | none => (7, s)
    | some xs => (1, writeSpots [] xs bs s)
  else match allOk ((lineCut a bs.length).map (fun x => s.devOk (.host s.hcmd.site) ctx x.1 .store)) with
    | .error c => s.hostWait c 7
    | .ok _ => (1, s.sendRecord ctx a bs)

/-- The bytes of a snapshot before its signature. -/
def snapshotBytes (id gtc : Nat) (c : Context) (sett : Nat) : List Byte :=
  let a := FMap.getD c.acct sett { counts := [], sat := [] }
  bytesOf 1 1 ++ bytesOf 1 1 ++ bytesOf 2 id ++ bytesOf 4 0 ++ bytesOf 8 c.job.toNat ++ bytesOf 8 gtc
    ++ (upTo 0 16).flatMap (fun k => bytesOf 8 (FMap.getD a.counts k 0)) ++ bytesOf 2 (bitsOf a.sat) ++ bytesOf 6 0

/-- SNAPSHOT (R444). -/
def execSnapshot (s : State) : Out :=
  .next (s.ctxCommand 2 (fun id c s =>
    if !c.setts.contains (s.param 0) then (7, s)
    else s.writeRecord id (s.param 1) (signed (s.param 0) (snapshotBytes id s.gtc c (s.param 0)))))

/-- The sett whose module supplies the package's GTC (R423). -/
def State.gtcSett (s : State) : Nat := ((upTo 0 48).find? (fun n => !(s.sett n).withdrawn)).getD 0

/-- The bytes of a statement before its signature. -/
def statementBytes (pkg id : Nat) (c : Context) : List Byte :=
  bytesOf 1 2 ++ bytesOf 1 1 ++ bytesOf 2 id ++ bytesOf 4 0 ++ bytesOf 8 c.job.toNat ++ bytesOf 8 (bitsOf c.setts) ++ bytesOf 8 (2 ^ pkg)
    ++ bytesOf 8 (c.firstPlaced.getD 0) ++ bytesOf 8 (c.stopAt.getD c.endedAt)
    ++ (upTo 0 48).flatMap (fun n => bytesOf 4 (FMap.getD c.placedGens n 0))

/-- STATEMENT (R444). -/
def execStatement (s : State) : Out :=
  .next (s.ctxCommand 2 (fun id c s =>
    if !c.setts.contains (s.param 0) then (7, s)
    else s.writeRecord id (s.param 1) (signed s.gtcSett (statementBytes s.ownPkg id c))))

/-- QUOTE (R445): the registers, the chain and the nonce of parameters 2 to 5. -/
def execQuote (s : State) : Out :=
  .next (s.ctxCommand 6 (fun id _ s =>
    if 48 ≤ s.param 0 then (7, s)
    else
      let nonce := (upTo 2 4).flatMap (fun i => bytesOf 8 (s.param i))
      let body := (s.sett (s.param 0)).measure.flatMap (fun m => bytesOf 32 m.toNat) ++ Config.certChain (s.param 0) ++ nonce
      s.writeRecord id (s.param 1) (signed (s.param 0) body)))

end Sys2Proof.Machine
end

