-- ==== Sys2Proof/Machine/Context.lean ====
section
/-!
DEFINITION. Stopping, saving and restoring a context (R351 to R361): the stop request and its cut, the drain, liveness
records (R355), the zero rule (R358), and the placing and resuming of saved teams (R359, R360).
-/

namespace Sys2Proof.Machine

/-! ### The stop request and its cut (R351, R352) -/

/-- A context spans packages where a collective group of it has a position in another one (log entry 50). -/
def State.spansPackages (s : State) (ctx : Nat) : Bool :=
  s.groups.any (fun g => g.2.ctx == ctx && g.2.positions.any (fun p => p.pkg != s.ownPkg))

/-- STOP (R351). -/
def execStop (s : State) : Out :=
  .next (s.ctxCommand 1 (fun id c s =>
    if s.param 0 < s.gtc + (if s.spansPackages id then 20000 else 2000) then (7, s)
    else if c.stopAt.isSome then (8, s)
    else (1, s.setCtx id (fun c => { c with stopAt := some (s.param 0) }))))

/-- STOP_CUT (R352): GTC has reached T. -/
def execStopCut (ctx : Nat) (s : State) : Out :=
  .next (s.setCtx ctx (fun c => match c.stopAt with
    | some t => if t ≤ s.gtc then { c with cut := true } else c
    | none => c))

/-! ### The drain (R353) -/

/-- The faults of a reply that has returned wait: a lane of it is held, or replays (R337, R342; log entry 51). -/
def Team.stuck (t : Team) (r : GReq) : Bool :=
  let at_ (ps : List Path) : Bool := ps.any (fun p => (p.state == .held || p.replay.isSome) && r.accs.any (fun a => p.lanes.contains a.lane))
  at_ t.paths || (match t.userWork with | some w => at_ w.paths | none => false)

/-- A barrier's arrival has been sent and is not yet answered. -/
def unanswered : Option Wait → Bool
  | some (.barxSent _) => true
  | _ => false

/-- Nothing of a team is under way. -/
def State.teamDrained (s : State) (t : Team) : Bool :=
  t.fired.isEmpty && t.sent.isEmpty && !unanswered t.wait && !unanswered (t.frame.bind Frame.wait)
    && s.reqs.all (fun r => r.uid != t.uid || (r.back && t.stuck r) || r.accs.all (fun a => a.kind == 3))

/-- The drain of a context is complete (R353). -/
def State.drained (s : State) (ctx : Nat) : Bool :=
  s.teams.all (fun t => t.ctx != ctx || s.teamDrained t)
    && s.setts.all (fun x => x.2.entries.all (fun e => e.ctx != ctx || !(e.fired || e.sent)))

/-! ### Liveness records (R355) -/

/-- What a liveness record names: bit maps of lane registers and s registers, and ranges of tiles and pages. -/
structure Live where
  vmap : Nat
  smap : Nat
  tiles : List (Nat × Nat)
  pages : List (Nat × Nat)
  deriving DecidableEq, Repr

/-- A number of the ranges. -/
def inRanges (rs : List (Nat × Nat)) (x : Nat) : Bool := rs.any (fun r => decide (r.1 ≤ x) && decide (x < r.1 + r.2))

/-- Words of a team's code memory, fetched (R53). -/
def State.codeWords (s : State) (t : Team) : Nat → Nat → Except Nat (List Nat)
  | _, 0 => .ok []
  | a, n + 1 =>
    match s.anyNat (.code t.uid) t.ctx .fetch a 4 with
    | .error c => .error c
    | .ok w => (State.codeWords s t (a + 4) n).map (fun ws => w :: ws)

/-- The words of a record, where they are well formed. -/
def parseLive (acctiles : Nat) (ws : List Nat) : Option Live :=
  let h := nth 0 ws 0
  let nt := bitsNat h 15 8
  let np := bitsNat h 7 0
  let ts := (ws.drop 16).take nt
  let ps := (ws.drop (16 + nt)).take np
  let ok := bitsNat h 31 25 == 0x7F && bitsNat h 24 16 == 0 && decide (nt ≤ 32) && decide (np ≤ 64) && nth 0 ws 15 == 0
    && ts.all (fun x => x / 2 ^ 20 == 0 && decide (1 ≤ bitsNat x 19 10) && decide (bitsNat x 9 0 + bitsNat x 19 10 ≤ acctiles))
    && ps.all (fun x => x / 2 ^ 23 == 0 && decide (1 ≤ bitsNat x 22 11) && decide (bitsNat x 10 0 + bitsNat x 22 11 ≤ 2048))
  let num (xs : List Nat) : Nat := xs.foldr (fun w acc => w + 2 ^ 32 * acc) 0
  if ok then
    some { vmap := num ((ws.drop 1).take 12), smap := num ((ws.drop 13).take 2),
           tiles := ts.map (fun x => (bitsNat x 9 0, bitsNat x 19 10)), pages := ps.map (fun x => (bitsNat x 10 0, bitsNat x 22 11)) }
  else none

/-- A record as a team's code holds it; none where it is malformed (R355); an error says what is still to be read from another
package. -/
def State.liveAt (s : State) (t : Team) (rec_ : Word) : Except Nat (Option Live) :=
  let a := rec_.toNat
  let inside (k : Kernel) (n : Nat) : Bool := decide (k.sbase.toNat ≤ a) && decide (a + n ≤ k.sbase.toNat + k.ssize)
  let within (n : Nat) : Bool := inside t.kern n || (match t.hkern with | some k => inside k n | none => false)
  let bad (c : Nat) : Except Nat (Option Live) := if isAwait c then .error c else .ok none
  if !within 64 then .ok none
  else match s.codeWords t a 1 with
    | .error c => bad c
    | .ok h =>
      let n := 16 + bitsNat (nth 0 h 0) 15 8 + bitsNat (nth 0 h 0) 7 0
      if !within (4 * n) then .ok none
      else match s.codeWords t a n with
        | .error c => bad c
        | .ok ws => .ok (parseLive t.acctiles ws)

/-- The records of a team that are current (R357): the one its scalar stream named last, and those of the regions whose blocks
are queued or run. -/
def Team.liveRecs (t : Team) : List (Option Word) :=
  let blocks := t.queue ++ t.block.toList ++ (match t.userWork with | some w => w.queue ++ w.block.toList | none => [])
  t.liveRec :: blocks.map Block.rec_

/-- What two records name. -/
def Live.join (a b : Live) : Live :=
  { vmap := a.vmap ||| b.vmap, smap := a.smap ||| b.smap, tiles := a.tiles ++ b.tiles, pages := a.pages ++ b.pages }

/-- What the current records of a team name; none where a region passed no PHINT or a record is malformed (R355, R357). -/
def State.liveOf (s : State) (t : Team) : Option Live :=
  t.liveRecs.foldr (fun r acc => match acc, r.map (s.liveAt t) with
    | some a, some (.ok (some b)) => some (a.join b)
    | _, _ => none) (some { vmap := 0, smap := 0, tiles := [], pages := [] })

/-- What is still to be read from another package before a team can be saved. -/
def State.liveUnread (s : State) (t : Team) : Option Nat :=
  t.liveRecs.findSome? (fun r => match r.map (s.liveAt t) with
    | some (.error c) => some c
    | _ => none)

/-! ### The save (R358, R354) -/

/-- The zero rule for a lane. -/
def Live.lane (v : Live) (x : Lane) : Lane :=
  { x with
    regs := (x.regs.zip (upTo 0 x.regs.length)).map (fun r => if bitAt v.vmap r.2 then r.1 else 0),
    bad := x.bad.filter (bitAt v.vmap), soft := x.soft.filter (bitAt v.vmap) }

/-- A page of the focused team saved, or dropped: its frame is freed. -/
def State.savePage (s : State) (named : Bool) (p : Nat) (e : Stt) : State :=
  let t := s.cur
  let fr := Config.frameNo t.sett (if e.st = 3 then e.rcore else t.core) e.frame
  let back := Config.backKey t.uid p 0
  let held := e.st == 0 || e.st == 3
  let frames := if held then FMap.erase s.frames fr else s.frames
  if named then
    let mem := if e.st = 3 ∨ (e.st = 0 ∧ e.dirty) then s.mem.copy (Config.frameKey fr 0) back 4096 else s.mem
    let e' : Stt := if held then { we := e.we, st := 1, frame := 0, rcore := 0, dirty := false } else e
    { s with mem := mem, frames := frames, cur := { t with stt := FMap.set t.stt p e' } }
  else
    { s with mem := s.mem.clear back 4096, frames := frames,
             cur := { t with stt := FMap.set t.stt p { we := e.we, st := 2, frame := 0, rcore := 0, dirty := false } } }

/-- The focused team as it is saved. -/
def State.saveTeam (s : State) : State :=
  let live := s.liveOf s.cur
  let s := s.cur.stt.foldl (fun s x => s.savePage (match live with | some v => inRanges v.pages x.1 | none => true) x.1 x.2) s
  let t := { s.cur with wait := s.cur.wait.filter Wait.kept, sent := [], replies := [] }
  { s with cur := match live with
      | none => t
      | some v => { t with
          lanes := t.lanes.map v.lane, sregs := Vector.ofFn (fun (i : Fin 64) => if bitAt v.smap i.val then t.sregs[i] else 0),
          acc := t.acc.filter (fun x => inRanges v.tiles (x.1 / 128)) } }

/-- Where a saved byte of a gang's cluster memory stands. -/
def saveKeyC (gang o : Nat) : Nat := gang * 2 ^ 30 + o
/-- Where a saved byte of a grid's chip scratchpad in a sett stands. -/
def saveKeyK (grid sett o : Nat) : Nat := 2 ^ 200 + (grid * 48 + sett) * 2 ^ 30 + o

/-- The pages of a gang's cluster memory: where a page begins, and its offset. -/
def State.clusterPages (s : State) (t : Team) : List (Nat × Nat) :=
  (upTo 0 (t.cmsize / 4096)).map (fun i => (Config.frameKey (s.clusterFrame t (4096 * i)) 0, 4096 * i))

/-- A piece of storage moved to a context's save region. -/
def State.saveMem (s : State) (ctx a b n : Nat) : State :=
  let xs := s.mem.slice a n
  let s := s.setCtx ctx (fun c => { c with savedMem := c.savedMem.putSlice xs a b })
  { s with mem := s.mem.clear a n }

/-- A piece of storage brought back from a context's save region. -/
def State.loadMem (s : State) (ctx a b n : Nat) : State :=
  match s.ctx? ctx with
  | none => s
  | some c => { s with mem := (s.mem.clear b n).putSlice (c.savedMem.slice a n) a b }

/-- The running teams of a context. -/
def State.running (s : State) (ctx : Nat) : List Team := s.teams.filter (fun t => t.ctx == ctx && t.status == .running)

/-- One team for each gang. -/
def gangHeads (ts : List Team) : List Team :=
  (sortNat (ts.map Team.gangKey)).filterMap (fun k => ts.find? (fun t => t.gangKey == k))

/-- A gang's cluster memory saved and freed. -/
def State.saveGang (s : State) (t : Team) : State :=
  let s := (s.clusterPages t).foldl (fun s x => s.saveMem t.ctx x.1 (saveKeyC t.gangKey x.2) 4096) s
  s.setSett t.sett (fun x => { x with
    calloc := x.calloc.filter (fun a => a.2.2.2 != t.gangKey), clusterIdle := FMap.set x.clusterIdle t.ccluster s.gtc })

/-- A grid's chip scratchpad saved and freed; its record keeps the setts it lies in. -/
def State.saveChip (s : State) (g : Grid) : State :=
  let n := 4096 * g.pkt.ksppages
  let s := g.kbase.foldl (fun s x => s.saveMem g.ctx (Config.chipKey x.1 x.2) (saveKeyK g.id x.1 0) n) s
  { s with setts := s.setts.map (fun x => (x.1, { x.2 with kalloc := x.2.kalloc.filter (fun a => a.2.2 != g.id) })) }

/-- The grids of a context. -/
def State.gridsOf (s : State) (ctx : Nat) : List Grid := (s.grids.filter (fun x => x.2.ctx == ctx)).map Prod.snd

/-- SAVE (R353, R358): once the context has drained, its teams leave the cores. -/
def execSave (ctx : Nat) (s : State) : Out :=
  .next (match s.ctx? ctx with
    | none => s
    | some c =>
      if !c.cut || c.saved.isSome || !s.drained ctx then s
      else match (s.running ctx).findSome? (fun t => (s.liveUnread t).map (fun n => (t.uid, n))) with
      | some (u, n) => s.askFar (.code u) n
      | none =>
        let uids := (s.running ctx).map Team.uid
        let s := uids.foldl (fun s u => s.onTeam u State.saveTeam) s
        let teams := s.running ctx
        let s := (gangHeads teams).foldl State.saveGang s
        let s := (s.gridsOf ctx).foldl State.saveChip s
        let s := s.setCtx ctx (fun c => { c with saved := some teams })
        { s with others := s.others.filter (fun t => !uids.contains t.uid),
                 cur := if uids.contains s.cur.uid ∧ s.cur.status ≠ .absent then Team.launch else s.cur })

/-! ### The restore (R359, R360) -/

/-- The units a saved team may go to in a cluster (R359): the one it had where it holds or awaits a span, else a pair or a
core as it had. -/
def restoreUnits (cores : List Nat) (t : Team) : List (List Nat) :=
  let unit (c : Nat) : List Nat := if t.pair then [c, pairOf c] else [c]
  ((if t.span.isSome then [t.core] else cores).filter (fun c => cores.contains c && (!t.pair || c % 2 == 0))).map unit

/-- Units for the teams of a gang, each the one with the most free register bytes (log entry 52). -/
def planRestore (s : State) (sett : Nat) (cores : List Nat) : List Team → FMap Room → Option (List (List Nat))
  | [], _ => some []
  | t :: ts, used =>
    let best := ((restoreUnits cores t).filter (s.unitFits sett t.kern t.acctiles used)).foldl (fun (acc : Option (List Nat)) u =>
      match acc with
      | some v => if s.freeRegs sett used v < s.freeRegs sett used u then some u else acc
      | none => some u) none
    match best with
    | none => none
    | some u => (planRestore s sett cores ts (takeUnit t.kern t.acctiles used u)).map (fun us => u :: us)

/-- A cluster for a gang: its number, its units and the base of its cluster memory. -/
def State.planHome (s : State) (h : Team) (ts : List Team) : Option (Nat × List (List Nat) × Nat) :=
  (clustersOf (s.gridRows h.sett)).findSome? (fun cl =>
    let cores := clusterCores (s.gridRows h.sett) cl
    let used : FMap Room := cores.map (fun c => (c, s.roomUsed h.sett c none))
    let base := if h.cmsize = 0 then some 0 else firstFit (s.clusterBytes h.sett cl) h.cmsize 0 ((s.sett h.sett).runsIn cl)
    match planRestore s h.sett cores ts used, base with
    | some us, some b => some (cl, us, b)
    | _, _ => none)

/-- A saved team on its new unit. -/
def Team.placedAt (t : Team) (now cl base : Nat) (u : List Nat) : Team :=
  { t with core := u.headD 0, ccluster := cl, cbase := base, placed := now }

/-- A gang brought back to a cluster: its teams, its cluster memory, and the L1s it comes to discarded (R239). -/
def State.restoreGang (s : State) (h : Team) (ts : List Team) (cl base : Nat) (us : List (List Nat)) : State :=
  let placed := ((ts.zip us).zip (upTo s.tick ts.length)).map (fun x => x.1.1.placedAt x.2 cl base x.1.2)
  let s : State := { s with tick := s.tick + ts.length }
  let s := s.setSett h.sett (fun x => { x with
    calloc := if h.cmsize = 0 then x.calloc else x.calloc ++ [(cl, base, h.cmsize, h.gangKey)], clusterIdle := FMap.erase x.clusterIdle cl })
  let s := (us.flatten).foldl (fun s c => s.l1Discard h.sett c) s
  let s := (s.clusterPages (h.placedAt 0 cl base [])).foldl (fun s x => s.loadMem h.ctx (saveKeyC h.gangKey x.2) x.1 4096) s
  { s with others := placed.foldl (fun acc t => insertTeam t acc) s.others }

/-- Gangs brought back one after another, with the clusters they go to; none where one finds no room. -/
def restoreGangs (all : List Team) : List Team → State → Option (List (Nat × Nat) × State)
  | [], s => some ([], s)
  | h :: hs, s =>
    let ts := all.filter (fun t => t.gangKey == h.gangKey)
    match s.planHome h ts with
    | none => none
    | some (cl, us, b) => (restoreGangs all hs (s.restoreGang h ts cl b us)).map (fun r => ((h.sett, cl) :: r.1, r.2))

/-- Chip scratchpads brought back; none where a sett has no free run. -/
def restoreChips : List Grid → State → Option State
  | [], s => some s
  | g :: gs, s =>
    if g.kbase.isEmpty then restoreChips gs s
    else
      let n := 4096 * g.pkt.ksppages
      match allocChip g.id n (g.kbase.map Prod.fst) s with
      | none => none
      | some (m, s) =>
        let s := m.foldl (fun s x => s.loadMem g.ctx (saveKeyK g.id x.1 0) (Config.chipKey x.1 x.2) n) s
        restoreChips gs (s.setGrid g.id (fun g => { g with kbase := m }))

/-- A restored team takes up its waits afresh (R354): events posted meanwhile, pages and lines, and dark circuits. -/
def State.resume (s : State) (ctx : Nat) : State :=
  let waits := match s.ctx? ctx with | some c => c.retiring s.cur.uid | none => false
  let s : State := { s with cur := { s.cur with evWait := waits } }
  let s := s.reparkAll.lightPaths
  if s.cur.userWork.isSome then s.onUserWork (fun s => s.reparkAll.lightPaths) else s

/-- The armed entries of a context tested against their counters (R353). -/
def State.testEntries (s : State) (ctx : Nat) : State :=
  { s with setts := s.setts.map (fun x =>
      (x.1, { x.2 with entries := x.2.counters.foldl (fun es c => fireEntries (fun i => i == ctx) c.1 c.2.value es) x.2.entries })) }

/-- Entries of a completion ring. -/
def State.complEntries (s : State) (ctx : Nat) : Nat :=
  match (s.ctx? ctx).bind Context.complq with
  | some r => 2 ^ r.log2
  | none => 0

/-- RESTORE (R359, R360): 0x07 where no stop was requested, 0x08 before the save or without room. A cluster that is
powered down is woken first (R442). -/
def execRestore (s : State) : Out :=
  .next (if s.bringup < 8 then s.hostDone 8
    else if s.hcmd.params.any (fun w => w != 0) then s.hostDone 7
    else match s.ctx? s.hcmd.ctx with
    | none => s.hostDone 7
    | some c =>
      let id := s.hcmd.ctx
      match c.stopAt, c.saved with
      | none, _ => s.hostDone 7
      | some _, none => s.hostDone 8
      | some _, some ts =>
        match restoreGangs ts (gangHeads ts) s with
        | none => s.hostDone 8
        | some (homes, r) =>
          let off := homes.filter (fun h => (s.sett h.1).clusterOff.contains h.2)
          if !off.isEmpty then off.foldl (fun s h => (s.wakeCluster h.1 h.2 0 (0x210 + s.hcmd.site)).2) s
          else match restoreChips (s.gridsOf id) r with
          | none => s.hostDone 8
          | some r =>
            let r := r.setCtx id (fun c => { c with saved := none, savedMem := [], cut := false, stopAt := none })
            let r : State := { r with groups := r.groups.map (fun x => (x.1, ({ x.2 with since := if x.2.ctx = id then r.gtc else x.2.since } : Group))) }
            let r := takeCompletions id (r.complEntries id) r
            let r := ts.foldl (fun r t => r.onTeam t.uid (fun r => r.resolvePending.resume id)) r
            (r.testEntries id).hostDone 1)

end Sys2Proof.Machine
end

