-- ==== Sys2Proof/Machine/Collective.lean ====
section
/-!
DEFINITION. Collective groups and their runs (R412 to R421): registration, the chains of the supervisor, commits, losses,
recovery and aborts; and the completion of the entries of a collective engine (R292, R296), those of a chain included.
-/

namespace Sys2Proof.Machine

/-! ### Status words (R416) -/

/-- The STATUS value. -/
def RunStatus.code : RunStatus → Nat
  | .idle => 0 | .running => 1 | .paused => 2 | .complete => 3 | .aborted => 4 | .memberLost => 5

/-- A status that no later step of the run changes. -/
def RunStatus.final : RunStatus → Bool
  | .complete | .aborted | .memberLost => true
  | _ => false

/-- No position. -/
def Position.none : Position :=
  { sett := 0, pkg := 0, ctr := 0, peer := 0, input := 0, output := 0, status := 0, mirror := 0, st := .idle, applied := false,
    due := false, used := false, base := 0, step := 0, out := false }

/-- Position `p` of a group. -/
def Group.pos (g : Group) (p : Nat) : Position := nth Position.none g.positions p

/-- The positions of a run, without the spares. -/
def Group.active (g : Group) : List Position := g.positions.take g.n

/-- A group changed. -/
def State.setGroup (s : State) (gid : Nat) (f : Group → Group) : State := { s with groups := FMap.modify s.groups gid f }

/-- A position of a group changed. -/
def Group.setPos (g : Group) (p : Nat) (f : Position → Position) : Group := { g with positions := setNth g.positions p (f (g.pos p)) }

/-- The run's positions changed. -/
def Group.mapActive (g : Group) (f : Position → Position) : Group := { g with positions := g.active.map f ++ g.positions.drop g.n }

/-- A status word. -/
def Group.word (g : Group) (st : RunStatus) : List Byte := bytesOf 8 (st.code + g.run % 2 ^ 16 * 2 ^ 16 + g.chunk * 2 ^ 32)

/-- A status word written. -/
def State.putStatus (s : State) (g : Group) (a : Word) (st : RunStatus) : State := (s.cleWrite g.ctx a.toNat 0 (g.word st)).2

/-- A status given to the run, to every position whose status is not final, and to their words. -/
def State.toStatus (s : State) (gid : Nat) (st : RunStatus) : State :=
  match FMap.get? s.groups gid with
  | none => s
  | some g =>
    let s := (g.active.filter (fun p => !p.st.final)).foldl (fun s p => s.putStatus g p.status st) s
    (s.putStatus g g.ostatus st).setGroup gid (fun g =>
      { (g.mapActive (fun p => if p.st.final then p else { p with st := st })) with st := st })

/-- 1 added to CTR + 3 of a position: a release at scope DOMAIN. -/
def State.tellEnd (s : State) (g : Group) (p : Position) : State :=
  if p.pkg = s.ownPkg then s.increment g.ctx p.sett (p.ctr + 3) 1
  else s.sendCtl s.gtcSett p.pkg p.sett (.increment g.ctx (p.ctr + 3) 1)

/-! ### Registration (R412) -/

/-- S: the bytes of a segment (R413). -/
def Group.segBytes (g : Group) : Nat := g.chunks * g.chunkLen
/-- Bytes of an input. -/
def Group.inBytes (g : Group) : Nat := if g.kind = 2 then g.segBytes else g.n * g.segBytes
/-- Bytes of an output. -/
def Group.outBytes (g : Group) : Nat := if g.kind = 1 then g.segBytes else g.n * g.segBytes

/-- The checks of R191 and R212 of a range for a context, PKR being zero, page by page at its owner (R412). -/
def State.extentPages (s : State) (ctx a n : Nat) (k : Kind) : List (Except Nat Unit) :=
  (upTo (a / 0x10000) ((a + n + 0xFFFF) / 0x10000 - a / 0x10000)).map (fun p => s.devOk (.host s.hcmd.site) ctx (max a (p * 0x10000)) k)

/-- A range passes R191 and R212. -/
def State.extentOk (s : State) (ctx a n : Nat) (k : Kind) : Bool :=
  globalOk a && decide (a % 2 ^ 48 + n ≤ 2 ^ 48) && s.inDomain (bitsNat a 59 54) && (allOk (s.extentPages ctx a n k)).isOk

/-- A position entry. -/
def parsePosition (bs : List Byte) : Position :=
  let w (a : Nat) : Word := BitVec.ofNat 64 (fieldAt bs a 8)
  { Position.none with
    sett := fieldAt bs 0 1, pkg := fieldAt bs 1 1, ctr := fieldAt bs 2 2, peer := fieldAt bs 4 2, input := w 8, output := w 16,
    status := w 24, mirror := w 32 }

/-- A group as its structure's bytes give it. -/
def parseGroup (ctx : Nat) (addr : Word) (bs : List Byte) : Group :=
  let n := fieldAt bs 0 2
  let m := fieldAt bs 5 1
  let r := fieldAt bs 6 1
  { ctx := ctx, addr := addr, n := n, kind := fieldAt bs 4 1, resilient := bitAt m 0, mxt := bitAt m 1, rop := bitsNat r 2 0,
    fmt := bitsNat r 5 3, chunks := fieldAt bs 8 4, chunkLen := fieldAt bs 12 4, deadline := fieldAt bs 16 4,
    ostatus := BitVec.ofNat 64 (fieldAt bs 24 8),
    positions := (upTo 0 (n + fieldAt bs 2 2)).map (fun i => parsePosition (bs.drop (64 + 48 * i))),
    run := 0, st := .idle, chunk := 0, since := 0, phase := 0, part := [], lost := none, more := [], aborting := false }

/-- The table of R412 for the header. -/
def headerOk (g : Group) (bs : List Byte) : Bool :=
  decide (2 ≤ g.n) && decide (g.n ≤ 4096) && decide (fieldAt bs 2 2 ≤ 64) && (g.resilient || fieldAt bs 2 2 == 0) && decide (g.kind ≤ 2)
    && decide (fieldAt bs 5 1 < 4) && decide (fieldAt bs 6 1 < 64) && (g.kind == 2 || (decide (g.rop ≤ 2) && decide (g.fmt ≤ 3)))
    && (!g.mxt || (g.kind != 2 && g.rop == 0 && g.fmt == 0)) && fieldAt bs 7 1 == 0
    && decide (1 ≤ g.chunks) && decide (g.chunks ≤ 65536) && g.chunkLen % 128 == 0 && decide (128 ≤ g.chunkLen)
    && decide (g.chunkLen ≤ 2 ^ 24) && decide (1000 ≤ g.deadline) && fieldAt bs 20 4 == 0 && fieldAt bs 32 8 == 0
    && fieldAt bs 40 8 == 0 && fieldAt bs 48 8 == 0 && fieldAt bs 56 8 == 0 && g.ostatus.toNat % 8 == 0

/-- The table of R412 for an entry. -/
def State.positionOk (s : State) (ctx : Nat) (c : Context) (g : Group) (bs : List Byte) (p : Position) : Bool :=
  decide (p.sett < 48) && decide (p.pkg < 64) && (p.pkg != s.ownPkg || c.setts.contains p.sett) && decide (p.ctr + 3 < c.cntCount)
    && fieldAt bs 6 2 == 0 && fieldAt bs 40 8 == 0 && p.status.toNat % 8 == 0
    && s.extentOk ctx p.input.toNat g.inBytes .load && s.extentOk ctx p.output.toNat g.outBytes .store
    && s.extentOk ctx p.status.toNat 8 .store
    && (!g.resilient || (s.extentOk ctx p.mirror.toNat g.inBytes .store && s.extentOk ctx p.mirror.toNat g.inBytes .load))

/-- The ranges a group names. -/
def Group.extents (g : Group) : List (Nat × Nat × Kind) :=
  (g.ostatus.toNat, 8, .store) :: g.positions.flatMap (fun p =>
    [(p.input.toNat, g.inBytes, Kind.load), (p.output.toNat, g.outBytes, .store), (p.status.toNat, 8, .store)]
      ++ (if g.resilient then [(p.mirror.toNat, g.inBytes, .store), (p.mirror.toNat, g.inBytes, .load)] else []))

/-- A check of a group's ranges that another package has still to answer. -/
def State.extentsUnread (s : State) (ctx : Nat) (g : Group) : Option Nat :=
  g.extents.findSome? (fun x => (s.extentPages ctx x.1 x.2.1 x.2.2).findSome? (fun r => match r with
    | .error c => if isAwait c then some c else none
    | .ok _ => none))

/-- p to PEER is a permutation without fixed point (R412). -/
def peersOk (g : Group) : Bool :=
  !g.resilient || (decide ((sortNat (g.active.map Position.peer)).length = g.n)
    && (g.active.zip (upTo 0 g.n)).all (fun x => decide (x.1.peer < g.n) && x.1.peer != x.2))

/-- The value of a position's counter CTR; 0 in another package. -/
def State.readyCount (s : State) (ctx : Nat) (p : Position) : BitVec 32 :=
  match (if p.pkg = s.ownPkg then s.ctrNo ctx p.sett p.ctr else none) with
  | some no => (s.counter p.sett no).value
  | none => 0

/-- COLLECTIVE (R412): 0x07 where the structure or an address fails, 0x08 while a run of the same structure is under way. -/
def execCollective (s : State) : Out :=
  .next (s.ctxCommand 1 (fun id c s =>
    let addr := s.param 0
    match s.anyRead (.host s.hcmd.site) id .load addr 64 with
    | .error n => s.hostWait n 7
    | .ok hdr =>
      let n := fieldAt hdr 0 2 + fieldAt hdr 2 2
      if !headerOk (parseGroup id 0 hdr) hdr then (7, s)
      else match s.anyRead (.host s.hcmd.site) id .load addr (64 + 48 * n) with
      | .error n => s.hostWait n 7
      | .ok bs =>
        let g := parseGroup id (BitVec.ofNat 64 addr) bs
        let rows := g.positions.zip ((upTo 0 n).map (fun i => (bs.drop (64 + 48 * i)).take 48))
        match s.extentsUnread id g with
        | some c => s.hostWait c 7
        | none =>
        if !(rows.all (fun x => s.positionOk id c g x.2 x.1) && peersOk g && s.extentOk id g.ostatus.toNat 8 .store) then (7, s)
        else
          let old := s.groups.filter (fun x => x.2.ctx == id && x.2.addr == g.addr)
          if old.any (fun x => x.2.st.live) then (8, s)
          else
            let g := { g with positions := g.positions.map (fun (p : Position) => { p with base := s.readyCount id p }) }
            let gid := match old with | x :: _ => x.1 | [] => FMap.free s.groups 1 s.groups.length
            (1, { s with groups := FMap.set s.groups gid g })))

/-! ### Chains (R414, R415) -/

/-- What an entry of a chain does for a position: a copy of its input to its mirror; its step of the ring with a number;
the chunk's results written to its output; and in a recovery the copies of its input, of a chunk of a segment of the
outputs, and the computing afresh of a chunk (R419). -/
inductive Link1 where
  | mirror | ring (i : Nat) | out | input | output (seg k : Nat) | redo (k : Nat)
  deriving DecidableEq, Repr

/-- An entry's bytes in a chain. -/
def Link1.bytes (p : Nat) : Link1 → List Byte
  | .mirror => bytesOf 1 0 ++ bytesOf 2 p
  | .ring i => bytesOf 1 1 ++ bytesOf 2 p ++ bytesOf 4 i
  | .out => bytesOf 1 2 ++ bytesOf 2 p
  | .input => bytesOf 1 3 ++ bytesOf 2 p
  | .output seg k => bytesOf 1 4 ++ bytesOf 2 p ++ bytesOf 4 seg ++ bytesOf 4 k
  | .redo k => bytesOf 1 5 ++ bytesOf 2 p ++ bytesOf 4 k

/-- The step of an entry of a chain. -/
def Entry.link (e : Entry) : Link1 :=
  match fieldAt e.bytes 0 1 with
  | 0 => .mirror
  | 1 => .ring (fieldAt e.bytes 3 4)
  | 2 => .out
  | 3 => .input
  | 4 => .output (fieldAt e.bytes 3 4) (fieldAt e.bytes 7 4)
  | _ => .redo (fieldAt e.bytes 3 4)

/-- The position of an entry of a chain. -/
def Entry.pos (e : Entry) : Nat := fieldAt e.bytes 1 2

/-- Which of the chain counters of a position an entry is armed on: CTR + 2 for the results, CTR + 1 for what comes before them
(DESIGN CHOICE, log entry 120). -/
def Link1.counter (x : Link1) (p : Position) : Nat := p.ctr + (match x with | .out => 2 | _ => 1)

/-- An entry of a chain armed at its position's sett on a counter of the chains (R412, R415): it takes a place of the context,
or waits for one (R290). One at a sett of another package stands there. -/
def State.addLink (s : State) (gid : Nat) (g : Group) (x : Nat × Link1) : State :=
  let p := g.pos x.1
  let here := p.pkg == s.ownPkg
  let no := if here then (s.ctrNo g.ctx p.sett (x.2.counter p)).getD 0 else 0
  let e : Entry := { id := s.tick, ctx := g.ctx, bytes := x.2.bytes x.1, pkr := 0, gen := (s.counter p.sett no).gen, ctr := no,
                     waitBlocks := none, fired := false, grid := 0, group := some gid, armed := !here || s.placeFree g.ctx p.sett }
  let s : State := { s with tick := s.tick + 1 }
  if here then s.setSett p.sett (fun y => { y with entries := y.entries ++ [e] })
  else s.setGroup gid (fun g => { g with away := g.away ++ [e] })

/-- Entries of chains armed. -/
def State.addLinks (s : State) (gid : Nat) (g : Group) (xs : List (Nat × Link1)) : State := xs.foldl (fun s x => s.addLink gid g x) s

/-- The entries of a group's chains, wherever they stand. -/
def State.links_ (s : State) (gid : Nat) : List Entry :=
  s.setts.flatMap (fun x => x.2.entries.filter (fun e => e.group == some gid))
    ++ (match FMap.get? s.groups gid with | some g => g.away | none => [])

/-- Entries of a group are under way. -/
def State.linked (s : State) (gid : Nat) : Bool := !(s.links_ gid).isEmpty

/-- The segment of position `p` in step `i` of the ring (R414): p = s + i modulo N. -/
def Group.seg (g : Group) (p i : Nat) : Nat := (p + g.n - i % g.n) % g.n

/-- Where chunk `k` of segment `seg` lies in an output. -/
def Group.outAt (g : Group) (seg k : Nat) : Nat := (if g.kind = 1 then 0 else seg * g.segBytes) + k * g.chunkLen

/-- The chains of chunk `k` armed, at every position. -/
def State.armChunk (s : State) (gid : Nat) : State :=
  let s := s.setGroup gid (fun g => { (g.mapActive (fun p => { p with step := 0, out := false })) with part := [], phase := 1 })
  match FMap.get? s.groups gid with
  | none => s
  | some g => s.addLinks gid g ((upTo 0 g.n).map (fun p => (p, if g.kind = 2 then Link1.out else Link1.ring 1)))

/-- An entry of a chain may fire: the step of the ring before it has completed (R415). -/
def Group.linkReady (g : Group) (p : Nat) : Link1 → Bool
  | .ring i => decide (i ≤ 1) || decide (i - 1 ≤ (g.pos ((p + g.n - 1) % g.n)).step)
  | _ => true

/-- Fields of an entry that copies. -/
def copyFields (src dst len : Nat) : EntryFields :=
  { kind := 0, rop := 0, fmt := 0, mxt := false, imm := false, remote := false, trig := 0, thresh := 0, cctr := 0, csett := 0, cpkg := 0,
    src := src, dst := dst, len := len, inc := 1, recd := 0 }

/-- Fields of a step of R414. -/
def Group.stepFields (g : Group) (src : Nat) : EntryFields :=
  { copyFields src src g.chunkLen with kind := 1, rop := g.rop, fmt := g.fmt, mxt := g.mxt }

/-- One step of R414: the partial result taken on by the bytes of a position. -/
def Group.step (g : Group) (i : Nat) (x part : List Byte) : List Byte :=
  if i ≤ 1 then x else (reduceBytes (g.stepFields 0) x part).1

/-- What a step comes to. -/
inductive Done where
  | wait
  | sent (s : State)
  | failed (s : State)
  | ok (g : Group) (s : State)

/-- A copy of an entry of a chain. -/
def State.linkCopy (s : State) (sett : Nat) (e : Entry) (g : Group) (src dst len : Nat) (ext : List Answer) : Done :=
  match (if e.sent then some ([], 0, s) else s.cleSource e sett (copyFields src dst len) ext) with
  | none => .wait
  | some (bs, c, s) => match s.cleApply e sett (copyFields src dst len) bs c ext with
    | .wait => .wait
    | .sent _ s => .sent s
    | .failed _ _ s => .failed s
    | .done _ _ s => .ok g s

/-- A position's step of the ring for the chunk under way (R414): class 12 counts its elements (R443). -/
def State.linkRing (s : State) (sett : Nat) (e : Entry) (g : Group) (p i : Nat) (ext : List Answer) : Done :=
  let seg := g.seg p i
  let src := (g.pos p).input.toNat + seg * g.segBytes + g.chunk * g.chunkLen
  match s.cleSource e sett (copyFields src src g.chunkLen) ext with
  | none => .wait
  | some (bs, c, s) =>
    if c ≠ 0 then .failed s
    else
      let g := { (g.setPos p (fun x => { x with step := i })) with part := FMap.set g.part seg (g.step i bs (FMap.getD g.part seg [])) }
      .ok g (if 1 < i then s.count g.ctx sett 12 (g.chunkLen / fmtBytes g.fmt) else s)

/-- Results written to an output, one segment after another; once some are sent to another package, its acknowledgement is
awaited. -/
def linkWrites (sett : Nat) (e : Entry) (g : Group) (ext : List Answer) : List (Nat × List Byte) → State → Done
  | [], s => .ok g s
  | (a, bs) :: xs, s =>
    match s.cleApply e sett (copyFields a a bs.length) bs 0 ext with
    | .wait => .wait
    | .sent _ s => (match linkWrites sett e g ext xs s with
      | .ok _ s => .sent s
      | d => d)
    | .failed _ _ s => .failed s
    | .done _ _ s => linkWrites sett e g ext xs s

/-- The chunk of every input, for ALLGATHER; answers of other packages are numbered 2 + position. -/
def gatherAll (sett : Nat) (e : Entry) (g : Group) (k : Nat) (ext : List Answer) (src : Nat → Nat) : List Nat → State → Option (List (Nat × List Byte) × Nat × State)
  | [], s => some ([], 0, s)
  | p :: ps, s =>
    let mine := (ext.filter (fun x => x.lane == p + 2)).map (fun (x : Answer) => { x with lane := 0 })
    match s.cleSource e sett (copyFields (src p) (src p) g.chunkLen) mine with
    | none => none
    | some (bs, c, s) =>
      (gatherAll sett e g k ext src ps s).map (fun r => ((p, bs) :: r.1, if c ≠ 0 then c else r.2.1, r.2.2))

/-- The results of the chunk under way written to a position's output (R413). -/
def State.linkOut (s : State) (sett : Nat) (e : Entry) (g : Group) (p : Nat) (ext : List Answer) : Done :=
  let at_ (seg : Nat) : Nat := (g.pos p).output.toNat + g.outAt seg g.chunk
  let fin (d : Done) : Done := match d with
    | .ok g s => .ok (g.setPos p (fun x => { x with out := true })) s
    | d => d
  if e.sent then fin (linkWrites sett e g ext ((upTo 0 (if g.kind = 1 then 1 else g.n)).map (fun seg => (at_ (if g.kind = 1 then p else seg), []))) s)
  else if g.kind = 2 then
    match gatherAll sett e g g.chunk ext (fun q => (g.pos q).input.toNat + g.chunk * g.chunkLen) (upTo 0 g.n) s with
    | none => .wait
    | some (xs, c, s) => if c ≠ 0 then .failed s else fin (linkWrites sett e g ext (xs.map (fun x => (at_ x.1, x.2))) s)
  else if g.kind = 1 then fin (linkWrites sett e g ext [(at_ p, FMap.getD g.part p [])] s)
  else fin (linkWrites sett e g ext ((upTo 0 g.n).map (fun seg => (at_ seg, FMap.getD g.part seg []))) s)

/-- A committed chunk of a new position of a REDUCESCATTER computed afresh (R419). -/
def State.linkRedo (s : State) (sett : Nat) (e : Entry) (g : Group) (p k : Nat) (ext : List Answer) : Done :=
  let order := (upTo 1 g.n).map (fun i => (p + i) % g.n)
  if e.sent then linkWrites sett e g ext [((g.pos p).output.toNat + k * g.chunkLen, [])] s
  else match gatherAll sett e g k ext (fun q => (g.pos q).input.toNat + p * g.segBytes + k * g.chunkLen) order s with
  | none => .wait
  | some (xs, c, s) =>
    if c ≠ 0 then .failed s
    else
      let r := xs.foldl (fun (acc : Nat × List Byte) x => (acc.1 + 1, g.step acc.1 x.2 acc.2)) (1, [])
      linkWrites sett e g ext [((g.pos p).output.toNat + k * g.chunkLen, r.2)] s

/-- The lowest-numbered position that a recovery of `p` copies from. -/
def Group.donor (g : Group) (p : Nat) : Nat := ((upTo 0 g.n).find? (fun q => q != p && !g.more.contains q)).getD 0

/-- The sources of an entry of a chain. -/
def Group.linkSources (g : Group) (p : Nat) : Link1 → List (Nat × Nat)
  | .mirror => [((g.pos p).input.toNat, g.inBytes)]
  | .ring i => [((g.pos p).input.toNat + g.seg p i * g.segBytes + g.chunk * g.chunkLen, g.chunkLen)]
  | .out => if g.kind = 2 then (upTo 0 g.n).map (fun q => ((g.pos q).input.toNat + g.chunk * g.chunkLen, g.chunkLen)) else []
  | .input => [((g.pos (g.pos p).peer).mirror.toNat, g.inBytes)]
  | .output seg k => [((g.pos (g.donor p)).output.toNat + g.outAt seg k, g.chunkLen)]
  | .redo k => (upTo 0 g.n).map (fun q => ((g.pos q).input.toNat + p * g.segBytes + k * g.chunkLen, g.chunkLen))

/-- The accesses of an entry of a chain. -/
def State.linkMove (s : State) (sett : Nat) (e : Entry) (g : Group) (ext : List Answer) : Done :=
  let p := e.pos
  let x := g.pos p
  match e.link with
  | .mirror => s.linkCopy sett e g x.input.toNat (g.pos x.peer).mirror.toNat g.inBytes ext
  | .ring i => s.linkRing sett e g p i ext
  | .out => s.linkOut sett e g p ext
  | .input => s.linkCopy sett e g (g.pos x.peer).mirror.toNat x.input.toNat g.inBytes ext
  | .output seg k =>
    s.linkCopy sett e g ((g.pos (g.donor p)).output.toNat + g.outAt seg k) (x.output.toNat + g.outAt seg k) g.chunkLen ext
  | .redo k => s.linkRedo sett e g p k ext

/-- The entries a new position needs beside its input (R419). -/
def Group.catchUp (g : Group) (p : Nat) : List (Nat × Link1) :=
  if g.kind = 1 then (upTo 0 g.chunk).map (fun k => (p, Link1.redo k))
  else (upTo 0 g.n).flatMap (fun seg => (upTo 0 g.chunk).map (fun k => (p, Link1.output seg k)))

/-- What follows an entry of a chain. -/
def State.linkNext (s : State) (gid : Nat) (g : Group) (p : Nat) : Link1 → State
  | .mirror => if s.linked gid then s else s.armChunk gid
  | .ring i =>
    if i < g.n then s.addLinks gid g [(p, Link1.ring (i + 1))]
    else if g.kind = 1 then s.addLinks gid g [(p, Link1.out)]
    else if g.active.all (fun x => x.step == g.n) then s.addLinks gid g ((upTo 0 g.n).map (fun q => (q, Link1.out))) else s
  | .out => s
  | .input => s.addLinks gid g (g.catchUp p)
  | .output _ _ => s
  | .redo _ => s

/-- An entry of a chain leaves. -/
def State.dropChained (s : State) (sett gid id : Nat) : State :=
  (s.dropEntry sett id).setGroup gid (fun g => { g with away := g.away.filter (fun e => e.id != id) })

/-- What an entry of a chain adds 1 to when it completes (log entry 120): a step of the ring to CTR + 1 of the position whose
step comes next, the others to CTR + 2 of their own. -/
def State.linkIncrement (s : State) (sett : Nat) (g : Group) (p : Nat) (x : Link1) : State :=
  let (q, k) : Position × Nat := match x with
    | .ring _ => (g.pos ((p + 1) % g.n), 1)
    | _ => (g.pos p, 2)
  if q.pkg = s.ownPkg then s.increment g.ctx q.sett (q.ctr + k) 1
  else s.sendCtl sett q.pkg q.sett (.increment g.ctx (q.ctr + k) 1)

/-- An entry of a chain completes, or fails with the event of R296. The entries at setts of other packages ask and send nothing
here: their answers say what they did. While a loss waits to be handled no entry of the run fires (R418, R419). -/
def State.linkComplete (s : State) (sett gid : Nat) (e : Entry) (ext : List Answer) (fail : Bool) : State :=
  match FMap.get? s.groups gid with
  | none => s.dropEntry sett e.id
  | some g =>
    let away := (g.pos e.pos).pkg != s.ownPkg
    let srcs := g.linkSources e.pos e.link
    let failed (s : State) : State :=
      (s.dropChained sett gid e.id).event g.ctx
        { kind := 3, code := 0, count := 0, team := 0, grid := 0, addr := 0, slot := 0, gen := 0, uid := lossMark gid e.pos }
    if s.halted g.ctx || !g.linkReady e.pos e.link || (!e.armed && !s.placeFree g.ctx sett)
        || (g.lost.isSome && g.phase != 2 && !e.sent) then s
    else
      let s := if e.armed then s else s.setEntry sett e.id (fun e => { e with armed := true })
      match (if away then none else s.askFrom sett e srcs) with
      | some u => if fail then failed s else u
      | none =>
        let e' : Entry := if away then
            { e with
              asked := srcs.map Prod.fst, sent := true }
          else e
        match s.linkMove sett e' g ext with
        | .wait => if fail then failed s else s
        | .sent s => s.setEntry sett e.id (fun e => { e with sent := true, at_ := s.gtc })
        | .failed s => failed s
        | .ok g' s' =>
          if fail then s
          else
            let s' := s'.setGroup gid (fun _ => g')
            ((s'.dropChained sett gid e.id).linkIncrement sett g' e.pos e.link).linkNext gid g' e.pos e.link

/-- An entry of a chain at a sett, in this package or another one. -/
def State.linkEntry (s : State) (sett id : Nat) : Option (Entry × Nat) :=
  match (s.sett sett).entries.find? (fun e => e.id == id) with
  | some e => e.group.map (fun g => (e, g))
  | none => s.groups.findSome? (fun x =>
      (x.2.away.find? (fun e => e.id == id && (x.2.pos e.pos).sett == sett)).map (fun e => (e, x.1)))

/-! ### Completion of entries (R292, R296) -/

/-- CLE_ENTRY_COMPLETE (R292, R415): a fired entry makes its accesses, writes its record and increments its counter; an
entry of a chain makes its step. -/
def execCleEntryComplete (sett entry : Nat) (ext : List Answer) (s : State) : Out :=
  .next (match s.linkEntry sett entry with
    | some (e, gid) => s.linkComplete sett gid e ext false
    | none => match s.firedEntry sett entry with
      | none => s
      | some e => match e.res with
        | some r => s.recordEntry sett e r ext
        | none => s.finishEntry sett e (s.cleMove sett e ext))

/-- CLE_ENTRY_FAULTED (R296): an access of a fired entry fails; of one that waits for another package, by the delivery
limit of R379. -/
def execCleEntryFaulted (sett entry : Nat) (s : State) : Out :=
  .next (match s.linkEntry sett entry with
    | some (e, gid) => s.linkComplete sett gid e [] true
    | none => match s.firedEntry sett entry with
      | none => s
      | some e =>
        let late := (e.sent || e.recSent || !e.asked.isEmpty) && decide (e.at_ + 100000 ≤ s.gtc)
        match e.res with
        | some r => if late then s.endEntry sett e r codeRemoteUnreach else s
        | none => match s.cleMove sett e [] with
          | .failed c fl s => s.faultEntry sett e c fl
          | .wait => if late then s.faultEntry sett e codeRemoteUnreach e.fl else s
          | _ => s)

/-! ### Runs (R415) -/

/-- A position's team has added 1 to CTR for the next run. Of a position in another package, whose counter stands there,
the event itself says so (log entry 53). -/
def State.positionReady (s : State) (g : Group) (p : Position) : Bool :=
  p.pkg != s.ownPkg || (let d := s.readyCount g.ctx p - p.base; d != 0 && notNeg (d - 1))

/-- COLLECTIVE_RUN_START (R415): every position is ready, and the statuses of the last run are final. -/
def execCollectiveRunStart (group : Nat) (s : State) : Out :=
  .next (match FMap.get? s.groups group with
    | none => s
    | some g =>
      if g.st.live || g.aborting || s.halted g.ctx || !g.active.all (s.positionReady g) then s
      else
        let s := s.setGroup group (fun g => { (g.mapActive (fun p => { p with
            base := p.base + 1, st := .idle, applied := false, due := false })) with
          run := g.run + 1, chunk := 0, since := s.gtc, phase := 0, lost := none, more := [] })
        let s := s.toStatus group .running
        if g.resilient then s.addLinks group g ((upTo 0 g.n).map (fun p => (p, Link1.mirror))) else s.armChunk group)

/-- The end of a commit: COMMITTED raised in every status word, and at the last chunk COMPLETE (R415). -/
def State.commit (s : State) (gid : Nat) : State :=
  let s := s.setGroup gid (fun g => { g with chunk := g.chunk + 1, since := s.gtc })
  match FMap.get? s.groups gid with
  | none => s
  | some g =>
    if g.chunk < g.chunks then (s.toStatus gid .running).armChunk gid
    else
      let open_ := g.active.filter (fun p => !p.st.final)
      let s := open_.foldl (fun s p => (s.putStatus g p.status .complete).tellEnd g p) s
      let s := (g.active.filter (fun p => p.st == .complete)).foldl (fun s p => s.putStatus g p.status .complete) s
      let s := if g.active.any (fun p => p.st == .aborted) then s else s.putStatus g g.ostatus .complete
      s.setGroup gid (fun g => { (g.mapActive (fun p => if p.st.final then p else { p with st := .complete })) with st := .complete })

/-- Positions that have received every write of the last chunk before its commit show COMPLETE (R420's example; DEDUCED, log
entry 85). -/
def State.completeEarly (s : State) (gid : Nat) (g : Group) : State :=
  let ready (p : Position) : Bool := p.out && !p.st.final
  let s := (g.active.filter ready).foldl (fun s p => (s.putStatus g p.status .complete).tellEnd g p) s
  s.setGroup gid (fun g => g.mapActive (fun p => if ready p then { p with st := .complete } else p))

/-- CHUNK_COMMIT (R415): every write of the chunk has been performed at every position. Of the last chunk, a step that comes
earlier completes the positions that it can. -/
def execChunkCommit (group : Nat) (s : State) : Out :=
  .next (match FMap.get? s.groups group with
    | none => s
    | some g =>
      if g.st != .running || g.phase != 1 || g.lost.isSome then s
      else if g.active.all Position.out && !s.linked group then s.commit group
      else if g.chunk + 1 = g.chunks ∧ !s.halted g.ctx then s.completeEarly group g
      else s)

/-! ### Losses and recovery (R417 to R419) -/

/-- An entry of the run that has fired is under way: its data are on their way to another package (R418). -/
def State.firedLink (s : State) (gid : Nat) : Bool := (s.links_ gid).any Entry.sent

/-- What remains of a run's chains cancelled: the generations of the chain counters of every position move on (R418), which
cancels what else is armed on them (R295). -/
def State.cancelRun (s : State) (gid : Nat) (g : Group) : State :=
  let s : State := { s with setts := s.setts.map (fun x => (x.1, { x.2 with entries := x.2.entries.filter (fun e => e.group != some gid) })) }
  let s := s.setGroup gid (fun g => { g with away := [] })
  g.active.foldl (fun s p =>
    if p.pkg ≠ s.ownPkg then s
    else [p.ctr + 1, p.ctr + 2].foldl (fun s i => match s.ctrNo g.ctx p.sett i with
      | some no => s.setCounter p.sett no (s.counter p.sett no).value
      | none => s) s) s

/-- The uncommitted chunks of a position's output take undefined values (R418, R420). -/
def State.scramble (s : State) (g : Group) (p : Position) : State :=
  let n := (g.chunks - g.chunk) * g.chunkLen
  let segs := if g.kind = 1 then [0] else upTo 0 g.n
  segs.foldl (fun s seg =>
    let a := p.output.toNat + g.outAt seg g.chunk
    match (if p.pkg = s.ownPkg then s.hostSpots g.ctx a n .store else none) with
    | some xs =>
      let (bs, s) := s.drawBytes n
      writeSpots [] xs bs s
    | none => s) s

/-- The lowest-numbered position whose own step, in the earliest step that is not complete everywhere, is not done
(R417). -/
def State.laggard (s : State) (gid : Nat) (g : Group) : Nat :=
  let ps := g.active.zip (upTo 0 g.n)
  let first (f : Position → Bool) : Nat := ((ps.find? (fun x => f x.1)).map Prod.snd).getD 0
  if g.phase = 0 then
    ((upTo 0 g.n).find? (fun p => (s.links_ gid).any (fun e => e.pos == p))).getD 0
  else
    let low := g.active.foldl (fun acc p => min acc p.step) g.n
    if g.kind ≠ 2 ∧ low < g.n then first (fun p => p.step == low) else first (fun p => !p.out)

/-- COLLECTIVE_DEADLINE_EXPIRY (R417). -/
def execCollectiveDeadlineExpiry (group : Nat) (s : State) : Out :=
  .next (match FMap.get? s.groups group with
    | none => s
    | some g =>
      if g.st != .running || g.phase == 2 || g.lost.isSome || s.halted g.ctx || decide (s.gtc < g.since + g.deadline) then s
      else s.setGroup group (fun g => g.lose (s.laggard group g)))

/-- The first spare whose member is reachable (R419). -/
def State.spareOf (s : State) (g : Group) : Option Nat :=
  (upTo g.n (g.positions.length - g.n)).find? (fun i =>
    let p := g.pos i
    !p.used && (if p.pkg = s.ownPkg then !(s.sett p.sett).withdrawn else s.inDomain p.pkg && s.reach p.pkg != .none))

/-- The loss of a position ends the run: no mode, no spare, or a lost peer (R418, R419). -/
def State.hopeless (s : State) (g : Group) (p : Nat) : Bool :=
  !g.resilient || (s.spareOf g).isNone || g.more.contains (g.pos p).peer

/-- COLLECTIVE_LOSS_END (R418). -/
def execCollectiveLossEnd (group : Nat) (s : State) : Out :=
  .next (match FMap.get? s.groups group with
    | none => s
    | some g => match g.lost with
      | none => s
      | some p =>
        if !g.st.live || g.aborting || g.phase == 2 || !s.hopeless g p || s.firedLink group then s
        else
          let s := s.cancelRun group g
          let lost := g.active.filter (fun p => !p.st.final)
          let s := lost.foldl (fun s p => s.scramble g p) s
          let s := s.toStatus group .memberLost
          let s := g.active.foldl (fun s p => s.tellEnd g p) s
          s.setGroup group (fun g => { g with lost := none, more := [] }))

/-- The entry of a position rewritten with a spare's (R419), in the structure too. -/
def State.takeSpare (s : State) (gid : Nat) (g : Group) (p i : Nat) : State :=
  let x := g.pos i
  let y := g.pos p
  let bytes := bytesOf 1 x.sett ++ bytesOf 1 x.pkg ++ bytesOf 2 x.ctr ++ bytesOf 2 y.peer ++ bytesOf 2 0 ++ bytesOf 8 x.input.toNat
    ++ bytesOf 8 x.output.toNat ++ bytesOf 8 x.status.toNat ++ bytesOf 8 x.mirror.toNat ++ bytesOf 8 0
  let s := (s.writeRecord g.ctx (g.addr.toNat + 64 + 48 * p) bytes).2
  s.setGroup gid (fun g => (g.setPos p (fun _ => { x with peer := y.peer, st := .paused, base := x.base + 1 })).setPos i (fun x => { x with used := true }))

/-- COLLECTIVE_RECOVERY (R419): steps 1 to 4 when a loss stands, and step 5 once the copies are done. -/
def execCollectiveRecovery (group : Nat) (s : State) : Out :=
  .next (match FMap.get? s.groups group with
    | none => s
    | some g => match g.lost with
      | none => s
      | some p =>
        if !g.st.live || g.aborting || s.halted g.ctx then s
        else if g.phase = 2 then
          if s.linked group then s
          else if g.more.contains p then
            (s.setGroup group (fun g => { g with phase := 1, more := g.more.filter (fun q => q != p) }))
          else
            let s := s.toStatus group .running
            let s := s.setGroup group (fun g => { g with lost := g.more.head?, more := g.more.tail, since := s.gtc })
            s.armChunk group
        else if s.hopeless g p || s.firedLink group then s
        else match s.spareOf g with
          | none => s
          | some i =>
            let s := s.toStatus group .paused
            let s := (s.cancelRun group g).takeSpare group g p i
            let s := s.setGroup group (fun g => { g with phase := 2 })
            match FMap.get? s.groups group with
            | none => s
            | some g => s.addLinks group g [(p, Link1.input)])

/-! ### Aborts (R420) -/

/-- A group of a context by the address of its structure. -/
def State.groupAt (s : State) (ctx : Nat) (a : Nat) : Option (Nat × Group) :=
  s.groups.find? (fun x => x.2.ctx == ctx && x.2.addr.toNat == a)

/-- ABORT (R420): its parameter names the structure whose run it aborts (log entry 54); 0x07 where there is none, 0x08
where no run is under way. -/
def execAbort (s : State) : Out :=
  .next (s.ctxCommand 1 (fun id _ s => match s.groupAt id (s.param 0) with
    | none => (7, s)
    | some (gid, g) =>
      if !g.st.live || g.aborting then (8, s)
      else
        let s := s.setGroup gid (fun g => { (g.mapActive (fun p => { p with applied := false, due := false })) with aborting := true })
        let homes := g.active.foldl (fun (acc : List (Nat × Nat)) p => if acc.contains (p.pkg, p.sett) then acc else acc ++ [(p.pkg, p.sett)]) []
        (1, homes.foldl (fun s h => s.sendCtl s.gtcSett h.1 h.2 (.abort id gid)) s)))

/-- The outcome of an abort for a position. -/
def State.abortPos (s : State) (gid p : Nat) : State :=
  match FMap.get? s.groups gid with
  | none => s
  | some g =>
    let x := g.pos p
    let st : RunStatus := if g.chunk + 1 = g.chunks ∧ x.out then .complete else .aborted
    if x.applied then s
    else if x.st.final then s.setGroup gid (fun g => g.setPos p (fun x => { x with applied := true }))
    else
      let s := if st = .aborted then s.scramble g x else s
      (s.putStatus g x.status st).setGroup gid (fun g => g.setPos p (fun x => { x with applied := true, due := true, st := st }))

/-- ABORT_APPLY (R420, R427): a sett applies the abort it has received to its positions. Positions of other packages at a
sett of that number are taken to have applied theirs. -/
def execAbortApply (group sett : Nat) (s : State) : Out :=
  .next (match FMap.get? s.groups group with
    | none => s
    | some g =>
      let got := (s.sett sett).inbox.find? (fun r => r.msg.body == .abort g.ctx group)
      let s := match got with
        | some r => s.setSett sett (fun x => { x with inbox := x.inbox.erase r })
        | none => s
      if !g.aborting then s
      else
        let ps := (g.active.zip (upTo 0 g.n)).filter (fun x => x.1.sett == sett && (x.1.pkg != s.ownPkg || got.isSome))
        ps.foldl (fun s x => s.abortPos group x.2) s)

/-- ABORT_FINISH (R420). -/
def execAbortFinish (group : Nat) (s : State) : Out :=
  .next (match FMap.get? s.groups group with
    | none => s
    | some g =>
      if !g.aborting || !g.active.all Position.applied then s
      else
        let s := s.cancelRun group g
        let s := (g.active.filter Position.due).foldl (fun s p => s.tellEnd g p) s
        let st : RunStatus := if g.active.any (fun p => p.st == .aborted) then .aborted else if g.active.any (fun p => p.st == .memberLost) then .memberLost else .complete
        (s.putStatus g g.ostatus st).setGroup group (fun g => { g with aborting := false, st := st, lost := none, more := [] }))

end Sys2Proof.Machine
end

