-- ==== Sys2Proof/Machine/Links.lean ====
section
/-!
DEFINITION. Links and ports: the flit and its CRC (R380), delivery in order with replay (R381), retraining (R382, R440),
the delivery limit (R379), what a sett performs of a class-3 flit (R400, R405, R421), and Ultra Ethernet (R385).
-/

namespace Sys2Proof.Machine

/-! ### Links (R381) -/

/-- A link that has carried nothing. -/
def Link.init : Link := { up := true, seq := 0, next := 0, replays := 0, unacked := [] }

/-- The number of the link out of a port of a chiplet, and of the link into it. -/
def outLink (chip port : Nat) : Nat := chip * 512 + port
def inLink (chip port : Nat) : Nat := 1024 + chip * 512 + port

/-- A link of the package. -/
def State.link (s : State) (n : Nat) : Link := FMap.getD s.links n Link.init
/-- A link changed. -/
def State.setLink (s : State) (n : Nat) (f : Link → Link) : State := { s with links := FMap.set s.links n (f (s.link n)) }

/-- What a receiving link does with a flit: whether it passes it on. A flit with a bad CRC is replayed, 8 times at most. -/
def Link.receive (l : Link) (bs : List Byte) : Bool × Link :=
  if !l.up then (false, l)
  else if !flitGood bs then (false, { l with replays := l.replays + 1 })
  else if flitSeq bs ≠ l.next then (false, l)
  else (true, { l with next := (l.next + 1) % 2 ^ 32, replays := 0 })

/-- A link that comes up again: both its ends begin at SEQ 0 (DESIGN CHOICE, log entry 55). -/
def Link.restart (l : Link) : Link :=
  if l.up then l else { l with
    up := true, seq := 0, next := 0, replays := 0 }

/-! ### Ports (R379, R382) -/

/-- A port at full rate. -/
def Port.init : Port := { up := true, training := none, pending := [], rate := 64, mask := 2 ^ 32 - 1, failed := 0 }

/-- A port of a sett; sett 48 + c stands for the external ports of chiplet c. -/
def State.port (s : State) (sett p : Nat) : Port := FMap.getD (s.sett sett).ports p Port.init
/-- A port changed. -/
def State.setPort (s : State) (sett p : Nat) (f : Port → Port) : State :=
  s.setSett sett (fun x => { x with ports := FMap.set x.ports p (f (s.port sett p)) })

/-- A port that the merged map records as defective (R372). -/
def State.portDead (s : State) (sett p : Nat) : Bool :=
  decide (sett < 48) && (s.sett sett).merged.any (fun d => d.kind == 5 && d.index == p)

/-- The wavelengths of a port that the merged map does not record as defective (R372). -/
def State.goodLanes (s : State) (sett p : Nat) : Nat :=
  2 ^ 32 - 1 - (if sett < 48 then
    bitsOf (sortNat (((s.sett sett).merged.filter (fun d => d.kind == 6 && d.index / 32 == p)).map (fun d => d.index % 32))) else 0)

/-- A port that takes new flits. -/
def Port.works (p : Port) : Bool := p.up && p.training.isNone

/-- The port a chiplet's port connects to: its sett, or 48 + chiplet, and its number (R386). -/
def portBehind (chip port : Nat) : Nat × Nat := if port < 384 then (port / 8, 8 * chip + port % 8) else (48 + chip, port)

/-- The chiplet and port that a port of a sett connects to. -/
def chipPort (sett p : Nat) : Nat × Nat := if sett < 48 then (p / 8, 8 * sett + p % 8) else (sett - 48, p)

/-- A sett's optical engine works. -/
def State.opticalWorks (s : State) (sett : Nat) : Bool := (upTo 0 16).any (fun p => (s.port sett p).works)

/-- The adjacent setts in the order east, west, north, south (R379, R367). -/
def neighbours (n : Nat) : List Nat :=
  (if n % 8 < 7 then [n + 1] else []) ++ (if 0 < n % 8 then [n - 1] else []) ++ (if n / 8 < 5 then [n + 8] else []) ++ (if 0 < n / 8 then [n - 8] else [])

/-- Traffic of a sett to other packages has a path: its own ports, or a relay's (R379). -/
def State.hasPath (s : State) (sett : Nat) : Bool := s.opticalWorks sett || (neighbours sett).any s.opticalWorks

/-- A link goes down (R381): its unacknowledged flits return to the heads of their queues, to be sent over another path,
and its port is trained for the rate and the wavelengths it had (R382). -/
def State.dropLink (s : State) (n : Nat) : State :=
  let l := s.link n
  let chip := n % 1024 / 512
  let s := s.setLink n (fun l => { l with up := false, unacked := [], replays := 0 })
  let pb := portBehind chip (n % 512)
  let s := s.setPort pb.1 pb.2 (fun p => { p with
    up := false, training := if p.training.isSome || s.portDead pb.1 pb.2 then p.training else some (p.rate, p.mask, s.gtc) })
  let key (f : QFlit) : Nat := flitClass f.buf * 4096 + flitDstPkg f.buf * 64 + flitDstSett f.buf
  let back (m : FMap (List QFlit)) : FMap (List QFlit) :=
    l.unacked.foldr (fun f m => FMap.set m (key f) (f :: FMap.getD m (key f) [])) m
  { s with chips := FMap.modify s.chips chip (fun (c : Chip) => { c with voqs := back c.voqs }) }

/-- LINK_DOWN (R381): after 8 replays of one flit. -/
def execLinkDown (link : Nat) (s : State) : Out :=
  .next (if (s.link link).up && decide (8 < (s.link link).replays) then s.dropLink link else s)

/-- LINK_LOSS_OF_LOCK (R381). -/
def execLinkLossOfLock (link : Nat) (s : State) : Out := .next (if (s.link link).up then s.dropLink link else s)

/-- An aggregate rate of a port, in Gb/s. -/
def aggregate (rate mask : Nat) : Nat := rate * popcount mask 32

/-- A rate per wavelength that a request may name. -/
def rateOk (r : Nat) : Bool := r == 64 || r == 56 || r == 48 || r == 32

/-- RETRAIN_REQUEST (R382): two requests in one flit interval become one; a later one waits for the training. -/
def execRetrainRequest (sett port rate mask : Nat) (s : State) : Out :=
  .next (if !rateOk rate || decide (2 ^ 32 ≤ mask) || s.portDead sett port then s
    else s.setPort sett port (fun p => match p.training with
      | none => { p with training := some (rate, mask, s.gtc) }
      | some (r, m, t) =>
        if (s.gtc - t) * aggregate p.rate p.mask < 2048 then { p with training := some (min r rate, m &&& mask, t) }
        else { p with pending := p.pending ++ [(rate, mask)] }))

/-- An entry that sett firmware appends to the delta log, with a new trailer (R373). Of the trailers before it the store keeps the
newest that verifies, so that no append that is cut off can leave none (R374). -/
def Sett.append (x : Sett) (d : Defect) : Sett :=
  let n := x.delta.length + 1
  let tr : Trailer := { count := n, valid := true }
  { x with delta := x.delta ++ [d], trailers := (tr :: x.trailers.filter (fun t => t.valid)).take 2 }

/-- A training ends with a rate and a mask: whether it fails. The fabric level offered must be 1 (R440). -/
def trainingFails (rate mask fabric : Nat) : Bool := decide (rate < 32) || decide (popcount mask 32 < 16) || fabric != 1

/-- The time a training may take (R382). -/
def trainTicks : Nat := 20000

/-- RETRAIN_COMPLETE (R382, R373, R440): the port takes what was requested, so far as it could be trained: `rate` and `mask`. A
training that takes more than 20 us has failed. A port that fails three times in succession is appended to the delta log. -/
def execRetrainComplete (sett port rate mask fabric : Nat) (s : State) : Out :=
  .next (
    let p := s.port sett port
    match p.training with
    | none => s
    | some (r, m, t) =>
      let rate := min rate r
      let mask := mask &&& m &&& s.goodLanes sett port
      let bad := trainingFails rate mask fabric || decide (t + trainTicks < s.gtc)
      let n := if bad then p.failed + 1 else 0
      let s := s.setPort sett port (fun p => { p with
        up := !bad, failed := n, rate := if bad then p.rate else rate, mask := if bad then p.mask else mask,
        training := p.pending.head?.map (fun r => (r.1, r.2, s.gtc)), pending := p.pending.tail })
      let c := chipPort sett port
      let s := if bad then s else (s.setLink (outLink c.1 c.2) Link.restart).setLink (inLink c.1 c.2) Link.restart
      if n = 3 ∧ sett < 48 then s.setSett sett (fun x => x.append { kind := 5, sett := sett, prow := 0, pcol := 0, index := port }) else s)

/-! ### What a sett performs of a class-3 flit (R400, R405, R421) -/

/-- Blocks of 32 element bytes and a scale byte applied to a destination (R421). -/
def mxApply (dst packed : List Byte) : List Byte :=
  ((chunks 128 dst.length dst).zip (chunks 33 packed.length packed)).flatMap (fun x =>
    let scale := fieldAt x.2 32 1
    ((elemsIn 4 x.1).zip (elemsIn 1 (x.2.take 32))).flatMap (fun y =>
      bytesOf 4 (sumSat fmtF32 false (fmtF32.value y.1) (mxValue scale y.2)).1))

/-- The fields under which a flit's data are performed. -/
def flitFields (bs : List Byte) (n : Nat) : EntryFields :=
  let r := fieldAt bs 27 1
  { copyFields (flitAddr bs) (flitAddr bs) n with kind := fieldAt bs 26 1, rop := bitsNat r 2 0, fmt := bitsNat r 5 3 }

/-- A class-3 flit performed at its address (R400): PKR being zero; none where a check fails. -/
def State.performFlit (s : State) (bs : List Byte) : Option State :=
  let data := ((bs.drop 32).take (min 216 (flitLen bs)))
  let packed := flitKind bs == 1
  let n := if packed then data.length / 33 * 128 else data.length
  let k : Kind := if fieldAt bs 26 1 = 1 then .atomic else .store
  if flitDstPkg bs ≠ s.ownPkg ∨ bitsNat (flitAddr bs) 59 54 ≠ s.ownPkg then none
  else (s.hostSpots (flitCtx bs) (flitAddr bs) n k).map (fun xs =>
    if fieldAt bs 26 1 = 1 then
      let (old, s) := readSpots xs s
      let new := if packed then mxApply old data else (reduceBytes (flitFields bs n) old data).1
      writeSpots [] xs (new ++ old.drop new.length) s
    else writeSpots [] xs data s)

/-- A performed flit counted for its sources (R384, R405). -/
def State.countFlit (s : State) (f : QFlit) : State :=
  let own := pairKey (flitPkg f.buf) (flitSett f.buf)
  let keys := (if f.counts then [own] else []) ++ f.also
  s.setSett (flitDstSett f.buf) (fun x => { x with
    performed := keys.foldl (fun m k => FMap.set m (k * 65536 + flitCtx f.buf) (FMap.getD m (k * 65536 + flitCtx f.buf) 0 + 1)) x.performed })

/-- How many tags of one source and class a sett remembers (DESIGN CHOICE, log entry 55): half of all tags. -/
def tagWindow : Nat := 32768

/-- A sett that has delivered a flit (R381). -/
def Sett.deliver (x : Sett) (bs : List Byte) : Sett :=
  let k := flitIdentity bs % 2 ^ 18
  { x with delivered := FMap.set x.delivered k ((flitIdentity bs / 2 ^ 18 :: FMap.getD x.delivered k []).take tagWindow) }

/-- A flit whose end-to-end identity a sett has delivered before (R381). -/
def Sett.hasDelivered (x : Sett) (bs : List Byte) : Bool :=
  (FMap.getD x.delivered (flitIdentity bs % 2 ^ 18) []).contains (flitIdentity bs / 2 ^ 18)

/-- A flit that reaches its sett: one whose identity is delivered already is discarded (R381). -/
def State.deliverFlit (s : State) (f : QFlit) : State :=
  if flitClass f.buf ≠ 3 || (s.sett (flitDstSett f.buf)).hasDelivered f.buf then s
  else
    let s := s.setSett (flitDstSett f.buf) (fun x => x.deliver f.buf)
    match s.performFlit f.buf with
    | some s => s.countFlit f
    | none => s

/-- LINK_FLIT_RECEIVED (R381): the far end of a link out of a chiplet receives a flit. One that it passes on is
acknowledged; at a sett it is performed. -/
def execLinkFlitReceived (link : Nat) (flit : List Byte) (s : State) : Out :=
  .next (
    let l := s.link link
    match l.unacked.find? (fun f => f.buf == flit) with
    | none => if flitGood flit then s else s.setLink link (fun l => (l.receive flit).2)
    | some f =>
      let (pass, l') := l.receive flit
      let s := s.setLink link (fun _ => { l' with unacked := if flitSeq flit = l.next ∧ l.up then l.unacked.erase f else l.unacked })
      if pass && decide (link % 512 < 384) && decide (link < 1024) then s.deliverFlit f else s)

/-! ### The delivery limit (R379) -/

/-- 100 us have passed since a send, or there is no path. -/
def State.overdue (s : State) (sett at_ : Nat) : Bool := decide (at_ + 100000 ≤ s.gtc) || !s.hasPath sett

/-- A request of this package that none of its granules has been performed of fails as a whole: what the L1 of its core has shown
of it goes. -/
def State.undelivered (s : State) (r : GReq) : State :=
  let s := r.accs.foldl (fun s a => s.l1Drop r.ctx (r.core / 256) (r.core % 256) (a.lo r.line)) s
  s.setReq r.tag (fun q => { q with
    performed := true, done := q.grans, checks := q.accs.map (fun a => (a.lane, Checked.bad codeRemoteUnreach)),
    answers := q.accs.map (fun a => { lane := a.lane, code := codeRemoteUnreach, data := [] }) })

/-- DELIVERY_TIMEOUT (R379): a request that is not delivered within 100 us, or has no path, returns REMOTE_UNREACH. -/
def execDeliveryTimeout (tag : Nat) (s : State) : Out :=
  .next (match s.reqs.find? (fun r => r.tag == tag && r.performed == (r.pkg != s.ownPkg)) with
    | some r =>
      if r.pkg = s.ownPkg then
        (if decide (r.sentAt + 100000 ≤ s.gtc) && r.checks.isEmpty && r.done.isEmpty then s.undelivered r else s)
      else if s.overdue (r.core / 256) r.sentAt then
        s.onTeam r.uid (fun s => s.reply r (r.accs.map (fun a => { lane := a.lane, code := codeRemoteUnreach, data := [] })))
      else s
    | none => match s.teams.find? (fun t => t.sent.any (fun x => x.2.1 == tag)) with
      | some t =>
        if t.sent.any (fun x => x.2.1 == tag && s.overdue t.sett x.2.2) then
          s.onTeam t.uid (fun s => s.scalarReply tag [{ lane := 0, code := codeRemoteUnreach, data := [] }])
        else s
      | none => if s.far.any (fun x => x.tag == tag && x.code.isNone && s.overdue 0 x.sentAt) then s.farAnswer tag codeRemoteUnreach [] else s)

/-! ### Ultra Ethernet (R385) -/

/-- UE_CONNECTION_SETUP (R385): UUD is refused. -/
def execUeConnectionSetup (sett endpoint : Nat) (mode : UeMode) (s : State) : Out :=
  .next (if 48 ≤ sett ∨ 65536 ≤ endpoint ∨ mode = .uud then { s with ueOut := s.ueOut ++ [[1]] }
    else { s with ue := FMap.set s.ue (sett * 65536 + endpoint) mode, ueOut := s.ueOut ++ [[0]] })

/-- The target of an operation lies in another package of the domain. -/
def State.ueAway (s : State) (a : Nat) : Bool :=
  a / 2 ^ 60 == 0 && !gvaBad .scalar a && bitsNat a 59 54 != s.ownPkg && s.inDomain (bitsNat a 59 54)

/-- An operation for the owning sett in another package: its request leaves (outbox code 16, log entry 21), and its answer is
the transport's. `op` is 1 for a read, 2 a write, 3 a fetch-add and 4 a compare-swap. -/
def State.ueSend (s : State) (op ctx a n : Nat) (data : List Byte) : State :=
  let x : FarLine := { who := .ue, ctx := ctx, op := op, line := a / 128, tag := s.tick, sentAt := s.gtc, code := none, data := [] }
  { s with
    far := s.far ++ [x], tick := s.tick + 1,
    outbox := s.outbox ++ [bytesOf 1 16 ++ bytesOf 2 ctx ++ bytesOf 8 a ++ bytesOf 4 n ++ bytesOf 8 s.tick ++ bytesOf 8 s.gtc ++ bytesOf 1 op ++ data] }

/-- A target of this package. -/
def State.ueTarget (s : State) (ctx a n : Nat) (k : Kind) : Option (List Spot) :=
  if a / 2 ^ 60 ≠ 0 ∨ bitsNat a 59 54 ≠ s.ownPkg ∨ 2 ^ 32 ≤ n then none else s.hostSpots ctx a n k

/-- A context's atomic on 8 bytes: the old value, and the new one written. -/
def State.ueAtomic (s : State) (op ctx a : Nat) (data : List Byte) (f : Nat → Option Nat) : State :=
  if a % 8 = 0 && s.ueAway a then s.ueSend op ctx a 8 data
  else match (if a % 8 = 0 then s.ueTarget ctx a 8 .atomic else none) with
  | none => s.ueAnswer true []
  | some xs =>
    let (old, s) := readSpots xs s
    let s := match f (natOf old) with
      | some x => writeSpots [] xs (bytesOf 8 x) s
      | none => s
    s.ueAnswer false old

/-- The bytes of an operation's message. -/
def ueSize : UeOp → Nat
  | .write _ _ bs => bs.length
  | .read _ _ n => n
  | .fetchAdd _ _ _ | .compareSwap _ _ _ _ => 8
  | .send _ _ bs => bs.length

/-- INBOUND_UE_OPERATION (R385): an operation over a connection that is set up, of at most 2^32 - 1 bytes, is performed at the
owning sett, or answered with an error. What a Send delivers goes to its endpoint with the answer. -/
def execInboundUeOperation (x : UeArrival) (s : State) : Out :=
  .next (
    if (FMap.get? s.ue (x.sett * 65536 + x.endpoint)).isNone || decide (65536 ≤ x.endpoint) || decide (2 ^ 32 ≤ ueSize x.op) then
      s.ueAnswer true []
    else match x.op with
    | .write ctx a bs =>
      if s.ueAway a.toNat then s.ueSend 2 ctx a.toNat bs.length bs
      else (match s.ueTarget ctx a.toNat bs.length .store with
      | none => s.ueAnswer true []
      | some xs => (writeSpots [] xs bs s).ueAnswer false [])
    | .read ctx a n =>
      if s.ueAway a.toNat then s.ueSend 1 ctx a.toNat n []
      else (match s.ueTarget ctx a.toNat n .load with
      | none => s.ueAnswer true []
      | some xs => let (bs, s) := readSpots xs s; s.ueAnswer false bs)
    | .fetchAdd ctx a x => s.ueAtomic 3 ctx a.toNat (bytesOf 8 x.toNat) (fun o => some ((o + x.toNat) % 2 ^ 64))
    | .compareSwap ctx a e x =>
      s.ueAtomic 4 ctx a.toNat (bytesOf 8 e.toNat ++ bytesOf 8 x.toNat) (fun o => if o = e.toNat then some x.toNat else none)
    | .send _ _ bs => s.ueAnswer false bs)

end Sys2Proof.Machine
end

