-- ==== Sys2Proof/Machine/Ashlar.lean ====
section
/-!
DEFINITION. The Ashlar switch: the arrival of flits (R387, R401), virtual output queues and their service (R388 to R390),
the timetable (R391 to R394), and what a lighting circuit sets free (R395, R396).
-/

namespace Sys2Proof.Machine

/-! ### Chiplets -/

def Chip.init : Chip := { voqs := [], slots := [], arrivals := [], deficit := [], last := [], turn := [], lastTx := [] }

/-- A chiplet. -/
def State.chip (s : State) (c : Nat) : Chip := FMap.getD s.chips c Chip.init
/-- A chiplet changed. -/
def State.setChip (s : State) (c : Nat) (f : Chip → Chip) : State := { s with chips := FMap.set s.chips c (f (s.chip c)) }

/-! ### Virtual output queues (R388) -/

/-- The queue of a flit: class and destination. -/
def voqKey (bs : List Byte) : Nat := flitClass bs * 4096 + flitDstPkg bs * 64 + flitDstSett bs

/-- Flits of a class in the queues. -/
def Chip.classFlits (c : Chip) (cls : Nat) : Nat :=
  c.voqs.foldl (fun acc x => if x.1 / 4096 = cls then acc + x.2.length else acc) 0

/-- Flits reserved for a class: 2 MiB for class 0 and 32 MiB for class 2. -/
def classShare : Nat → Nat
  | 0 => 8192
  | 2 => 131072
  | _ => 0

/-- Flits of the buffer that no class has reserved. -/
def sharedFlits : Nat := 786432 - 8192 - 131072

/-- A flit finds room: in its queue of at most 1 MiB, and in its class's share or in what is shared. -/
def Chip.room (c : Chip) (bs : List Byte) : Bool :=
  let shared := (upTo 0 4).foldl (fun acc k => acc + (c.classFlits k - classShare k)) 0
  decide ((FMap.getD c.voqs (voqKey bs) []).length < 4096)
    && (decide (c.classFlits (flitClass bs) < classShare (flitClass bs)) || decide (shared < sharedFlits))

/-- Flits that all find room, one after the other. -/
def Chip.roomAll (c : Chip) : List (List Byte) → Bool
  | [] => true
  | bs :: rest =>
    c.room bs && Chip.roomAll { c with
      voqs := FMap.set c.voqs (voqKey bs) (FMap.getD c.voqs (voqKey bs) [] ++ [{ buf := bs, stamp := 0, port := 0, also := [], counts := false }]) } rest

/-- A flit put into its queue. -/
def State.enqueueFlit (s : State) (chip : Nat) (f : QFlit) : State :=
  s.setChip chip (fun c => { c with voqs := FMap.set c.voqs (voqKey f.buf) (FMap.getD c.voqs (voqKey f.buf) [] ++ [f]) })

/-! ### Arrival (R387, R401) -/

/-- The direction of a flit: 0 egress, 1 ingress, none between ports of one kind. -/
def State.direction (s : State) (f : QFlit) : Option Nat :=
  if 384 ≤ f.port then some 1 else if flitDstPkg f.buf ≠ s.ownPkg then some 0 else none

/-- The slot whose kernel a flit is run through (R401). -/
def State.slotFor (s : State) (chip : Nat) (f : QFlit) : Option (Nat × Slot) :=
  match s.direction f with
  | none => none
  | some d => (s.chip chip).slots.find? (fun x =>
      flitClass f.buf == 3 && x.2.ctx == flitCtx f.buf && bitAt x.2.dir d && decide (x.2.active ≤ f.stamp)
        && (match x.2.unloadAt with | some t => decide (s.gtc < t) | none => true))

/-- The order of arrival stamps, ties by port (R387). -/
def QFlit.before (a b : QFlit) : Bool := decide (a.stamp < b.stamp) || (a.stamp == b.stamp && decide (a.port < b.port))

/-- A flit put among those that wait for a run. -/
def insertFlit (f : QFlit) : List QFlit → List QFlit
  | [] => [f]
  | g :: gs => if f.before g then f :: g :: gs else g :: insertFlit f gs

/-- The sett's own flits for other packages, without one that has left through a port (R377, R379): its own, or that of a sett
that it relays for. -/
def State.leave (s : State) (chip port : Nat) (flit : List Byte) : State :=
  let n := (portBehind chip port).1
  let mine (m : Nat) : Option (Nat × List Byte) := s.sendq.find? (fun x => x.1 == m && flitBody x.2 == flitBody flit)
  if 384 ≤ port then s
  else match (n :: neighbours n).findSome? mine with
    | some x => { s with sendq := s.sendq.erase x }
    | none => s

/-- A flit from outside for a third package: no package forwards it (R386). -/
def State.foreign (s : State) (port : Nat) (flit : List Byte) : Bool := decide (384 ≤ port) && flitDstPkg flit != s.ownPkg

/-- FLIT_TRAVERSAL (R387): a flit arrives, is checked, stamped, and queued, or waits for its run. Without room for it the
sender keeps it (R388), as it does while the port takes none (R379). -/
def execFlitTraversal (chip port : Nat) (flit : List Byte) (s : State) : Out :=
  .next (if 2 ≤ chip ∨ 512 ≤ port ∨ (flitGood flit && !(s.chip chip).room flit)
        ∨ (s.port (portBehind chip port).1 (portBehind chip port).2).works = false then s
    else
      let (pass, l) := (s.link (inLink chip port)).receive flit
      let s := s.setLink (inLink chip port) (fun _ => l)
      let f : QFlit := { buf := flit, stamp := s.gtc, port := port, also := [], counts := true, orig := flit }
      if !pass || s.foreign port flit then s
      else
        let s := s.leave chip port flit
        if (s.slotFor chip f).isSome then s.setChip chip (fun c => { c with arrivals := insertFlit f c.arrivals })
        else s.enqueueFlit chip f)

/-! ### Service (R389, R390, R394) -/

/-- The number among the package's 256 of an external port's transmitter (R386). -/
def transmitter (chip port : Nat) : Nat := 128 * chip + port - 384

/-- The transmitters of a chiplet lit toward a package, ascending. -/
def State.litTx (s : State) (chip pkg : Nat) : List Nat :=
  match s.inForce with
  | none => []
  | some t => (upTo (128 * chip) 128).filter (fun x => t.litAt s.gtc x == some pkg)

/-- The port that the head of a queue uses now (R390). -/
def State.portOf (s : State) (chip : Nat) (f : QFlit) : Option Nat :=
  let cls := flitClass f.buf
  let sett := flitDstSett f.buf
  if flitDstPkg f.buf = s.ownPkg then
    let ps := (upTo (8 * sett) 8).filter (fun p => (s.port (portBehind chip p).1 (portBehind chip p).2).works && (s.link (outLink chip p)).up)
    ps[Config.portHash (flitSett f.buf) % max 1 ps.length]?
  else
    let ts := s.litTx chip (flitDstPkg f.buf)
    ts[(sett + cls) % max 1 ts.length]?.map (fun t => t - 128 * chip + 384)

/-- A flit of a queue stands unacknowledged on the port the queue used before (R390). -/
def State.unackedOn (s : State) (chip key port : Nat) : Bool :=
  match FMap.get? (s.chip chip).lastTx key with
  | some p => p != port && (s.link (outLink chip p)).unacked.any (fun f => voqKey f.buf == key)
  | none => false

/-- The queues a port may serve now, with their heads. -/
def State.servable (s : State) (chip port : Nat) : List (Nat × QFlit) :=
  let l := s.link (outLink chip port)
  if !l.up || decide (4096 ≤ l.unacked.length) || !(s.port (portBehind chip port).1 (portBehind chip port).2).works then []
  else (s.chip chip).voqs.filterMap (fun x => match x.2 with
    | f :: _ => if s.portOf chip f == some port && !s.unackedOn chip x.1 port then some (x.1, f) else none
    | [] => none)

/-- The next destination of a class: ascending, after the one served last (R389). -/
def pickDest (last : Option Nat) (xs : List (Nat × QFlit)) : Option (Nat × QFlit) :=
  match last with
  | none => xs.head?
  | some k => (xs.find? (fun x => decide (k < x.1))).orElse (fun _ => xs.head?)

/-- Quanta of deficit round robin, in its order of classes (R389). -/
def quanta : List (Nat × Nat) := [(2, 4), (1, 2), (3, 1)]

/-- The class after a class in the round. -/
def nextClass : Nat → Nat
  | 2 => 1
  | 1 => 3
  | _ => 2

/-- The class that a port serves next among classes 1 to 3, and the deficits and the round after it. -/
def pickClass (port : Nat) (has : Nat → Bool) : Nat → Chip → Option (Nat × Chip)
  | 0, _ => none
  | n + 1, c =>
    let cls := FMap.getD c.turn port 2
    let d := FMap.getD c.deficit (port * 4 + cls) ((quanta.find? (fun q => q.1 == cls)).map Prod.snd |>.getD 0)
    if has cls && decide (0 < d) then some (cls, { c with deficit := FMap.set c.deficit (port * 4 + cls) (d - 1) })
    else pickClass port has n { c with turn := FMap.set c.turn port (nextClass cls), deficit := FMap.erase c.deficit (port * 4 + cls) }

/-- The head of a queue sent on a port: with the link's next SEQ and a fresh CRC. -/
def State.sendFlit (s : State) (chip port key : Nat) (f : QFlit) : State :=
  let n := outLink chip port
  let l := s.link n
  let f : QFlit := { f with buf := sealFlit (f.buf.take 8 ++ bytesOf 4 l.seq ++ f.buf.drop 12) }
  let s := s.setChip chip (fun c => { c with
    voqs := FMap.modify c.voqs key List.tail, lastTx := FMap.set c.lastTx key port, last := FMap.set c.last (port * 4 + key / 4096) key })
  s.setLink n (fun l => { l with seq := (l.seq + 1) % 2 ^ 32, unacked := l.unacked ++ [f] })

/-- VOQ_TRANSMIT (R389): class 0 first, else deficit round robin; within a class the destinations in turn. -/
def execVoqTransmit (chip port : Nat) (s : State) : Out :=
  .next (
    let xs := s.servable chip port
    let of_ (cls : Nat) : List (Nat × QFlit) := xs.filter (fun x => x.1 / 4096 == cls)
    let pick (s : State) (cls : Nat) : State :=
      match pickDest (FMap.get? (s.chip chip).last (port * 4 + cls)) (of_ cls) with
      | some (key, f) => s.sendFlit chip port key f
      | none => s
    if !(of_ 0).isEmpty then pick s 0
    else match pickClass port (fun cls => !(of_ cls).isEmpty) 7 (s.chip chip) with
      | none => s
      | some (cls, c) => pick (s.setChip chip (fun _ => c)) cls)

/-! ### The timetable (R391 to R393) -/

/-- The image at an address that a unit of the device memory window names (log entry 56). -/
def State.windowRead (s : State) (a n : Nat) : Option (List Byte) :=
  (FMap.get? s.bound (a % 2 ^ 54 / 2 ^ 21)).bind (fun c => match s.devRead c a n with
    | .ok bs => some bs
    | .error _ => none)

/-- The timetable of an image. -/
def parseTimetable (bs : List Byte) : Timetable :=
  let n := fieldAt bs 2 2
  { base := fieldAt bs 8 8, guardTicks := fieldAt bs 16 4,
    phases := (upTo 0 n).map (fun i =>
      { dur := fieldAt bs (64 + 8 * i) 4, entries := (upTo 0 256).map (fun t => BitVec.ofNat 16 (fieldAt bs (64 + 8 * n + 512 * i + 2 * t) 2)) }) }

/-- R391 for the fields of an image, and R393 for its entries. -/
def State.tableOk (s : State) (bs : List Byte) (t : Timetable) : Bool :=
  let n := fieldAt bs 2 2
  fieldAt bs 0 2 == 1 && decide (1 ≤ n) && decide (n ≤ 256) && fieldAt bs 4 4 == 0 && decide (100 ≤ t.guardTicks)
    && decide (t.guardTicks ≤ 10000) && (bs.take 64).drop 20 == List.replicate 44 0
    && (upTo 0 n).all (fun i => fieldAt bs (68 + 8 * i) 4 == 0)
    && t.phases.all (fun p => decide (t.guardTicks + 500 ≤ p.dur) && decide (p.dur ≤ 1000000)
      && p.entries.all (fun e => e.extractLsb' 12 3 == (0 : BitVec 3) && (if e.getLsbD 15 then
        (e.extractLsb' 6 6).toNat != s.ownPkg && s.inDomain (e.extractLsb' 6 6).toNat else e == 0)))

/-- How long each phase begins dark for a package: its whole length where no transmitter is lit toward it. -/
def Timetable.lead (t : Timetable) (pkg i : Nat) : Nat :=
  let toward (e : Half) : Bool := e.getLsbD 15 && (e.extractLsb' 6 6).toNat == pkg
  match t.phases[i]? with
  | none => 0
  | some p =>
    let prev := match t.phases[(i + t.phases.length - 1) % t.phases.length]? with | some q => q.entries | none => []
    if (p.entries.zip prev).any (fun x => toward x.1 && x.1 == x.2) then 0
    else if p.entries.any toward then t.guardTicks else p.dur

/-- The longest dark interval of a package, counted cyclically: none where it is never lit. -/
def Timetable.dark (t : Timetable) (pkg : Nat) : Option Nat :=
  if !t.ever pkg then none
  else
    let one := (t.phases.zip (upTo 0 t.phases.length)).map (fun x => (x.1.dur, t.lead pkg x.2))
    some ((one ++ one).foldl (fun (acc : Nat × Nat) x =>
      let run := acc.2 + x.2
      (max acc.1 run, if x.2 = x.1 then run else 0)) (0, 0)).1

/-- TIMETABLE (R393): the load is refused with 0x07, or the table becomes the pending one, a table that is due being in force
already; the longest dark interval of
each package is reported to the host (outbox code 13). -/
def execTimetable (s : State) : Out :=
  .next (s.command8 1 (fun s =>
    let a := s.param 0
    if s.hcmd.ctx ≠ 0 then (7, s)
    else match s.windowRead a 64 with
    | none => (7, s)
    | some hdr => match s.windowRead a (64 + 520 * min 256 (fieldAt hdr 2 2)) with
      | none => (7, s)
      | some bs =>
        let t := parseTimetable bs
        if !s.tableOk bs t || decide (t.base < s.gtc + 100000)
            || (upTo 0 64).any (fun p => match t.dark p with | some d => decide (50000 < d) | none => false) then (7, s)
        else
          let report := bytesOf 1 13 ++ (upTo 0 64).flatMap (fun p => bytesOf 4 ((t.dark p).getD (2 ^ 32 - 1)))
          (1, { s with
            timetable := s.inForce, pendingTable := some t, outbox := s.outbox ++ [report] })))

/-- TIMETABLE_TAKES_EFFECT (R393). -/
def execTimetableTakesEffect (s : State) : Out :=
  .next (match s.pendingTable with
    | some t => if t.base ≤ s.gtc then { s with timetable := some t, pendingTable := none } else s
    | none => s)

/-- PHASE_CHANGE (R392): the transmitters whose entries change retune. What is lit at any time follows from the timetable
and GTC alone (`Timetable.litAt`), so nothing else is stored. -/
def execPhaseChange (s : State) : Out := .next s

/-- CIRCUIT_LIT (R396): lanes that wait for the package are sent. A scalar stream or an engine that waits for it finds it
lit at its next turn (R395). -/
def execCircuitLit (pkg : Nat) (s : State) : Out :=
  .next (match s.inForce with
    | none => s
    | some t =>
      if !t.lit s.gtc pkg then s
      else
        let ts := s.teams.filter (fun t => t.status == .running && !s.halted t.ctx)
        ts.foldl (fun s t => s.onTeam t.uid (fun s =>
          (if s.cur.userWork.isSome then s.onUserWork State.lightPaths else s).lightPaths)) s)

end Sys2Proof.Machine
end

