-- ==== Sys2Proof/Machine/Sumac.lean ====
section
/-!
DEFINITION. Sumac: job slots (R397, R398), the loader's checks (R399), runs and their ends (R402 to R406), and the
instructions (R407 to R410).
-/

namespace Sys2Proof.Machine

/-! ### The loader's checks (R399) -/

/-- A worst path: instructions, EMITs, and whether it can run past the end. -/
structure Worst where
  steps : Nat
  emits : Nat
  off : Bool
  deriving DecidableEq, Repr

/-- The worse of two paths. -/
def Worst.join (a b : Worst) : Worst := { steps := max a.steps b.steps, emits := max a.emits b.emits, off := a.off || b.off }

/-- An ending instruction (R403). -/
def isEnding : Instr → Bool
  | .fwd | .fwdC _ | .drop | .dropC _ | .hold _ | .ktrap _ => true
  | _ => false

/-- An instruction that is an EMIT. -/
def isEmit : Instr → Bool
  | .emit _ => true
  | _ => false

/-- Worst paths from the places of a stretch without REPEAT, from its last to its first; `past` is that of leaving it. The
stretch begins at place `at_`. -/
def worstFlat (past : Worst) : List Instr → List Worst
  | [] => [past]
  | i :: is =>
    let rest := worstFlat past is
    let w (k : Nat) : Worst := nth past rest k
    let r : Worst := match i with
      | .brf _ o => (w 0).join (w (o.toNat - 1))
      | i => if isEnding i then { steps := 0, emits := 0, off := false } else w 0
    { steps := r.steps + 1, emits := r.emits + b2n (isEmit i), off := r.off } :: rest

/-- Worst paths of a kernel: a REPEAT counts 1 and its count times the worst path of its body; what follows it counts where some
path leaves the body. -/
def worstAll : Nat → List Instr → List Worst
  | 0, _ => []
  | _, [] => [{ steps := 0, emits := 0, off := true }]
  | fuel + 1, i :: is =>
    let rest := worstAll fuel is
    let dead : Worst := { steps := 0, emits := 0, off := true }
    let w (k : Nat) : Worst := nth dead rest k
    match i with
    | .repeatN c l =>
      let body := nth dead (worstFlat { steps := 0, emits := 0, off := true } (is.take l.toNat)) 0
      let after := w l.toNat
      { steps := 1 + c.toNat * body.steps + (if body.off then after.steps else 0),
        emits := c.toNat * body.emits + (if body.off then after.emits else 0), off := body.off && after.off } :: rest
    | .brf _ o =>
      let r := (w 0).join (w (o.toNat - 1))
      { r with steps := r.steps + 1 } :: rest
    | i =>
      let r : Worst := if isEnding i then { steps := 0, emits := 0, off := false } else w 0
      { steps := r.steps + 1, emits := r.emits + b2n (isEmit i), off := r.off } :: rest

/-- The bodies of a kernel: first place and the place after the last. -/
def bodies (is : List Instr) : List (Nat × Nat) :=
  (is.zip (upTo 0 is.length)).filterMap (fun x => match x.1 with
    | .repeatN _ l => some (x.2 + 1, x.2 + 1 + l.toNat)
    | _ => none)

/-- R399 for branches and bodies. -/
def shapesOk (is : List Instr) : Bool :=
  let n := is.length
  let bs := bodies is
  let in_ (p : Nat) (b : Nat × Nat) : Bool := decide (b.1 ≤ p) && decide (p < b.2)
  bs.all (fun b => decide (b.2 ≤ n)) && (is.zip (upTo 0 n)).all (fun x => match x.1 with
    | .repeatN _ _ => !bs.any (in_ x.2)
    | .brf _ o =>
      let t := x.2 + o.toNat
      decide (t < n) && bs.all (fun b => if in_ x.2 b then decide (t < b.2) else !in_ t b)
    | _ => true)

/-- The instructions of an image; none where a word is none. -/
def kernelOf (ws : List Word32) : Option (List Instr) :=
  ws.foldr (fun w acc => match acc, decodeSumac w with
    | some is, .ok i => some (i :: is)
    | _, _ => none) (some [])

/-- The loader accepts an image (R399). -/
def kernelOk (ws : List Word32) : Bool :=
  match kernelOf ws with
  | none => false
  | some is =>
    let w := nth { steps := 0, emits := 0, off := true } (worstAll (is.length + 1) is) 0
    shapesOk is && !w.off && decide (w.steps ≤ 512) && decide (w.emits ≤ 4)

/-! ### Slots (R397, R398) -/

/-- The descriptor breaks the table of R397. -/
def State.slotBad (s : State) (ctx : Nat) (bs : List Byte) : Bool :=
  let d := fieldAt bs 3 1
  fieldAt bs 0 2 != ctx || bitsNat (fieldAt bs 2 1) 7 5 != 0 || d == 0 || decide (3 < d) || fieldAt bs 4 2 == 0
    || decide (4096 < fieldAt bs 4 2) || decide (1 < fieldAt bs 7 1) || fieldAt bs 8 8 % 4 != 0 || !globalOk (fieldAt bs 8 8)
    || fieldAt bs 16 2 == 0 || decide (1024 < fieldAt bs 16 2) || fieldAt bs 18 6 != 0 || !globalOk (fieldAt bs 32 8)
    || fieldAt bs 32 8 % 32 != 0 || bitsNat (fieldAt bs 32 8) 59 54 != s.ownPkg || decide (fieldAt bs 40 1 < 4)
    || decide (16 < fieldAt bs 40 1) || fieldAt bs 41 1 != 0 || (fieldAt bs 42 2 != 0xFFFF && decide (4096 ≤ fieldAt bs 42 2))
    || fieldAt bs 44 20 != 0

/-- The words of a kernel image, in this package or another one (R397). -/
def State.imageWords (s : State) (ctx a n : Nat) : Except Nat (List Word32) :=
  (s.anyRead (.host s.hcmd.site) ctx .load a (4 * n)).map (fun bs => (chunks 4 n bs).map (fun x => BitVec.ofNat 32 (natOf x)))

/-- SUMAC_LOAD (R397): STATUS is 0x01, or a load status + 0x10. -/
def execSumacLoad (s : State) : Out :=
  .next (s.ctxCommand 1 (fun id _ s => match s.anyRead (.host s.hcmd.site) id .load (s.param 0) 448 with
    | .error n => s.hostWait n 7
    | .ok bs =>
      let byte := fieldAt bs 2 1
      let chip := byte / 16 % 2
      let c := s.chip chip
      if s.slotBad id bs then (0x11, s)
      else if fieldAt bs 6 1 ≠ 1 then (0x14, s)
      else if (FMap.get? c.slots (byte % 16)).isSome || c.slots.any (fun x => x.2.ctx == id) then (0x12, s)
      else match s.imageWords id (fieldAt bs 8 8) (fieldAt bs 16 2) with
      | .error n => s.hostWait n 0x11
      | .ok ws =>
        if !kernelOk ws then (0x13, s)
        else
          let x : Slot := { ctx := id, dir := fieldAt bs 3 1, flows := fieldAt bs 4 2, policy := fieldAt bs 7 1, image := ws,
                            active := fieldAt bs 24 8, tqbase := BitVec.ofNat 64 (fieldAt bs 32 8), tqlog2 := fieldAt bs 40 1,
                            tqctr := fieldAt bs 42 2, dest := (upTo 0 64).map (fun p => fieldAt bs (64 + 6 * p) 6), store := [],
                            holds := [], flags := 0, records := 0, unloadAt := none, slotByte := byte }
          (1, s.setChip chip (fun c => { c with slots := FMap.set c.slots (byte % 16) x }))))

/-- SUMAC_UNLOAD (R398): the context's slots are to unload at a GTC value; 0x07 where it has none. -/
def execSumacUnload (s : State) : Out :=
  .next (s.ctxCommand 1 (fun id _ s =>
    if !s.chips.any (fun x => x.2.slots.any (fun y => y.2.ctx == id)) then (7, s)
    else
      let f (x : Slot) : Slot := if x.ctx = id ∧ x.unloadAt.isNone then { x with unloadAt := some (s.param 0) } else x
      (1, { s with chips := s.chips.map (fun x => (x.1, { x.2 with slots := x.2.slots.map (fun y => (y.1, f y.2)) })) })))

/-- A slot of a chiplet changed. -/
def State.setSlot (s : State) (chip slot : Nat) (f : Slot → Slot) : State :=
  s.setChip chip (fun c => { c with slots := FMap.modify c.slots slot f })

/-- A record to a slot's trap queue (R406): a message of the chiplet, whose place as a source is sett 48 + chiplet (R428). -/
def State.slotRecord (s : State) (chip slot cause pc arg : Nat) (flit : List Byte) : State :=
  match FMap.get? (s.chip chip).slots slot with
  | none => s
  | some x =>
    let at_ := x.tqbase + BitVec.ofNat 64 (32 * (x.records % 2 ^ x.tqlog2))
    let bs := bytesOf 1 cause ++ bytesOf 1 x.slotByte ++ bytesOf 2 pc ++ bytesOf 2 arg ++ bytesOf 1 x.flags.toNat ++ bytesOf 1 0
      ++ bytesOf 8 s.gtc ++ (flit.drop 16).take 16
    (s.setSlot chip slot (fun x => { x with records := x.records + 1 })).sendCtl (48 + chip) s.ownPkg (bitsNat x.tqbase.toNat 53 48)
      (.record x.ctx at_ bs x.tqctr)

/-- A run of a slot is in progress. -/
def State.slotBusy (s : State) (chip slot : Nat) : Bool :=
  let of_ (r : Run) : Bool := r.active && r.chip == chip && r.slot == slot
  of_ s.run || s.runs.any (fun x => of_ x.2)

/-- SLOT_UNLOAD_TAKES_EFFECT (R398): each held packet is discarded with a record, and the slot is free. -/
def execSlotUnloadTakesEffect (chip slot : Nat) (s : State) : Out :=
  .next (match FMap.get? (s.chip chip).slots slot with
    | none => s
    | some x =>
      let due := match x.unloadAt with | some t => decide (t ≤ s.gtc) | none => false
      if !due || s.slotBusy chip slot then s
      else
        let s := x.holds.foldl (fun s h => s.slotRecord chip slot 4 0 0 h.2.orig) s
        s.setChip chip (fun c => { c with slots := FMap.erase c.slots slot }))

/-! ### Runs (R402, R403) -/

/-- The slot of the run. -/
def State.runSlot (s : State) : Option Slot := FMap.get? (s.chip s.run.chip).slots s.run.slot

/-- The run changed. -/
def State.setRun (s : State) (f : Run → Run) : State := { s with run := f s.run }

/-- The run of a processor takes the place of the run in focus. -/
def State.focusRun (s : State) (n : Nat) : State :=
  let m := if s.run.active then FMap.set s.runs s.run.proc s.run else s.runs
  { s with run := FMap.getD m n Run.none, runs := FMap.erase m n }

/-- The next flit of its chiplet that an idle processor takes up: the first whose slot has no run in progress, so that the runs of
one slot follow one another in the order of arrival stamps, while those of different slots do not wait for each other (R401). A
flit whose slot is gone passes. Flits of one stamp start only after it, so that ties fall to the lowest port (R387). -/
def State.nextRun (s : State) (n : Nat) : State :=
  let chip := n / 128
  let free (f : QFlit) : Bool := decide (f.stamp < s.gtc) && (match s.slotFor chip f with
    | some (slot, _) => !s.slotBusy chip slot
    | none => (s.chip chip).room f.buf)
  match (s.chip chip).arrivals.find? free with
  | none => s
  | some f =>
    let s := s.setChip chip (fun c => { c with arrivals := c.arrivals.erase f })
    match s.slotFor chip f with
    | none => s.enqueueFlit chip f
    | some (slot, _) => { s with run := { Run.none with active := true, chip := chip, slot := slot, buf := f.buf, orig := f, proc := n } }

/-- The instruction at the run's PC. -/
def State.runInstr (s : State) : Option Instr :=
  s.runSlot.bind (fun x => x.image[s.run.pc]?.bind (fun w => (decodeSumac w).toOption))

/-- The run goes on at a place, or at the head of its body (R408). -/
def Run.goTo (r : Run) (pc : Nat) : Run :=
  match r.rep with
  | some (first, last, left) =>
    if r.pc = last then
      if 1 < left then { r with pc := first, rep := some (first, last, left - 1) } else { r with pc := last + 1, rep := Option.none }
    else { r with pc := pc }
  | .none => { r with pc := pc }

/-- An instruction that does not end the run. -/
def State.runStep (s : State) (f : Run → Run) : Out := .next (if s.run.active then s.setRun (fun r => (f r).goTo (r.pc + 1)) else s)

/-- Registers of a run. -/
def Run.kGet (r : Run) (i : BitVec 4) : BitVec 256 := r.k[i.toNat]
def Run.kPut (r : Run) (i : BitVec 4) (v : BitVec 256) : Run := { r with k := r.k.set i.toNat v }
def Run.xGet (r : Run) (i : BitVec 3) : Word32 := r.x[i.toNat]
def Run.xPut (r : Run) (i : BitVec 3) (v : Word32) : Run := { r with x := r.x.set i.toNat v }

/-- A 32-byte word of bytes. -/
def wordAt (bs : List Byte) (w : Nat) : BitVec 256 := BitVec.ofNat 256 (fieldAt bs (32 * w) 32)

/-- A run's end: nothing of it remains, and what it leaves behind is done (R404). -/
def State.endRun (s : State) (f : State → State) : State := { f s with run := Run.none }

/-- What a run would send finds room; until then it waits where it is (R388). -/
def State.runRoom (s : State) (fs : List (List Byte)) : Bool := (s.chip s.run.chip).roomAll fs

/-- A trap (R404, R406). -/
def State.runTrap (s : State) (cause arg : Nat) : State :=
  match s.runSlot with
  | none => { s with run := Run.none }
  | some x =>
    let r := s.run
    if x.policy = 1 && !s.runRoom [r.orig.buf] then s else
    let s := s.slotRecord r.chip r.slot cause r.pc arg r.orig.buf
    s.endRun (fun s => if x.policy = 1 then s.enqueueFlit r.chip r.orig else s)

/-- `flow(x)` of R408: the flow a register names, or a FLOW_RANGE trap. -/
def State.withFlow (s : State) (f : BitVec 3) (k : Slot → Nat → State → State) : State :=
  match s.runSlot with
  | none => s
  | some x =>
    let v := (s.run.xGet f).toNat
    if !s.run.active then s else if x.flows ≤ v then s.runTrap 1 (v % 2 ^ 16) else k x v s

/-- A destination that a slot permits (R397). -/
def Slot.permits (x : Slot) (pkg sett : Nat) : Bool := decide (sett < 48) && bitAt (nth 0 x.dest pkg) sett

/-- A buffer may be sent to a destination: permitted, and ADDR names it (R406). -/
def Slot.mayGo (x : Slot) (bs : List Byte) (pkg sett : Nat) : Bool :=
  x.permits pkg sett && bitsNat (flitAddr bs) 59 54 == pkg && bitsNat (flitAddr bs) 53 48 == sett

/-- Buffered writes of flow state committed. -/
def Slot.commit (x : Slot) (ws : List (Nat × List Byte)) : Slot := { x with store := ws.foldl (fun m w => m.setBytes w.1 w.2) x.store }

/-- The writes committed and the copies sent, in order (R404). -/
def State.runLeaves (s : State) : State :=
  let r := s.run
  let s := s.setSlot r.chip r.slot (fun x => x.commit r.stf)
  r.emits.foldl (fun s bs => s.enqueueFlit r.chip { r.orig with buf := bs, also := [], counts := false }) s

/-- FWD and FWD.C (R404); `merged` are the sources that the sent buffer also counts for. -/
def State.runForward (s : State) (x : Slot) (merged : List Nat) (f : State → State) : State :=
  let r := s.run
  if !x.mayGo r.buf (flitDstPkg r.buf) (flitDstSett r.buf) then s.runTrap 2 0
  else if !s.runRoom (r.emits ++ [r.buf]) then s
  else s.endRun (fun s => f (s.runLeaves.enqueueFlit r.chip { r.orig with buf := r.buf, also := r.orig.also ++ merged }))

/-- The sources a held packet counts for. -/
def QFlit.sources (f : QFlit) : List Nat := (if f.counts then [pairKey (flitPkg f.buf) (flitSett f.buf)] else []) ++ f.also

/-- The hold slot of a flow of the run's slot emptied. -/
def State.unhold (s : State) (flow : Nat) : State :=
  s.setSlot s.run.chip s.run.slot (fun x => { x with holds := FMap.erase x.holds flow })

/-! ### The instructions (R408) -/

/-- LDP (R408). -/
def execLdp (d : BitVec 4) (w : BitVec 3) (s : State) : Out := s.runStep (fun r => r.kPut d (wordAt r.buf w.toNat))

/-- LDP.H (R408). -/
def execLdpH (d : BitVec 4) (f w : BitVec 3) (s : State) : Out :=
  .next (s.withFlow f (fun x v s => s.setRun (fun r =>
    let held := FMap.get? x.holds v
    let y := match held with | some h => wordAt h.buf w.toNat | none => 0
    ({ (r.kPut d y) with f := held.isSome } : Run).goTo (r.pc + 1))))

/-- STP (R402, R408): words 1 to 6 whole, of word 0 bytes 16 to 23, of word 7 bytes 224 to 247. -/
def execStp (k : BitVec 4) (w : BitVec 3) (s : State) : Out := s.runStep (fun r =>
  let bs := bytesOf 32 (r.kGet k).toNat
  let put (a : Nat) (xs : List Byte) : Run := { r with buf := spliceBytes r.buf a xs }
  if w = 0 then put 16 ((bs.drop 16).take 8) else if w = 7 then put 224 (bs.take 24) else put (32 * w.toNat) bs)

/-- Bytes of a flow's state as the run sees them (R403). -/
def flowBytes (x : Slot) (r : Run) (a : Nat) : List Byte :=
  match r.stf.reverse.find? (fun y => y.1 == a) with
  | some y => y.2
  | none => x.store.getBytes a 32

/-- LDF (R408). -/
def execLdf (d : BitVec 4) (f : BitVec 3) (n : BitVec 7) (s : State) : Out :=
  .next (s.withFlow f (fun x v s => s.setRun (fun r =>
    (r.kPut d (BitVec.ofNat 256 (natOf (flowBytes x r (4096 * v + 32 * n.toNat))))).goTo (r.pc + 1))))

/-- STF (R403, R408). -/
def execStf (k : BitVec 4) (f : BitVec 3) (n : BitVec 7) (s : State) : Out :=
  .next (s.withFlow f (fun _ v s => s.setRun (fun r =>
    ({ r with stf := r.stf ++ [(4096 * v + 32 * n.toNat, bytesOf 32 (r.kGet k).toNat)] } : Run).goTo (r.pc + 1))))

/-- The fields LDH reads (R409). -/
def State.ldhField (s : State) (f : Nat) : Nat :=
  let b := s.run.buf
  match f with
  | 0 => flitSett b
  | 1 => flitPkg b
  | 2 => flitDstSett b
  | 3 => flitDstPkg b
  | 4 => if 384 ≤ s.run.orig.port then 1 else 0
  | 5 => flitLen b
  | 6 => fieldAt b 26 1 + 256 * fieldAt b 27 1
  | 7 => flitCtx b
  | 8 => flitAddr b % 2 ^ 32
  | 9 => flitAddr b / 2 ^ 32
  | 10 => fieldAt b 30 2
  | 11 => s.run.orig.stamp % 2 ^ 32
  | 12 => s.run.orig.port
  | 13 => match s.runSlot with | some x => x.flows | none => 0
  | 14 => s.ownPkg
  | _ => s.run.chip

/-- LDH (R409). -/
def execLdh (d : BitVec 3) (f : BitVec 8) (s : State) : Out := s.runStep (fun r => r.xPut d (BitVec.ofNat 32 (s.ldhField f.toNat)))

/-- XADD (R408). -/
def execXadd (d a b : BitVec 3) (s : State) : Out := s.runStep (fun r => r.xPut d (r.xGet a + r.xGet b))
/-- XADD with an immediate (R408). -/
def execXaddImm (d a : BitVec 3) (i : BitVec 16) (s : State) : Out := s.runStep (fun r => r.xPut d (r.xGet a + i.signExtend 32))
/-- XSUB (R408). -/
def execXsub (d a b : BitVec 3) (s : State) : Out := s.runStep (fun r => r.xPut d (r.xGet a - r.xGet b))
/-- XSUB with an immediate (R408). -/
def execXsubImm (d a : BitVec 3) (i : BitVec 16) (s : State) : Out := s.runStep (fun r => r.xPut d (r.xGet a - i.signExtend 32))
/-- XAND (R408). -/
def execXand (d a b : BitVec 3) (s : State) : Out := s.runStep (fun r => r.xPut d (r.xGet a &&& r.xGet b))
/-- XAND with an immediate (R408). -/
def execXandImm (d a : BitVec 3) (i : BitVec 16) (s : State) : Out := s.runStep (fun r => r.xPut d (r.xGet a &&& i.signExtend 32))

/-- XLI (R408): .U writes the high half and keeps the low one. -/
def execXli (d : BitVec 3) (u : Bool) (i : BitVec 16) (s : State) : Out :=
  s.runStep (fun r => r.xPut d (if u then i ++ (r.xGet d).extractLsb' 0 16 else i.signExtend 32))

/-- The conditions of XCMP (R407). -/
def xHolds (k : XCond) (a y : Word32) : Bool :=
  match k with
  | .eq => a == y
  | .ne => a != y
  | .lt => a.slt y
  | .ge => !a.slt y
  | .ltn => a.ult y
  | .gen => !a.ult y

/-- XCMP (R408). -/
def execXcmp (k : XCond) (a b : BitVec 3) (s : State) : Out := s.runStep (fun r => { r with f := xHolds k (r.xGet a) (r.xGet b) })
/-- XCMP with an immediate (R408). -/
def execXcmpImm (k : XCond) (a : BitVec 3) (i : BitVec 16) (s : State) : Out :=
  s.runStep (fun r => { r with f := xHolds k (r.xGet a) (i.signExtend 32) })

/-- BRF (R408). -/
def execBrf (n : Bool) (o : BitVec 10) (s : State) : Out :=
  .next (if s.run.active then s.setRun (fun r => if r.f != n then { r with pc := r.pc + o.toNat } else r.goTo (r.pc + 1)) else s)

/-- REPEAT (R408). -/
def execRepeatN (c : BitVec 5) (l : BitVec 10) (s : State) : Out :=
  .next (if s.run.active then s.setRun (fun r => { r with pc := r.pc + 1, rep := some (r.pc + 1, r.pc + l.toNat, c.toNat) }) else s)

/-- Elements of a 32-byte word. -/
def wordElems (n : Nat) (v : BitVec 256) : List Nat := elemsIn n (bytesOf 32 v.toNat)

/-- Elements as a 32-byte word. -/
def elemsWord (n : Nat) (xs : List Nat) : BitVec 256 := BitVec.ofNat 256 (natOf (xs.flatMap (bytesOf n)))

/-- FMT of R291 for a type. -/
def kTypeFmt : KType → Nat | .f32 => 0 | .bf16 => 1 | .i32 => 3

/-- Flags and a count of elements for the run's slot (R410, R443). -/
def State.runFlags (s : State) (fl : Flags5) (n : Nat) : State :=
  match s.runSlot with
  | none => s
  | some x =>
    (s.setSlot s.run.chip s.run.slot (fun x => { x with flags := x.flags ||| fl })).count x.ctx (bitsNat x.tqbase.toNat 53 48) 14 n

/-- KADD, KMAX and KMIN (R410), as WRITE_REDUCE computes. -/
def State.runReduce (s : State) (rop : Nat) (d a b : BitVec 4) (t : KType) : Out :=
  .next (if !s.run.active then s
    else
      let n := fmtBytes (kTypeFmt t)
      let rs := ((wordElems n (s.run.kGet a)).zip (wordElems n (s.run.kGet b))).map (fun x => reduceElem rop (kTypeFmt t) x.1 x.2)
      let fl := rs.foldl (fun (acc : Flags5) r => acc ||| r.2) 0
      (s.runFlags fl rs.length).setRun (fun r => (r.kPut d (elemsWord n (rs.map Prod.fst))).goTo (r.pc + 1)))

/-- KADD (R410). -/
def execKadd (d a b : BitVec 4) (t : KType) (s : State) : Out := s.runReduce 0 d a b t
/-- KMAX (R410). -/
def execKmax (d a b : BitVec 4) (t : KType) (s : State) : Out := s.runReduce 1 d a b t
/-- KMIN (R410). -/
def execKmin (d a b : BitVec 4) (t : KType) (s : State) : Out := s.runReduce 2 d a b t

/-- Bytes of an element of a format of KCVT. -/
def kFmtBytes : KFmt → Nat | .f32 => 4 | .bf16 => 2 | .e4m3 => 1
/-- The format. -/
def kFmtFmt : KFmt → Fmt | .f32 => fmtF32 | .bf16 => fmtBF16 | .e4m3 => fmtE4M3

/-- KCVT (R410): the word that results and the flags. -/
def kcvtWord (dt st : KFmt) (p : Nat) (old src : BitVec 256) : BitVec 256 × Flags5 :=
  let n := 32 / max (kFmtBytes dt) (kFmtBytes st)
  let from_ := if (kFmtBytes dt) < (kFmtBytes st) then wordElems (kFmtBytes st) src else ((wordElems (kFmtBytes st) src).drop (n * p)).take n
  let rs := from_.map (fun x => (kFmtFmt dt).round ((kFmtFmt st).value x) false .rne (dt == .e4m3))
  let bs := (rs.map Prod.fst).flatMap (bytesOf (kFmtBytes dt))
  let out := if (kFmtBytes dt) < (kFmtBytes st) then spliceBytes (bytesOf 32 old.toNat) (n * (kFmtBytes dt) * p) bs else bs
  (BitVec.ofNat 256 (natOf out), rs.foldl (fun (acc : Flags5) r => acc ||| r.2) 0)

/-- KCVT (R410). -/
def execKcvt (d a : BitVec 4) (dt st : KFmt) (p : BitVec 2) (s : State) : Out :=
  .next (if !s.run.active then s
    else
      let (v, fl) := kcvtWord dt st p.toNat (s.run.kGet d) (s.run.kGet a)
      (s.runFlags fl (32 / max (kFmtBytes dt) (kFmtBytes st))).setRun (fun r => (r.kPut d v).goTo (r.pc + 1)))

/-- FWD (R404). -/
def execFwd (s : State) : Out :=
  .next (match s.runSlot with
    | none => s
    | some x => if s.run.active then s.runForward x [] id else s)

/-- FWD.C (R404): the packet the flow holds is merged. -/
def execFwdC (f : BitVec 3) (s : State) : Out :=
  .next (s.withFlow f (fun x v s => s.runForward x (match FMap.get? x.holds v with | some h => h.sources | none => []) (fun s => s.unhold v)))

/-- DROP (R404). -/
def execDrop (s : State) : Out := .next (if s.run.active && s.runRoom s.run.emits then s.endRun State.runLeaves else s)

/-- DROP.C (R404): the packet the flow holds is discarded too. -/
def execDropC (f : BitVec 3) (s : State) : Out := .next (s.withFlow f (fun _ v s =>
  if !s.runRoom s.run.emits then s else s.endRun (fun s => s.runLeaves.unhold v)))

/-- EMIT (R408): a copy of the buffer, addressed anew. -/
def execEmit (a : BitVec 3) (s : State) : Out :=
  .next (match s.runSlot with
    | none => s
    | some x =>
      if !s.run.active then s
      else
        let v := (s.run.xGet a).toNat
        let sett := bitsNat v 5 0
        let pkg := bitsNat v 11 6
        if v / 2 ^ 12 ≠ 0 ∨ !x.mayGo s.run.buf pkg sett then s.runTrap 2 0
        else s.setRun (fun r => ({ r with emits := r.emits ++ [spliceBytes r.buf 4 (bytesOf 2 (v % 2 ^ 12))] } : Run).goTo (r.pc + 1)))

/-- HOLD (R404): a packet the flow holds goes on unchanged, and the buffer takes its place. -/
def execHold (f : BitVec 3) (s : State) : Out :=
  .next (s.withFlow f (fun x v s =>
    if !s.runRoom (s.run.emits ++ (match FMap.get? x.holds v with | some h => [h.buf] | none => [])) then s
    else s.endRun (fun s =>
    let r := s.run
    let s := s.runLeaves
    let s := match FMap.get? x.holds v with | some h => s.enqueueFlit r.chip h | none => s
    s.setSlot r.chip r.slot (fun y => { y with holds := FMap.set y.holds v { r.orig with buf := r.buf } }))))

/-- KTRAP (R406). -/
def execKtrap (c : BitVec 16) (s : State) : Out := .next (if s.run.active then s.runTrap 3 c.toNat else s)

end Sys2Proof.Machine
end

