-- ==== Sys2Proof/Machine/Bringup.lean ====
section
/-!
DEFINITION. Bring-up and power (R445, R446), sett reset and defect maps (R110, R372 to R376), the time servo (R424, R425),
the GRANDMASTER command (R439, R447), and errors of the register file (R108).
-/

namespace Sys2Proof.Machine

/-! ### SHA-256 (R445) -/

/-- The round constants. -/
def shaK : List Word32 :=
  [0x428a2f98#32, 0x71374491#32, 0xb5c0fbcf#32, 0xe9b5dba5#32, 0x3956c25b#32, 0x59f111f1#32, 0x923f82a4#32, 0xab1c5ed5#32,
   0xd807aa98#32, 0x12835b01#32, 0x243185be#32, 0x550c7dc3#32, 0x72be5d74#32, 0x80deb1fe#32, 0x9bdc06a7#32, 0xc19bf174#32,
   0xe49b69c1#32, 0xefbe4786#32, 0x0fc19dc6#32, 0x240ca1cc#32, 0x2de92c6f#32, 0x4a7484aa#32, 0x5cb0a9dc#32, 0x76f988da#32,
   0x983e5152#32, 0xa831c66d#32, 0xb00327c8#32, 0xbf597fc7#32, 0xc6e00bf3#32, 0xd5a79147#32, 0x06ca6351#32, 0x14292967#32] ++
  [0x27b70a85#32, 0x2e1b2138#32, 0x4d2c6dfc#32, 0x53380d13#32, 0x650a7354#32, 0x766a0abb#32, 0x81c2c92e#32, 0x92722c85#32,
   0xa2bfe8a1#32, 0xa81a664b#32, 0xc24b8b70#32, 0xc76c51a3#32, 0xd192e819#32, 0xd6990624#32, 0xf40e3585#32, 0x106aa070#32,
   0x19a4c116#32, 0x1e376c08#32, 0x2748774c#32, 0x34b0bcb5#32, 0x391c0cb3#32, 0x4ed8aa4a#32, 0x5b9cca4f#32, 0x682e6ff3#32,
   0x748f82ee#32, 0x78a5636f#32, 0x84c87814#32, 0x8cc70208#32, 0x90befffa#32, 0xa4506ceb#32, 0xbef9a3f7#32, 0xc67178f2#32]

/-- The initial state. -/
def shaInit : List Word32 :=
  [0x6a09e667#32, 0xbb67ae85#32, 0x3c6ef372#32, 0xa54ff53a#32, 0x510e527f#32, 0x9b05688c#32, 0x1f83d9ab#32, 0x5be0cd19#32]

/-- The message schedule, `n` words beyond those given, the newest first. -/
def shaSchedule : Nat → List Word32 → List Word32
  | 0, ws => ws
  | n + 1, ws =>
    let w (k : Nat) : Word32 := nth 0 ws k
    let s0 := (w 14).rotateRight 7 ^^^ (w 14).rotateRight 18 ^^^ (w 14 >>> 3)
    let s1 := (w 1).rotateRight 17 ^^^ (w 1).rotateRight 19 ^^^ (w 1 >>> 10)
    shaSchedule n ((w 15 + s0 + w 6 + s1) :: ws)

/-- One round. -/
def shaRound (h : List Word32) (kw : Word32 × Word32) : List Word32 :=
  match h with
  | [a, b, c, d, e, f, g, x] =>
    let t1 := x + (e.rotateRight 6 ^^^ e.rotateRight 11 ^^^ e.rotateRight 25) + ((e &&& f) ^^^ (~~~e &&& g)) + kw.1 + kw.2
    let t2 := (a.rotateRight 2 ^^^ a.rotateRight 13 ^^^ a.rotateRight 22) + ((a &&& b) ^^^ (a &&& c) ^^^ (b &&& c))
    [t1 + t2, a, b, c, d + t1, e, f, g]
  | h => h

/-- Bytes as big-endian words. -/
def beWords (bs : List Byte) : List Word32 := (chunks 4 bs.length bs).map (fun x => BitVec.ofNat 32 (natOf x.reverse))

/-- One block of 64 bytes. -/
def shaBlock (h : List Word32) (block : List Byte) : List Word32 :=
  let ws := (shaSchedule 48 (beWords block).reverse).reverse
  (h.zip ((shaK.zip ws).foldl shaRound h)).map (fun x => x.1 + x.2)

/-- SHA-256 of bytes. -/
def sha256 (bs : List Byte) : List Byte :=
  let padded := bs ++ [0x80#8] ++ List.replicate ((119 - bs.length % 64) % 64) 0#8 ++ (bytesOf 8 (8 * bs.length)).reverse
  ((chunks 64 padded.length padded).foldl shaBlock shaInit).flatMap (fun w => (bytesOf 4 w.toNat).reverse)

/-! ### Images and measurements (R445) -/

/-- The images a module verifies: its own firmware, the sett firmware, the Ashlar and the command-processor firmware. -/
def imageKinds : List Nat := [0, 1, 2, 3]

/-- Some copy of each image verifies. -/
def Sett.imagesOk (x : Sett) : Bool := imageKinds.all (fun i => !(x.badImages.contains (2 * i) && x.badImages.contains (2 * i + 1)))

/-- A measurement extends its register. -/
def Sett.measureImage (module : Nat) (x : Sett) (i : Nat) : Sett :=
  let k := Config.measureSlot i % 8
  let digest := sha256 (bytesOf 32 (nth 0 x.measure k).toNat ++ bytesOf 32 (Config.measurement module i).toNat)
  { x with measure := x.measure.set k (BitVec.ofNat 256 (natOf digest)) }

/-! ### Sett reset (R110, R217, R369 to R376) -/

/-- A kind of R372 that is not reserved. -/
def knownKind (d : Defect) : Bool := decide (1 ≤ d.kind) && decide (d.kind ≤ 7)

/-- The newest trailer that verifies. -/
def Sett.goodTrailer (x : Sett) : Option Trailer := x.trailers.find? (fun t => t.valid)

/-- More slices have failed than the 8 spares of 264 can stand in for (R217, R371). -/
def slicesFail (m : List Defect) : Bool := decide (8 < (sortNat ((m.filter (fun d => d.kind == 4)).map (fun d => d.index))).length)

/-- The merged map (R374): the sett is withdrawn where R371 says. -/
def Sett.merge (x : Sett) : Sett :=
  match x.goodTrailer with
  | none => { x with withdrawn := true, merged := [] }
  | some t =>
    if !x.factoryOk ∨ t.count < x.mergeMark then { x with withdrawn := true, merged := [] }
    else
      let m := (x.factory ++ x.delta.take t.count).filter knownKind
      { x with merged := m, mapGen := (x.baseGen + t.count) % 2 ^ 32, mergeMark := t.count, withdrawn := slicesFail m }

/-- What a self-test may find (R373): a core, tile, bank or slice of its sett that no entry holds which a trailer covers. -/
def Sett.selfTest (n : Nat) (x : Sett) (ds : List Defect) : Sett :=
  (ds.filter (fun d => d.sett == n && decide (1 ≤ d.kind) && decide (d.kind ≤ 4))).foldl
    (fun x d =>
      let covered := match x.goodTrailer with | some t => x.delta.take t.count | none => []
      if covered.contains d || x.factory.contains d then x else x.append d) x

/-- The ports that the merged map leaves (R372, R382): defective ports, and ports with fewer than 16 wavelengths, are down. -/
def portsOf (m : List Defect) : FMap Port :=
  (upTo 0 16).foldl (fun (ps : FMap Port) p =>
    let lanes := sortNat ((m.filter (fun d => d.kind == 6 && d.index / 32 == p)).map (fun d => d.index % 32))
    let dead := m.any (fun d => d.kind == 5 && d.index == p)
    if dead || !lanes.isEmpty then
      FMap.set ps p { Port.init with
        up := !dead && decide (lanes.length ≤ 16), mask := 2 ^ 32 - 1 - bitsOf lanes }
    else ps) []

/-- A sett after its reset: the self-test's entries appended, the map merged, counters and counts at 0 (R109, R293). -/
def Sett.reset (n : Nat) (ds : List Defect) (x : Sett) : Sett :=
  let x := (x.selfTest n ds).merge
  { x with counters := [], entries := [], regcorr := [], corrected := [], ports := portsOf x.merged }

/-- The rows that setts retire for their seams, from their reset on (R368, R376). -/
def State.cutSeams (s : State) (ns : List Nat) : State :=
  { s with setts := s.setts.map (fun x => if ns.contains x.1 then (x.1, { x.2 with seamCut := seamRows s x.1 }) else x) }

/-- No context is resident on a sett (R376). -/
def State.settFree (s : State) (n : Nat) : Bool :=
  !s.ctxs.any (fun c => c.2.setts.contains n) && !s.teams.any (fun t => t.status == .running && t.sett == n)

/-- SETT_RESET (R374, R376). -/
def execSettReset (sett : Nat) (selfTest : List Defect) (s : State) : Out :=
  .next (if 48 ≤ sett ∨ s.bringup < 2 ∨ !s.settFree sett then s else (s.setSett sett (Sett.reset sett selfTest)).cutSeams [sett])

/-- REGISTER_WORD_CORRECTION_LIMIT (R110): the bank of a word corrected four times joins the delta log. -/
def execRegisterWordCorrectionLimit (sett core column bank : Nat) (s : State) : Out :=
  .next (
    let p := s.physical sett core
    let d : Defect := { kind := 3, sett := sett, prow := p.1, pcol := p.2, index := column * 12 + bank }
    let x := s.sett sett
    if x.corrected.any (fun y => y.1 / 512 == (core * 32 + column) * 12 + bank && decide (4 ≤ y.2)) && decide (column < 32)
        && decide (bank < 12) && !x.delta.contains d
      then s.setSett sett (fun x => x.append d)
      else s)

/-- A seam that R372 numbers. -/
def seamOk (seam : Nat) : Bool :=
  decide (seam < 192) && ((seam % 4 == 0 && decide (seam / 4 % 8 < 7)) || (seam % 4 == 1 && decide (seam / 4 < 40)))

/-- One hour of GTC, in ticks. -/
def hourTicks : Nat := 3600000000000

/-- SEAM_LINK_LOCK_LOSS (R373): a seam link loses lock; the third loss within one hour joins the delta log of the sett that
the seam is numbered by. -/
def execSeamLinkLockLoss (seam link : Nat) (s : State) : Out :=
  .next (if !seamOk seam ∨ 18 ≤ link then s
    else s.setSett (seam / 4) (fun x =>
      let losses := (seam, link, s.gtc) :: x.seamLosses.filter (fun l => decide (s.gtc ≤ l.2.2 + hourTicks))
      let d : Defect := { kind := 7, sett := seam / 4, prow := 0, pcol := 0, index := seam * 18 + link }
      let x := { x with seamLosses := losses }
      if 3 ≤ (losses.filter (fun l => l.1 == seam && l.2.1 == link)).length ∧ !x.delta.contains d then x.append d else x))

/-! ### Power and bring-up (R446) -/

/-- A sett in step 1: its images measured where they verify. -/
def Sett.measureAll (n : Nat) (x : Sett) : Sett := imageKinds.foldl (Sett.measureImage n) x

/-- POWER_ON (R446): steps 1 to 4, or step 1 alone where an image has no copy that verifies (R445). -/
def execPowerOn (selfTest : List Defect) (s : State) : Out :=
  .next (if s.bringup ≠ 0 then s
    else if !(upTo 0 48).all (fun n => (s.sett n).imagesOk) then { s with bringup := 1 }
    else
      let x (n : Nat) : Sett := ((s.sett n).measureAll n).reset n selfTest
      State.cutSeams { s with setts := (upTo 0 48).map (fun n => (n, x n)), bringup := 4 } (upTo 0 48))

/-- What a module's store keeps without power (R372 to R374, R445). -/
def Sett.kept (x : Sett) : Sett :=
  { Sett.init with
    factoryOk := x.factoryOk, factory := x.factory, baseGen := x.baseGen, delta := x.delta, trailers := x.trailers,
    mergeMark := x.mergeMark, badImages := x.badImages }

/-- The newest trailer was not yet whole when power failed (R374), which is possible only while no merge has used it. -/
def Sett.tear (x : Sett) : Sett :=
  match x.trailers with
  | t :: ts => if x.mergeMark < t.count ∧ !ts.isEmpty then { x with trailers := { t with valid := false } :: ts } else x
  | [] => x

/-- POWER_LOSS (R374): only the non-volatile stores remain. -/
def execPowerLoss (torn : List Nat) (s : State) : Out :=
  .next { State.reset with
    setts := s.setts.map (fun x => (x.1, if torn.contains x.1 then x.2.tear.kept else x.2.kept)),
    agenda := s.agenda, free := s.free, tick := s.tick }

/-- The highest HLP level common to the MW-48's 1 to 2 and a partner's range (R440). -/
def hlpLevel (lo hi : Nat) : Option Nat := if max 1 lo ≤ min 2 hi then some (min 2 hi) else none

/-- UCIE_LINK_UP (R440, R446 steps 5 and 6): the site's ring exists with both its indices 0, or the site stays down. -/
def execUcieLinkUp (site lo hi : Nat) (s : State) : Out :=
  .next (match hlpLevel lo hi with
    | none => s
    | some l =>
      if 4 ≤ site ∨ s.bringup < 4 ∨ (FMap.get? s.sites site).any (fun x => x.level != 0) then s
      else
        let x : Site := { level := l, rd := 0, db := 0, seen := [] }
        { s with sites := FMap.set s.sites site x, bringup := max s.bringup 6 })

/-! ### Time (R424, R425, R447) -/

/-- Step 7 of R446 is over once the servo is locked. -/
def State.lockServo (s : State) : State := { s with locked := true, stepped := true, bringup := max s.bringup 8 }

/-- GRANDMASTER (R439, R447): step 7 of R446 begins; a package that is its own grandmaster is locked at once. -/
def execGrandmaster (s : State) : Out :=
  .next (
    let gm := s.param 0
    let own := s.param 1
    let mask := nth 0 s.hcmd.params 2
    if s.bringup < 6 then s
    else if s.hcmd.ctx ≠ 0 ∨ (s.hcmd.params.drop 3).any (fun w => w != 0) ∨ 64 ≤ gm ∨ 64 ≤ own ∨ !mask.getLsbD gm
        ∨ !mask.getLsbD own then s.hostDone 7
    else if (own ≠ s.ownPkg ∨ mask ≠ s.domain) ∧ !s.ctxs.isEmpty then s.hostDone 8
    else
      let s : State := { s with grandmaster := gm, ownPkg := own, domain := mask, locked := false, bringup := 7 }
      (if gm = own then s.lockServo else s).hostDone 1)

/-- The offset of a two-step exchange: how far this package's GTC is ahead of the grandmaster's. -/
def PtpOffset (p : PtpMsg) : Int := (((p.t2 : Int) - p.t1) - ((p.t4 : Int) - p.t3)) / 2

/-- A rate within the servo's bound of 100 ppm. -/
def boundRate (r : Int) : Int := max (-100) (min 100 r)

/-- PTP_MESSAGE (R424): the servo changes the rate; before its first lock, and before any context, GTC may step forward
once; an offset within the servo's error of 5 ns is lock. -/
def execPtpMessage (p : PtpMsg) (s : State) : Out :=
  .next (if s.bringup < 7 ∨ s.grandmaster = s.ownPkg then s
    else
      let o := PtpOffset p
      let s : State := { s with rate := boundRate (Config.servoRate o) }
      if s.locked then s
      else if o < -5 ∧ !s.stepped ∧ s.ctxs.isEmpty then State.lockServo { s with gtc := s.gtc + (-o).toNat }
      else if -5 ≤ o ∧ o ≤ 5 then s.lockServo
      else s)

/-- GTCSKEW_RECOMPUTE (R425): BOUND from the largest asymmetry measured, while the servo is locked. -/
def execGtcskewRecompute (asymmetry : Nat) (s : State) : Out :=
  .next (if s.locked then { s with skewBound := min 0xFFFF (2 + 5 + asymmetry) } else s)

/-- PTP_LOCK_LOST (R425): holdover begins. -/
def execPtpLockLost (s : State) : Out :=
  .next (if s.locked ∧ s.grandmaster ≠ s.ownPkg then { s with locked := false, holdover := s.gtc } else s)

/-- GTCSKEW_HOLDOVER (R425): BOUND grows by 1 for each 100 us of holdover. -/
def execGtcskewHoldover (s : State) : Out :=
  .next (if !s.locked ∧ s.holdover + 100000 ≤ s.gtc then
      { s with skewBound := min 0xFFFF (s.skewBound + 1), holdover := s.holdover + 100000 }
    else s)

/-! ### Errors of the register file (R108) -/

/-- A number put into a list once. -/
def insertOnce (w : Nat) (xs : List Nat) : List Nat := if xs.contains w then xs else w :: xs

/-- A lane's word, or its predicates, with an error. -/
def Lane.strike (x : Lane) (word : Option Nat) (double : Bool) : Lane :=
  match word with
  | some w =>
    if x.regs.length ≤ w then x
    else if double then { x with bad := insertOnce w x.bad, soft := x.soft.filter (fun j => j != w) }
    else if x.bad.contains w then x else { x with soft := insertOnce w x.soft }
  | none => if double then { x with badPreds := true, softPreds := false } else { x with softPreds := !x.badPreds }

/-- REGISTER_WORD_ERROR (R108): nothing is seen of it before a read by an active lane. -/
def execRegisterWordError (lane : Nat) (word : Option Nat) (double : Bool) (s : State) : Out :=
  .next (if s.cur.lanes.length ≤ lane then s else s.setCur (fun t => t.setLane lane (fun x => x.strike word double)))

end Sys2Proof.Machine
end

