-- ==== Sys2Proof/Machine/Dispatch.lean ====
section
/-!
DEFINITION. The one dispatch from an instruction to its meaning (opcode_table.json).
-/

namespace Sys2Proof.Machine

/-- The meaning of every instruction and step. -/
def exec (i : Instr) (s : State) : Host.Outcome State Fault Refusal :=
  match i with
  | .sadd d a b => Sys2Proof.Machine.execSadd d a b s
  | .ssub d a b => Sys2Proof.Machine.execSsub d a b s
  | .smul d a b => Sys2Proof.Machine.execSmul d a b s
  | .smulh d a b => Sys2Proof.Machine.execSmulh d a b s
  | .smulhn d a b => Sys2Proof.Machine.execSmulhn d a b s
  | .sdiv d a b => Sys2Proof.Machine.execSdiv d a b s
  | .sdivn d a b => Sys2Proof.Machine.execSdivn d a b s
  | .srem d a b => Sys2Proof.Machine.execSrem d a b s
  | .sremn d a b => Sys2Proof.Machine.execSremn d a b s
  | .sand d a b => Sys2Proof.Machine.execSand d a b s
  | .sor d a b => Sys2Proof.Machine.execSor d a b s
  | .sxor d a b => Sys2Proof.Machine.execSxor d a b s
  | .sshl d a b => Sys2Proof.Machine.execSshl d a b s
  | .sshr d a b => Sys2Proof.Machine.execSshr d a b s
  | .ssra d a b => Sys2Proof.Machine.execSsra d a b s
  | .smin d a b => Sys2Proof.Machine.execSmin d a b s
  | .smax d a b => Sys2Proof.Machine.execSmax d a b s
  | .sminn d a b => Sys2Proof.Machine.execSminn d a b s
  | .smaxn d a b => Sys2Proof.Machine.execSmaxn d a b s
  | .scmp k c a b => Sys2Proof.Machine.execScmp k c a b s
  | .ssel d a b c => Sys2Proof.Machine.execSsel d a b c s
  | .sclz d a => Sys2Proof.Machine.execSclz d a s
  | .spopc d a => Sys2Proof.Machine.execSpopc d a s
  | .saddi d a imm => Sys2Proof.Machine.execSaddi d a imm s
  | .sandi d a imm => Sys2Proof.Machine.execSandi d a imm s
  | .sori d a imm => Sys2Proof.Machine.execSori d a imm s
  | .sxori d a imm => Sys2Proof.Machine.execSxori d a imm s
  | .sshli d a n => Sys2Proof.Machine.execSshli d a n s
  | .sshri d a n => Sys2Proof.Machine.execSshri d a n s
  | .ssrai d a n => Sys2Proof.Machine.execSsrai d a n s
  | .scmpi k c a imm => Sys2Proof.Machine.execScmpi k c a imm s
  | .sli d imm => Sys2Proof.Machine.execSli d imm s
  | .sext imm => Sys2Proof.Machine.execSext imm s
  | .sbr c neg o => Sys2Proof.Machine.execSbr c neg o s
  | .sjmp o => Sys2Proof.Machine.execSjmp o s
  | .scall o => Sys2Proof.Machine.execScall o s
  | .sret a => Sys2Proof.Machine.execSret a s
  | .sjmpr d a => Sys2Proof.Machine.execSjmpr d a s
  | .sloop l c o => Sys2Proof.Machine.execSloop l c o s
  | .sldw d a imm => Sys2Proof.Machine.execSldw d a imm s
  | .sldd d a imm => Sys2Proof.Machine.execSldd d a imm s
  | .sstw d a imm => Sys2Proof.Machine.execSstw d a imm s
  | .sstd d a imm => Sys2Proof.Machine.execSstd d a imm s
  | .satom d a b ord word op => Sys2Proof.Machine.execSatom d a b ord word op s
  | .lgo imm => Sys2Proof.Machine.execLgo imm s
  | .srd d n => Sys2Proof.Machine.execSrd d n s
  | .swr a n => Sys2Proof.Machine.execSwr a n s
  | .trap n => Sys2Proof.Machine.execTrap n s
  | .waitt a => Sys2Proof.Machine.execWaitt a s
  | .chdef a b l h => Sys2Proof.Machine.execChdef a b l h s
  | .chadvP a h => Sys2Proof.Machine.execChadvP a h s
  | .chadvC a h => Sys2Proof.Machine.execChadvC a h s
  | .chwaitCnt a h => Sys2Proof.Machine.execChwaitCnt a h s
  | .chwaitRoom a h => Sys2Proof.Machine.execChwaitRoom a h s
  | .mvcopy a dec => Sys2Proof.Machine.execMvcopy a dec s
  | .mvgath a => Sys2Proof.Machine.execMvgath a s
  | .mvfill a => Sys2Proof.Machine.execMvfill a s
  | .tmma a bord aord zero hb ha => Sys2Proof.Machine.execTmma a bord aord zero hb ha s
  | .taccZero a => Sys2Proof.Machine.execTaccZero a s
  | .taccLoad a h => Sys2Proof.Machine.execTaccLoad a h s
  | .taccStore a h => Sys2Proof.Machine.execTaccStore a h s
  | .taccStoreBf16 a h => Sys2Proof.Machine.execTaccStoreBf16 a h s
  | .taccStoreE4m3 a satf h => Sys2Proof.Machine.execTaccStoreE4m3 a satf h s
  | .twait d w => Sys2Proof.Machine.execTwait d w s
  | .spanopen a => Sys2Proof.Machine.execSpanopen a s
  | .spanmma a keep zero ha hb => Sys2Proof.Machine.execSpanmma a keep zero ha hb s
  | .dfence a b => Sys2Proof.Machine.execDfence a b s
  | .qpost a arrive => Sys2Proof.Machine.execQpost a arrive s
  | .cntset a b => Sys2Proof.Machine.execCntset a b s
  | .cntadd a b arrive remote => Sys2Proof.Machine.execCntadd a b arrive remote s
  | .cntwait a b => Sys2Proof.Machine.execCntwait a b s
  | .cntwaitNowait a b c => Sys2Proof.Machine.execCntwaitNowait a b c s
  | .barx a sc => Sys2Proof.Machine.execBarx a sc s
  | .spmap a b we => Sys2Proof.Machine.execSpmap a b we s
  | .spunmap a b => Sys2Proof.Machine.execSpunmap a b s
  | .spmig a c => Sys2Proof.Machine.execSpmig a c s
  | .tlaunch a => Sys2Proof.Machine.execTlaunch a s
  | .phint imm => Sys2Proof.Machine.execPhint imm s
  | .pgmap a b x w r key size => Sys2Proof.Machine.execPgmap a b x w r key size s
  | .enres a => Sys2Proof.Machine.execEnres a s
  | .enresNowait a c => Sys2Proof.Machine.execEnresNowait a c s
  | .fstatWrite a => Sys2Proof.Machine.execFstatWrite a s
  | .fmodeWrite a => Sys2Proof.Machine.execFmodeWrite a s
  | .srseedWrite a => Sys2Proof.Machine.execSrseedWrite a s
  | .pkrWrite a => Sys2Proof.Machine.execPkrWrite a s
  | .loopRegisterWrite a r => Sys2Proof.Machine.execLoopRegisterWrite a r s
  | .vadd h x => Sys2Proof.Machine.execVadd h x s
  | .vsub h x => Sys2Proof.Machine.execVsub h x s
  | .vmul h x => Sys2Proof.Machine.execVmul h x s
  | .vmulh h => Sys2Proof.Machine.execVmulh h s
  | .vmad h x => Sys2Proof.Machine.execVmad h x s
  | .vmin h => Sys2Proof.Machine.execVmin h s
  | .vmax h => Sys2Proof.Machine.execVmax h s
  | .vabs h x => Sys2Proof.Machine.execVabs h x s
  | .vneg h x => Sys2Proof.Machine.execVneg h x s
  | .vand h => Sys2Proof.Machine.execVand h s
  | .vor h => Sys2Proof.Machine.execVor h s
  | .vxor h => Sys2Proof.Machine.execVxor h s
  | .vnot h => Sys2Proof.Machine.execVnot h s
  | .vshl h => Sys2Proof.Machine.execVshl h s
  | .vshr h => Sys2Proof.Machine.execVshr h s
  | .vsra h => Sys2Proof.Machine.execVsra h s
  | .vrol h => Sys2Proof.Machine.execVrol h s
  | .vclz h => Sys2Proof.Machine.execVclz h s
  | .vpopc h => Sys2Proof.Machine.execVpopc h s
  | .vbfx h => Sys2Proof.Machine.execVbfx h s
  | .vbfi h => Sys2Proof.Machine.execVbfi h s
  | .vdot4 h x => Sys2Proof.Machine.execVdot4 h x s
  | .vcmp h x => Sys2Proof.Machine.execVcmp h x s
  | .vsel h x => Sys2Proof.Machine.execVsel h x s
  | .plop h x => Sys2Proof.Machine.execPlop h x s
  | .vmov h => Sys2Proof.Machine.execVmov h s
  | .vli g t d imm => Sys2Proof.Machine.execVli g t d imm s
  | .vshfl h x => Sys2Proof.Machine.execVshfl h x s
  | .vbcast h x => Sys2Proof.Machine.execVbcast h x s
  | .vreduce h x => Sys2Proof.Machine.execVreduce h x s
  | .vscan h x => Sys2Proof.Machine.execVscan h x s
  | .vvote h x => Sys2Proof.Machine.execVvote h x s
  | .bra g target d x => Sys2Proof.Machine.execBra g target d x s
  | .brx h x => Sys2Proof.Machine.execBrx h x s
  | .skip h x => Sys2Proof.Machine.execSkip h x s
  | .join h => Sys2Proof.Machine.execJoin h s
  | .lend h => Sys2Proof.Machine.execLend h s
  | .yieldl h => Sys2Proof.Machine.execYieldl h s
  | .ltrap h x => Sys2Proof.Machine.execLtrap h x s
  | .vfadd h x => Sys2Proof.Machine.execVfadd h x s
  | .vfsub h x => Sys2Proof.Machine.execVfsub h x s
  | .vfmul h x => Sys2Proof.Machine.execVfmul h x s
  | .vfma h x => Sys2Proof.Machine.execVfma h x s
  | .vfmin h => Sys2Proof.Machine.execVfmin h s
  | .vfmax h => Sys2Proof.Machine.execVfmax h s
  | .vfdiv h x => Sys2Proof.Machine.execVfdiv h x s
  | .vfsqrt h x => Sys2Proof.Machine.execVfsqrt h x s
  | .vfrcp h => Sys2Proof.Machine.execVfrcp h s
  | .vfrsq h => Sys2Proof.Machine.execVfrsq h s
  | .vfexp2 h => Sys2Proof.Machine.execVfexp2 h s
  | .vflog2 h => Sys2Proof.Machine.execVflog2 h s
  | .vfsin h => Sys2Proof.Machine.execVfsin h s
  | .vfcos h => Sys2Proof.Machine.execVfcos h s
  | .vfclass h => Sys2Proof.Machine.execVfclass h s
  | .vfrnd h x => Sys2Proof.Machine.execVfrnd h x s
  | .vfsgn h x => Sys2Proof.Machine.execVfsgn h x s
  | .vfexpo h => Sys2Proof.Machine.execVfexpo h s
  | .vcvt h x => Sys2Proof.Machine.execVcvt h x s
  | .vpack h x => Sys2Proof.Machine.execVpack h x s
  | .vunpk h x => Sys2Proof.Machine.execVunpk h x s
  | .vld h x => Sys2Proof.Machine.execVld h x s
  | .vst h x => Sys2Proof.Machine.execVst h x s
  | .vatom h x => Sys2Proof.Machine.execVatom h x s
  | .vcas h x => Sys2Proof.Machine.execVcas h x s
  | .vpref h x => Sys2Proof.Machine.execVpref h x s
  | .fence h x => Sys2Proof.Machine.execFence h x s
  | .bar h x => Sys2Proof.Machine.execBar h x s
  | .fmma h => Sys2Proof.Machine.execFmma h s
  | .fld h x => Sys2Proof.Machine.execFld h x s
  | .fst h x => Sys2Proof.Machine.execFst h x s
  | .watchdogFire path => Sys2Proof.Machine.execWatchdogFire path s
  | .lineArrival frame line => Sys2Proof.Machine.execLineArrival frame line s
  | .globalRequest r => Sys2Proof.Machine.execGlobalRequest r s
  | .globalReply tag ext => Sys2Proof.Machine.execGlobalReply tag ext s
  | .engineCommandFire matrix => Sys2Proof.Machine.execEngineCommandFire matrix s
  | .moverOperationComplete op ext => Sys2Proof.Machine.execMoverOperationComplete op ext s
  | .matrixOperationComplete op => Sys2Proof.Machine.execMatrixOperationComplete op s
  | .spanRoundComplete op => Sys2Proof.Machine.execSpanRoundComplete op s
  | .cleEntryComplete sett entry ext => Sys2Proof.Machine.execCleEntryComplete sett entry ext s
  | .cleEntryFaulted sett entry => Sys2Proof.Machine.execCleEntryFaulted sett entry s
  | .remoteCounterIncrement sett => Sys2Proof.Machine.execRemoteCounterIncrement sett s
  | .barxArrival sett => Sys2Proof.Machine.execBarxArrival sett s
  | .releaseFlagApply sett => Sys2Proof.Machine.execReleaseFlagApply sett s
  | .controlMessageReceived sett m => Sys2Proof.Machine.execControlMessageReceived sett m s
  | .faultEventPost ctx => Sys2Proof.Machine.execFaultEventPost ctx s
  | .faultCompletionEntry ctx => Sys2Proof.Machine.execFaultCompletionEntry ctx s
  | .stopCut ctx => Sys2Proof.Machine.execStopCut ctx s
  | .save ctx => Sys2Proof.Machine.execSave ctx s
  | .userQueueDoorbell site queue value => Sys2Proof.Machine.execUserQueueDoorbell site queue value s
  | .packetStart site => Sys2Proof.Machine.execPacketStart site s
  | .gangPlacement grid => Sys2Proof.Machine.execGangPlacement grid s
  | .gridComplete grid => Sys2Proof.Machine.execGridComplete grid s
  | .tailChildStart grid => Sys2Proof.Machine.execTailChildStart grid s
  | .hostMemoryAccess site off acc => Sys2Proof.Machine.execHostMemoryAccess site off acc s
  | .hostRingDoorbell site value => Sys2Proof.Machine.execHostRingDoorbell site value s
  | .energyCharge sett bill => Sys2Proof.Machine.execEnergyCharge sett bill s
  | .clusterPowerDown sett cluster => Sys2Proof.Machine.execClusterPowerDown sett cluster s
  | .inrushTokenRelease sett => Sys2Proof.Machine.execInrushTokenRelease sett s
  | .collectiveRunStart group => Sys2Proof.Machine.execCollectiveRunStart group s
  | .chunkCommit group => Sys2Proof.Machine.execChunkCommit group s
  | .collectiveDeadlineExpiry group => Sys2Proof.Machine.execCollectiveDeadlineExpiry group s
  | .collectiveLossEnd group => Sys2Proof.Machine.execCollectiveLossEnd group s
  | .collectiveRecovery group => Sys2Proof.Machine.execCollectiveRecovery group s
  | .abortApply group sett => Sys2Proof.Machine.execAbortApply group sett s
  | .abortFinish group => Sys2Proof.Machine.execAbortFinish group s
  | .linkFlitReceived link flit => Sys2Proof.Machine.execLinkFlitReceived link flit s
  | .linkDown link => Sys2Proof.Machine.execLinkDown link s
  | .linkLossOfLock link => Sys2Proof.Machine.execLinkLossOfLock link s
  | .retrainRequest sett port rate mask => Sys2Proof.Machine.execRetrainRequest sett port rate mask s
  | .retrainComplete sett port rate mask fabric => Sys2Proof.Machine.execRetrainComplete sett port rate mask fabric s
  | .deliveryTimeout tag => Sys2Proof.Machine.execDeliveryTimeout tag s
  | .controlMessageTimeout sett m => Sys2Proof.Machine.execControlMessageTimeout sett m s
  | .flitTraversal chip port flit => Sys2Proof.Machine.execFlitTraversal chip port flit s
  | .voqTransmit chip port => Sys2Proof.Machine.execVoqTransmit chip port s
  | .circuitLit pkg => Sys2Proof.Machine.execCircuitLit pkg s
  | .slotUnloadTakesEffect chip slot => Sys2Proof.Machine.execSlotUnloadTakesEffect chip slot s
  | .ldp d w => Sys2Proof.Machine.execLdp d w s
  | .ldpH d f w => Sys2Proof.Machine.execLdpH d f w s
  | .stp r w => Sys2Proof.Machine.execStp r w s
  | .ldf d f n => Sys2Proof.Machine.execLdf d f n s
  | .stf r f n => Sys2Proof.Machine.execStf r f n s
  | .ldh d f => Sys2Proof.Machine.execLdh d f s
  | .xadd d a b => Sys2Proof.Machine.execXadd d a b s
  | .xaddImm d a imm => Sys2Proof.Machine.execXaddImm d a imm s
  | .xsub d a b => Sys2Proof.Machine.execXsub d a b s
  | .xsubImm d a imm => Sys2Proof.Machine.execXsubImm d a imm s
  | .xand d a b => Sys2Proof.Machine.execXand d a b s
  | .xandImm d a imm => Sys2Proof.Machine.execXandImm d a imm s
  | .xli d u imm => Sys2Proof.Machine.execXli d u imm s
  | .xcmp k a b => Sys2Proof.Machine.execXcmp k a b s
  | .xcmpImm k a imm => Sys2Proof.Machine.execXcmpImm k a imm s
  | .brf n o => Sys2Proof.Machine.execBrf n o s
  | .repeatN c l => Sys2Proof.Machine.execRepeatN c l s
  | .kadd d a b t => Sys2Proof.Machine.execKadd d a b t s
  | .kmax d a b t => Sys2Proof.Machine.execKmax d a b t s
  | .kmin d a b t => Sys2Proof.Machine.execKmin d a b t s
  | .kcvt d a dt st p => Sys2Proof.Machine.execKcvt d a dt st p s
  | .fwdC f => Sys2Proof.Machine.execFwdC f s
  | .dropC f => Sys2Proof.Machine.execDropC f s
  | .emit a => Sys2Proof.Machine.execEmit a s
  | .hold f => Sys2Proof.Machine.execHold f s
  | .ktrap c => Sys2Proof.Machine.execKtrap c s
  | .inboundUeOperation op => Sys2Proof.Machine.execInboundUeOperation op s
  | .ueConnectionSetup sett endpoint mode => Sys2Proof.Machine.execUeConnectionSetup sett endpoint mode s
  | .ptpMessage p => Sys2Proof.Machine.execPtpMessage p s
  | .gtcskewRecompute asymmetry => Sys2Proof.Machine.execGtcskewRecompute asymmetry s
  | .settReset sett selfTest => Sys2Proof.Machine.execSettReset sett selfTest s
  | .registerWordCorrectionLimit sett core column bank => Sys2Proof.Machine.execRegisterWordCorrectionLimit sett core column bank s
  | .seamLinkLockLoss seam link => Sys2Proof.Machine.execSeamLinkLockLoss seam link s
  | .ucieLinkUp site lo hi => Sys2Proof.Machine.execUcieLinkUp site lo hi s
  | .registerWordError lane word double => Sys2Proof.Machine.execRegisterWordError lane word double s
  | .powerOn selfTest => Sys2Proof.Machine.execPowerOn selfTest s
  | .powerLoss torn => Sys2Proof.Machine.execPowerLoss torn s
  | .sleave => Sys2Proof.Machine.execSleave s
  | .shalt => Sys2Proof.Machine.execShalt s
  | .lwait => Sys2Proof.Machine.execLwait s
  | .tret => Sys2Proof.Machine.execTret s
  | .tfence => Sys2Proof.Machine.execTfence s
  | .tarrive => Sys2Proof.Machine.execTarrive s
  | .spanclose => Sys2Proof.Machine.execSpanclose s
  | .sliceExpiry => Sys2Proof.Machine.execSliceExpiry s
  | .spinDetectorFlag => Sys2Proof.Machine.execSpinDetectorFlag s
  | .spanRendezvous => Sys2Proof.Machine.execSpanRendezvous s
  | .spanRoundFire => Sys2Proof.Machine.execSpanRoundFire s
  | .handlerEntry => Sys2Proof.Machine.execHandlerEntry s
  | .ctxCreate => Sys2Proof.Machine.execCtxCreate s
  | .ctxDestroy => Sys2Proof.Machine.execCtxDestroy s
  | .bind => Sys2Proof.Machine.execBind s
  | .pagetable => Sys2Proof.Machine.execPagetable s
  | .poolAdd => Sys2Proof.Machine.execPoolAdd s
  | .queue => Sys2Proof.Machine.execQueue s
  | .handlers => Sys2Proof.Machine.execHandlers s
  | .eventq => Sys2Proof.Machine.execEventq s
  | .complq => Sys2Proof.Machine.execComplq s
  | .stop => Sys2Proof.Machine.execStop s
  | .restore => Sys2Proof.Machine.execRestore s
  | .timetable => Sys2Proof.Machine.execTimetable s
  | .sumacLoad => Sys2Proof.Machine.execSumacLoad s
  | .sumacUnload => Sys2Proof.Machine.execSumacUnload s
  | .collective => Sys2Proof.Machine.execCollective s
  | .abort => Sys2Proof.Machine.execAbort s
  | .grandmaster => Sys2Proof.Machine.execGrandmaster s
  | .grant => Sys2Proof.Machine.execGrant s
  | .snapshot => Sys2Proof.Machine.execSnapshot s
  | .statement => Sys2Proof.Machine.execStatement s
  | .quote => Sys2Proof.Machine.execQuote s
  | .watchdog => Sys2Proof.Machine.execWatchdog s
  | .harea => Sys2Proof.Machine.execHarea s
  | .timetableTakesEffect => Sys2Proof.Machine.execTimetableTakesEffect s
  | .phaseChange => Sys2Proof.Machine.execPhaseChange s
  | .fwd => Sys2Proof.Machine.execFwd s
  | .drop => Sys2Proof.Machine.execDrop s
  | .ptpLockLost => Sys2Proof.Machine.execPtpLockLost s
  | .gtcskewHoldover => Sys2Proof.Machine.execGtcskewHoldover s
  | .waittGtcReached => Sys2Proof.Machine.execWaittGtcReached s

end Sys2Proof.Machine
end

