-- ==== Sys2Proof/Machine/Fetch.lean ====
section
/-!
DEFINITION. What a turn runs (R448): the time that passes before it, the instruction each agent fetches or is handed,
and who moves where the agenda is empty.
-/

namespace Sys2Proof.Machine

/-! ### Time -/

/-- The ticks a path counts (R90). -/
def Path.elapse (dt : Nat) (p : Path) : Path :=
  if p.state = .current ∨ p.state = .ready then { p with wdog := p.wdog + dt } else p

/-- Time passes for a team: the watchdog counts of R90 stand still in handler mode and while the context is cut (R350). -/
def Team.elapse (dt : Nat) (t : Team) : Team :=
  if t.status = .running ∧ t.inv.isNone then { t with paths := t.paths.map (Path.elapse dt) } else t

/-- `dt` ticks of GTC pass. -/
def State.elapse (s : State) (dt : Nat) : State :=
  let f (t : Team) : Team := if s.halted t.ctx then t else t.elapse dt
  { s with gtc := s.gtc + dt, cur := f s.cur, others := s.others.map f }

/-! ### What a turn fetches -/

/-- The outcome of a fetch: an instruction to run, nothing to run with the state as it then stands, or nobody there. -/
inductive Fetched where
  | run (i : Instr) (s : State)
  | stay (s : State)
  | nobody

/-- The scalar stream's next instruction (R42, R53, R338): a handler entry first, a trap where the fetch or the decoding
fails. -/
def State.fetchScalar (s : State) : Fetched :=
  let t := s.cur
  if t.status != .running || t.evWait || (s.halted t.ctx && t.sent.isEmpty) then .stay s
  else if !t.pendf.isEmpty && !s.halted t.ctx then .stay s.resolvePending
  else if t.wantsHandler && t.sent.isEmpty then .run .handlerEntry s
  else match t.wait with
    | some (.host _) => .stay s
    | _ =>
      match s.fetchWord t.spc.toNat with
      | .error c => .stay (if isAwait c then s.askFar (.code t.uid) c else s.trap c t.spc)
      | .ok w =>
        match decodeScalar w with
        | .error _ => .stay s.illegal
        | .ok i => .run i s

/-- The opcodes 0x0C0 to 0x0C6, which no SKIP shadow may hold (R163). -/
def isControl : Instr → Bool
  | .bra _ _ _ _ | .brx _ _ | .skip _ _ | .join _ | .lend _ | .yieldl _ | .ltrap _ _ => true
  | _ => false

/-- The slots of the current path's turn that the next word may use: all that are left, or `n`, the rest being withheld. -/
def Team.offer (t : Team) (n : Option Nat) : Team :=
  match t.curPath with
  | none => t
  | some i => t.setPath i (fun p =>
      let all := p.slice + p.hold
      match n with
      | none => if p.hold = 0 then p else { p with slice := all, hold := 0 }
      | some n => { p with slice := min n all, hold := all - min n all })

/-- The lane stream's next word (R81, R87, R117, R163, R363). What ends the current path's turn or its life comes before its
next pass: the end of its slice, a flag of the spin detector (R87), the watchdog (R90). -/
def State.fetchLaneWord (s : State) (part : Option Nat) : Fetched :=
  let s := s.setCur (fun t => t.offer part)
  let t := s.cur
  if t.status != .running || t.evWait || s.halted t.ctx || t.wantsHandler then .stay s
  else if !t.pendf.isEmpty then .stay s.resolvePending
  else
    if !s.lateFaults.1.isEmpty then .stay (s.boundary (match t.block with | some b => b.handler | none => false) [])
    else match t.current with
    | none => .stay s.settle
    | some p =>
      if p.slice + p.hold = 0 then .run .sliceExpiry s
      else if t.flagged then .run .spinDetectorFlag s
      else if t.wdogDue p then .run (.watchdogFire p.idx) s
      else match s.fetchLane p.ip with
      | .error c => .stay (if isAwait c then s.askFar (.code t.uid) c else s.faultPath p c (if c = codeIllegal then 0 else BitVec.ofNat 64 (t.code.lbase.toNat + 12 * p.ip)))
      | .ok w =>
        match decodeLane w with
        | .error _ => .stay (s.faultPath p codeIllegal 0)
        | .ok i => if isControl i && p.skipLeft != 0 then .stay (s.faultPath p codeIllegal 0) else .run i s

/-- The command an OP of the host command ring names (R439). -/
def hostCommand : Nat → Option Instr
  | 0x01 => some .ctxCreate | 0x02 => some .ctxDestroy | 0x03 => some .bind | 0x04 => some .pagetable | 0x05 => some .poolAdd
  | 0x06 => some .queue | 0x07 => some .handlers | 0x08 => some .eventq | 0x09 => some .complq | 0x0A => some .stop
  | 0x0B => some .restore | 0x0C => some .timetable | 0x0D => some .sumacLoad | 0x0E => some .sumacUnload
  | 0x0F => some .collective | 0x10 => some .abort | 0x11 => some .grandmaster | 0x12 => some .grant | 0x13 => some .snapshot
  | 0x14 => some .statement | 0x15 => some .quote | 0x16 => some .watchdog | 0x17 => some .harea
  | _ => none

/-! ### The host command ring (R439) -/

/-- The reserved bits of a command's header are zero. -/
def commandHeaderOk (w : Nat) : Bool := bitsNat w 15 9 == 0 && bitsNat w 31 24 == 0 && bitsNat w 63 48 == 0

/-- The next command of a site's ring: fetched where its slot was read valid, and held by the command processor. -/
def State.fetchCommand (s : State) (site : Nat) : Fetched :=
  match FMap.get? s.sites site with
  | none => .nobody
  | some x =>
    if !x.seen.contains x.rd ∨ s.bringup < 6 then .stay s
    else
      let k := ringSlot site x.rd
      let w := s.mem.getNat k 8
      let s : State := { s with
        hcmd := { site := site, ctx := bitsNat w 47 32, params := (upTo 1 7).map (fun i => BitVec.ofNat 64 (s.mem.getNat (k + 8 * i) 8)) } }
      match hostCommand (bitsNat w 7 0) with
      | none => .stay (s.hostDone 7)
      | some i =>
        if s.bringup < 8 ∧ i ≠ .grandmaster then .stay (s.hostDone 8)
        else if !commandHeaderOk w then .stay (s.hostDone 7)
        else .run i s

/-! ### Sumac (R403) -/

/-- The next instruction of a processor's run; with none in progress there, its next run. -/
def State.fetchSumac (s : State) (n : Nat) : Fetched :=
  if 256 ≤ n then .nobody
  else
    let s := s.focusRun n
    if s.run.active then (match s.runInstr with | some i => .run i s | none => .stay s) else .stay (s.nextRun n)

/-! ### Events -/

/-- The rows of the table that no stream and no ring fetches: what the device or its surroundings do. -/
def isEvent : Instr → Bool
  | .watchdogFire _ | .lineArrival _ _ | .globalRequest _ | .globalReply _ _ | .engineCommandFire _
  | .moverOperationComplete _ _ | .matrixOperationComplete _ | .spanRoundComplete _ | .cleEntryComplete _ _ _
  | .cleEntryFaulted _ _ | .remoteCounterIncrement _ | .barxArrival _ | .releaseFlagApply _
  | .controlMessageReceived _ _ | .faultEventPost _ | .faultCompletionEntry _ | .stopCut _ | .save _
  | .userQueueDoorbell _ _ _ | .packetStart _ | .gangPlacement _ | .gridComplete _ | .tailChildStart _
  | .hostMemoryAccess _ _ _ | .hostRingDoorbell _ _ | .energyCharge _ _ | .clusterPowerDown _ _ | .inrushTokenRelease _
  | .collectiveRunStart _ | .chunkCommit _ | .collectiveDeadlineExpiry _ | .collectiveLossEnd _ | .collectiveRecovery _
  | .abortApply _ _ | .abortFinish _ | .linkFlitReceived _ _ | .linkDown _ | .linkLossOfLock _ | .retrainRequest _ _ _ _
  | .retrainComplete _ _ _ _ _ | .deliveryTimeout _ | .controlMessageTimeout _ _ | .flitTraversal _ _ _
  | .voqTransmit _ _ | .circuitLit _ | .slotUnloadTakesEffect _ _ | .inboundUeOperation _ | .ueConnectionSetup _ _ _
  | .ptpMessage _ | .gtcskewRecompute _ | .settReset _ _ | .registerWordCorrectionLimit _ _ _ _ | .seamLinkLockLoss _ _
  | .ucieLinkUp _ _ _ | .registerWordError _ _ _ | .powerOn _ | .powerLoss _ | .sliceExpiry | .spinDetectorFlag
  | .spanRendezvous | .spanRoundFire | .timetableTakesEffect | .phaseChange | .ptpLockLost | .gtcskewHoldover
  | .waittGtcReached => true
  | _ => false

/-- The rows among them that act on the focused team. -/
def isTeamEvent : Instr → Bool
  | .watchdogFire _ | .engineCommandFire _ | .moverOperationComplete _ _ | .matrixOperationComplete _
  | .spanRoundComplete _ | .registerWordError _ _ _ | .sliceExpiry | .spinDetectorFlag | .spanRendezvous | .spanRoundFire
  | .waittGtcReached => true
  | _ => false

/-- What a turn's agent fetches or is handed. -/
def State.fetchAct (s : State) : Act → Fetched
  | .scalar uid => if (s.team? uid).isSome then (s.focus uid).fetchScalar else .nobody
  | .lanes uid => if (s.team? uid).isSome then (s.focus uid).fetchLaneWord none else .nobody
  | .lanePart uid n => if (s.team? uid).isSome then (s.focus uid).fetchLaneWord (some n) else .nobody
  | .sumac n => s.fetchSumac n
  | .ring site => s.fetchCommand site
  | .event uid i =>
    if !isEvent i then .nobody
    else if isTeamEvent i then (if (s.team? uid).isSome then .run i (s.focus uid) else .nobody)
    else .run i s
  | .idle => .stay s

/-- A turn: time passes, what waited for blocks goes on, and the agent fetches. -/
def State.fetchTurn (s : State) (t : Turn) : Fetched := (s.elapse t.dt).arriveReady.fetchAct t.act

/-! ### The default turn -/

/-- A turn of a step that concerns no team, and of one that concerns a team. -/
def ev (i : Instr) : Act := Act.event 0 i
def evOf (t : Team) (i : Instr) : Act := Act.event t.uid i

/-- The steps that take the receipts of a sett. -/
def inboxActs (n : Nat) (x : Sett) : List Act :=
  if x.inbox.isEmpty then [] else [ev (Instr.remoteCounterIncrement n), ev (Instr.barxArrival n)]

/-- What a fired operation may do. -/
def firedActs (t : Team) (f : Fired) : List Act :=
  [evOf t (Instr.moverOperationComplete f.id []), evOf t (Instr.matrixOperationComplete f.id), evOf t (Instr.spanRoundComplete f.id)]

/-- What can move in a team. -/
def teamActs (t : Team) : List Act :=
  if t.status != .running then []
  else List.flatten
    [[Act.scalar t.uid, Act.lanes t.uid],
     [Instr.waittGtcReached, Instr.engineCommandFire false, Instr.engineCommandFire true, Instr.spanRendezvous, Instr.spanRoundFire,
      Instr.sliceExpiry, Instr.spinDetectorFlag].map (evOf t),
     t.paths.map (fun p => evOf t (Instr.watchdogFire p.idx)), t.fired.flatMap (firedActs t)]

/-- What can move in a sett. -/
def settActs (n : Nat) (x : Sett) : List Act :=
  List.flatten
    [(x.entries.filter (fun e => e.fired || e.group.isSome)).map (fun e => ev (Instr.cleEntryComplete n e.id [])), inboxActs n x,
     x.tokens.map (fun _ => ev (Instr.inrushTokenRelease n)), x.clusterIdle.map (fun c => ev (Instr.clusterPowerDown n c.1))]

/-- What can move for a context, a grid and a collective group. -/
def ctxActs (c : Nat) : List Act :=
  [Instr.faultEventPost c, Instr.faultCompletionEntry c, Instr.stopCut c, Instr.save c].map ev
def gridActs (g : Nat) : List Act := [Instr.gangPlacement g, Instr.tailChildStart g, Instr.gridComplete g].map ev
def groupActs (g : Nat) (x : Group) : List Act :=
  List.flatten
    [[Instr.collectiveRunStart g, Instr.chunkCommit g, Instr.collectiveDeadlineExpiry g, Instr.collectiveLossEnd g,
      Instr.collectiveRecovery g, Instr.abortFinish g].map ev,
     x.positions.map (fun p => ev (Instr.abortApply g p.sett))]

/-- The Sumac processors that have a run, and one of a chiplet that has none. -/
def State.runActs (s : State) : List Act :=
  (if s.run.active then [Act.sumac s.run.proc] else []) ++ s.runs.map (fun x => Act.sumac x.1)
def State.idleProc (s : State) (chip : Nat) : List Act :=
  (((upTo (128 * chip) 128).filter (fun n => !(s.run.active && s.run.proc == n) && (FMap.get? s.runs n).isNone)).take 1).map Act.sumac

/-- The port through which a sett's next flit for another package leaves: of its own working ports, or of those of the first
neighbour that has one, by a hash of the destination (R379). -/
def State.sendPort (s : State) (sett : Nat) (bs : List Byte) : Option (Nat × Nat) :=
  let via := (sett :: neighbours sett).filter s.opticalWorks
  match via with
  | [] => none
  | n :: _ =>
    let ps := (upTo 0 16).filter (fun p => (s.port n p).works)
    some (chipPort n (nth 0 ps (Config.portHash (flitDstSett bs) % max 1 ps.length)))

/-- The flit that a sett sends next (R377, R381): with its link's next SEQ. -/
def State.sendActs (s : State) : List Act :=
  (s.sendq.take 1).filterMap (fun x => (s.sendPort x.1 x.2).map (fun c =>
    ev (Instr.flitTraversal c.1 c.2 (sealFlit (x.2.take 8 ++ bytesOf 4 (s.link (inLink c.1 c.2)).next ++ x.2.drop 12)))))

/-- What can move in an Ashlar chiplet. -/
def State.chipActs (s : State) (n : Nat) (c : Chip) : List Act :=
  List.flatten
    [if c.arrivals.isEmpty then [] else s.idleProc n, c.slots.map (fun x => ev (Instr.slotUnloadTakesEffect n x.1)),
     if c.voqs.isEmpty then [] else (upTo 0 512).map (fun p => ev (Instr.voqTransmit n p))]

/-- The step that takes a request in flight further. -/
def reqAct (r : GReq) : Act := if r.performed then ev (Instr.globalReply r.tag []) else ev (Instr.globalRequest { tag := r.tag, part := 0xFFFF })

/-- The lines on their way to a frame. -/
def frameActs (n : Nat) (f : FrameInfo) : List Act :=
  (f.filling ++ f.copies.map (fun c => c.2)).map (fun l => ev (Instr.lineArrival n l))

/-- The flit that a link's far end receives next. -/
def linkActs (n : Nat) (l : Link) : List Act := (l.unacked.take 1).map (fun f => ev (Instr.linkFlitReceived n f.buf))

/-- Everything that can move without a word from outside the package. -/
def State.movers (s : State) : List Act :=
  if s.bringup = 0 then [ev (Instr.powerOn [])]
  else List.flatten
    [s.sites.flatMap (fun x => [Act.ring x.1, ev (Instr.packetStart x.1)]), s.teams.flatMap teamActs,
     s.runActs, s.sendActs, s.reqs.map reqAct, s.frames.flatMap (fun f => frameActs f.1 f.2),
     s.setts.flatMap (fun x => settActs x.1 x.2), s.flags.map (fun x => ev (Instr.releaseFlagApply x.1)),
     s.transit.map (fun x => ev (Instr.controlMessageReceived x.1 x.2)), s.ctxs.flatMap (fun x => ctxActs x.1),
     s.grids.flatMap (fun x => gridActs x.1), s.groups.flatMap (fun x => groupActs x.1 x.2),
     s.chips.flatMap (fun x => s.chipActs x.1 x.2), s.links.flatMap (fun x => linkActs x.1 x.2),
     if s.pendingTable.isSome then [ev Instr.timetableTakesEffect] else []]

/-- The turn taken where the agenda is empty: one tick, and the movers in rotation. -/
def State.defaultTurn (s : State) : Turn := { dt := 1, act := nth Act.idle s.movers (s.gtc % s.movers.length) }

/-- The next turn, and the agenda after it. -/
def State.nextTurn (s : State) : Turn × State :=
  match s.agenda with
  | t :: ts => (t, { s with agenda := ts })
  | [] => (s.defaultTurn, s)

/-! ### Placing one instruction -/

/-- The offset in sett 0 where `withFetchWord` places code. -/
def codeOffset : Nat := 0x100000

/-- A page table of context 1 in sett 0 that maps its first GiB with every right, and bytes of code behind it. -/
def State.placeBytes (s : State) (bs : List Byte) : State :=
  let c : Context := { Context.new 0 [0] [] 0 0 0 with roots := [(0, 0)] }
  let m := ((s.mem.setNat (Config.dramKey 0 0) 8 0x1001).setNat (Config.dramKey 0 0x1000) 8 0x1F).setBytes (Config.dramKey 0 codeOffset) bs
  State.setSett { s with ctxs := FMap.set s.ctxs 1 c, mem := m } 0 (fun x => { x with withdrawn := false })

/-- The kernel object that stands for the placed code: 32 lanes of 256 registers. -/
def placedKernel (base : Word) : Kernel :=
  { Kernel.none with
    sbase := base, ssize := 0x10000, lbase := base, lcount := 0x1000, lanesN := 32, gwidth := 32, regsN := 256, level := 1,
    mview := List.replicate 8 0 }

/-- A team of context 1 that runs the placed code. -/
def State.placeCodeTeam (s : State) : State :=
  let base : Word := BitVec.ofNat 64 (s.ownPkg * 2 ^ 54 + codeOffset)
  { s with cur := { Team.launch with
      uid := s.tick, status := .running, spc := base, gangSize := 1, ctx := 1, kern := placedKernel base,
      lanes := List.replicate 32 (Lane.launch 256 0) } }

/-- The next turn is this one. -/
def State.schedule (s : State) (a : Act) : State := { s with agenda := [{ dt := 0, act := a }] }

/-- A scalar word placed at the SPC of a team whose scalar stream moves next. -/
def State.placeScalar (s : State) (bs : List Byte) : State := ((s.placeBytes bs).placeCodeTeam).schedule (.scalar s.tick)

/-- A lane word placed as word 0 of a block of a team whose lane stream moves next. -/
def State.placeLane (s : State) (bs : List Byte) : State :=
  ((((s.placeBytes bs).placeCodeTeam).setCur (fun t => Team.startBlock { t with blocks := 1 } (t.newBlock 0))).setCur
    (fun t => { t with block := t.block.map (fun b => { b with pend := 0 }) })).schedule (.lanes s.tick)

/-- A Sumac word placed as the image of a slot whose run moves next. -/
def State.placeSumac (s : State) (w : Nat) : State :=
  let x : Slot := { ctx := 1, dir := 1, flows := 1, policy := 0, image := [BitVec.ofNat 32 w], active := 0, tqbase := 0, tqlog2 := 4,
                    tqctr := 0xFFFF, dest := List.replicate 64 0, store := [], holds := [], flags := 0, records := 0, unloadAt := none,
                    slotByte := 0 }
  let buf : List Byte := List.replicate 256 0
  State.schedule
    { (s.placeBytes []).setChip 0 (fun c => { c with slots := FMap.set c.slots 0 x }) with
      run := { Run.none with active := true, buf := buf, orig := { Run.none.orig with buf := buf } } } (.sumac 0)

end Sys2Proof.Machine
end

