-- ==== Sys2Proof/Machine/Step.lean ====
section
/-!
DEFINITION. One step of the package: the next turn of the agenda, or the default turn where the agenda is empty.
-/

namespace Sys2Proof.Machine

/-- What a fetch comes to. -/
def runFetched : Fetched → Host.Outcome State Fault Refusal
  | .run i s => exec i s
  | .stay s => .next s
  | .nobody => .fault .noSuchAgent

/-- One step (R448): the next turn runs. -/
def step (s : State) : Host.Outcome State Fault Refusal := runFetched (s.nextTurn.2.fetchTurn s.nextTurn.1)

/-- The state with one instruction placed where the next step fetches it: a scalar word at the SPC of a running team, a
lane word as the first of a block, a Sumac word as the first of a run, according to what the decoder reads. -/
def State.withFetchWord (s : State) (nbits w : Nat) : State :=
  if nbits ≤ 32 then
    match decodeScalar (BitVec.ofNat 32 w), decodeSumac (BitVec.ofNat 32 w) with
    | .error _, .ok _ => s.placeSumac w
    | _, _ => s.placeScalar (bytesOf 4 w)
  else s.placeLane (bytesOf 12 w)

end Sys2Proof.Machine
end

