-- ==== Sys2Proof/Safety.lean ====
section
/-!
DEFINITION. What counts as a safe run of the machine, and the words in which the statements of
`Certificates/Slice0/Obligations.lean` are written.
-/

namespace Sys2Proof

/-- A step that goes on. -/
def Goes (s : Machine.State) : Prop := ∃ t, Machine.step s = .next t

namespace Machine

/-- An instruction answers this next state. -/
abbrev Gives (i : Instr) (s t : State) : Prop := exec i s = .next t

/-- None of these s registers is pending (R48). -/
def State.ready (s : State) (rs : List Reg) : Bool := rs.all (fun r => !s.cur.pending r)

/-- What a condition code says of two values of one width (R39). -/
def condHolds {n : Nat} (k : Cond) (x y : BitVec n) : Prop :=
  match k with
  | .eq => x = y
  | .ne => x ≠ y
  | .lt => x.toInt < y.toInt
  | .le => x.toInt ≤ y.toInt
  | .gt => y.toInt < x.toInt
  | .ge => y.toInt ≤ x.toInt
  | .ltn => x.toNat < y.toNat
  | .len => x.toNat ≤ y.toNat
  | .gtn => y.toNat < x.toNat
  | .gen => y.toNat ≤ x.toNat
  | .unord | .ord => False

/-- A transfer to a target passes the checks of R53; `reg` marks a register target. -/
def State.canJump (s : State) (target : Word) (reg : Bool) : Bool := (s.fetchCheck target.toNat reg).isNone

/-- The state with the focused team's SPC at a target, bits [1:0] zero (R13). -/
def State.goTo (s : State) (target : Word) : State := { s with cur := { s.cur with spc := target &&& ~~~3#64 } }

/-- No armed level of the focused team ends at an address (R28). -/
def Team.noLoopEnd (t : Team) (a : Word) : Bool :=
  ([0, 1, 2, 3] : List (BitVec 2)).all (fun k => !(t.armed.getLsbD k.toNat && t.le[k.toNat] == a))

/-- The state with some fields of the focused team changed, its instruction of one word completed. -/
def State.done1 (s : State) (f : Team → Team) : State := State.advance { s with cur := f s.cur } 1

/-- No operand of a running engine operation, nor of a finished one that no TWAIT has matched yet, lies in a range of keys
that the focused team writes (R236). -/
def State.undisturbed (s : State) (k n : Nat) : Bool := s.calm (some s.cur.arrives) k n

/-- The event a team's stop posts (R345), read off the team as it stood. -/
def stopEvent (t : Team) (code count : Nat) : Event :=
  { kind := 1, code := code, count := count, team := t.teamIndex.toNat, grid := t.gridId, addr := t.area, slot := t.ctxSlot,
    gen := t.gen.toNat, uid := t.uid }

/-- An event of a context that concerns no team (R345). -/
def plainEvent (kind code : Nat) (grid addr : Word) : Event :=
  { kind := kind, code := code, count := 0, team := 0, grid := grid, addr := addr, slot := 0, gen := 0, uid := 0 }

/-- A context's order of fault events (R345). -/
def State.eventsOf (s : State) (ctx : Nat) : List Event := match s.ctx? ctx with | some c => c.events | none => []

/-- Two teams agree on every register of the scalar stream (R13, R18, R132, R210, R339). -/
def Team.sameScalar (t u : Team) : Prop :=
  t.sregs = u.sregs ∧ t.creg = u.creg ∧ t.ls = u.ls ∧ t.le = u.le ∧ t.lc = u.lc ∧ t.armed = u.armed ∧ t.spc = u.spc
    ∧ t.mode = u.mode ∧ t.fstat = u.fstat ∧ t.ftrapen = u.ftrapen ∧ t.fmode = u.fmode ∧ t.srseed = u.srseed ∧ t.pkr = u.pkr
    ∧ t.wdoglim = u.wdoglim ∧ t.hcause = u.hcause ∧ t.hva = u.hva ∧ t.hmask = u.hmask ∧ t.hrec = u.hrec

/-- The instructions of format SI (R36, R39, R43). -/
def isSi : Instr → Bool
  | .saddi _ _ _ | .sandi _ _ _ | .sori _ _ _ | .sxori _ _ _ | .sshli _ _ _ | .sshri _ _ _ | .ssrai _ _ _ | .scmpi _ _ _ _
  | .sldw _ _ _ | .sldd _ _ _ | .sstw _ _ _ | .sstd _ _ _ | .srd _ _ | .swr _ _ | .fstatWrite _ | .fmodeWrite _ | .srseedWrite _
  | .pkrWrite _ | .loopRegisterWrite _ _ => true
  | _ => false

/-! ### Matrix operands -/

/-- The fields of a shape word (R308). -/
def shapeOf (w : Word) : Shape :=
  let x := w.toNat
  { m8 := x % 1024, n16 := x / 2 ^ 10 % 1024, k64 := x / 2 ^ 20 % 2 ^ 16, afmt := x / 2 ^ 36 % 32, bfmt := x / 2 ^ 41 % 32,
    t := x / 2 ^ 46 % 1024, mx := w.getLsbD 56 }

/-- The limits of a shape word (R308): a type code is 6, 7, 9, 10 or 13 to 17; `tail` says whether the tiles of the product are the
team's (R314). -/
def shapeFits (w : Word) (acctiles : Nat) (tail : Bool) : Prop :=
  let sh := shapeOf w
  let code (c : Nat) : Prop := c = 6 ∨ c = 7 ∨ c = 9 ∨ c = 10 ∨ (13 ≤ c ∧ c ≤ 17)
  w.toNat < 2 ^ 57 ∧ 1 ≤ sh.m8 ∧ sh.m8 ≤ 512 ∧ 1 ≤ sh.n16 ∧ sh.n16 ≤ 512 ∧ 1 ≤ sh.k64 ∧ code sh.afmt ∧ code sh.bfmt
    ∧ (sh.mx = true → 13 ≤ sh.afmt ∧ 13 ≤ sh.bfmt) ∧ sh.t < 512 ∧ (tail = true → sh.t + sh.m8 * sh.n16 ≤ acctiles)

/-- The fields of a tile word (R310). -/
def tileWord (w : Word) : TileWord :=
  let x := w.toNat
  { t := x % 1024, nt := x / 2 ^ 10 % 1024, c16 := x / 2 ^ 20 % 1024, x := x / 2 ^ 30 % 256 }

/-- The limits of a tile word (R310); `scaled` says whether its scale may be set. -/
def tileFits (w : Word) (acctiles : Nat) (scaled : Bool) : Prop :=
  let tw := tileWord w
  w.toNat < 2 ^ 38 ∧ 1 ≤ tw.nt ∧ tw.nt ≤ 512 ∧ 1 ≤ tw.c16 ∧ tw.c16 ≤ 512 ∧ tw.nt % tw.c16 = 0 ∧ tw.t + tw.nt ≤ acctiles
    ∧ (scaled = false → tw.x = 0)

/-! ### Lane words -/

/-- The guard of a lane word. -/
def guardOf (i : Instr) : Guard := match laneHead i with | some h => h.g | none => ⟨false, 7⟩

/-- The lanes a word of a path is active in, in sweep order (R75, R142). -/
def State.lanesOn (s : State) (p : Path) (i : Instr) : List Nat := p.active s.cur (guardOf i)

/-- A lane with no register error (R108). -/
def Lane.clean (x : Lane) : Prop := x.bad = [] ∧ x.soft = [] ∧ x.badPreds = false ∧ x.softPreds = false

/-- A lane word can run now: its path is the current one of the running block and alone has its
index (R362), it begins the word with slots of its turn for every pass (R87), its indices lie in the register space
(R98), no reply holds it back (R245) or brings faults (R337), and no lane holds a register error (R108). -/
structure LaneReady (s : State) (i : Instr) (p : Path) (b : Block) : Prop where
  path : s.cur.current = some p
  only : ∀ q ∈ s.cur.paths, q.idx = p.idx → q = p
  current : p.state = .current
  start : p.passDone = 0 ∧ p.faults = [] ∧ p.doneLanes = [] ∧ p.fl = 0 ∧ p.issue = 0
  turn : p.passes.length ≤ p.slice
  quiet : ∀ r ∈ s.reqs, r.back = false
  running : s.cur.status = .running
  block : s.cur.block = some b
  indices : indicesOk s.cur.code.mview s.cur.code.regsN i = true
  free : s.blocked p i = false
  lanes : ∀ l ∈ s.lanesOn p i, l < s.cur.lanes.length
  clean : ∀ l, (s.cur.lane l).clean

/-- What a word leaves whose sweep gives lane after lane a record and flags (R75, R77, R87, R135, R163): the lanes it is
active in hold their new records, FSTAT gathers their flags, the path is past the word, and nothing else differs but the
path's counts and the event counters of R443. -/
structure Swept (s t : State) (p : Path) (act : List Nat) (f : Nat → Lane × Flags5) : Prop where
  lanes : ∀ l, t.cur.lane l = if l ∈ act then (f l).1 else s.cur.lane l
  flags : t.cur.fstat = act.foldl (fun (acc : Flags5) l => acc ||| (f l).2) s.cur.fstat
  path : ∃ changed, t.cur.path? p.idx = some (p.past (p.passCount act) changed)
  others : ∀ k, k ≠ p.idx → t.cur.path? k = s.cur.path? k
  team : { t.cur with lanes := s.cur.lanes, fstat := s.cur.fstat, paths := s.cur.paths } = s.cur
  rest : ∃ cls n, t = State.countCur { s with cur := t.cur } cls n

/-- A word that writes one register result in each active lane, without flags. -/
abbrev LaneWrites (s : State) (i : Instr) (p : Path) (d : Operand) (v : Nat → Nat) : Prop :=
  ∃ t, Gives i s t ∧ Swept s t p (s.lanesOn p i) (fun l => ((s.cur.lane l).write s.cur.code.mview d (v l), 0))

/-- What a cross-lane word leaves that writes one s register (R79, R155): the register, what the path reads of it from then
on, and the path past the word; no lane changes. -/
structure SweptScalar (s t : State) (p : Path) (b : Block) (d : Reg) (v : Word) : Prop where
  reg : t.cur.s d = if d = 0 then 0 else v
  regs : ∀ r, r ≠ d → t.cur.s r = s.cur.s r
  lanes : t.cur.lanes = s.cur.lanes
  path : ∃ q, t.cur.path? p.idx = some q ∧ q.ip = p.after ∧ q.lanes = p.lanes ∧ pathS b q d = (if d = 0 then 0 else v)
  mem : t.mem = s.mem

/-- What an access needs of a page's entry (R195): all but its DIRTY mark. -/
def Stt.place (e : Stt) : Bool × BitVec 2 × Nat × Nat := (e.we, e.st, e.frame, e.rcore)

/-- The same requests stand in two lists, whatever a reply may still put into L1 (R231). -/
def sameReqs (a b : List GReq) : Prop :=
  a.map (fun (r : GReq) => { r with eligible := false }) = b.map (fun (r : GReq) => { r with eligible := false })

/-- `u` differs from a state only in what the accesses of a memory word change before its path moves on: bytes of memory,
lanes, the paths' counts, the log of the team's writes (R236), lines of L1 and what replies may put into them (R231), and the
marks of use and DIRTY that pages carry (R195, R199). -/
def State.near (s u : State) : Prop :=
  u = { s with mem := u.mem, l1 := u.l1, frames := u.frames, tick := u.tick, reqs := u.reqs,
               cur := { s.cur with lanes := u.cur.lanes, paths := u.cur.paths, wlog := u.cur.wlog, stt := u.cur.stt } }
    ∧ sameReqs u.reqs s.reqs
    ∧ (∀ fr line, u.present fr line = s.present fr line)
    ∧ (∀ fr, (u.frame? fr).map FrameInfo.owner = (s.frame? fr).map FrameInfo.owner)
    ∧ ∀ q, (FMap.get? u.cur.stt q).map Stt.place = (FMap.get? s.cur.stt q).map Stt.place

/-- No L1 of a near state holds a sector that the state does not hold (R231). -/
def State.nearIn (s u : State) : Prop := s.near u ∧ ∀ k, FMap.get? u.l1 k = FMap.get? s.l1 k ∨ FMap.get? u.l1 k = none

/-- The access that a lane of a word makes (R241, R242). -/
def State.laneOp (s : State) (p : Path) (b : Block) (i : Instr) (h : LaneHead) (x : AuxM) (l : Nat) : MemOp :=
  memOp { i := i, p := p, b := b, e := s.env b p, act := s.lanesOn p i } h x l

/-- Bytes read from keys, piece by piece. -/
def getPieces (m : Memory) (ks : List (Nat × Nat)) : List Byte := ks.flatMap (fun k => m.getBytes k.1 k.2)

/-- Bytes written to keys, piece by piece. -/
def putPieces : Memory → List (Nat × Nat) → List Byte → Memory
  | m, [], _ => m
  | m, k :: ks, bs => putPieces (m.setBytes k.1 (bs.take k.2)) ks (bs.drop k.2)

end Machine
end Sys2Proof
end

