-- ==== Sys2Proof/Certificates/Slice0/Obligations.lean ====
section
/-!
DEFINITION. The statements about the MW-48 model, from the numbered rules of the spec.
-/

open Sys2Proof Sys2Proof.Machine

/-! ### The scalar stream -/

/-- R49 with R24 and R25: what each of the nineteen register-register instructions writes to `s[sd]`, for all operands.
`State.result` writes one s register and completes the instruction (ScalarCompletion). -/
def Obligations.ScalarArithmetic : Prop := ∀ (s : State) (d a b : Reg), s.ready [d, a, b] = true →
  let x := s.cur.s a
  let y := s.cur.s b
  let out (v : Word) : State := s.result 1 d v
  let n := y.toNat % 64
  Gives (.sadd d a b) s (out (x + y)) ∧ Gives (.ssub d a b) s (out (x - y)) ∧ Gives (.smul d a b) s (out (x * y))
    ∧ Gives (.smulh d a b) s (out ((x.signExtend 128 * y.signExtend 128).extractLsb' 64 64))
    ∧ Gives (.smulhn d a b) s (out ((x.setWidth 128 * y.setWidth 128).extractLsb' 64 64))
    ∧ Gives (.sdiv d a b) s (out (if y = 0 then BitVec.allOnes 64 else x.sdiv y))
    ∧ Gives (.sdivn d a b) s (out (if y = 0 then BitVec.allOnes 64 else x / y))
    ∧ Gives (.srem d a b) s (out (if y = 0 then x else x.srem y))
    ∧ Gives (.sremn d a b) s (out (if y = 0 then x else x % y))
    ∧ Gives (.sand d a b) s (out (x &&& y)) ∧ Gives (.sor d a b) s (out (x ||| y)) ∧ Gives (.sxor d a b) s (out (x ^^^ y))
    ∧ Gives (.sshl d a b) s (out (x <<< n)) ∧ Gives (.sshr d a b) s (out (x >>> n))
    ∧ Gives (.ssra d a b) s (out (x.sshiftRight n))
    ∧ Gives (.smin d a b) s (out (if x.toInt ≤ y.toInt then x else y))
    ∧ Gives (.smax d a b) s (out (if x.toInt ≤ y.toInt then y else x))
    ∧ Gives (.sminn d a b) s (out (if x.toNat ≤ y.toNat then x else y))
    ∧ Gives (.smaxn d a b) s (out (if x.toNat ≤ y.toNat then y else x))

/-- R39, R50 to R52: the remaining register and immediate instructions. `State.resultC` writes one condition register. -/
def Obligations.ScalarImmediates : Prop := ∀ (s : State) (d a b : Reg) (c : Bit3) (k : Cond) (x : BitVec 13) (n : BitVec 6)
    (y : BitVec 19), s.ready [d, a, b] = true →
  let v := s.cur.s a
  let i : Word := x.signExtend 64
  let out (v : Word) : State := s.result 1 d v
  Gives (.saddi d a x) s (out (v + i)) ∧ Gives (.sandi d a x) s (out (v &&& i)) ∧ Gives (.sori d a x) s (out (v ||| i))
    ∧ Gives (.sxori d a x) s (out (v ^^^ i)) ∧ Gives (.sshli d a n) s (out (v <<< n.toNat))
    ∧ Gives (.sshri d a n) s (out (v >>> n.toNat)) ∧ Gives (.ssrai d a n) s (out (v.sshiftRight n.toNat))
    ∧ Gives (.sli d y) s (out (y.signExtend 64))
    ∧ Gives (.ssel d a b c) s (out (if s.cur.c c then v else s.cur.s b))
    ∧ (∃ r, Gives (.scmp k c a b) s (s.resultC 1 c r) ∧ (r = true ↔ condHolds k v (s.cur.s b)))
    ∧ (∃ r, Gives (.scmpi k c a x) s (s.resultC 1 c r) ∧ (r = true ↔ condHolds k v i))
    ∧ (v = 0 → Gives (.sclz d a) s (out 64)) ∧ (v = 0 → Gives (.spopc d a) s (out 0))
    ∧ (∀ j : Fin 64, v.getLsbD j = true → (∀ m : Fin 64, j < m → v.getLsbD m = false) →
        Gives (.sclz d a) s (out (BitVec.ofNat 64 (63 - j))))
    ∧ Gives (.spopc d a) s (out (BitVec.ofNat 64 ((List.finRange 64).countP (fun j => v.getLsbD j))))

/-- R13, R14, R47: what an instruction that writes one s register leaves. The register reads the value, s0 reads zero
whatever is written to it, and beside that register only SPC and the loop state of R28 can differ. R28: the end check
after the instruction at `a`. Where no armed level ends there nothing changes; the highest armed level that ends there
loops back while its count exceeds 1, and otherwise is done and hands the check on. -/
def Obligations.ScalarCompletion : Prop :=
  (∀ (s : State) (n : Nat) (d : Reg) (v : Word),
  let t := s.result n d v
  t.cur.s d = (if d = 0 then 0 else v) ∧ t.cur.s 0 = 0 ∧ (∀ r : Reg, r ≠ d → t.cur.s r = s.cur.s r)
    ∧ { t with cur := { t.cur with sregs := s.cur.sregs, spc := s.cur.spc, lc := s.cur.lc, armed := s.cur.armed } } = s
    ∧ t.cur.armed &&& ~~~s.cur.armed = 0) ∧
  (∀ (t : Team) (a : Word),
  (t.noLoopEnd a = true → t.endCheck a = t)
    ∧ ∀ k : BitVec 2, t.armed.getLsbD k.toNat = true → t.le[k.toNat] = a →
      (∀ j : BitVec 2, k < j → ¬ (t.armed.getLsbD j.toNat = true ∧ t.le[j.toNat] = a)) →
      (1 < t.lc[k.toNat].toNat →
        t.endCheck a = { t with lc := t.lc.set k.toNat (t.lc[k.toNat] - 1), spc := t.ls[k.toNat] &&& ~~~3#64 })
      ∧ (t.lc[k.toNat].toNat ≤ 1 →
        t.endCheck a = ({ t with lc := t.lc.set k.toNat 0, armed := t.armed &&& ~~~(1#4 <<< k.toNat) } : Team).endCheck a))

/-- R54 with R53: a transfer whose target passes goes there, the link register written where the instruction names
one, and nothing else changes; an SBR that does not branch falls through. R33, R53: a transfer whose target fails is
not performed; the trap names the target. `isAwait` marks an answer of another package that is still to come (R395). -/
def Obligations.Transfers : Prop :=
  (∀ (s : State) (d a : Reg) (c : Bit3) (neg : Bool) (o : BitVec 21),
  let link := s.cur.spc + 4
  let rel := s.cur.spc + 4 * o.signExtend 64
  let linked (r : Reg) (u : State) : State := { u with cur := u.cur.setS r link }
  (s.cur.c c = neg → Gives (.sbr c neg o) s (s.advance 1))
    ∧ (s.cur.c c ≠ neg → s.canJump rel false = true → Gives (.sbr c neg o) s (s.goTo rel))
    ∧ (s.canJump rel false = true → Gives (.sjmp o) s (s.goTo rel))
    ∧ (s.ready [62] = true → s.canJump rel false = true → Gives (.scall o) s ((linked 62 s).goTo rel))
    ∧ (s.ready [a] = true → s.canJump (s.cur.s a) true = true → Gives (.sret a) s (s.goTo (s.cur.s a)))
    ∧ (s.ready [d, a] = true → s.canJump (s.cur.s a) true = true → Gives (.sjmpr d a) s ((linked d s).goTo (s.cur.s a)))) ∧
  (∀ (s : State) (d a : Reg) (c : Bit3) (neg : Bool) (o : BitVec 21) (code : Nat),
  let rel := s.cur.spc + 4 * o.signExtend 64
  isAwait code = false →
  (s.fetchCheck rel.toNat false = some code →
      (s.cur.c c ≠ neg → Gives (.sbr c neg o) s (s.trap code rel)) ∧ Gives (.sjmp o) s (s.trap code rel)
        ∧ (s.ready [62] = true → Gives (.scall o) s (s.trap code rel)))
    ∧ (s.fetchCheck (s.cur.s a).toNat true = some code →
      (s.ready [a] = true → Gives (.sret a) s (s.trap code (s.cur.s a)))
        ∧ (s.ready [d, a] = true → Gives (.sjmpr d a) s (s.trap code (s.cur.s a)))))

/-- R26, R29: SLOOP arms its level or skips its body, and traps ILLEGAL on a level not above the innermost armed one or
a zero offset; SLEAVE disarms the innermost armed level and leaves its loop. A failing target is trapped, with no effect. -/
def Obligations.HardwareLoops : Prop := ∀ (s : State) (l : BitVec 2) (c : Reg) (o : BitVec 17),
  let t := s.cur
  let e := t.spc + 4 * o.setWidth 64
  let free := ∀ k : BitVec 2, l ≤ k → t.armed.getLsbD k.toNat = false
  (s.ready [c] = true → (¬ free ∨ o = 0) → Gives (.sloop l c o) s s.illegal)
    ∧ (s.ready [c] = true → free → o ≠ 0 → t.s c ≠ 0 →
      Gives (.sloop l c o) s (State.advance { s with cur := { t with
        ls := t.ls.set l.toNat (t.spc + 4), le := t.le.set l.toNat e, lc := t.lc.set l.toNat (t.s c),
        armed := t.armed ||| (1#4 <<< l.toNat) } } 1))
    ∧ (s.ready [c] = true → free → o ≠ 0 → t.s c = 0 → s.canJump (e + 4) false = true →
      Gives (.sloop l c o) s (s.goTo (e + 4)))
    ∧ (∀ code, s.ready [c] = true → free → o ≠ 0 → t.s c = 0 → s.fetchCheck (e + 4).toNat false = some code → isAwait code = false →
      Gives (.sloop l c o) s (s.trap code (e + 4)))
    ∧ (t.armed = 0 → Gives .sleave s s.illegal)
    ∧ ∀ k : BitVec 2, t.armed.getLsbD k.toNat = true → (∀ j : BitVec 2, k < j → t.armed.getLsbD j.toNat = false) →
      (s.canJump (t.le[k.toNat] + 4) false = true →
        Gives .sleave s (State.goTo { s with cur := { t with armed := t.armed &&& ~~~(1#4 <<< k.toNat) } } (t.le[k.toNat] + 4)))
      ∧ ∀ code, s.fetchCheck (t.le[k.toNat] + 4).toNat false = some code → isAwait code = false →
        Gives .sleave s (s.trap code (t.le[k.toNat] + 4))

/-! ### System registers -/

/-- R16 to R18, R72, R132, R193, R210, R273, R339: where the registers of a team stand under their numbers, reserved
bits reading zero. -/
def Obligations.SystemRegisterLayout : Prop := ∀ s : State,
  let t := s.cur
  let reads (n : Nat) (x : Word) : Prop := s.sysReg n = some x
  reads 0x000 (t.teamIndex.setWidth 64) ∧ reads 0x001 t.gridId ∧ reads 0x002 (t.gangId.setWidth 64)
    ∧ reads 0x006 (BitVec.ofNat 64 (t.core + 256 * t.sett)) ∧ reads 0x008 (BitVec.ofNat 64 t.ctx)
    ∧ reads 0x010 (BitVec.ofNat 64 s.gtc) ∧ reads 0x020 (t.fstat.setWidth 64) ∧ reads 0x021 (t.ftrapen.setWidth 64)
    ∧ reads 0x022 (t.fmode.setWidth 64) ∧ reads 0x023 (t.srseed.setWidth 64) ∧ reads 0x030 t.pkr ∧ reads 0x031 t.wdoglim
    ∧ reads 0x040 3 ∧ reads 0x047 (BitVec.ofNat 64 t.kern.scratch) ∧ reads 0x04B (BitVec.ofNat 64 t.acctiles)
    ∧ reads 0x050 t.hcause ∧ reads 0x051 t.hva ∧ reads 0x052 t.hmask ∧ reads 0x053 t.hrec
    ∧ (∀ k : Fin 4, reads (0x070 + k) t.ls[k] ∧ reads (0x074 + k) t.le[k] ∧ reads (0x078 + k) t.lc[k])
    ∧ reads 0x07C (t.armed.setWidth 64)

/-- R62 with R10 and R15: SRD gives the register's value and SWR of a register without a row of its own writes its
writable fields; a number no chapter assigns is ILLEGAL, and a register with an SO field is PRIV in user mode. R62,
R129, R132, R16, R17, R210: SWR of FSTAT, FMODE, SRSEED, PKR and the loop registers. FMODE keeps RM where 5 to 7 is
written to it; the next LGO records a write of SRSEED. -/
def Obligations.SystemRegisterAccess : Prop :=
  (∀ (s : State) (a d : Reg) (n : BitVec 12),
  let so := n = 0x031 ∨ n = 0x050 ∨ n = 0x051 ∨ n = 0x052 ∨ n = 0x053
  let y := s.cur.s a
  (s.sysReg n.toNat = none → Gives (.srd d n) s s.illegal ∧ Gives (.swr a n) s s.illegal)
    ∧ (so → s.cur.mode = .user → Gives (.srd d n) s (s.trap codePriv 0) ∧ Gives (.swr a n) s (s.trap codePriv 0))
    ∧ (∀ x, s.sysReg n.toNat = some x → (so → s.cur.mode = .supervisor) → s.ready [d] = true →
        Gives (.srd d n) s (s.result 1 d x))
    ∧ (s.ready [a] = true → Gives (.swr a 0x021) s (s.done1 (fun t => { t with ftrapen := y.setWidth 5 })))
    ∧ (s.ready [a] = true → s.cur.mode = .supervisor →
        Gives (.swr a 0x031) s (s.done1 (fun t => { t with wdoglim := y }))
          ∧ Gives (.swr a 0x050) s (s.done1 (fun t => { t with hcause := y &&& 0x0000FFFF003F01FF }))
          ∧ Gives (.swr a 0x051) s (s.done1 (fun t => { t with hva := y }))
          ∧ Gives (.swr a 0x052) s (s.done1 (fun t => { t with hmask := y }))
          ∧ Gives (.swr a 0x053) s (s.done1 (fun t => { t with hrec := y })))
    ∧ (s.ready [a] = true → (n.toNat ≤ 0x01F ∨ (0x040 ≤ n.toNat ∧ n.toNat ≤ 0x04F) ∨ n.toNat = 0x060) →
        (s.sysReg n.toNat).isSome = true → Gives (.swr a n) s (s.advance 1))) ∧
  (∀ (s : State) (a : Reg) (n : BitVec 2), s.ready [a] = true →
  let y := s.cur.s a
  Gives (.fstatWrite a) s (s.done1 (fun t => { t with fstat := y.setWidth 5 }))
    ∧ Gives (.srseedWrite a) s (s.done1 (fun t => { t with srseed := y.setWidth 32, seedSet := true }))
    ∧ Gives (.pkrWrite a) s (s.done1 (fun t => { t with pkr := y }))
    ∧ (y.toNat % 8 ≤ 4 → Gives (.fmodeWrite a) s (s.done1 (fun t => { t with fmode := y.setWidth 4 })))
    ∧ (4 < y.toNat % 8 → Gives (.fmodeWrite a) s (s.done1 (fun t => { t with
        fmode := (t.fmode &&& 7) ||| (y.setWidth 4 &&& 8) })))
    ∧ Gives (.loopRegisterWrite a (.ls n)) s (s.done1 (fun t => { t with ls := t.ls.set n.toNat y }))
    ∧ Gives (.loopRegisterWrite a (.le n)) s (s.done1 (fun t => { t with le := t.le.set n.toNat y }))
    ∧ Gives (.loopRegisterWrite a (.lc n)) s (s.done1 (fun t => { t with lc := t.lc.set n.toNat y }))
    ∧ Gives (.loopRegisterWrite a .lstat) s (s.done1 (fun t => { t with armed := y.setWidth 4 })))

/-! ### Prefix, loads and stores -/

/-- R31: SEXT and the SI instruction behind it are one instruction of two words with a 38-bit immediate; the shifts and the
system register forms, whose field is no immediate of that width, take none but a zero upper part (R43). Any other word behind it,
or an armed level that ends at the SEXT, is ILLEGAL, and a failed fetch of the second word is reported with that word's address. -/
def Obligations.SextPair : Prop := ∀ (s s' : State) (hi : BitVec 25) (w : Word32) (i : Instr) (d a : Reg) (x : BitVec 13) (n : BitVec 6)
    (k : Cond) (c : Bit3) (num : BitVec 12) (lr : LoopReg) (y : Word) (bs : List Byte) (code : Nat) (e : DecodeError),
  let at_ := s.cur.spc
  let pair (t : State) : Prop := Gives (.sext hi) s t
  let imm : Word := (hi ++ x).signExtend 64
  let v := s.cur.s a
  let addr := v + imm
  let low (w : Nat) : List Byte := bytesOf w (s.cur.s d).toNat
  let fault (w kind : Nat) (data : List Byte) : FaultInfo := { FaultInfo.plain code addr with opnd := data, width := w, kind := kind }
  let so := num = 0x031 ∨ num = 0x050 ∨ num = 0x051 ∨ num = 0x052 ∨ num = 0x053
  let writes (f : Team → Team) : Prop := (hi ≠ 0 → pair s.illegal)
    ∧ (hi = 0 → s.ready [a] = true → pair (State.advance { s with cur := f s.cur } 2))
  (s.cur.noLoopEnd at_ = false → pair s.illegal)
    ∧ (s.cur.noLoopEnd at_ = true →
      (s.fetchWord (at_ + 4).toNat = .error code → isAwait code = false → pair (s.trap code (at_ + 4)))
      ∧ (s.fetchWord (at_ + 4).toNat = .ok w → decodeScalar w = .error e → pair s.illegal)
      ∧ (s.fetchWord (at_ + 4).toNat = .ok w → decodeScalar w = .ok i →
        (isSi i = false → pair s.illegal)
        ∧ (s.ready [d, a] = true →
          (i = .saddi d a x → pair (s.result 2 d addr)) ∧ (i = .sandi d a x → pair (s.result 2 d (v &&& imm)))
          ∧ (i = .sori d a x → pair (s.result 2 d (v ||| imm))) ∧ (i = .sxori d a x → pair (s.result 2 d (v ^^^ imm)))
          ∧ (hi = 0 → (i = .sshli d a n → pair (s.result 2 d (v <<< n.toNat))) ∧ (i = .sshri d a n → pair (s.result 2 d (v >>> n.toNat)))
            ∧ (i = .ssrai d a n → pair (s.result 2 d (v.sshiftRight n.toNat))))
          ∧ (i = .sldw d a x → (s.scalarLoad addr.toNat 4 = .ok bs s' → pair (s'.result 2 d (BitVec.ofNat 64 (natOf bs))))
            ∧ (s.scalarLoad addr.toNat 4 = .trap code s' → pair (s'.takeTrap (fault 4 0 []))))
          ∧ (i = .sldd d a x → (s.scalarLoad addr.toNat 8 = .ok bs s' → pair (s'.result 2 d (BitVec.ofNat 64 (natOf bs))))
            ∧ (s.scalarLoad addr.toNat 8 = .trap code s' → pair (s'.takeTrap (fault 8 0 []))))
          ∧ (i = .sstw d a x → (s.scalarStore addr.toNat (low 4) = .ok [] s' → pair (s'.advance 2))
            ∧ (s.scalarStore addr.toNat (low 4) = .trap code s' → pair (s'.takeTrap (fault 4 1 (low 4)))))
          ∧ (i = .sstd d a x → (s.scalarStore addr.toNat (low 8) = .ok [] s' → pair (s'.advance 2))
            ∧ (s.scalarStore addr.toNat (low 8) = .trap code s' → pair (s'.takeTrap (fault 8 1 (low 8))))))
        ∧ (hi ≠ 0 → i = .sshli d a n ∨ i = .sshri d a n ∨ i = .ssrai d a n → pair s.illegal)
        ∧ (s.ready [a] = true → i = .scmpi k c a x → ∃ r, pair (s.resultC 2 c r) ∧ (r = true ↔ condHolds k v imm))
        ∧ (hi ≠ 0 → i = .srd d num ∨ i = .swr a num → pair s.illegal)
        ∧ (hi = 0 → s.sysReg num.toNat = some y → (so → s.cur.mode = .supervisor) →
          (i = .srd d num → s.ready [d] = true → pair (s.result 2 d y))
          ∧ (i = .swr a num → s.ready [a] = true → pair (State.advance { s with cur := s.cur.setSys num.toNat v } 2)))
        ∧ (hi = 0 → i = .srd d num ∨ i = .swr a num → (s.sysReg num.toNat = none → pair s.illegal)
          ∧ (s.sysReg num.toNat = some y → so → s.cur.mode = .user → pair (s.trap codePriv 0)))
        ∧ (i = .fstatWrite a → writes (fun t => t.setFstat v)) ∧ (i = .fmodeWrite a → writes (fun t => t.setFmode v))
        ∧ (i = .srseedWrite a → writes (fun t => t.setSrseed v)) ∧ (i = .pkrWrite a → writes (fun t => t.setPkr v))
        ∧ (i = .loopRegisterWrite a lr → writes (fun t => t.setLoop lr v))))

/-- R56: a load writes the little-endian bytes it reads, zero-extended, to `s[sd]`; a store writes the low bytes of
`s[sd]`; a failed check is taken as a trap that names the address and the data. R22, R191: the checks of a scalar
access fail in their order: an address of no window, then alignment, then the window's range. -/
def Obligations.ScalarLoadStore : Prop :=
  (∀ (s s' : State) (d a : Reg) (i : BitVec 13) (bs : List Byte) (code : Nat),
  s.ready [d, a] = true →
  let addr := s.cur.s a + i.signExtend 64
  let info (w kind : Nat) (data : List Byte) : FaultInfo := { FaultInfo.plain code addr with opnd := data, width := w, kind := kind }
  let low (w : Nat) : List Byte := bytesOf w (s.cur.s d).toNat
  (s.scalarLoad addr.toNat 4 = .ok bs s' → Gives (.sldw d a i) s (s'.result 1 d (BitVec.ofNat 64 (natOf bs))))
    ∧ (s.scalarLoad addr.toNat 8 = .ok bs s' → Gives (.sldd d a i) s (s'.result 1 d (BitVec.ofNat 64 (natOf bs))))
    ∧ (s.scalarStore addr.toNat (low 4) = .ok [] s' → Gives (.sstw d a i) s (s'.advance 1))
    ∧ (s.scalarStore addr.toNat (low 8) = .ok [] s' → Gives (.sstd d a i) s (s'.advance 1))
    ∧ (s.scalarLoad addr.toNat 4 = .trap code s' → Gives (.sldw d a i) s (s'.takeTrap (info 4 0 [])))
    ∧ (s.scalarLoad addr.toNat 8 = .trap code s' → Gives (.sldd d a i) s (s'.takeTrap (info 8 0 [])))
    ∧ (s.scalarStore addr.toNat (low 4) = .trap code s' → Gives (.sstw d a i) s (s'.takeTrap (info 4 1 (low 4))))
    ∧ (s.scalarStore addr.toNat (low 8) = .trap code s' → Gives (.sstd d a i) s (s'.takeTrap (info 8 1 (low 8))))) ∧
  (∀ (s : State) (a w : Nat), (w = 4 ∨ w = 8) → a < 2 ^ 64 →
  let bad (code : Nat) : Prop := s.scalarLoad a w = .trap code s
  (1 ≤ a / 2 ^ 60 → a / 2 ^ 60 ≤ 7 → bad codeGvaFormat) ∧ (0xB ≤ a / 2 ^ 60 → bad codeGvaFormat)
    ∧ (a / 2 ^ 60 = 9 → a % 2 ^ 60 < 2 ^ 21 → a % w ≠ 0 → bad codeAlign)
    ∧ (a / 2 ^ 60 = 9 → a % w = 0 → a % 2 ^ 60 < 2 ^ 21 → s.cur.cmsize < a % 2 ^ 60 + w → bad codeClusterRange)
    ∧ (a / 2 ^ 60 = 10 → a % w = 0 → a % 2 ^ 60 < 2 ^ 26 → s.cur.kspsize < a % 2 ^ 60 + w → bad codeChipspRange))

/-- R22, R191, R194, R204, R205: in the scratchpad, in cluster memory and in chip scratchpad a scalar load returns, and
a scalar store replaces, exactly the bytes at its address, where the access is aligned, within the allocation, mapped and
present. The registers of the scalar stream, the other teams, the contexts and the setts stay. -/
def Obligations.WindowAccess : Prop := ∀ (s : State) (o : Nat) (bs : List Byte) (e : Stt),
  (bs.length = 4 ∨ bs.length = 8) → o % bs.length = 0 →
  let n := bs.length
  let stores (a k : Nat) : Prop := s.undisturbed k n = true → ∃ t, s.scalarStore a bs = .ok [] t ∧ t.mem = s.mem.setBytes k bs
    ∧ t.cur.sameScalar s.cur ∧ t.others = s.others ∧ t.ctxs = s.ctxs ∧ t.setts = s.setts
  let loads (a k : Nat) : Prop := ∃ t, s.scalarLoad a n = .ok (s.mem.getBytes k n) t ∧ t.mem = s.mem
    ∧ t.cur.sameScalar s.cur ∧ t.others = s.others ∧ t.ctxs = s.ctxs ∧ t.setts = s.setts
  let place := (s.cur.cbase + o) % 4096
  let cframe := s.clusterFrame s.cur o
  let sframe := Config.frameNo s.cur.sett s.cur.core e.frame
  (s.cur.cbase % 4096 = 0 → o < 2 ^ 21 → o + n ≤ s.cur.cmsize → s.present cframe (place / 128) = true →
      loads (9 * 2 ^ 60 + o) (Config.frameKey cframe place) ∧ stores (9 * 2 ^ 60 + o) (Config.frameKey cframe place))
    ∧ (o < 2 ^ 26 → o + n ≤ s.cur.kspsize →
      loads (10 * 2 ^ 60 + o) (Config.chipKey s.cur.sett (s.chipBase s.cur + o))
        ∧ stores (10 * 2 ^ 60 + o) (Config.chipKey s.cur.sett (s.chipBase s.cur + o)))
    ∧ (o < 2 ^ 22 → o + n ≤ s.cur.kern.scratch → FMap.get? s.cur.stt (o / 4096) = some e → e.st = 0 →
      s.present sframe (o % 4096 / 128) = true →
      loads (8 * 2 ^ 60 + o) (Config.frameKey sframe (o % 4096))
        ∧ (e.we = true → stores (8 * 2 ^ 60 + o) (Config.frameKey sframe (o % 4096)))
        ∧ (e.we = false → s.scalarStore (8 * 2 ^ 60 + o) bs = .trap codePerm s))

/-- R57: SATOM is one indivisible read and write: `s[sd]` gets the old value, zero-extended, and memory the new one; an
acquire of off-core scope then discards the core's L1 lines (R231). A failed check is taken as a trap that names the address,
the operand and, for CAS, the expected value (R34, R334). R58: a release waits until the accesses of the team's lanes are performed.
In the windows of the team's sett, and in global memory of this package, an aligned atomic within its allocation completes. -/
def Obligations.ScalarAtomics : Prop := ∀ (s s' : State) (d a b : Reg) (ord : Ordering4) (word : Bool) (op : AtomOp)
    (bs : List Byte) (code : Nat) (pg : Stt) (l : Leaf), s.ready [d, a, b] = true →
  let i := Instr.satom d a b ord word op
  let w := if word then 4 else 8
  let addr := s.cur.s a
  let x := (s.cur.s b).toNat % 2 ^ (8 * w)
  let e := (s.cur.s d).toNat % 2 ^ (8 * w)
  let new (old : Nat) : Option Nat := match op with
    | .add => some ((old + x) % 2 ^ (8 * w))
    | .and => some (old &&& x)
    | .or => some (old ||| x)
    | .xor => some (old ^^^ x)
    | .min => some (if sextNat old (8 * w) ≤ sextNat x (8 * w) then old else x)
    | .max => some (if sextNat old (8 * w) ≤ sextNat x (8 * w) then x else old)
    | .minn => some (min old x)
    | .maxn => some (max old x)
    | .swap => some x
    | .cas => if old = e then some x else none
  let expect := if op = .cas then bytesOf w e else []
  let acq := ord = .acq ∨ ord = .acqrel
  let rel := ord = .rel ∨ ord = .acqrel
  let access := s.scalarAtomic (decide acq) addr.toNat w (satomData op w x e) new
  let done : State := if acq ∧ satomOffCore s'.cur addr.toNat = true then s'.discardCores else s'
  let completes (k : Nat) : Prop := s.undisturbed k w = true →
    let old := natOf (s.mem.getBytes k w)
    ∃ t, Gives i s t ∧ t.cur.s d = (if d = 0 then 0 else BitVec.ofNat 64 old) ∧ (∀ r : Reg, r ≠ d → t.cur.s r = s.cur.s r)
      ∧ t.mem = (match new old with
        | some v => s.mem.setBytes k (bytesOf w v)
        | none => s.mem)
      ∧ t.cur.creg = s.cur.creg ∧ t.cur.fstat = s.cur.fstat ∧ t.others = s.others ∧ t.setts = s.setts ∧ t.ctxs = s.ctxs
  let o := addr.toNat % 2 ^ 60
  let place := (s.cur.cbase + o) % 4096
  let cframe := s.clusterFrame s.cur o
  let sframe := Config.frameNo s.cur.sett s.cur.core pg.frame
  let sett := bitsNat addr.toNat 53 48
  (rel → s.quiet = false → Gives i s s)
    ∧ ((rel → s.quiet = true) →
      (access = .ok bs s' → Gives i s (done.result 1 d (BitVec.ofNat 64 (natOf bs))))
      ∧ (access = .trap code s' →
        Gives i s (s'.takeTrap { FaultInfo.plain code addr with opnd := bytesOf w x, exp := expect, width := w, kind := 2 }))
      ∧ (o % w = 0 → addr.toNat / 2 ^ 60 = 9 → s.cur.cbase % 4096 = 0 → o < 2 ^ 21 → o + w ≤ s.cur.cmsize →
          s.present cframe (place / 128) = true → completes (Config.frameKey cframe place))
      ∧ (o % w = 0 → addr.toNat / 2 ^ 60 = 10 → o < 2 ^ 26 → o + w ≤ s.cur.kspsize →
          completes (Config.chipKey s.cur.sett (s.chipBase s.cur + o)))
      ∧ (o % w = 0 → addr.toNat / 2 ^ 60 = 8 → o < 2 ^ 22 → o + w ≤ s.cur.kern.scratch → FMap.get? s.cur.stt (o / 4096) = some pg →
          pg.st = 0 → pg.we = true → s.present sframe (o % 4096 / 128) = true → completes (Config.frameKey sframe (o % 4096)))
      ∧ (o % w = 0 → addr.toNat / 2 ^ 60 = 0 → sett < 48 → bitsNat addr.toNat 59 54 = s.ownPkg → s.inDomain s.ownPkg = true →
          s.cur.sent = [] → s.pendingStore (coreNo s.cur.sett s.cur.core) addr.toNat w = false →
          s.ownerCheck s.cur.ctx sett (bitsNat addr.toNat 47 0) .atomic s.cur.pkr = .ok l → s.packState l.key = 0 → completes l.key))

/-! ### Blocks, waits and the end of a team -/

/-- R59, R78: LGO enqueues the block with the snapshot of its issue and marks the write set; while eight blocks are
queued or a register is pending it waits. A block enqueued where none is queued or runs starts at once, with every lane
that is not retired on one path at its entry. -/
def Obligations.LaneDispatch : Prop := ∀ (s : State) (y : BitVec 19),
  let lanes := (upTo 0 s.cur.kern.lanesN).filter (fun l => !(s.cur.lane l).retired)
  let made (q : Block) : Prop := q.seq = s.cur.blocks ∧ q.entry = y.toNat ∧ q.snap.s = s.cur.sregs ∧ q.snap.fmode = s.cur.fmode
    ∧ q.snap.pkr = s.cur.pkr ∧ q.snap.seed = (if s.cur.seedSet then some s.cur.srseed else none) ∧ q.pend = s.cur.code.writeSet
  (8 ≤ s.cur.queue.length ∨ s.cur.anyPending = true → Gives (.lgo y) s s)
    ∧ (s.cur.queue.length < 8 → s.cur.anyPending = false → s.cur.block.isSome = true → s.cur.blockDone = false →
      s.cur.packReady = none → s.cur.recs = [] → s.cur.releases = [] → s.cur.curPath.isSome = true →
      ∃ q : Block, made q ∧ (s.cur.inv = none → q.lanes = upTo 0 s.cur.kern.lanesN ∧ q.handler = false)
        ∧ Gives (.lgo y) s (s.done1 (fun t => { t with queue := t.queue ++ [q], blocks := t.blocks + 1, seedSet := false })))
    ∧ (s.cur.lanesIdle = true → s.cur.paths = [] → s.cur.recs = [] → s.cur.ready = [] → s.cur.curPath = none →
      s.cur.userWork = none → s.cur.inv = none → lanes ≠ [] →
      ∃ t q p, Gives (.lgo y) s t ∧ t.cur.block = some q ∧ made q ∧ q.lanes = lanes ∧ t.cur.queue = [] ∧ t.cur.paths = [p]
        ∧ t.cur.curPath = some p.idx ∧ p.ip = y.toNat ∧ p.lanes = lanes ∧ p.state = .current ∧ p.wdog = 0
        ∧ t.cur.sregs = s.cur.sregs ∧ t.cur.creg = s.cur.creg ∧ t.cur.fstat = s.cur.fstat ∧ t.mem = s.mem)

/-- R60, R61, R66, R67: LWAIT, WAITT, TFENCE and PHINT go on, or wait, as their conditions say. R55, R69, R266: SHALT
ends the team COMPLETE once its lanes, its engine commands and its accesses are done; what is left of its reservation
returns to the context's account. Until then it waits. -/
def Obligations.WaitsAndHalt : Prop :=
  (∀ (s : State) (a : Reg) (y : BitVec 19),
  let idle := s.cur.lanesIdle = true ∧ s.cur.anyPending = false
  (idle → Gives .lwait s (s.advance 1)) ∧ (¬ idle → Gives .lwait s s)
    ∧ (idle → s.cur.fstat &&& s.cur.ftrapen = 0 → Gives .tfence s (s.advance 1))
    ∧ (idle → s.cur.fstat &&& s.cur.ftrapen ≠ 0 → Gives .tfence s (s.trap codeArith 0))
    ∧ (¬ idle → Gives .tfence s s)
    ∧ (s.ready [a] = true → (s.cur.s a).toNat ≤ s.gtc → Gives (.waitt a) s (s.done1 (fun t => { t with wait := none })))
    ∧ (s.ready [a] = true → s.gtc < (s.cur.s a).toNat →
        Gives (.waitt a) s { s with cur := { s.cur with wait := some (.waitt (s.cur.s a)) } })
    ∧ (∀ x, s.cur.wait = some (.waitt x) → s.cur.status = .running → s.halted s.cur.ctx = false →
        (x.toNat ≤ s.gtc → Gives .waittGtcReached s (s.done1 (fun t => { t with wait := none })))
          ∧ (s.gtc < x.toNat → Gives .waittGtcReached s s))
    ∧ Gives (.phint y) s (s.done1 (fun t => { t with liveRec := some (t.spc + 4 * y.signExtend 64) }))) ∧
  (∀ (s : State) (c : Context),
  let idle := s.cur.lanesIdle = true ∧ s.cur.anyPending = false ∧ s.cur.mvq = [] ∧ s.cur.mxq = [] ∧ s.cur.fired = []
    ∧ s.cur.sent = [] ∧ ∀ r ∈ s.reqs, r.uid ≠ s.cur.uid
  (¬ idle → Gives .shalt s s)
    ∧ (idle → ∃ t, Gives .shalt s t ∧ t.cur.status = .complete ∧ t.cur.reserve = 0 ∧ t.cur.sregs = s.cur.sregs
        ∧ t.cur.spc = s.cur.spc ∧ t.cur.span = none ∧ t.gtc = s.gtc
        ∧ (s.ctx? s.cur.ctx = some c → ∀ a, FMap.get? c.accounts s.cur.sett = some a →
            ∃ c', t.ctx? s.cur.ctx = some c' ∧ FMap.get? c'.accounts s.cur.sett = some { a with balance := a.balance + s.cur.reserve })))

/-! ### Traps and handlers -/

/-- R64, R65, R34: TRAP raises TRAP_INSTR with its operand, and TRET in user mode raises PRIV. R342: TRET at the end
of a scalar invocation. REPLAY restores the user frame, so that the instruction at its SPC is issued again; RETIRE, or
a value above 3, ends the team FAULTED. -/
def Obligations.TrapAndReturn : Prop :=
  (∀ (s : State) (n : BitVec 16),
  Gives (.trap n) s (s.takeTrap { code := 0x11, op := n.toNat, addr := 0, opnd := [], exp := [], width := 0, kind := 3 })
    ∧ (s.cur.mode = .user → Gives .tret s (s.trap 0x02 0))) ∧
  (∀ (s : State) (v : Invocation) (f : Frame),
  s.cur.mode = .supervisor → s.cur.lanesIdle = true → s.cur.anyPending = false → s.cur.inv = some v → v.scalar = true →
  s.cur.frame = some f → s.cur.hqueue = [] →
  (s.slotAt 0 58 1 = 0 → ∃ t, Gives .tret s t ∧ t.cur.mode = .user ∧ t.cur.sregs = f.sregs ∧ t.cur.creg = f.creg
      ∧ t.cur.ls = f.ls ∧ t.cur.le = f.le ∧ t.cur.lc = f.lc ∧ t.cur.armed = f.armed ∧ t.cur.spc = f.spc
      ∧ t.cur.fmode = f.fmode ∧ t.cur.ftrapen = f.ftrapen ∧ t.cur.pkr = f.pkr ∧ t.cur.fstat = s.cur.fstat
      ∧ t.cur.inv = none ∧ t.cur.frame = none ∧ t.mem = s.mem ∧ t.others = s.others)
    ∧ ((s.slotAt 0 58 1 = 2 ∨ 4 ≤ s.slotAt 0 58 1) → ∃ t, Gives .tret s t ∧ t.cur.status = .faulted ∧ t.cur.frame = some f))

/-- R33, R34, R344, R345: a scalar trap outside a handler, with no handler for its code, stops the team FAULTED. Its
record names code, source, operand, place and address; registers, SPC and condition registers stay as they were, and
the context's order of events gains the stop. R33, R334, R337, R338: a scalar trap that a handler serves queues one
invocation and writes slot 0 with REPLAY; the instruction has no effect of its own. -/
def Obligations.TrapTaken : Prop :=
  (∀ (s : State) (f : FaultInfo) (act : Nat) (c : Context),
  s.halted s.cur.ctx = false → s.cur.inv = none → s.lookup f.code = .ok (.action act) → s.ctx? s.cur.ctx = some c →
  let t := s.takeTrap f
  t.cur.status = .faulted
    ∧ t.cur.record = bytesOf 1 f.code ++ bytesOf 1 1 ++ bytesOf 2 f.op ++ bytesOf 4 (s.cur.spc - s.cur.code.sbase).toNat
        ++ bytesOf 8 f.addr.toNat
    ∧ t.cur.sameScalar s.cur ∧ t.cur.mvq = [] ∧ t.cur.mxq = []
    ∧ t.eventsOf s.cur.ctx = c.events ++ [stopEvent s.cur f.code 0]) ∧
  (∀ (s : State) (f : FaultInfo) (k : Kernel),
  s.halted s.cur.ctx = false → s.cur.inv = none → s.lookup f.code = .ok (.handler k) →
  let record := bytesOf 1 f.code ++ bytesOf 1 1 ++ bytesOf 2 f.op ++ bytesOf 4 (s.cur.spc - s.cur.code.sbase).toNat
    ++ bytesOf 8 f.addr.toNat
  let t := s.takeTrap f
  t.cur.sameScalar s.cur ∧ t.cur.status = s.cur.status ∧ t.cur.record = record
    ∧ t.cur.hqueue = s.cur.hqueue ++ [{ scalar := true, group := 0, code := f.code, paths := [], lanes := [], addr := f.addr, kern := k }]
    ∧ t.mem = (s.devWrite s.cur.ctx s.cur.area.toNat (record ++ padBytes 16 f.opnd ++ padBytes 8 f.exp ++ List.replicate 16 0
        ++ bytesOf 1 f.width ++ bytesOf 1 f.kind ++ bytesOf 1 0 ++ List.replicate 5 0)).mem)

/-- R338, R339: entering a handler saves the user frame, sets supervisor mode, s1, the handler registers and SPC, and
zeroes the rest of the scalar state; FSTAT and SRSEED are shared. -/
def Obligations.HandlerEntered : Prop := ∀ (s : State) (v : Invocation) (vs : List Invocation),
  s.cur.status = .running → s.cur.hqueue = v :: vs → s.cur.inv = none → s.cur.frame = none → s.cur.sent = [] →
  s.halted s.cur.ctx = false →
  ∃ t, Gives .handlerEntry s t ∧ t.cur.mode = .supervisor ∧ t.cur.s 1 = s.cur.area ∧ t.cur.hrec = s.cur.area
    ∧ (∀ r : Reg, r ≠ 1 → t.cur.s r = 0) ∧ (∀ k : Bit3, t.cur.c k = false) ∧ t.cur.armed = 0 ∧ t.cur.fmode = 0
    ∧ t.cur.ftrapen = 0 ∧ t.cur.pkr = 0 ∧ (∀ k : Fin 4, t.cur.ls[k] = 0 ∧ t.cur.le[k] = 0 ∧ t.cur.lc[k] = 0)
    ∧ t.cur.fstat = s.cur.fstat ∧ t.cur.srseed = s.cur.srseed ∧ t.cur.hva = v.addr
    ∧ t.cur.spc = v.kern.sbase + BitVec.ofNat 64 v.kern.sentry
    ∧ (v.code < 256 → t.cur.hcause.toNat % 256 = v.code)
    ∧ t.cur.hqueue = vs ∧ t.cur.inv = some v
    ∧ (∃ f, t.cur.frame = some f ∧ f.sregs = s.cur.sregs ∧ f.creg = s.cur.creg ∧ f.ls = s.cur.ls ∧ f.le = s.cur.le
        ∧ f.lc = s.cur.lc ∧ f.armed = s.cur.armed ∧ f.spc = s.cur.spc ∧ f.fmode = s.cur.fmode ∧ f.ftrapen = s.cur.ftrapen
        ∧ f.pkr = s.cur.pkr)
    ∧ t.mem = s.mem ∧ t.others = s.others

/-! ### Mapping and energy -/

/-- R68: PGMAP is supervisor-only; an address outside window 0 or of a sett above 47 is GVA_FORMAT, and a package
outside the domain REMOTE_UNREACH. A page of this package is mapped, or not, with its status in `s[sb]`. R69: a
reservation the account covers is taken from it; an amount of 0 returns what the team holds; an amount it does not
cover waits, or with NOWAIT writes 0 to the condition register. -/
def Obligations.MappingAndEnergy : Prop :=
  (∀ (s : State) (a b : Reg) (x w r : Bool) (key : BitVec 5) (size : PageSize),
  let va := s.cur.s a
  let i := Instr.pgmap a b x w r key size
  (s.cur.mode = .user → Gives i s (s.trap codePriv 0))
    ∧ (s.cur.mode = .supervisor → s.ready [a, b] = true →
      ((bitsNat va.toNat 63 60 ≠ 0 ∨ 48 ≤ bitsNat va.toNat 53 48) → Gives i s (s.trap codeGvaFormat va))
      ∧ (bitsNat va.toNat 63 60 = 0 → bitsNat va.toNat 53 48 < 48 →
        (s.inDomain (bitsNat va.toNat 59 54) = false → Gives i s (s.trap codeRemoteUnreach va))
        ∧ (s.inDomain (bitsNat va.toNat 59 54) = true → bitsNat va.toNat 59 54 = s.ownPkg →
          ((s.sett (bitsNat va.toNat 53 48)).withdrawn = true → Gives i s (s.result 1 b 2))
          ∧ ((s.sett (bitsNat va.toNat 53 48)).withdrawn = false → s.ctx? s.cur.ctx = none → Gives i s (s.result 1 b 3))
          ∧ ∃ t, Gives i s t ∧ t.cur.s b ≤ 3 ∧ (∀ q : Reg, q ≠ b → t.cur.s q = s.cur.s q) ∧ t.cur.creg = s.cur.creg
            ∧ t.cur.fstat = s.cur.fstat ∧ (b ≠ 0 → t.cur.s b ≠ 0 → t.mem = s.mem ∧ t.ctxs = s.ctxs))))) ∧
  (∀ (s : State) (a : Reg) (k : Bit3), s.ready [a] = true →
  let amt := (s.cur.s a).toNat
  let held (u : State) : Nat := u.balance
  (s.balance < amt → Gives (.enres a) s s ∧ Gives (.enresNowait a k) s (s.resultC 1 k false))
    ∧ (0 < amt → amt ≤ s.balance →
      (∃ t, Gives (.enres a) s t ∧ held t = s.balance - amt ∧ t.cur.reserve = s.cur.reserve + amt ∧ t.cur.creg = s.cur.creg
        ∧ t.cur.sregs = s.cur.sregs ∧ t.mem = s.mem ∧ t.others = s.others)
      ∧ (∃ t, Gives (.enresNowait a k) s t ∧ held t = s.balance - amt ∧ t.cur.reserve = s.cur.reserve + amt
        ∧ t.cur.c k = true ∧ t.cur.sregs = s.cur.sregs ∧ t.mem = s.mem ∧ t.others = s.others))
    ∧ (amt = 0 → (s.curCtx).isSome = true →
      ∃ t, Gives (.enres a) s t ∧ held t = s.balance + s.cur.reserve ∧ t.cur.reserve = 0 ∧ t.cur.sregs = s.cur.sregs
        ∧ t.cur.creg = s.cur.creg ∧ t.mem = s.mem ∧ Gives (.enresNowait a k) s t))

/-! ### Channels and engine commands -/

/-- R301: CHDEF defines its slot with every pointer 0. It is rejected for a base outside S and C or off a 128-byte
boundary, for an entry size outside 1 to 512, for a slot in use, and for an extent that fails, with its failing address. -/
def Obligations.ChannelDefined : Prop := ∀ (s u : State) (a b : Reg) (l : BitVec 4) (h : BitVec 5) (x : Nat),
  s.ready [a, b] = true →
  let base := (s.cur.s a).toNat
  let e := (s.cur.s b).toNat
  let i := Instr.chdef a b l h
  let good := (base / 2 ^ 60 = 8 ∨ base / 2 ^ 60 = 9) ∧ base % 128 = 0 ∧ 1 ≤ e ∧ e ≤ 512
    ∧ s.cur.inFlight.all (fun c => !c.op.slots.contains h.toNat) = true
  let extent := extentCheck false false 0x2000 base (2 ^ l.toNat * e * 128) s
  (¬ good → Gives i s (s.reject 0)) ∧ (good → extent = .bad x u → Gives i s (u.reject x))
    ∧ (good → extent = .good u → ∃ t, Gives i s t
        ∧ FMap.get? t.cur.chans h.toNat = some {
            defd := true, base := s.cur.s a, esize := e, log2n := l.toNat, p := 0, q := 0, pc := 0, qc := 0, outs := [], ins := [],
            arrive := [] }
        ∧ (∀ k, k ≠ h.toNat → FMap.get? t.cur.chans k = FMap.get? u.cur.chans k) ∧ t.mem = u.mem ∧ t.cur.sregs = u.cur.sregs)

/-- R269, R302, R303: CHADV moves both pointers of its side by k where the requirement holds, and CHWAIT goes on once
enough entries are there, and else waits; a slot with DEF = 0, a count above the ring, and a CHADV whose requirement
fails are rejected. R269, its example: two operations that claim one entry each of an output side, in turn. When the
later one completes first, P stays; when the earlier one then completes, P advances over both claims in one step. -/
def Obligations.ChannelMotion : Prop :=
  (∀ (s : State) (a : Reg) (h : BitVec 5) (c : Chan), s.ready [a] = true →
  let k := (s.cur.s a).toNat
  let kk := BitVec.ofNat 32 k
  let moved (f : Chan → Chan) : State := s.done1 (fun t => t.setChan h.toNat f)
  let ready := (c.p - c.qc).toNat
  let room := (c.q + BitVec.ofNat 32 (2 ^ c.log2n) - c.pc).toNat
  (s.cur.chan h.toNat = none → Gives (.chadvP a h) s (s.reject 0) ∧ Gives (.chadvC a h) s (s.reject 0)
      ∧ Gives (.chwaitCnt a h) s (s.reject 0) ∧ Gives (.chwaitRoom a h) s (s.reject 0))
    ∧ (s.cur.chan h.toNat = some c →
      (k = 0 → Gives (.chadvP a h) s (s.advance 1) ∧ Gives (.chadvC a h) s (s.advance 1))
      ∧ (1 ≤ k → k ≤ 2 ^ c.log2n → k ≤ room → Gives (.chadvP a h) s (moved (fun x => { x with
          pc := x.pc + kk, p := x.p + kk, arrive := x.arrive ++ [(x.p, k, s.cur.blocks)] })))
      ∧ (1 ≤ k → k ≤ 2 ^ c.log2n → k ≤ ready → Gives (.chadvC a h) s (moved (fun x => { x with qc := x.qc + kk, q := x.q + kk })))
      ∧ (1 ≤ k → (2 ^ c.log2n < k ∨ room < k) → Gives (.chadvP a h) s (s.reject 0))
      ∧ (1 ≤ k → (2 ^ c.log2n < k ∨ ready < k) → Gives (.chadvC a h) s (s.reject 0))
      ∧ (2 ^ c.log2n < k → Gives (.chwaitCnt a h) s (s.reject 0) ∧ Gives (.chwaitRoom a h) s (s.reject 0))
      ∧ (k ≤ 2 ^ c.log2n →
        (k ≤ ready → Gives (.chwaitCnt a h) s (s.advance 1)) ∧ (ready < k → Gives (.chwaitCnt a h) s s)
        ∧ (k ≤ room → Gives (.chwaitRoom a h) s (s.advance 1)) ∧ (room < k → Gives (.chwaitRoom a h) s s)))) ∧
  (∀ (t : Team) (h a b : Nat) (c : Chan),
  FMap.get? t.chans h = some c → c.outs = [] → c.defd = true → a ≠ b →
  let t1 := (claimAll a [(h, true, 1)] t).1
  let t2 := (claimAll b [(h, true, 1)] t1).1
  let p (u : Team) : Option (BitVec 32) := (FMap.get? u.chans h).map Chan.p
  p t2 = some c.p ∧ (FMap.get? t2.chans h).map Chan.pc = some (c.pc + 2)
    ∧ p (t2.completeClaims b) = some c.p ∧ p ((t2.completeClaims b).completeClaims a) = some (c.p + 2))

/-- R264, R298, R299, R304 to R307, R271: a mover instruction whose descriptor, offsets, extents and pages pass puts its command
at the tail of the mover queue, and waits while sixteen commands stand there. What it reads stays with it until then; MVGATH reads its
list of rows after the descriptor. -/
def Obligations.MoverIssued : Prop := ∀ (s r g u v w : State) (a : Reg) (bs list : List Byte) (d : MvDesc) (k : MvKind) (dec : Bool),
  s.cur.wait = none → s.ready [a] = true → structOk (s.cur.s a).toNat 64 = true →
  s.readWords (s.cur.s a).toNat 8 = .ok bs r → bs.length = 64 →
  let q := r.holdStruct bs
  parseMover q.cur bs = some d →
  sideOk q.cur d.inch d.incnt d.src d.sstride d.rowlen d.rows = true →
  sideOk q.cur d.outch d.outcnt d.dst d.dstride d.rowlen d.rows = true →
  let passes (w : State) : Prop := extentsCheck false (k == .dec) (moverExtents k d).1 none w = .good u
    ∧ extentsCheck true false (moverExtents k d).2 none u = .good v
    ∧ (moverPages v.cur k d).length + sidePages v.cur d.inch d.incnt + sidePages v.cur d.outch d.outcnt ≤ 64
  let issued (i : Instr) : Prop :=
    let c : EngCmd := { id := v.tick, op := .mover k d, pkr := v.cur.pkr, arr := v.cur.arrives, need := v.cur.need }
    (v.cur.mvq.length < 16 → ∃ t, Gives i s t ∧ t.cur.mvq = v.cur.mvq ++ [c] ∧ t.cur.wait = none ∧ t.cur.mxq = v.cur.mxq
        ∧ t.cur.sregs = v.cur.sregs ∧ t.cur.chans = v.cur.chans ∧ t.mem = v.mem)
      ∧ (16 ≤ v.cur.mvq.length → ∃ t, Gives i s t ∧ t.cur.wait = some (.queue false c) ∧ t.cur.mvq = v.cur.mvq
        ∧ t.cur.spc = v.cur.spc)
  (k = (if dec then .dec else .copy) → d.aux = 0 → (dec = true → d.inch = none ∧ d.src.toNat / 2 ^ 60 = 0 ∧ d.src.toNat % 128 = 0
      ∧ d.sstride % 128 = 0 ∧ d.rowlen % 128 = 0) → passes q → issued (.mvcopy a dec))
    ∧ (k = .fill → d.src = 0 → d.sstride = 0 → fieldAt bs 32 1 = 0 → passes q → issued (.mvfill a))
    ∧ (d.src = 0 → d.sstride = 0 → d.inch = none → structOk d.aux.toNat 8 = true →
        extentCheck false false (d.rows + 3) d.aux.toNat (8 * d.rows) q = .good g → g.readWords d.aux.toNat d.rows = .ok list w →
        k = .gath ((upTo 0 d.rows).map (fun i => BitVec.ofNat 64 (fieldAt list (8 * i) 8))) →
        passes (w.holdStruct (bs ++ list)) → issued (.mvgath a))

/-- R308 to R310, R297, R299: TMMA and TACC enter the matrix queue where the fields of their shape or tile word are within the limits
and their slots hold what they need, and wait while sixteen commands stand there; they are rejected with ENGINE_DESC otherwise. -/
def Obligations.MatrixIssued : Prop := ∀ (s : State) (a : Reg) (z am bn satf : Bool) (ha hb : BitVec 5),
  s.cur.wait = none → s.ready [a] = true →
  let t := s.cur
  let w := t.s a
  let issued (i : Instr) (op : EngOp) : Prop :=
    let c : EngCmd := { id := s.tick, op := op, pkr := t.pkr, arr := t.arrives, need := t.need }
    (t.mxq.length < 16 → Gives i s { s.done1 (fun t => { t with
        mxq := t.mxq ++ [c], wait := none, sent := [], replies := [] }) with tick := s.tick + 1 })
      ∧ (16 ≤ t.mxq.length → Gives i s { s with
          cur := { t with wait := some (.queue true c), sent := [], replies := [] }, tick := s.tick + 1 })
  let sh := shapeOf w
  let tw := tileWord w
  let good := shapeFits w t.acctiles true ∧ formatFamily sh.afmt = formatFamily sh.bfmt ∧ (am = true → formatFamily sh.afmt = 1)
    ∧ (bn = true → formatFamily sh.bfmt = 1)
    ∧ (∃ c, t.chan ha.toNat = some c ∧ panelBytes (8 * sh.m8) (64 * sh.k64) sh.afmt sh.mx ≤ c.esize * 128)
    ∧ ∃ c, t.chan hb.toNat = some c ∧ panelBytes (16 * sh.n16) (64 * sh.k64) sh.bfmt sh.mx ≤ c.esize * 128
  let tacc (i : Instr) (op : TaccOp) (need : Nat) (scaled : Bool) (h : Nat) : Prop :=
    let good := tileFits w t.acctiles scaled ∧ (need = 0 ∨ ∃ c, t.chan h = some c ∧ need * tw.nt ≤ c.esize * 128)
    (good → issued i (.tacc op tw h)) ∧ (¬ good → Gives i s (s.reject 0))
  (good → issued (.tmma a bn am z hb ha) (.tmma sh z am bn ha.toNat hb.toNat))
    ∧ (¬ good → Gives (.tmma a bn am z hb ha) s (s.reject 0))
    ∧ tacc (.taccZero a) .zero 0 false 0 ∧ tacc (.taccLoad a ha) .load 512 false ha.toNat
    ∧ tacc (.taccStore a ha) .store 512 false ha.toNat ∧ tacc (.taccStoreBf16 a ha) .storeBf16 256 false ha.toNat
    ∧ tacc (.taccStoreE4m3 a satf ha) (.storeE4m3 satf) 128 true ha.toNat

/-- R311, R312, R236: TARRIVE puts a marker of the blocks enqueued so far in both queues; TWAIT waits for the selected
queues, then delivers the span status and clears it. -/
def Obligations.ArriveAndWait : Prop := ∀ (s : State) (d : Reg) (w : WaitSel),
  let t := s.cur
  let mark : EngCmd := { id := s.tick, op := .marker t.blocks, pkr := t.pkr, arr := t.arrives + 1, need := t.blocks }
  let open_ := (w ≠ .mover ∧ t.matrixDone = false) ∨ (w ≠ .matrix ∧ t.moverDone = false)
  ((16 ≤ t.mvq.length ∨ 16 ≤ t.mxq.length) → Gives .tarrive s s)
    ∧ (t.mvq.length < 16 → t.mxq.length < 16 → ∃ u, Gives .tarrive s u ∧ u.cur.arrives = t.arrives + 1 ∧ u.cur.need = t.blocks
        ∧ (t.moverDone = false → t.mvq ≠ [] → (∀ c ∈ t.mvq.head?, ∀ n, c.op ≠ .marker n) → u.cur.mvq = t.mvq ++ [mark])
        ∧ (t.mvq = [] → u.cur.mvq = []) ∧ (t.mxq = [] → u.cur.mxq = [])
        ∧ u.cur.sregs = t.sregs ∧ u.cur.fired = t.fired ∧ u.mem = s.mem)
    ∧ (s.ready [d] = true → open_ → Gives (.twait d w) s s)
    ∧ (s.ready [d] = true → ¬ open_ → ∃ u, Gives (.twait d w) s u ∧ u.cur.s d = (if d = 0 then 0 else t.spanStatus.setWidth 64)
        ∧ u.cur.spanStatus = 0 ∧ (∀ r : Reg, r ≠ d → u.cur.s r = t.s r) ∧ u.cur.fstat = t.fstat ∧ u.mem = s.mem
        ∧ (w ≠ .mover → u.cur.unwaited = []) ∧ (w = .mover → u.cur.unwaited = t.unwaited))

/-- R278, R280, R313 to R315: a team opens a span it stands in and waits for the others; all its members are open in one
step once every column is there and no open span holds a core of the range; SPANMMA and SPANCLOSE then enter the matrix queue. Each is
rejected where a case of its rule applies. -/
def Obligations.SpanLife : Prop := ∀ (s : State) (a : Reg) (keep z : Bool) (ha hb : BitVec 5) (m : SpanMember),
  let t := s.cur
  let x := (t.s a).toNat
  let new : SpanMember := {
    number := x % 64, g0 := x / 64 % 128, len := x / 2 ^ 13 % 256, row := t.sett / 8, bench := t.core / 16, opened := false,
    broken := false }
  let free := s.others.all (fun u => !(u.status == .running && sameSpan t u new && u.columns.any (fun g => t.columns.contains g)))
  let good := x < 2 ^ 21 ∧ 1 ≤ new.len ∧ new.g0 + new.len ≤ 128 ∧ (∃ g ∈ t.columns, new.g0 ≤ g ∧ g < new.g0 + new.len)
    ∧ new.bench < s.benchOf t.sett ∧ free = true ∧ t.span = none
  let waiting := (upTo m.g0 m.len).filterMap (fun g => s.teams.find? (fun u =>
    u.columns.contains g && u.span.any (fun y => !y.opened) && sameSpan t u m))
  let clash := ∃ u ∈ s.teams, ∃ y, u.span = some y ∧ y.opened = true ∧ y.row = m.row ∧ y.bench = m.bench
    ∧ y.g0 < m.g0 + m.len ∧ m.g0 < y.g0 + y.len
  let enters (i : Instr) (op : EngOp) : Prop := Gives i s { s.done1 (fun t => { t with
      mxq := t.mxq ++ [{ id := s.tick, op := op, pkr := t.pkr, arr := t.arrives, need := t.need }],
      wait := none, sent := [], replies := [] }) with tick := s.tick + 1 }
  let sh := shapeOf (t.s a)
  let fits := shapeFits (t.s a) t.acctiles (t.columns.contains (m.g0 + m.len - 1))
    ∧ (t.columns.contains m.g0 = true → t.chan ha.toNat ≠ none)
    ∧ ∃ c, t.chan hb.toNat = some c ∧ panelBytes (16 * sh.n16) (64 * sh.k64) sh.bfmt sh.mx ≤ c.esize * 128
  (t.wait = none → s.ready [a] = true →
      (good → Gives (.spanopen a) s { s with cur := { t with span := some new, wait := some .span } })
      ∧ (¬ good → Gives (.spanopen a) s (s.reject 0)))
    ∧ (t.wait = some .span → t.span = some m →
      (m.opened = true → Gives (.spanopen a) s (s.done1 (fun t => { t with wait := none })))
      ∧ (m.opened = false → Gives (.spanopen a) s s))
    ∧ (t.span = some m → m.opened = false →
      (waiting.length < m.len ∨ clash → Gives .spanRendezvous s s)
      ∧ (waiting.length = m.len → (∀ u ∈ waiting, u.status = .running) → ¬ clash → s.halted t.ctx = false →
        ∃ v, Gives .spanRendezvous s v ∧ v.mem = s.mem ∧ v.others.length = s.others.length
          ∧ (∀ u ∈ waiting, { u with span := u.span.map (fun y => { y with opened := true }) } ∈ v.teams)
          ∧ (∀ u ∈ s.teams, (∀ w ∈ waiting, w.uid ≠ u.uid) → u ∈ v.teams)))
    ∧ (t.wait = none → t.span = some m → m.opened = true →
      (t.mxq.length < 16 → enters .spanclose .spanClose)
      ∧ (s.ready [a] = true → t.mxq.length < 16 → fits → enters (.spanmma a keep z ha hb) (.spanMma sh z keep ha.toNat hb.toNat))
      ∧ (s.ready [a] = true → ¬ fits → Gives (.spanmma a keep z ha hb) s (s.reject 0)))
    ∧ (t.wait = none → (t.span = none ∨ ∃ m, t.span = some m ∧ m.opened = false) → Gives .spanclose s (s.reject 0)
      ∧ (s.ready [a] = true → Gives (.spanmma a keep z ha hb) s (s.reject 0)))

/-- R264 to R266, R269, R280: the head of a queue fires where its blocks are done, its claims are possible, the engine has
capacity, its pages and pins are there, and no team of the core has an earlier command that can fire. It leaves its queue, its claims
are made, and it runs; a marker at the head leaves at once, and SPANCLOSE leaves the span once no round of it runs. A team that has
ended fires nothing. -/
def Obligations.EngineFires : Prop := ∀ (s u : State) (matrix : Bool) (c : EngCmd) (rest : List EngCmd),
  let t := s.cur
  let i := Instr.engineCommandFire matrix
  let turn := s.capacity t.sett t.core matrix = true ∧ s.firstInLine t matrix c = true
  (if matrix then t.mxq else t.mvq) = c :: rest →
  (t.status ≠ .running → Gives i s s)
    ∧ (t.status = .running → s.halted t.ctx = false →
      ((∃ n, c.op = .marker n) → ∃ v, Gives i s v ∧ (if matrix then v.cur.mxq else v.cur.mvq) = dropMarks rest ∧ v.cur.fired = t.fired)
      ∧ (c.op = .spanClose → matrix = true →
          let ready := t.blocksDone c.need = true ∧ (∀ f ∈ t.fired, ∀ sh z k ha hb, f.cmd.op ≠ .spanMma sh z k ha hb) ∧ turn
          (ready → ∃ v, Gives i s v ∧ v.cur.span = none ∧ v.cur.mxq = dropMarks rest ∧ v.mem = s.mem) ∧ (¬ ready → Gives i s s))
      ∧ ((∃ k d, c.op = .mover k d) ∨ (∃ op w h, c.op = .tacc op w h)
          ∨ ((∃ sh z x y ha hb, c.op = .tmma sh z x y ha hb) ∧ u.cur.wlog = []) →
          let ready := t.blocksDone c.need = true ∧ claimsOk c.op.claims t = true ∧ s.couldPin t (t.commandPages c.op) = true ∧ turn
          (¬ ready → Gives i s s)
          ∧ (ready → s.bringPages (t.commandPages c.op) = (u, true) →
            u.pinsOk (u.framesOf (t.commandPages c.op)) = true → u.cur.mxq = t.mxq → u.cur.mvq = t.mvq →
            ∃ v f, Gives i s v ∧ v.cur.fired = u.cur.fired ++ [f] ∧ f.id = c.id ∧ f.cmd = c ∧ f.raced = false
              ∧ f.pins = u.framesOf (t.commandPages c.op)
              ∧ v.cur.chans = (claimAll c.id c.op.claims u.cur).1.chans
              ∧ (if matrix then v.cur.mxq else v.cur.mvq) = dropMarks rest ∧ v.cur.sregs = u.cur.sregs ∧ v.mem = u.mem)))

/-- R274, R275, R309, R310: completion on the matrix engine. TACC.ZERO leaves +0 in every element of its tiles and
touches no other; TMMA leaves in element (m, n) of its result the chunk-by-chunk sum over its entries, and ORs the
flags. The operation then runs no more. R307, R234: a fill of one row of up to 128 bytes into chip scratchpad leaves
there the bytes of its pattern, byte j being byte j mod 8, and no other byte of memory changes; the operation then
runs no more. -/
def Obligations.EngineCompletes : Prop :=
  (∀ (s : State) (f : Fired),
  s.cur.fired.find? (fun x => x.id == f.id) = some f →
  let place (t n16 m n : Nat) : Nat := 128 * (t + m / 8 * n16 + n / 16) + 16 * (m % 8) + n % 16
  (∀ tw h, f.cmd.op = .tacc .zero tw h → 1 ≤ tw.c16 → tw.nt % tw.c16 = 0 →
      ∃ v, Gives (.matrixOperationComplete f.id) s v
        ∧ (∀ m n, m < 8 * (tw.nt / tw.c16) → n < 16 * tw.c16 → FMap.getD v.cur.acc (place tw.t tw.c16 m n) 1 = 0)
        ∧ (∀ k, (k < 128 * tw.t ∨ 128 * (tw.t + tw.nt) ≤ k) → FMap.get? v.cur.acc k = FMap.get? s.cur.acc k)
        ∧ (∀ x ∈ v.cur.fired, x.id ≠ f.id) ∧ v.cur.sregs = s.cur.sregs ∧ v.cur.fstat = s.cur.fstat)
    ∧ (∀ sh z aord bord ha hb a b, f.cmd.op = .tmma sh z aord bord ha hb → f.raced = false →
      s.panel ha f.inStart (8 * sh.m8) (64 * sh.k64) sh.afmt aord sh.mx = some a →
      s.panel hb f.in2Start (16 * sh.n16) (64 * sh.k64) sh.bfmt bord sh.mx = some b →
      ∃ v, Gives (.matrixOperationComplete f.id) s v
        ∧ (∀ m n, m < 8 * sh.m8 → n < 16 * sh.n16 →
          let acc := if z then 0 else (FMap.getD s.cur.acc (place sh.t sh.n16 m n) 0).toNat
          FMap.get? v.cur.acc (place sh.t sh.n16 m n) = some (BitVec.ofNat 32 (chunkRun a b m n 0 (upTo 0 (b.kb / 64)) acc 0).1))
        ∧ (∀ k, (k < 128 * sh.t ∨ 128 * (sh.t + sh.m8 * sh.n16) ≤ k) → FMap.get? v.cur.acc k = FMap.get? s.cur.acc k)
        ∧ v.cur.fstat &&& s.cur.fstat = s.cur.fstat ∧ (∀ x ∈ v.cur.fired, x.id ≠ f.id) ∧ v.cur.sregs = s.cur.sregs)) ∧
  (∀ (s : State) (f : Fired) (d : MvDesc),
  s.cur.fired.find? (fun x => x.id == f.id && x.isMover) = some f → f.cmd.op = .mover .fill d → s.cur.status = .running →
  s.mem.wf = true →
  d.inch = none → d.outch = none → d.rows = 1 → 1 ≤ d.rowlen → d.rowlen + d.dst.toNat % 128 ≤ 128 →
  d.dst.toNat / 2 ^ 60 = 10 → d.dst.toNat % 2 ^ 60 < 2 ^ 26 →
  (∀ x ∈ s.frames, ∀ c ∈ x.2.copies, c.1 ≠ f.id) → f.sent = false → f.lost = [] →
  let k := Config.chipKey s.cur.sett (s.chipBase s.cur + d.dst.toNat % 2 ^ 26)
  s.calm none k d.rowlen = true →
  ∃ v, Gives (.moverOperationComplete f.id []) s v ∧ (∀ x ∈ v.cur.fired, x.id ≠ f.id) ∧ v.cur.sregs = s.cur.sregs
    ∧ (∀ j, j < d.rowlen → v.mem.get (k + j) = (d.aux.toNat / 256 ^ (j % 8) : Nat))
    ∧ (∀ x, (x < k ∨ k + d.rowlen ≤ x) → v.mem.get x = s.mem.get x))

/-- R279, R280: a round of an open span fires for all its members in one step or for none; where a member has gone, a member's
command completes with the CLOSED bit of R312 and no data, and where the members disagree, now or in an earlier round, all their
commands do so with the MISMATCH bit. At its completion the tail's tiles hold the chained product. -/
def Obligations.SpanRounds : Prop := ∀ (s v : State) (m : SpanMember) (op : Nat) (hd tl : Team)
    (x : EngCmd × Shape × Bool × Bool × Nat × Nat) (fa : Fired) (sa st : Shape) (ha : Nat) (z : Bool) (a : Panel) (bs : List Panel)
    (r1 r2 r3 : Nat) (q1 q2 q3 : Bool) (ft : Fired),
  s.cur.span = some m → m.opened = true →
  let ids := s.memberIds s.cur m
  let us := ids.filterMap s.team?
  let gone := (s.members s.cur m).length < m.len ∨ us.any (fun u => u.status != .running) = true
  let bytes := (us.head?.bind (fun u => u.spanHead.bind (fun y => (u.chan y.2.2.2.2.1).map Chan.bytes))).getD 0
  let agree := m.broken = false ∧ roundAgrees (us.filterMap Team.spanHead) bytes = true
  let ready := us.all (fun u => s.roundReady u (some u.uid == ids.head?) && s.capacity u.sett u.core true) = true
    ∧ us.all (fun u => match u.head true with | some c => s.firstInLine u true c | none => false) = true
  (s.cur.spanHead = some x → s.halted s.cur.ctx = false →
      (gone → Gives .spanRoundFire s { s with cur := { s.cur.popHead true with spanStatus := s.cur.spanStatus ||| 2 } })
      ∧ (¬ gone → us.any (fun u => u.spanHead.isNone) = true → Gives .spanRoundFire s s)
      ∧ ((s.members s.cur m).length = m.len → ¬ gone → us.any (fun u => u.spanHead.isNone) = false →
        (¬ agree → Gives .spanRoundFire s (s.mapTeams (fun t => if ids.contains t.uid && t.status != .absent then
            { t.popHead true with spanStatus := t.spanStatus ||| 1, span := t.span.map (fun y => { y with broken := true }) } else t)))
        ∧ (agree → ¬ ready → Gives .spanRoundFire s s)
        ∧ (agree → ready → fireMembers (ids.map (fun i => (i, some i == ids.head?))) s = some v →
            Gives .spanRoundFire s (v.focus s.cur.uid))))
    ∧ ((s.cur.fired.find? (fun f => f.id == op)).isSome = true → ids.head?.bind s.team? = some hd → ids.getLast?.bind s.team? = some tl →
      hd.roundOp = some (fa, sa, q1, q2, ha, r1) → tl.roundOp = some (ft, st, z, q3, r2, r3) → roundPanels s ids = some bs →
      (s.focus hd.uid).panel ha fa.inStart (8 * sa.m8) (bs.foldl (fun n b => n + b.kb) 0) sa.afmt false sa.mx = some a →
      let out := productInto a bs st.t st.n16 z tl.acc (gridOf (8 * st.m8) (16 * st.n16)) tl.acc 0
      Gives (.spanRoundComplete op) s
        ((retireRound sa.afmt ids (s.setTeam tl.uid (fun t => { t with fstat := t.fstat ||| out.2, acc := out.1 }))).focus s.cur.uid))

/-! ### Scratchpad pages, migration and DFENCE -/

/-- R322, R323: SPMAP maps its pages as zeros with the write right of its flag, and SPUNMAP makes each valid page invalid;
either is rejected whole, and then changes no entry. No other entry changes. -/
def Obligations.ScratchpadPages : Prop := ∀ (s : State) (a b : Reg) (we : Bool), s.ready [a, b] = true →
  let t := s.cur
  let p := (t.s a).toNat
  let k := (t.s b).toNat
  let inside (q : Nat) : Prop := if q < 1024 then 4096 * q < t.kern.scratch else 4096 * (q - 1024) < t.kern.lanesN * t.kern.lanepriv
  (k = 0 → Gives (.spmap a b we) s (s.advance 1))
    ∧ (1 ≤ k → (2048 < p + k ∨ ∃ q, p ≤ q ∧ q < p + k ∧ (¬ inside q ∨ (FMap.get? t.stt q).isSome = true)) →
        Gives (.spmap a b we) s (s.reject 0))
    ∧ (1 ≤ k → p + k ≤ 2048 → (∀ q, p ≤ q → q < p + k → inside q ∧ FMap.get? t.stt q = none) →
        ∃ v, Gives (.spmap a b we) s v
          ∧ (∀ q, p ≤ q → q < p + k → FMap.get? v.cur.stt q = some { we := we, st := 2, frame := 0, rcore := 0, dirty := false })
          ∧ (∀ q, (q < p ∨ p + k ≤ q) → FMap.get? v.cur.stt q = FMap.get? t.stt q) ∧ v.mem = s.mem ∧ v.cur.sregs = t.sregs)
    ∧ (t.lanesDone = false → Gives (.spunmap a b) s s)
    ∧ (t.lanesDone = true → (2048 < p + k ∨ ∃ q, p ≤ q ∧ q < p + k ∧ t.covers q = true) → Gives (.spunmap a b) s (s.reject 0))
    ∧ (t.lanesDone = true → p + k ≤ 2048 → (∀ q, p ≤ q → q < p + k → t.covers q = false) →
        ∃ v, Gives (.spunmap a b) s v ∧ (∀ q, p ≤ q → q < p + k → FMap.get? v.cur.stt q = none)
          ∧ (∀ q, (q < p ∨ p + k ≤ q) → FMap.get? v.cur.stt q = FMap.get? t.stt q) ∧ v.cur.sregs = t.sregs)

/-- R324, R316: SPMIG to a core with room moves the team there, its resident pages left as lent frames of the old core, and
writes 1; without room it writes 0 and moves nothing. DFENCE of a range of this package leaves its lines RAW with the same
bytes; a malformed range is rejected. -/
def Obligations.MigrationAndDfence : Prop := ∀ (s : State) (a b : Reg) (k : Bit3), s.ready [a, b] = true →
  let t := s.cur
  let x := (t.s a).toNat
  let n := (t.s b).toNat
  (t.pair = false → t.span = none → x < 256 → x / 16 < s.gridRows t.sett → t.lanesDone = true → t.enginesDone = true → s.quiet = true →
      (x = t.core → Gives (.spmig a k) s (s.resultC 1 k true))
      ∧ (x ≠ t.core → s.coreTakes x = false → Gives (.spmig a k) s (s.resultC 1 k false))
      ∧ (x ≠ t.core → s.coreTakes x = true → ∃ v, Gives (.spmig a k) s v ∧ v.cur.core = x ∧ v.cur.c k = true
          ∧ v.cur.sregs = t.sregs ∧ v.mem = s.mem
          ∧ (∀ p e, FMap.get? t.stt p = some e →
              FMap.get? v.cur.stt p = some (if e.st = 0 then { e with st := 3, rcore := t.core } else e))))
    ∧ ((256 ≤ x ∨ s.gridRows t.sett ≤ x / 16 ∨ t.pair = true ∨ t.span.isSome = true) → Gives (.spmig a k) s (s.reject 0))
    ∧ (t.pair = false → t.span = none → x < 256 → x / 16 < s.gridRows t.sett →
      (t.lanesDone = false ∨ t.enginesDone = false ∨ s.quiet = false) → Gives (.spmig a k) s s)
    ∧ ((1 ≤ x / 2 ^ 60 ∨ 48 ≤ bitsNat x 53 48 ∨ 2 ^ 48 < x % 2 ^ 48 + n ∨ x % 128 ≠ 0 ∨ n % 128 ≠ 0 ∨ n < 128 ∨ 2 ^ 30 < n
        ∨ s.inDomain (bitsNat x 59 54) = false) → Gives (.dfence a b) s (s.reject 0))
    ∧ (x < 2 ^ 60 → bitsNat x 53 48 < 48 → bitsNat x 59 54 = s.ownPkg → s.inDomain s.ownPkg = true → x % 128 = 0 → n % 128 = 0 →
      128 ≤ n → n ≤ 2 ^ 30 → x % 2 ^ 48 + n ≤ 2 ^ 48 →
      ((t.lanesDone = false ∨ t.moverDone = false ∨ s.quiet = false) → Gives (.dfence a b) s s)
      ∧ (t.lanesDone = true → t.moverDone = true → s.quiet = true → t.sent = [] → ∃ v, Gives (.dfence a b) s v ∧ v.mem = s.mem
          ∧ v.cur.sregs = t.sregs
          ∧ ∀ i l, i < n / 128 → s.walk t.ctx (bitsNat x 53 48) (x % 2 ^ 48 + 128 * i) = some l → v.packState l.key = 0))

/-! ### The collective engine, counters and messages -/

/-- R293 to R295, R318 to R320: CNTSET gives the counter its value and a new generation, and the entries armed on it leave;
CNTADD adds its increment, defers it under .ARRIVE until the blocks before it are done, or sends it to another sett;
CNTWAIT goes on, or waits until a change meets its threshold, and CNTWAIT.NOWAIT answers, by sext(VALUE - thr, 32) at least 0. An
index out of range, a threshold more than 2^31 ahead, and a malformed increment are rejected. -/
def Obligations.CounterInstructions : Prop := ∀ (s : State) (a b : Reg) (k : Bit3) (arrive : Bool), s.ready [a, b] = true →
  let t := s.cur
  let thr : BitVec 32 := (t.s b).setWidth 32
  let w := (t.s b).toNat
  let sett := w / 2 ^ 16 % 64
  let pkg := w / 2 ^ 22 % 64
  let now := arrive = false ∨ s.blocksPerformed t.uid t.blocks = true
  let later (pkg sett : Nat) : State := State.advance { s with incs := s.incs ++ [{
    uid := t.uid, need := t.blocks, ctx := t.ctx, src := t.sett, pkg := pkg, sett := sett, idx := (t.s a).toNat, inc := w % 65536 }] } 1
  let goesOn (i : Instr) : Prop := ∃ v, Gives i s v ∧ v.cur.wait = none ∧ v.cur.sregs = t.sregs ∧ v.mem = s.mem
    ∧ v.cur.spc = (s.advance 1).cur.spc
  (s.ctrNo t.ctx t.sett (t.s a).toNat = none → Gives (.cntset a b) s (s.reject 0) ∧ Gives (.cntwaitNowait a b k) s (s.reject 0)
      ∧ (t.wait = none → Gives (.cntwait a b) s (s.reject 0)) ∧ Gives (.cntadd a b arrive false) s (s.reject 0))
    ∧ ((w % 65536 = 0 ∨ 2 ^ 28 ≤ w ∨ 48 ≤ sett) → Gives (.cntadd a b arrive true) s (s.reject 0))
    ∧ (w % 65536 ≠ 0 → w < 2 ^ 28 → sett < 48 →
      (s.inDomain pkg = false → Gives (.cntadd a b arrive true) s (s.trap codeRemoteUnreach 0))
      ∧ (s.inDomain pkg = true →
        (now → Gives (.cntadd a b arrive true) s
          ((s.sendCtl t.sett pkg sett (.increment t.ctx (t.s a).toNat (w % 65536))).advance 1))
        ∧ (¬ now → Gives (.cntadd a b arrive true) s (later pkg sett))))
    ∧ (∀ no, s.ctrNo t.ctx t.sett (t.s a).toNat = some no →
      let c := s.counter t.sett no
      let met := 0 ≤ (c.value - thr).toInt
      let far := 2 ^ 31 < (thr - c.value).toNat
      let armed (e : Entry) : Prop := e ∈ (s.sett t.sett).entries ∧ e.ctr = no ∧ e.fired = false ∧ e.waitBlocks = none
      (∃ v, Gives (.cntset a b) s v ∧ v.counter t.sett no = { value := thr, gen := c.gen + 1 }
          ∧ (∀ n, n ≠ no → v.counter t.sett n = s.counter t.sett n) ∧ v.cur.sregs = t.sregs
          ∧ (∀ e, e ∈ (v.sett t.sett).entries ↔ e ∈ (s.sett t.sett).entries ∧ ∀ o, armed o → o.id ≠ e.id)
          ∧ ((∀ o, ¬ armed o) → v.mem = s.mem))
      ∧ (1 ≤ w → w ≤ 65535 →
        (now → ∃ v, Gives (.cntadd a b arrive false) s v ∧ v.counter t.sett no = { c with value := c.value + BitVec.ofNat 32 w }
            ∧ (∀ n, n ≠ no → v.counter t.sett n = s.counter t.sett n) ∧ v.cur.sregs = t.sregs ∧ v.mem = s.mem)
        ∧ (¬ now → Gives (.cntadd a b arrive false) s (later 64 0)))
      ∧ (w % 65536 = 0 ∨ 65536 ≤ w → Gives (.cntadd a b arrive false) s (s.reject 0))
      ∧ (far → Gives (.cntwaitNowait a b k) s (s.reject 0) ∧ (t.wait = none → Gives (.cntwait a b) s (s.reject 0)))
      ∧ (¬ far → ∃ v, Gives (.cntwaitNowait a b k) s v ∧ v.cur.c k = decide met ∧ v.cur.sregs = t.sregs ∧ v.mem = s.mem
          ∧ (∀ n, v.counter t.sett n = s.counter t.sett n))
      ∧ (¬ far → t.wait = none →
        (met → goesOn (.cntwait a b))
        ∧ (¬ met → Gives (.cntwait a b) s { s with cur := { t with wait := some (.cnt t.sett no thr false) } })))
    ∧ ∀ x no (y : BitVec 32),
      (t.wait = some (.cnt x no y true) → goesOn (.cntwait a b))
      ∧ (t.wait = some (.cnt x no y false) → Gives (.cntwait a b) s s
        ∧ ∀ n, t.status = .running → 0 ≤ ((s.counter x no).value + BitVec.ofNat 32 n - y).toInt →
          (s.bump x no n).cur.wait = some (.cnt x no y true))

/-- R294: after an increment every armed entry of the counter whose test holds has fired and no other has; entries keep
their order. An entry of a collective run fires in its run (R415). -/
def Obligations.IncrementFiresEntries : Prop := ∀ (s : State) (sett no n : Nat),
  let v := s.bump sett no n
  let x := (s.counter sett no).value + BitVec.ofNat 32 n
  (v.counter sett no).value = x ∧ (v.counter sett no).gen = (s.counter sett no).gen
    ∧ (v.sett sett).entries.map Entry.id = (s.sett sett).entries.map Entry.id
    ∧ ∀ e ∈ (v.sett sett).entries, e.fired = true ↔
      (∃ o ∈ (s.sett sett).entries, { o with fired := true } = e ∧ (o.fired = true
        ∨ (s.halted o.ctx = false ∧ o.ctr = no ∧ o.waitBlocks = none ∧ o.group = none ∧ 0 ≤ (x - o.thresh).toInt)))

/-- R290, R294, R317: QPOST of an entry whose fields and extents pass arms it behind the entries of its sett with the
counter's generation, fired at once where IMM is set or its test holds; under .ARRIVE it takes its place and is armed once the blocks
before it are done. Without a free place it waits. A malformed entry is rejected with its address, and so is one whose threshold lies
more than 2^31 ahead; an extent that fails is rejected with its failing address. -/
def Obligations.EntryPosted : Prop := ∀ (s r u : State) (a : Reg) (arrive : Bool) (bs : List Byte) (x : Nat),
  s.cur.wait = none → s.ready [a] = true → structOk (s.cur.s a).toNat 64 = true →
  s.readWords (s.cur.s a).toNat 8 = .ok bs r →
  let at_ := (s.cur.s a).toNat
  let q := r.holdStruct bs
  let f := entryFields bs
  let i := Instr.qpost a arrive
  let fine := entryOk bs = true ∧ (q.ctrNo q.cur.ctx q.cur.sett f.trig).isSome = true
    ∧ (f.remote = true ∨ (q.ctrNo q.cur.ctx q.cur.sett f.cctr).isSome = true)
  (¬ fine → Gives i s (q.reject at_))
    ∧ (fine → q.entryExtents at_ f = .bad x u → Gives i s (u.reject x))
    ∧ (fine → q.entryExtents at_ f = .good u → u.placeFree u.cur.ctx u.cur.sett = false →
        ∃ v, Gives i s v ∧ v.cur.wait = some (.post bs) ∧ v.cur.spc = u.cur.spc ∧ v.setts = u.setts)
    ∧ (fine → q.entryExtents at_ f = .good u → u.placeFree u.cur.ctx u.cur.sett = true →
        ∀ no, u.ctrNo u.cur.ctx u.cur.sett f.trig = some no →
        let c := u.counter u.cur.sett no
        let far := 2 ^ 31 < (BitVec.ofNat 32 f.thresh - c.value).toNat
        (f.imm = false → far → Gives i s (u.reject at_))
        ∧ ((f.imm = true ∨ ¬ far) →
          ∃ v e, Gives i s v ∧ (v.sett u.cur.sett).entries = (u.sett u.cur.sett).entries ++ [e] ∧ e.bytes = bs ∧ e.ctx = u.cur.ctx
            ∧ e.pkr = u.cur.pkr ∧ e.ctr = no ∧ v.cur.wait = none ∧ v.cur.sregs = u.cur.sregs ∧ v.mem = u.mem
            ∧ (arrive = true → e.waitBlocks = some (u.cur.uid, u.cur.blocks) ∧ e.fired = false)
            ∧ (arrive = false → e.waitBlocks = none ∧ e.gen = c.gen ∧ (u.halted u.cur.ctx = false →
              (e.fired = true ↔ f.imm = true ∨ 0 ≤ (c.value - BitVec.ofNat 32 f.thresh).toInt)))))

/-- R292, R296, R443: a fired entry whose accesses succeed leaves its sett and makes its increment, the elements of a reduction
counted; one that fails, or whose access to another package is not answered within 100 us (R379), leaves with an event CLE_FAULTED and
makes none. An entry of kind 2 makes its increment alone. An entry that waits for another package asks it for its source. -/
def Obligations.EntryCompletes : Prop := ∀ (s w : State) (sett code stamp no : Nat) (e : Entry) (fl : Flags5) (ext : List Answer) (c : Context),
  s.firedEntry sett e.id = some e → s.linkEntry sett e.id = none → e.res = none → s.ctx? e.ctx = some c →
  let f := entryFields e.bytes
  let i := Instr.cleEntryComplete sett e.id ext
  let late := (e.sent = true ∨ e.recSent = true ∨ e.asked ≠ []) ∧ e.at_ + 100000 ≤ s.gtc
  f.recd = 0 → f.remote = false →
  (f.kind = 2 → s.ctrNo e.ctx sett f.cctr = some no → Gives i s ((s.dropEntry sett e.id).bump sett no f.inc))
    ∧ (s.cleMove sett e ext = .done fl stamp w → w.ctrNo e.ctx sett f.cctr = some no →
      (f.kind ≠ 1 → Gives i s ((w.dropEntry sett e.id).bump sett no f.inc))
      ∧ (f.kind = 1 → Gives i s
        (((w.count e.ctx sett 12 (f.len / (if f.fmt = 1 then 2 else if f.fmt = 2 then 1 else 4))).dropEntry sett e.id).bump sett no f.inc)))
    ∧ (s.cleMove sett e ext = .wait → (s.askFrom sett e [(f.src, f.len)] = none → Gives i s s)
      ∧ ∀ u, s.askFrom sett e [(f.src, f.len)] = some u → Gives i s u)
    ∧ (s.cleMove sett e ext = .sent fl w → Gives i s (w.setEntry sett e.id (fun e => { e with sent := true, fl := fl, at_ := w.gtc })))
    ∧ (s.cleMove sett e [] = .wait →
      (¬ late → Gives (.cleEntryFaulted sett e.id) s s)
      ∧ (late → ∃ v, Gives (.cleEntryFaulted sett e.id) s v ∧ (∀ x ∈ (v.sett sett).entries, x.id ≠ e.id)
        ∧ v.eventsOf e.ctx = c.events ++ [plainEvent 3 codeRemoteUnreach e.grid 0] ∧ v.mem = s.mem
        ∧ (∀ n, v.counter sett n = s.counter sett n)))
    ∧ (s.cleMove sett e ext = .failed code fl w → w.ctx? e.ctx = some c → ∃ v, Gives i s v
        ∧ (∀ x ∈ (v.sett sett).entries, x.id ≠ e.id)
        ∧ v.eventsOf e.ctx = c.events ++ [plainEvent 3 code e.grid 0]
        ∧ (∀ n, v.counter sett n = w.counter sett n))

/-- R383, R427: the first copy of a message is accepted and waits at its sett with its receipt stamp; a copy whose
CSEQ has been accepted changes nothing; a message that is not delivered within 100 us is dropped and posts COUNTER_DISCARDED. R296,
R319, R384: a received increment is added to its counter, or discarded with an event where its index is out of range; a held flag
whose covered writes are all performed is written once, and one that is not stays held. -/
def Obligations.MessagesAndReceipts : Prop :=
  (∀ (s : State) (sett ctx i n : Nat) (m : CtlMsg) (c : Context),
  let key := pairKey m.srcPkg m.srcSett
  (sett < 48 → m.srcPkg ≠ s.ownPkg → (s.sett sett).fresh key m.cseq = true → m.body = .increment ctx i n →
      ∃ v, Gives (.controlMessageReceived sett m) s v ∧ (v.sett sett).fresh key m.cseq = false
        ∧ (v.sett sett).inbox = (s.sett sett).inbox ++ [{ stamp := max s.gtc (m.sgtc + 1), msg := m }]
        ∧ (∀ k, v.counter sett k = s.counter sett k) ∧ v.mem = s.mem ∧ v.cur = s.cur)
    ∧ ((s.sett sett).fresh key m.cseq = false → Gives (.controlMessageReceived sett m) s s)
    ∧ (s.gtc < m.sgtc + 100000 → Gives (.controlMessageTimeout sett m) s s)
    ∧ (m.sgtc + 100000 ≤ s.gtc → s.transit.contains (sett, m) = true → m.body = .increment ctx i n → s.ctx? ctx = some c →
      ∃ v u, Gives (.controlMessageTimeout sett m) s v ∧ v.transit = s.transit.erase (sett, m)
        ∧ v.eventsOf ctx = c.events ++ [{ plainEvent 4 0 0 0 with uid := u }])) ∧
  (∀ (s : State) (sett ctx i n : Nat) (r : Receipt) (rest : List Receipt) (c : Context)
    (a x : Word) (cover : BitVec 32) (m : CtlMsg) (l : Leaf),
  ((s.sett sett).inbox = r :: rest → r.msg.body = .increment ctx i n →
      (∀ no, s.ctrNo ctx sett i = some no → ∃ v, Gives (.remoteCounterIncrement sett) s v ∧ (v.sett sett).inbox = rest
          ∧ (v.counter sett no).value = (s.counter sett no).value + BitVec.ofNat 32 n
          ∧ (∀ k, k ≠ no → v.counter sett k = s.counter sett k) ∧ v.mem = s.mem
          ∧ { v.cur with wait := s.cur.wait, frame := s.cur.frame } = s.cur)
      ∧ (s.ctrNo ctx sett i = none → s.ctx? ctx = some c → ∃ v, Gives (.remoteCounterIncrement sett) s v
          ∧ (v.sett sett).inbox = rest ∧ (∀ k, v.counter sett k = s.counter sett k)
          ∧ v.eventsOf ctx = c.events ++ [plainEvent 4 0 0 0]))
    ∧ (s.flags = [(sett, m)] → m.body = .flag ctx a x cover →
      let done := FMap.getD (s.sett sett).performed (pairKey m.srcPkg m.srcSett * 65536 + ctx) 0
      ((done - cover).toInt < 0 → Gives (.releaseFlagApply sett) s s)
      ∧ (0 ≤ (done - cover).toInt → gvaBad .scalar a.toNat = false → a.toNat / 2 ^ 60 = 0 → bitsNat a.toNat 59 54 = s.ownPkg →
          s.inDomain s.ownPkg = true → s.ownerCheck ctx (bitsNat a.toNat 53 48) (bitsNat a.toNat 47 0) .store 0 = .ok l →
          s.calm none l.key 8 = true →
          ∃ v, Gives (.releaseFlagApply sett) s v ∧ v.flags = [] ∧ v.mem = s.mem.setBytes l.key (bytesOf 8 x.toNat))))

/-- R321: a BARX whose descriptor passes sends its arrival once the team's lanes and accesses are done, and then waits; the
arrival adds one at the home counter and answers the value it found; the member goes on when the counter reaches the next
multiple of MEMBERS. -/
def Obligations.Barrier : Prop := ∀ (s r : State) (a : Reg) (sc : BarScope) (bs : List Byte) (sett no mem n : Nat) (target : BitVec 32)
    (x : Receipt) (rest : List Receipt) (ctx i idx lag team : Nat),
  let bar := Instr.barx a sc
  let arrives (q : State) (bs : List Byte) : Prop :=
    (q.cur.lanesDone = true → q.quiet = true → fieldAt bs 3 1 = q.ownPkg →
      ∃ v m, Gives bar s v ∧ v.cur.wait = some (.barxSent (fieldAt bs 4 4)) ∧ v.cur.spc = q.cur.spc
        ∧ v.transit = q.transit ++ [(fieldAt bs 2 1, m)]
        ∧ m.body = .arrival q.cur.ctx (fieldAt bs 0 2) (fieldAt bs 4 4) (fieldAt bs 8 4) (fieldAt bs 12 4)
            (BitVec.ofNat 64 (fieldAt bs 16 8)) q.cur.uid)
      ∧ (q.cur.lanesDone = false ∨ q.quiet = false → ∃ v, Gives bar s v ∧ v.cur.wait = some (.barxDesc bs) ∧ v.cur.spc = q.cur.spc
        ∧ v.transit = q.transit)
  (s.cur.wait = none → s.ready [a] = true → structOk (s.cur.s a).toNat 64 = true → s.readWords (s.cur.s a).toNat 8 = .ok bs r →
      let q := r.holdStruct bs
      (q.barxOk bs = false → Gives bar s (q.reject (s.cur.s a).toNat))
      ∧ (q.barxOk bs = true → fieldAt bs 16 8 = 0 → arrives q bs))
    ∧ (s.cur.wait = some (.barxDesc bs) → arrives s bs)
    ∧ ((s.sett sett).inbox = x :: rest → x.msg.body = .arrival ctx i mem idx lag 0 team → x.msg.srcPkg = s.ownPkg →
        s.ctrNo ctx sett i = some no → 1 ≤ mem → s.cur.uid = team → s.cur.status = .running → s.cur.wait = some (.barxSent mem) →
        let old := (s.counter sett no).value
        let goal := BitVec.ofNat 32 ((old.toNat / mem + 1) * mem)
        ∃ v, Gives (.barxArrival sett) s v ∧ (v.sett sett).inbox = rest ∧ (v.counter sett no).value = old + 1
          ∧ v.cur.wait = some (if 0 ≤ (old + 1 - goal).toInt then .barxDone else .barx (some (sett, no)) goal)
          ∧ v.mem = s.mem ∧ v.cur.sregs = s.cur.sregs)
    ∧ (s.cur.wait = some (.barx (some (sett, no)) target) → Gives bar s s
        ∧ (s.cur.status = .running → 0 ≤ ((s.counter sett no).value + BitVec.ofNat 32 n - target).toInt →
            (s.bump sett no n).cur.wait = some .barxDone))
    ∧ (s.cur.wait = some .barxDone → ∃ v, Gives bar s v ∧ v.cur.wait = none
        ∧ v.cur.spc = (s.advance 1).cur.spc ∧ v.cur.sregs = s.cur.sregs ∧ v.mem = s.mem)

/-! ### The lane stream -/

/-- R98, R100, R103 to R106, R79: what an operand reads in a lane, and what a result written to one leaves. An operand
with no place in the register space is not written. -/
def Obligations.LaneOperands : Prop :=
  (∀ (s : State) (b : Block) (p : Path) (ty : LType) (l : Nat) (k : BitVec 9) (r : Reg) (x : BitVec 9),
    let e := s.env b p
    let w (j : Nat) : Nat := (nth 0 (s.cur.lane l).regs j).toNat
    let g := s.cur.kern.gwidth
    e.val ty (.v k) l = w k.toNat
      ∧ e.val ty (.w k) l = w (2 * k.toNat) + 2 ^ 32 * w (2 * k.toNat + 1)
      ∧ (∀ q : BitVec 9, e.val ty (.q q) l = w (4 * q.toNat) + 2 ^ 32 * w (4 * q.toNat + 1) + 2 ^ 64 * w (4 * q.toNat + 2)
          + 2 ^ 96 * w (4 * q.toNat + 3))
      ∧ (ty.bits = 64 → e.val ty (.s r) l = (e.s r).toNat) ∧ (ty.bits = 32 → e.val ty (.s r) l = (e.s r).toNat % 2 ^ 32)
      ∧ e.s 0 = 0 ∧ (r ≠ 0 → p.swrites = [] → e.s r = b.snap.s[r.toNat])
      ∧ e.val ty (.special .lane) l = l ∧ e.val ty (.special .glane) l = l % g ∧ e.val ty (.special .group) l = l / g
      ∧ e.val ty (.special .col) l = l % 32 ∧ e.val ty (.special .pass) l = l / 32
      ∧ e.val ty (.special .teamid) l = s.cur.teamIndex.toNat ∧ e.val ty (.special .gtclo) l = s.gtc % 2 ^ 32
      ∧ ((ty = .i32 ∨ ty = .n32 ∨ ty = .b32) → e.val ty (.imm x) l = (x.signExtend 32).toNat)
      ∧ ((ty = .i64 ∨ ty = .n64 ∨ ty = .b64) → e.val ty (.imm x) l = (x.signExtend 64).toNat)) ∧
  (∀ (x : Lane) (views : List Word32) (o : Operand) (v i n : Nat), operandSpan views o = some (i, n) → i + n ≤ x.regs.length →
    let y := x.write views o v
    (∀ j, nth 0 y.regs j = if i ≤ j ∧ j < i + n then BitVec.ofNat 32 (v / 2 ^ (32 * (j - i))) else nth 0 x.regs j)
      ∧ y.regs.length = x.regs.length ∧ { y with regs := x.regs, bad := x.bad, soft := x.soft } = x) ∧
  (∀ (x : Lane) (views : List Word32) (o : Operand) (v : Nat), operandSpan views o = none → x.write views o v = x) ∧
  (∀ views : List Word32, (∀ k, operandSpan views (.v k) = some (k.toNat, 1)) ∧ (∀ k, operandSpan views (.w k) = some (2 * k.toNat, 2))
    ∧ (∀ k, operandSpan views (.q k) = some (4 * k.toNat, 4)) ∧ operandSpan views .none = none
    ∧ ∀ r, operandSpan views (.s r) = none)

/-- R145, R146: the integer words. Each element is formed exactly and narrowed, clamped first under .SAT. -/
def Obligations.LaneInteger : Prop := ∀ (s : State) (p : Path) (b : Block) (h : LaneHead) (x : AuxA),
  let e := s.env b p
  let (n, k, sg) := elemOf h.ty
  let lo : Int := if sg then -(2 ^ (n - 1)) else 0
  let hi : Int := if sg then 2 ^ (n - 1) - 1 else 2 ^ n - 1
  let num (o : Operand) (l m : Nat) : Int :=
    let y := BitVec.ofNat n (e.val h.ty o l / 2 ^ (n * m))
    if sg then y.toInt else y.toNat
  let gives (i : Instr) (sat : Bool) (f : Int → Int → Int → Int) : Prop := LaneReady s i p b →
    ∃ v, LaneWrites s i p h.d v ∧ ∀ l, v l < 2 ^ (n * k) ∧ ∀ m, m < k →
      let r := f (num h.a l m) (num h.b l m) (num h.c l m)
      BitVec.ofNat n (v l / 2 ^ (n * m)) = BitVec.ofInt n (if sat then min (max r lo) hi else r)
  gives (.vadd h x) x.sat (fun a b _ => a + b) ∧ gives (.vsub h x) x.sat (fun a b _ => a - b)
    ∧ gives (.vmul h x) x.sat (fun a b _ => a * b) ∧ gives (.vmulh h) false (fun a b _ => a * b / 2 ^ n)
    ∧ gives (.vmad h x) x.sat (fun a b c => a * b + c) ∧ gives (.vmin h) false (fun a b _ => min a b)
    ∧ gives (.vmax h) false (fun a b _ => max a b) ∧ gives (.vabs h x) x.sat (fun a _ _ => |a|)
    ∧ gives (.vneg h x) x.sat (fun a _ _ => -a)
    ∧ (∀ s8 : Bool, h.ty = (if s8 then .i8x4 else .n8x4) → LaneReady s (.vdot4 h x) p b →
        ∃ v, LaneWrites s (.vdot4 h x) p h.d v ∧ ∀ l, v l < 2 ^ 32 ∧
          let c := BitVec.ofNat 32 (e.val (if s8 then .i32 else .n32) h.c l)
          let r := (if s8 then c.toInt else c.toNat) + num h.a l 0 * num h.b l 0 + num h.a l 1 * num h.b l 1
            + num h.a l 2 * num h.b l 2 + num h.a l 3 * num h.b l 3
          BitVec.ofNat 32 (v l) = BitVec.ofInt 32 (if x.sat then
            min (max r (if s8 then -(2 ^ 31) else 0)) (if s8 then 2 ^ 31 - 1 else 2 ^ 32 - 1) else r))

/-- R147 to R150: the bitwise words, shifts, counts and fields, on operands of the type's `n` bits. -/
def Obligations.LaneBits : Prop := ∀ (s : State) (p : Path) (b : Block) (h : LaneHead),
  let e := s.env b p
  let n := (elemOf h.ty).1
  let x (l : Nat) : BitVec n := BitVec.ofNat n (e.val h.ty h.a l)
  let y (l : Nat) : BitVec n := BitVec.ofNat n (e.val h.ty h.b l)
  let cb (l : Nat) : Nat := e.val .i32 h.b l
  let cc (l : Nat) : Nat := e.val .i32 h.c l
  let gives (i : Instr) (f : (l : Nat) → BitVec n → Prop) : Prop := LaneReady s i p b →
    (∀ l ∈ s.lanesOn p i, e.val h.ty h.a l < 2 ^ n ∧ e.val h.ty h.b l < 2 ^ n) →
    ∃ v : Nat → BitVec n, LaneWrites s i p h.d (fun l => (v l).toNat) ∧ ∀ l ∈ s.lanesOn p i, f l (v l)
  gives (.vand h) (fun l v => v = x l &&& y l) ∧ gives (.vor h) (fun l v => v = x l ||| y l)
    ∧ gives (.vxor h) (fun l v => v = x l ^^^ y l) ∧ gives (.vnot h) (fun l v => v = ~~~x l)
    ∧ gives (.vshl h) (fun l v => v = x l <<< (cb l % n)) ∧ gives (.vshr h) (fun l v => v = x l >>> (cb l % n))
    ∧ gives (.vsra h) (fun l v => v = (x l).sshiftRight (cb l % n)) ∧ gives (.vrol h) (fun l v => v = (x l).rotateLeft (cb l % n))
    ∧ gives (.vclz h) (fun l v => v.toNat ≤ n ∧ (∀ j, n - v.toNat ≤ j → (x l).getLsbD j = false)
        ∧ (v.toNat < n → (x l).getLsbD (n - 1 - v.toNat) = true))
    ∧ gives (.vpopc h) (fun l v => v.toNat = (List.range n).countP (fun j => (x l).getLsbD j))
    ∧ gives (.vbfx h) (fun l v => ∀ j, j < n → v.getLsbD j = (
        if cc l = 0 ∨ n ≤ cb l then false
        else if j < cc l ∧ cb l + j < n then (x l).getLsbD (cb l + j)
        else (elemOf h.ty).2.2 && (x l).getLsbD (cb l + min (cc l) (n - cb l) - 1)))
    ∧ gives (.vbfi h) (fun l v => ∀ j, j < n →
        let pos := cc l % 256
        let wid := cc l / 256 % 256
        v.getLsbD j = if pos ≤ j ∧ j < pos + wid then (y l).getLsbD (j - pos) else (x l).getLsbD j)

/-- R151 to R154: comparison, selection, moves, predicates and the wide immediate. VCMP and PLOP write a predicate, and
drop a write of p7. -/
def Obligations.LaneMoves : Prop := ∀ (s : State) (p : Path) (b : Block) (h : LaneHead) (x : AuxC) (g : Guard) (t : LType)
    (d : Operand) (w : BitVec 32),
  let e := s.env b p
  let lane := s.cur.lane
  let A := e.val h.ty h.a
  let B := e.val h.ty h.b
  let preds (i : Instr) (r : Nat → Bool) : Prop := ∃ u, Gives i s u ∧ Swept s u p (s.lanesOn p i) (fun l => ((lane l).setPred x.pd (r l), 0))
  (LaneReady s (.vcmp h x) p b → ∃ r, preds (.vcmp h x) r ∧ ∀ l,
      let (n, k, _) := elemOf h.ty
      (fmtOf h.ty = none → (r l = true ↔ ∀ m, m < k →
          condHolds x.cond (BitVec.ofNat n (A l / 2 ^ (n * m))) (BitVec.ofNat n (B l / 2 ^ (n * m)))))
      ∧ (∀ f, fmtOf h.ty = some f → (r l = true ↔ ∀ m, m < k →
          let rd (v : Nat) : FV := f.ftzIn (b.snap.fmode.getLsbD 3) (f.value (v / 2 ^ (n * m) % 2 ^ n))
          match FV.cmp (rd (A l)) (rd (B l)) with
          | none => x.cond = .ne ∨ x.cond = .unord
          | some o => (x.cond = .eq ∧ o = 1) ∨ (x.cond = .ne ∧ o ≠ 1) ∨ (x.cond = .lt ∧ o = 0) ∨ (x.cond = .le ∧ o ≠ 2)
              ∨ (x.cond = .gt ∧ o = 2) ∨ (x.cond = .ge ∧ o ≠ 0) ∨ x.cond = .ord)))
    ∧ (LaneReady s (.plop h x) p b → preds (.plop h x) (fun l =>
        x.pfn.getLsbD (2 * ((lane l).pred x.pa).toNat + ((lane l).pred x.pb).toNat)))
    ∧ (LaneReady s (.vsel h x) p b → LaneWrites s (.vsel h x) p h.d (fun l => if (lane l).pred x.pa then A l else B l))
    ∧ (LaneReady s (.vmov h) p b → LaneWrites s (.vmov h) p h.d A)
    ∧ (LaneReady s (.vli g t d w) p b → LaneWrites s (.vli g t d w) p d (fun _ =>
        if t = .b64 then (w.signExtend 64).toNat else w.toNat))
    ∧ (∀ (y : Lane) (k m : Bit3) (v : Bool), (y.setPred k v).pred m = (if m = 7 then true else if m = k then v else y.pred m)
        ∧ { y.setPred k v with preds := y.preds } = y)

/-- R155 to R161: the cross-lane words, every source read before any destination is written. A register result goes to
each active lane; an s result is written once. -/
def Obligations.CrossLane : Prop := ∀ (s : State) (p : Path) (b : Block) (h : LaneHead) (x : AuxX) (d : Reg),
  let e := s.env b p
  let A := e.val h.ty h.a
  let g := s.cur.kern.gwidth
  let n := (elemOf h.ty).1
  let val (l : Nat) : BitVec n := BitVec.ofNat n (A l)
  let yes (l : Nat) : Bool := (s.cur.lane l).pred x.pa
  let ints := h.ty ≠ .f32
  let sw := if x.imm12 = 0 then g else x.imm12.toNat
  let segOk := x.imm12 = 0 ∨ (x.imm12.toNat ∈ [2, 4, 8, 16, 32, 64] ∧ x.imm12.toNat ≤ g)
  let wide (v : Nat) : Word := if h.ty = .i32 then (BitVec.ofNat 32 v).signExtend 64 else BitVec.ofNat 64 v
  -- an integer or bitwise combination of the lanes of a domain that is not empty (R158)
  let combined (dom : List Nat) (v : Nat) : Prop :=
    (x.xop = 0 → v = ((dom.map val).foldl (· + ·) 0).toNat)
      ∧ (x.xop = 1 → ∃ l ∈ dom, v = A l ∧ ∀ m ∈ dom, if (elemOf h.ty).2.2 then (val l).toInt ≤ (val m).toInt else (val l).toNat ≤ (val m).toNat)
      ∧ (x.xop = 2 → ∃ l ∈ dom, v = A l ∧ ∀ m ∈ dom, if (elemOf h.ty).2.2 then (val m).toInt ≤ (val l).toInt else (val m).toNat ≤ (val l).toNat)
      ∧ (x.xop = 3 → v = ((dom.map val).foldl (· &&& ·) (BitVec.allOnes n)).toNat)
      ∧ (x.xop = 4 → v = ((dom.map val).foldl (· ||| ·) 0).toNat) ∧ (x.xop = 5 → v = ((dom.map val).foldl (· ^^^ ·) 0).toNat)
  let results (i : Instr) (dom : Nat → List Nat) : Prop := LaneReady s i p b → (∀ r, h.d ≠ .s r) →
    (∀ l ∈ s.lanesOn p i, A l < 2 ^ n) →
    (ints → ∃ v, LaneWrites s i p h.d v ∧ ∀ l ∈ s.lanesOn p i, combined (dom l) (v l))
      ∧ (h.ty = .f32 → ∃ t : State, Gives i s t ∧ Swept s t p (s.lanesOn p i) (fun l =>
          let r := redF32 (b.snap.fmode.getLsbD 3) x.xop.toNat ((dom l).map A)
          ((s.cur.lane l).write s.cur.code.mview h.d r.1, r.2)))
  let group (i : Instr) (l : Nat) : List Nat := (s.lanesOn p i).filter (fun m => decide (m / g = l / g))
  0 < g →
  (LaneReady s (.vshfl h x) p b → segOk → LaneWrites s (.vshfl h x) p h.d (fun l =>
      let k := e.val .i32 h.b l
      let i := l % g
      let base := i - i % sw
      let j := if x.xop = 0 then base + k % sw else if x.xop = 1 then (if k ≤ i - base then i - k else i)
        else if x.xop = 2 then (if i + k < base + sw then i + k else i) else base + ((i - base) ^^^ (k % sw))
      A (l / g * g + j)))
    ∧ (LaneReady s (.vshfl h x) p b → ¬ segOk → Gives (.vshfl h x) s (s.faultPath p codeIllegal 0))
    ∧ (LaneReady s (.vbcast h x) p b → LaneWrites s (.vbcast h x) p h.d (fun l =>
        A (l / g * g + (e.val .i32 h.b l + x.imm12.toNat) % g)))
    ∧ results (.vreduce h x) (group (.vreduce h x))
    ∧ results (.vscan h x) (fun l => (group (.vscan h x) l).filter (fun m => decide (m ≤ l)))
    ∧ (h.d = .s d → LaneReady s (.vreduce h x) p b → (∀ l ∈ s.lanesOn p (.vreduce h x), A l < 2 ^ n) →
        let on := s.lanesOn p (.vreduce h x)
        ∃ v t, Gives (.vreduce h x) s t ∧ SweptScalar s t p b d (wide v) ∧ (ints → on ≠ [] → combined on v)
          ∧ (h.ty = .f32 → on ≠ [] → v = (redF32 (b.snap.fmode.getLsbD 3) x.xop.toNat (on.map A)).1)
          ∧ (ints → on = [] → v = (if x.xop = 1 then (if (elemOf h.ty).2.2 then 2 ^ (n - 1) - 1 else 2 ^ n - 1)
              else if x.xop = 2 then (if (elemOf h.ty).2.2 then 2 ^ (n - 1) else 0) else if x.xop = 3 then 2 ^ n - 1 else 0))
          ∧ (h.ty = .f32 → on = [] → v = (if x.xop = 1 then 0x7F800000 else if x.xop = 2 then 0xFF800000 else 0)))
    ∧ (h.d = .s d → LaneReady s (.vvote h x) p b → (x.xop = 2 → s.cur.kern.lanesN ≤ if h.ty = .b32 then 32 else 64) →
        let on := s.lanesOn p (.vvote h x)
        ∃ v : Word, ∃ t : State, Gives (.vvote h x) s t ∧ SweptScalar s t p b d v
          ∧ (x.xop = 0 → v = if ∀ l ∈ on, yes l = true then 1 else 0) ∧ (x.xop = 1 → v = if ∃ l ∈ on, yes l = true then 1 else 0)
          ∧ (x.xop = 2 → ∀ k : Nat, k < 64 → (v.getLsbD k = true ↔ k ∈ on ∧ yes k = true)))
    ∧ ((∀ r, h.d ≠ .s r) → LaneReady s (.vvote h x) p b → (x.xop = 2 → h.ty = .b64 ∨ g ≤ 32) →
        let on (l : Nat) : List Nat := group (.vvote h x) l
        ∃ v, LaneWrites s (.vvote h x) p h.d v ∧ ∀ l,
          (x.xop = 0 → v l = if ∀ m ∈ on l, yes m = true then 1 else 0) ∧ (x.xop = 1 → v l = if ∃ m ∈ on l, yes m = true then 1 else 0)
          ∧ (x.xop = 2 → ∀ k, bitAt (v l) k = true ↔ ∃ m ∈ on l, m % g = k ∧ yes m = true))

/-- R83, R84, R87, R162 to R165: lane control. `State.settle` is what follows a change of the path table (R84, R85, R78,
R254). A branch with one target for every lane of the path goes on there; otherwise it splits into one path for each
target, under one new record. -/
def Obligations.LaneControl : Prop := ∀ (s : State) (p : Path) (b : Block) (h : LaneHead) (x : AuxB) (g : Guard)
    (target : BitVec 32) (d : Operand),
  let e := s.env b p
  let n := p.passes.length
  let branches (i : Instr) (tgt : Nat → Nat) : Prop := LaneReady s i p b → p.lanes ≠ [] →
    let goal (l : Nat) : Nat := if l ∈ s.lanesOn p i then tgt l else p.ip + 1
    ∃ u : State, Gives i s u.settle ∧ u.mem = s.mem ∧ u.cur.lanes = s.cur.lanes ∧ u.cur.sregs = s.cur.sregs
      ∧ (x.pack = true → ∃ q : Path, u.cur.path? p.idx = some q ∧ q.state = .waitPack ∧ q.packAt = some p.ip ∧ q.lanes = p.lanes)
      ∧ (x.pack = false → ∀ ip, (∀ l ∈ p.lanes, goal l = ip) →
          (∃ q : Path, u.cur.path? p.idx = some q ∧ q.ip = ip ∧ q.lanes = p.lanes ∧ q.split = p.split ∧ q.state = p.state ∧ q.slice = p.slice - n)
            ∧ u.cur.recs = s.cur.recs
            ∧ (u.cur.flagged = true ↔ s.cur.flagged = true ∨ (ip ≤ p.ip ∧ p.spinAt = some p.ip ∧ p.still = true ∧ p.spin = 7)))
      ∧ (x.pack = false → (∃ l ∈ p.lanes, ∃ m ∈ p.lanes, goal l ≠ goal m) →
          ∃ r k, u.cur.recs = s.cur.recs ++ [{ idx := r, parent := p.split, members := k }]
            ∧ ∀ l ∈ p.lanes, ∃ q ∈ u.cur.paths, q.ip = goal l ∧ q.split = some r ∧ q.lanes = p.lanes.filter (fun m => decide (goal m = goal l)))
  branches (.bra g target d x) (fun _ => target.toNat) ∧ branches (.brx h x) (e.val .i32 h.a)
    ∧ (LaneReady s (.skip h x) p b →
        (s.shadowUnread p.ip x.imm16.toNat = none → s.shadowOk p.ip x.imm16.toNat = true → ∃ u : State, Gives (.skip h x) s u.settle
          ∧ u.mem = s.mem ∧ u.cur.lanes = s.cur.lanes
          ∧ ∃ q : Path, u.cur.path? p.idx = some q ∧ q.ip = p.after ∧ q.skipLanes = s.lanesOn p (.skip h x) ∧ q.skipLeft = x.imm16.toNat
            ∧ q.slice = p.slice - n ∧ q.lanes = p.lanes)
        ∧ (s.shadowUnread p.ip x.imm16.toNat = none → s.shadowOk p.ip x.imm16.toNat = false → Gives (.skip h x) s (s.faultPath p codeIllegal 0)))
    ∧ (LaneReady s (.join h) p b → ∃ u : State, (p.split = none → Gives (.join h) s u ∧ ∃ q : Path, u.cur.path? p.idx = some q ∧ q.ip = p.after
            ∧ q.wdog = 0 ∧ q.slice = p.slice - n ∧ q.lanes = p.lanes)
          ∧ (p.split ≠ none → Gives (.join h) s u.settle ∧ ∃ q : Path, u.cur.path? p.idx = some q ∧ q.state = .waitJoin ∧ q.ip = p.ip
            ∧ q.wdog = 0 ∧ q.lanes = p.lanes) ∧ u.mem = s.mem ∧ u.cur.lanes = s.cur.lanes)
    ∧ (LaneReady s (.lend h) p b → ∃ u : State, Gives (.lend h) s u.settle ∧ u.mem = s.mem ∧ u.cur.lanes = s.cur.lanes
        ∧ ∃ q : Path, u.cur.path? p.idx = some q ∧ q.state = .waitLend ∧ q.wdog = 0 ∧ q.lanes = p.lanes)
    ∧ (LaneReady s (.yieldl h) p b → p.idx ∉ s.cur.ready → ∃ t : State, Gives (.yieldl h) s t ∧ t.mem = s.mem ∧ t.cur.lanes = s.cur.lanes
        ∧ (∃ q : Path, t.cur.path? p.idx = some q ∧ q.ip = p.after ∧ q.wdog = p.wdog ∧ q.lanes = p.lanes)
        ∧ (s.cur.ready = [] → t.cur.curPath = some p.idx ∧ t.cur.ready = [])
        ∧ (∀ k ks, s.cur.ready = k :: ks → k ∉ ks → t.cur.curPath = some k ∧ t.cur.ready = ks ++ [p.idx]))
    ∧ (LaneReady s (.ltrap h x) p b → ∃ u,
        (u.mem = s.mem ∧ u.cur.lanes = s.cur.lanes ∧ ∃ q : Path, u.cur.path? p.idx = some q ∧ q.ip = p.after ∧ q.lanes = p.lanes)
        ∧ (s.lanesOn p (.ltrap h x) = [] → Gives (.ltrap h x) s u)
        ∧ (s.lanesOn p (.ltrap h x) ≠ [] → Gives (.ltrap h x) s (State.settle (u.laneFaults b.handler
            ((s.lanesOn p (.ltrap h x)).map (fun l => ({ lane := l, info := FaultInfo.plain 0x11 (x.imm16.setWidth 64), ip := p.ip, resume := p.after, byReply := false } : LaneFault)))))))

/-- R254: BAR. A path arrives with all its lanes; it goes on past the barrier where every lane of each instance it waits
for is accounted for, and otherwise stays parked at it. -/
def Obligations.LaneBarrier : Prop := ∀ (s : State) (p : Path) (b : Block) (h : LaneHead) (x : AuxX),
  let inst (l : Nat) : List Nat := s.cur.instance_ (if x.xop = 0 then some (l / s.cur.kern.gwidth) else none)
  LaneReady s (.bar h x) p b → 0 < s.cur.kern.gwidth → s.cur.kern.gwidth ∣ s.cur.kern.lanesN →
    (∀ l ∈ p.lanes, l ∈ b.lanes ∧ (s.cur.lane l).retired = false ∧ l < s.cur.kern.lanesN) →
    ∃ t q, Gives (.bar h x) s t ∧ t.mem = s.mem ∧ t.cur.lanes = s.cur.lanes ∧ t.cur.path? p.idx = some q ∧ q.wdog = 0 ∧ q.lanes = p.lanes
      ∧ ((∀ l ∈ p.lanes, ∀ m ∈ inst l, m ∈ p.lanes ∨ s.cur.accounted m = true) → q.ip = p.ip + 1 ∧ q.state = .current)
      ∧ ((∃ l ∈ p.lanes, ∃ m ∈ inst l, m ∉ p.lanes ∧ s.cur.accounted m = false) → q.ip = p.ip ∧ q.state = .parked)

/-- R131, R133 to R137, R167 to R176: the floating-point words. Each element of the result is the operation of the rule on the
operands' values, a subnormal read and written as zero under FTZ; the flags of all elements are gathered. SR rounds these
words as RNE. VFCLASS and VFEXPO probe one value, and VFSGN sets signs. -/
def Obligations.LaneFloat : Prop := ∀ (s : State) (p : Path) (b : Block) (h : LaneHead) (x : AuxA) (f : Fmt),
  let e := s.env b p
  let (n, k, _) := elemOf h.ty
  let ftz := b.snap.fmode.getLsbD 3
  let bits (o : Operand) (l m : Nat) : Nat := e.val h.ty o l / 2 ^ (n * m) % 2 ^ n
  let rd (o : Operand) (l m : Nat) : FV := f.ftzIn ftz (f.value (bits o l m))
  let rm := b.snap.fmode.extractLsb' 0 3
  let mode : RMode := match x.rnd with
    | .rne | .sr => .rne
    | .rtz => .rtz
    | .rdn => .rdn
    | .rup => .rup
    | .dyn => if rm = 1 then .rtz else if rm = 2 then .rdn else if rm = 3 then .rup else .rne
  let each (i : Instr) (op : FV → FV → FV → Nat × Flags5) : Prop := LaneReady s i p b →
    ∃ (v : Nat → Nat) (fl : Nat → Flags5) (t : State), Gives i s t ∧ Swept s t p (s.lanesOn p i) (fun l => ((s.cur.lane l).write s.cur.code.mview h.d (v l), fl l))
      ∧ ∀ l, v l < 2 ^ (n * k)
        ∧ (∀ m, m < k → v l / 2 ^ (n * m) % 2 ^ n = (f.ftzOut ftz (op (rd h.a l m) (rd h.b l m) (rd h.c l m))).1 % 2 ^ n)
        ∧ ∀ j : Nat, (fl l).getLsbD j = true ↔ ∃ m, m < k ∧ (f.ftzOut ftz (op (rd h.a l m) (rd h.b l m) (rd h.c l m))).2.getLsbD j = true
  let probes (i : Instr) (op : FV → Nat) : Prop := LaneReady s i p b →
    LaneWrites s i p h.d (fun l => op (f.ftzIn ftz (f.value (e.val h.ty h.a l))))
  fmtOf h.ty = some f →
  each (.vfadd h x) (fun u v _ => f.add u v mode) ∧ each (.vfsub h x) (fun u v _ => f.add u v.negate mode)
    ∧ each (.vfmul h x) (fun u v _ => f.mul u v mode) ∧ each (.vfma h x) (fun u v w => f.fma u v w mode)
    ∧ each (.vfdiv h x) (fun u v _ => f.div u v mode) ∧ each (.vfsqrt h x) (fun u _ _ => f.sqrt u mode)
    ∧ each (.vfrnd h x) (fun u _ _ => f.rint u mode)
    ∧ each (.vfmin h) (fun u v _ => (f.minMax false u v (f.bitsOf u) (f.bitsOf v), 0))
    ∧ each (.vfmax h) (fun u v _ => (f.minMax true u v (f.bitsOf u) (f.bitsOf v), 0))
    ∧ each (.vfrcp h) (fun u _ _ => fRcp u) ∧ each (.vfrsq h) (fun u _ _ => fRsq u) ∧ each (.vfexp2 h) (fun u _ _ => fExp2 u)
    ∧ each (.vflog2 h) (fun u _ _ => fLog2 u) ∧ each (.vfsin h) (fun u _ _ => fSin u) ∧ each (.vfcos h) (fun u _ _ => fCos u)
    ∧ probes (.vfclass h) f.classBit ∧ probes (.vfexpo h) expoBits
    ∧ (LaneReady s (.vfsgn h x) p b → ∃ v, LaneWrites s (.vfsgn h x) p h.d v ∧ ∀ l, v l < 2 ^ (n * k) ∧ ∀ m, m < k → ∀ j, j < n →
        bitAt (v l) (n * m + j) = (
          let sa := bitAt (bits h.a l m) (n - 1)
          let sb := bitAt (bits h.b l m) (n - 1)
          if j = n - 1 then (if x.imm12 = 0 then sb else if x.imm12 = 1 then !sb else sa != sb) else bitAt (bits h.a l m) j))

/-- R128, R133, R177 to R182 and R183 to R186: conversions run element after element on the lane's rounding state, and FMMA
gives each active lane its part of its group's tile. -/
def Obligations.LaneConvert : Prop := ∀ (s : State) (p : Path) (b : Block) (h : LaneHead) (x : AuxA) (st : LType),
  let e := s.env b p
  let ftz := b.snap.fmode.getLsbD 3
  let conv (i : Instr) (st dt vt : LType) (k ns nd : Nat) : Prop := LaneReady s i p b →
    ∃ t : State, Gives i s t ∧ Swept s t p (s.lanesOn p i) (fun l =>
      let scale : Option (Nat × Bool) := if scaledPair dt st then some (e.val .i32 h.b l % 256, dt.scaledElem) else none
      let r := convertAll (convert st dt ftz x.sat x.satf (rndMode b x.rnd) scale)
        ((upTo 0 k).map (fun m => e.val vt h.a l / 2 ^ (ns * m) % 2 ^ ns)) (s.cur.lane l).sigma.toNat
      ({ (s.cur.lane l).write s.cur.code.mview h.d (packElems nd r.1) with sigma := BitVec.ofNat 32 r.2.2 }, r.2.1))
  (LType.ofCode x.stype.toNat = some st →
    conv (.vcvt h x) st h.ty st (elemOf h.ty).2.1 (cvtBits st) (cvtBits h.ty)
      ∧ ∀ k wp c inW, packPair h.ty st = some (k, wp, c, inW) →
        conv (.vpack h x) st h.ty .b128 k (elemOf st).1 wp
          ∧ conv (.vunpk h x) h.ty st (if inW then .b64 else .b32) k wp (elemOf st).1)
    ∧ (LaneReady s (.fmma h) p b → fmmaOk h s.cur = true →
        let g := s.cur.kern.gwidth
        ∃ t : State, Gives (.fmma h) s t
          ∧ (∀ l, t.cur.lane l = if l ∈ s.lanesOn p (.fmma h) then
              (s.cur.lane l).write s.cur.code.mview h.d (packElems 32
                ((((fmmaTile s.cur h (l / g)).map Prod.fst).drop (128 / g * (l % g))).take (128 / g)))
              else s.cur.lane l)
          ∧ (∀ j : Nat, t.cur.fstat.getLsbD j = true ↔ s.cur.fstat.getLsbD j = true
              ∨ ∃ l ∈ s.lanesOn p (.fmma h), ∃ o ∈ fmmaTile s.cur h (l / g), o.2.getLsbD j = true)
          ∧ t.mem = s.mem ∧ ∃ q : Path, t.cur.path? p.idx = some q ∧ q.ip = p.after ∧ q.lanes = p.lanes)
    ∧ (LaneReady s (.fmma h) p b → fmmaOk h s.cur = false → Gives (.fmma h) s (s.faultPath p codeIllegal 0))

/-- R76, R188, R241 to R253: the memory words. In the windows of its own sett a word reads or writes exactly the bytes of its
active lanes' accesses, in sweep order, an atomic reading and writing as one; a packed path's stores and atomics go in rising
lanes. A global access leaves as a request. A lane whose checks fail faults with its access in its record. VPREF and FENCE
change no register and no flag. -/
def Obligations.LaneMemory : Prop := ∀ (s : State) (p : Path) (b : Block) (h : LaneHead) (x : AuxM),
  let on (i : Instr) : List Nat := s.lanesOn p i
  let op (i : Instr) (l : Nat) : MemOp := s.laneOp p b i h x l
  let rising (i : Instr) : List Nat := if p.packed.isSome then sortNat (on i) else on i
  let fresh (i : Instr) : Prop := LaneReady s i p b
  let past (t : State) : Prop := (∃ q : Path, t.cur.path? p.idx = some q ∧ q.ip = p.after ∧ q.lanes = p.lanes)
    ∧ ∀ k, k ≠ p.idx → t.cur.path? k = s.cur.path? k
  let ends (t : State) : Prop := past t ∧ s.near { t with cur := { t.cur with fstat := s.cur.fstat } }
  let finds (i : Instr) (f : Nat → LaneAccess) : Prop := ∀ l ∈ on i, ∀ u : State, s.near u →
    ∃ v, u.locateLane i b.snap.pkr (op i l) = (v, f l) ∧ s.near v ∧ v.mem = u.mem ∧ v.cur.lanes = u.cur.lanes
  let calm (i : Instr) (ks : Nat → List (Nat × Nat)) : Prop :=
    ∀ l ∈ on i, ∀ k ∈ ks l, s.calm (some b.arr) k.1 k.2 = true
  let loads (i : Instr) : Prop := ∀ ks : Nat → List (Nat × Nat), fresh i → finds i (fun l => .here (ks l)) →
    ∃ t : State, Gives i s t ∧ ends t ∧ t.mem = s.mem ∧ t.cur.fstat = s.cur.fstat ∧ ∀ l, t.cur.lane l = if l ∈ on i then
      (match delivered i (natOf (getPieces s.mem (ks l))) with
        | some (d, v) => (s.cur.lane l).write s.cur.code.mview d v
        | none => s.cur.lane l) else s.cur.lane l
  let stores (i : Instr) : Prop := ∀ ks : Nat → List (Nat × Nat), fresh i → finds i (fun l => .here (ks l)) → calm i ks →
    ∃ t : State, Gives i s t ∧ ends t ∧ t.cur.lanes = s.cur.lanes ∧ t.cur.fstat = s.cur.fstat
      ∧ t.mem = (rising i).foldl (fun m l => putPieces m (ks l) (op i l).data) s.mem
      ∧ (s.mem.wf = true → ∀ a, (∀ l ∈ on i, ∀ k ∈ ks l, a < k.1 ∨ k.1 + k.2 ≤ a) → t.mem.get a = s.mem.get a)
  let atomics (i : Instr) : Prop := ∀ ks : Nat → List (Nat × Nat), fresh i → finds i (fun l => .here (ks l)) → calm i ks → (on i).Nodup →
    let new (m : Memory) (l : Nat) : Option Nat × Flags5 :=
      atomValue i (natOf (getPieces m (ks l))) (natOf (op i l).data) (natOf (op i l).exp)
    let put (m : Memory) (l : Nat) : Memory :=
      match (new m l).1 with
      | some v => putPieces m (ks l) (bytesOf (op i l).w v)
      | none => m
    ∃ t : State, Gives i s t ∧ ends t ∧ t.mem = (rising i).foldl put s.mem ∧ (∀ l, l ∉ on i → t.cur.lane l = s.cur.lane l)
      ∧ (∀ before l after, rising i = before ++ l :: after → t.cur.lane l = (s.cur.lane l).write s.cur.code.mview h.d
          (natOf (getPieces (before.foldl put s.mem) (ks l)) % 2 ^ h.ty.bits))
      ∧ ∀ j : Nat, t.cur.fstat.getLsbD j = true ↔ s.cur.fstat.getLsbD j = true
          ∨ ∃ before l after, rising i = before ++ l :: after ∧ (new (before.foldl put s.mem) l).2.getLsbD j = true
  let crosses (i : Instr) : Prop := ∀ (ls : List Nat) (pkg sett : Nat → Nat), fresh i → p.packed = none → p.passes = [ls] →
    (∀ l ∈ on i, ∀ u : State, s.nearIn u → u.locateLane i b.snap.pkr (op i l) = (u, .request (pkg l) (sett l))) →
    s.missRoom (missesOf s.cur ((on i).map (fun l => (op i l, .request (pkg l) (sett l))))) = true →
    ∃ t new, Gives i s t ∧ past t ∧ t.mem = s.mem ∧ t.cur.lanes = s.cur.lanes ∧ t.cur.fstat = s.cur.fstat ∧ sameReqs t.reqs (s.reqs ++ new)
      ∧ (∀ q ∈ new, q.uid = s.cur.uid ∧ q.instr = i ∧ q.path = p.idx ∧ q.ip = p.ip ∧ q.pkr = b.snap.pkr ∧ q.performed = false)
      ∧ ∀ l ∈ on i, ∃ q ∈ new, q.pkg = pkg l ∧ ∃ a ∈ q.accs, a.lane = l ∧ a.ea = BitVec.ofNat 64 (op i l).ea
          ∧ a.width = (op i l).w ∧ a.kind = (op i l).kind ∧ a.data = (op i l).data ∧ a.exp = (op i l).exp
  let faults (i : Instr) : Prop := ∀ (ls : List Nat) (code : Nat → Nat), fresh i → p.packed = none → p.passes = [ls] → on i ≠ [] →
    finds i (fun l => .fault (code l)) →
    ∃ u : State, past u ∧ u.mem = s.mem ∧ u.cur.lanes = s.cur.lanes ∧ Gives i s (State.settle (u.laneFaults b.handler ((on i).map (fun l =>
      ({ lane := l, ip := p.ip, resume := p.after, byReply := false,
         info := { code := code l, op := 0, addr := BitVec.ofNat 64 (op i l).ea, opnd := (op i l).data, exp := (op i l).exp,
                   width := if isFragment i then 0 else (op i l).w, kind := (op i l).kind } } : LaneFault)))))
  (∀ l, let m := op (.vst h x) l
    m.ea = ((s.env b p).val .b64 h.a l + (s.env b p).val .b64 h.b l + (x.off.signExtend 64).toNat) % 2 ^ 64
      ∧ m.w = (if x.narrow = 1 then 1 else if x.narrow = 2 then 2 else h.ty.bits / 8) ∧ m.align = m.w
      ∧ m.data = bytesOf m.w ((s.env b p).val h.ty h.c l))
    ∧ (loads (.vld h x) ∧ crosses (.vld h x) ∧ faults (.vld h x)) ∧ (loads (.fld h x) ∧ crosses (.fld h x) ∧ faults (.fld h x))
    ∧ (stores (.vst h x) ∧ crosses (.vst h x) ∧ faults (.vst h x)) ∧ (stores (.fst h x) ∧ crosses (.fst h x) ∧ faults (.fst h x))
    ∧ (atomics (.vatom h x) ∧ crosses (.vatom h x) ∧ faults (.vatom h x))
    ∧ (atomics (.vcas h x) ∧ crosses (.vcas h x) ∧ faults (.vcas h x))
    ∧ (LaneReady s (.vpref h x) p b → ∃ t : State, Gives (.vpref h x) s t ∧ past t ∧ t.cur.lanes = s.cur.lanes ∧ t.cur.fstat = s.cur.fstat
        ∧ t.cur.sregs = s.cur.sregs)
    ∧ (LaneReady s (.fence h x) p b → ∃ t : State, Gives (.fence h x) s t ∧ ends t ∧ t.cur.lanes = s.cur.lanes ∧ t.cur.fstat = s.cur.fstat
        ∧ t.mem = s.mem)

/-- R249 to R251: what an atomic makes of the old value. -/
def Obligations.AtomicValues : Prop := ∀ (h : LaneHead) (x : AuxM) (old c e : Nat),
  let n := (elemOf h.ty).1
  let le (a b : Nat) : Bool := if (elemOf h.ty).2.2 then (BitVec.ofNat n a).sle (BitVec.ofNat n b) else decide (a ≤ b)
  atomValue (.vcas h x) old c e = (if old = e then some c else none, 0)
    ∧ (h.ty ≠ .f32 → old < 2 ^ n → c < 2 ^ n → ∃ v, atomValue (.vatom h x) old c e = (some v, 0) ∧ v < 2 ^ n
        ∧ match x.aop with
          | .add => v = (old + c) % 2 ^ n
          | .and => v = old &&& c
          | .or => v = old ||| c
          | .xor => v = old ^^^ c
          | .min => (v = old ∨ v = c) ∧ le v old = true ∧ le v c = true
          | .max => (v = old ∨ v = c) ∧ le old v = true ∧ le c v = true
          | .swap => v = c)
    ∧ (h.ty = .f32 → x.aop = .add → atomValue (.vatom h x) old c e = (some (fmtF32.add (fmtF32.value old) (fmtF32.value c) .rne).1,
        (fmtF32.add (fmtF32.value old) (fmtF32.value c) .rne).2))
    ∧ (h.ty = .f32 → x.aop = .swap → atomValue (.vatom h x) old c e = (some c, 0))

/-- R87, R90, R201, R207, R218, R244: what happens to lanes of itself. A path whose turn is over, or that the spin detector flags,
goes to the tail; the watchdog faults every lane of a path that reaches the limit; a line that a service fills is present
from its arrival on; a request is performed at its owner, in this package or another one, and its reply writes the registers of its
lanes. -/
def Obligations.LaneEvents : Prop := ∀ (s : State) (p : Path) (f : FrameInfo) (n line k : Nat) (ks : List Nat) (r : GReq) (a : LaneAcc)
    (y : Leaf) (b : Block),
  let free := s.halted s.cur.ctx = false
  let rotated (i : Instr) : Prop := s.cur.current = some p → p.idx ∉ s.cur.ready → s.cur.ready = k :: ks → k ∉ ks →
    ∃ t : State, Gives i s t ∧ t.cur.curPath = some k ∧ t.cur.ready = ks ++ [p.idx] ∧ t.mem = s.mem ∧ t.cur.lanes = s.cur.lanes
  let ask := Instr.globalRequest { tag := r.tag, part := 0xFFFF }
  let answered (mem : Memory) (code : Nat) (data : List Byte) : Prop := ∃ t : State, Gives ask s t ∧ t.mem = mem
    ∧ t.cur.lanes = s.cur.lanes ∧ ∃ q ∈ t.reqs, q.tag = r.tag ∧ q.performed = true ∧ q.answers = [{ lane := a.lane, code := code, data := data }]
  (p.slice = 0 → p.hold = 0 → free → rotated .sliceExpiry)
    ∧ (s.cur.current = some p → 0 < p.slice → Gives .sliceExpiry s s)
    ∧ (s.cur.flagged = true → free → rotated .spinDetectorFlag) ∧ (s.cur.flagged = false → Gives .spinDetectorFlag s s)
    ∧ (s.cur.path? p.idx = some p → s.cur.wdogDue p = true → free → ∀ c, s.lookup codeWatchdog = .ok (.action c) →
        Gives (.watchdogFire p.idx) s (s.faultPath p codeWatchdog 0))
    ∧ (s.cur.path? p.idx = some p → s.cur.wdogDue p = false → Gives (.watchdogFire p.idx) s s)
    ∧ (s.frame? n = some f → line ∈ f.filling → f.copies = [] → (∀ t ∈ s.teams, t.want = []) →
        ∃ t : State, Gives (.lineArrival n line) s t ∧ t.mem = s.mem
          ∧ t.present n line = true ∧ ∀ m, m ≠ line → t.present n m = s.present n m)
    ∧ (s.frame? n = none → Gives (.lineArrival n line) s s)
    ∧ (s.focusTag r.tag = s → r ∈ s.reqs → (∀ q ∈ s.reqs, q.tag = r.tag → q = r) → (∀ q ∈ s.reqs, q.tag ≠ r.tag → r.mate q = false) →
        r.uid = s.cur.uid → r.accs = [a] → r.line = a.ea.toNat / 128 → 1 ≤ a.width → a.ea.toNat % 128 + a.width ≤ 128 →
        let sort : Kind := if a.kind = 0 then .load else if a.kind = 1 then .store else .atomic
        let checked := s.ownerCheck r.ctx (bitsNat a.ea.toNat 53 48) (bitsNat a.ea.toNat 47 0) sort r.pkr
        let old := s.mem.getBytes y.key a.width
        (r.performed = false → s.inOrder r = true → r.pkg = s.ownPkg → r.done = [] → r.checks = [] → r.joint = false → a.kind ≤ 2 →
            (∀ code, checked = .error code → answered s.mem code [])
            ∧ (checked = .ok y → s.packState y.key = 0 →
                (a.kind = 0 → answered s.mem 0 old)
                ∧ (a.kind = 1 → a.data.length = a.width → s.calm none y.key a.width = true → answered (s.mem.setBytes y.key a.data) 0 [])
                ∧ (a.kind = 2 → a.ea.toNat % 8 + a.width ≤ 8 → s.calm none y.key a.width = true →
                    answered (match (atomValue r.instr (natOf old) (natOf a.data) (natOf a.exp)).1 with
                      | some v => s.mem.setBytes y.key (bytesOf a.width v)
                      | none => s.mem) 0 old)))
        ∧ (r.performed = false → s.inOrder r = true → r.pkg ≠ s.ownPkg → Gives ask s
            (State.setReq { s with outbox := s.outbox ++ [remoteMessage s.gtc r a] } r.tag (fun q => { q with performed := true })))
        ∧ (r.performed = true → s.cur.status = .running → s.cur.block = some b → b.seq = r.block → a.lane < s.cur.lanes.length →
            r.pkg = s.ownPkg → r.early = [] → (∀ q ∈ s.reqs, q.back = false) →
            ∀ data, r.answers = [{ lane := a.lane, code := 0, data := data }] → ∃ t : State, Gives (.globalReply r.tag []) s t
              ∧ sameReqs t.reqs (s.reqs.filter (fun q => q.tag != r.tag)) ∧ t.mem = s.mem ∧ t.cur.sregs = s.cur.sregs
              ∧ ∀ l, t.cur.lane l = if l = a.lane then
                  (match delivered r.instr (natOf data) with
                    | some (d, v) => (s.cur.lane l).write (if b.handler then s.cur.code.mview else s.cur.kern.mview) d v
                    | none => s.cur.lane l) else s.cur.lane l)
        ∧ (r.performed = true → (r.pkg = s.ownPkg ∨ r.answers ≠ []) → (∀ z ∈ r.answers, z.lane ≠ a.lane) →
            Gives (.globalReply r.tag []) s s))

/-! ### Work and the host -/

/-- R285 to R287, R330: user queues. A doorbell above the last one is taken in, and a packet whose header is seen valid becomes
eligible; the packet that starts is refused with a status, passes as a NOP, or becomes a grid with no team placed yet; a
kernel object in another package of the domain is asked for first. The end of a packet moves the read index and leaves HEADER
with VALID = 0 and the status. -/
def Obligations.PacketsStart : Prop := ∀ (s : State) (site n value key : Nat) (q : UserQueue) (k : Kernel),
  let pkt := parsePacket (s.packetBytes q q.rd)
  let run := s.setQueue key (fun q => { q with running := true })
  (FMap.get? s.queues (queueKey site n) = none → Gives (.userQueueDoorbell site n value) s s)
    ∧ (FMap.get? s.queues (queueKey site n) = some q → value ≤ q.db → Gives (.userQueueDoorbell site n value) s s)
    ∧ (FMap.get? s.queues (queueKey site n) = some q → q.db < value → ∃ t v, Gives (.userQueueDoorbell site n value) s t
        ∧ FMap.get? t.queues (queueKey site n) = some v ∧ v.db = value ∧ v.rd = q.rd ∧ v.running = q.running ∧ t.mem = s.mem
        ∧ t.grids = s.grids
        ∧ (q.rd < value → s.headerValid q q.rd = true → q.running = false → q.eligible = none → v.eligible = some s.tick))
    ∧ (s.nextQueue site = none → Gives (.packetStart site) s s)
    ∧ (s.nextQueue site = some (key, q) →
        (pkt.ok = false → Gives (.packetStart site) s (run.endPacket key pkt 3 0))
        ∧ (pkt.ok = true → pkt.type = 2 → Gives (.packetStart site) s (run.endPacket key pkt
            (if (∃ c, s.ctx? q.ctx = some c ∧ settsBad c pkt = false) then 1 else 6) 0))
        ∧ (pkt.ok = true → pkt.type = 1 → ∀ c, c ≠ 0 → s.launchTest (.packet key) q.ctx pkt = (c, k) →
            Gives (.packetStart site) s (if isAwait c = true then s.askFar (.packet key) c
              else (run.dropFar (.packet key)).endPacket key pkt c 0))
        ∧ (pkt.ok = true → pkt.type = 1 → s.launchTest (.packet key) q.ctx pkt = (0, k) → ∃ t g, Gives (.packetStart site) s t
            ∧ FMap.get? t.grids (s.tick + 1) = some g ∧ g.id = s.tick + 1 ∧ g.ctx = q.ctx ∧ g.site = site ∧ g.queue = some (key, q.rd)
            ∧ g.parent = none ∧ g.pkt = pkt ∧ g.kern = k ∧ g.next = 0 ∧ g.ended = 0 ∧ g.faulted = false ∧ g.tail = []
            ∧ t.queues = run.queues ∧ t.others = s.others ∧ t.cur = s.cur))
    ∧ (∀ (x : State) (p : Packet) (status : Nat) (grid : Word), FMap.get? x.queues key = some q →
        ∃ v, FMap.get? (x.endPacket key p status grid).queues key = some v ∧ v.rd = q.rd + 1 ∧ v.running = false ∧ v.base = q.base
          ∧ v.log2 = q.log2 ∧ v.db = q.db
          ∧ (p.signal = 0 → (x.endPacket key p status grid).mem = (x.devWrite q.ctx (q.slot q.rd) (bytesOf 4 (doneHeader p.hdr status))).mem))
    ∧ ∀ hdr status : Nat, status < 256 → let h := doneHeader hdr status
        bitAt h 8 = false ∧ bitsNat h 23 16 = status ∧ bitsNat h 7 0 = bitsNat hdr 7 0 ∧ bitsNat h 15 9 = bitsNat hdr 15 9

/-- R94, R97, R287, R325, R347, R442: gangs, tail lists and the end of a grid. A gang of GP teams, or else of GF, is placed where
there is room for it and its cluster is awake: each of its teams starts at the kernel's entry with the arguments in s1 and zero
elsewhere. TLAUNCH enters a packet in the grid's tail list, whose head becomes a child grid once the teams have ended; a grid that is
over is freed with its teams, and its packet ends. -/
def Obligations.GridsRun : Prop := ∀ (s r : State) (id tt cl base n : Nat) (us : List (List Nat)) (as : List Nat) (z : Region) (a : Reg)
    (g : Grid) (bs : List Byte) (c : Context) (e : TailEntry) (es : List TailEntry) (k : Kernel),
  let left := g.pkt.teams - g.next
  let room (n : Nat) := if 65536 < r.liveTeams g.ctx + n then none else r.findRoom g n
  let at_ := (s.cur.s a).toNat
  let given := parsePacket bs
  let pkt : Packet := if given.setts = 0 then { given with setts := bitsOf g.setts } else given
  (FMap.get? s.grids id = some g → (g.pkt.teams ≤ g.next ∨ s.halted g.ctx = true ∨ s.chipReady g = none) → Gives (.gangPlacement id) s s)
    ∧ (FMap.get? s.grids id = some g → g.next < g.pkt.teams → s.halted g.ctx = false → s.chipReady g = some r →
        room (min g.pkt.gp left) = none → room (min g.pkt.gf left) = none → Gives (.gangPlacement id) s r)
    ∧ (FMap.get? s.grids id = some g → g.id = id → g.next < g.pkt.teams → s.halted g.ctx = false → s.chipReady g = some r →
        (n = min g.pkt.gp left ∨ (n = min g.pkt.gf left ∧ room (min g.pkt.gp left) = none)) →
        room n = some (tt, cl, us, base, as, z) → us.length = n → as.length = n →
        (cl ∉ (r.sett tt).clusterOff → ∃ t v, Gives (.gangPlacement id) s t ∧ FMap.get? t.grids id = some v
            ∧ v = { g with next := g.next + n, gang := g.gang + 1, kbase := v.kbase } ∧ (g.pkt.ksppages = 0 → v.kbase = g.kbase)
            ∧ t.cur.sregs = s.cur.sregs
            ∧ ∀ j (hj : j < us.length), ∃ u ∈ t.others, u.status = .running ∧ u.teamIndex = BitVec.ofNat 32 (g.next + j)
                ∧ u.gridId = BitVec.ofNat 64 id ∧ u.gangId = BitVec.ofNat 32 g.gang ∧ u.gangSize = n ∧ u.sett = tt ∧ u.core = us[j].headD 0
                ∧ u.ctx = g.ctx ∧ u.kern = g.kern ∧ u.spc = g.kern.sbase + BitVec.ofNat 64 g.kern.sentry ∧ u.s 1 = g.pkt.args
                ∧ (∀ q : Reg, q ≠ 1 → u.s q = 0) ∧ u.lanes.length = g.kern.lanesN ∧ u.block = none)
        ∧ (cl ∈ (r.sett tt).clusterOff → (r.sett tt).tokens = [] → (r.sett tt).inrush = [] → ∃ t : State, Gives (.gangPlacement id) s t
            ∧ t.others = s.others ∧ t.grids = r.grids ∧ (FMap.get? t.setts tt).map Sett.tokens = some [(cl, s.gtc)]))
    ∧ (s.cur.wait = none → s.ready [a] = true → structOk at_ 64 = false → Gives (.tlaunch a) s (s.reject 0))
    ∧ (s.cur.wait = none → s.ready [a] = true → structOk at_ 64 = true →
        (∀ x, s.readWords at_ 8 = .trap x r → Gives (.tlaunch a) s (r.reject 0))
        ∧ (s.readWords at_ 8 = .wait r → Gives (.tlaunch a) s r)
        ∧ (s.readWords at_ 8 = .ok bs r → FMap.get? r.grids r.cur.gridId.toNat = some g → g.id = r.cur.gridId.toNat → r.curCtx = some c →
            let malformed := pkt.ok = false ∨ pkt.barrier = true ∨ ∃ m ∈ pkt.settList, m ∉ c.setts
            (malformed → Gives (.tlaunch a) s ((r.holdStruct bs).reject at_))
            ∧ (¬ malformed → 1024 ≤ g.tail.length → Gives (.tlaunch a) s ((r.holdStruct bs).reject 0))
            ∧ (¬ malformed → g.tail.length < 1024 → ∃ t v w, Gives (.tlaunch a) s t ∧ FMap.get? t.grids g.id = some v ∧ w ∈ v.tail
                ∧ w.pkt = pkt ∧ w.gtc = r.gtc ∧ w.team = r.cur.teamIndex.toNat ∧ (∀ y ∈ g.tail, y ∈ v.tail)
                ∧ v.tail.length = g.tail.length + 1 ∧ t.cur.sregs = r.cur.sregs ∧ t.cur.wait = none ∧ t.mem = r.mem)))
    ∧ (FMap.get? s.grids id = some g → g.tail = [] → Gives (.tailChildStart id) s s)
    ∧ (FMap.get? s.grids id = some g → g.tail = e :: es → g.faulted = false → s.teamsEnded g = true → s.childLive id = false →
        s.halted g.ctx = false →
        let u := (s.dropFar (.child id)).setGrid id (fun g => { g with tail := es })
        let nop := e.pkt.type = 2 ∧ ∃ c, s.ctx? g.ctx = some c ∧ settsBad c e.pkt = false
        let signalled := u.signalDown g.ctx (BitVec.ofNat 64 id) e.pkt.signal
        (nop → Gives (.tailChildStart id) s signalled)
        ∧ (¬ nop → ∀ x, x ≠ 0 → s.launchTest (.child id) g.ctx e.pkt = (x, k) → Gives (.tailChildStart id) s
            (if isAwait x = true then s.askFar (.child id) x else signalled.ctxEvent g.ctx 5 x (BitVec.ofNat 64 id) 0))
        ∧ (¬ nop → s.launchTest (.child id) g.ctx e.pkt = (0, k) → s.tick + 1 ≠ id → ∃ t v w, Gives (.tailChildStart id) s t
            ∧ FMap.get? t.grids (s.tick + 1) = some v ∧ v.parent = some id ∧ v.pkt = e.pkt ∧ v.kern = k ∧ v.ctx = g.ctx ∧ v.next = 0
            ∧ v.child = true ∧ FMap.get? t.grids id = some w ∧ w.tail = es))
    ∧ (FMap.get? s.grids id = some g → (s.teamsEnded g = false ∨ s.childLive id = true ∨ (g.faulted = false ∧ g.tail ≠ [])) →
        Gives (.gridComplete id) s s)
    ∧ (FMap.get? s.grids id = some g → g.id = id → s.teamsEnded g = true → s.childLive id = false → (g.tail = [] ∨ g.faulted = true) →
        s.ctx? g.ctx = some c → (c.eventq = none ∨ ∀ y ∈ c.events, y.grid ≠ BitVec.ofNat 64 id) →
        ∃ t : State, Gives (.gridComplete id) s t ∧ FMap.get? t.grids id = none ∧ (∀ u ∈ t.others, u.gridId.toNat ≠ id)
          ∧ ∀ key rd q, g.queue = some (key, rd) → FMap.get? s.queues key = some q →
              (∃ w : State, t = w.endPacket key g.pkt (if g.faulted = true then 2 else 1) (BitVec.ofNat 64 id))
              ∧ ∃ v, FMap.get? t.queues key = some v ∧ v.rd = q.rd + 1 ∧ v.running = false)

/-- R208, R282, R290, R333, R335, R345, R348, R351, R438, R439, R441: the host's link and ring, and the commands that make up a
context. A site whose link is down carries nothing. `State.hostDone` ends a command with its status. Every command is
answered with 0x08 before the servo has locked, with 0x07 where a further parameter is set, and with 0x07 where its context
does not exist. The codes of log entries 58, 59, 62 and 63 and the offset 2^54 of the ring area (log entry 39) are the model's
choices. -/
def Obligations.HostCommands : Prop := ∀ (s : State) (c : Context) (x : Site) (site off value a n : Nat) (bs : List Byte) (acc : HostAccess),
  let id := s.hcmd.ctx
  let p := s.param
  let rest (n : Nat) : Prop := ∀ w ∈ s.hcmd.params.drop n, w = 0
  let ofCtx : List (Instr × Nat) := [(.ctxDestroy, 0), (.bind, 2), (.pagetable, 2), (.poolAdd, 4), (.queue, 4), (.handlers, 1), (.eventq, 2),
    (.complq, 2), (.watchdog, 1), (.harea, 3), (.stop, 1), (.grant, 2), (.snapshot, 2), (.statement, 2), (.quote, 6), (.collective, 1),
    (.abort, 1), (.sumacLoad, 1), (.sumacUnload, 1)]
  let runs (n : Nat) : Prop := 8 ≤ s.bringup ∧ rest n ∧ s.ctx? id = some c
  let ahead : Nat := if s.spansPackages id = true then 20000 else 2000
  let done (i : Instr) (f : Context → Context) : Prop := Gives i s ((s.setCtx id f).hostDone 1)
  let refused (i : Instr) (status : Nat) : Prop := Gives i s (s.hostDone status)
  (FMap.get? s.sites site = none → Gives (.hostMemoryAccess site off acc) s s)
    ∧ (FMap.get? s.sites site = some x → x.level = 0 → Gives (.hostMemoryAccess site off acc) s s)
    ∧ (FMap.get? s.sites site = some x → x.level ≠ 0 →
        (off + 2 ^ 10 < 2 ^ 54 → (∀ u, off / 2 ^ 21 ≤ u → FMap.get? s.bound u = none) → 0 < n →
            Gives (.hostMemoryAccess site off (.read n)) s (s.hostReply true (List.replicate n 0xFF)))
        ∧ (1025 * 4096 ≤ a → a + bs.length ≤ 1029 * 4096 → Gives (.hostMemoryAccess site (2 ^ 54 + a) (.write bs)) s
            { s with mem := s.mem.setBytes (Config.ringKey site (a - 1025 * 4096)) bs })
        ∧ (1025 * 4096 ≤ a → a + n ≤ 1029 * 4096 → Gives (.hostMemoryAccess site (2 ^ 54 + a) (.read n)) s
            (s.hostReply false ((upTo a n).map (fun o => s.mem.get (Config.ringKey site (o - 1025 * 4096))))))
        ∧ (bs.length = 8 → ∀ t, Gives (.hostRingDoorbell site (natOf bs)) s t →
            Gives (.hostMemoryAccess site (2 ^ 54 + 1024 * 4096) (.write bs)) s t)
        ∧ (bs.length = 8 → a < 1024 → ∀ t, Gives (.userQueueDoorbell site a (natOf bs)) s t →
            Gives (.hostMemoryAccess site (2 ^ 54 + a * 4096) (.write bs)) s t))
    ∧ (FMap.get? s.sites site = some x → (value ≤ x.db ∨ s.bringup < 6) → Gives (.hostRingDoorbell site value) s s)
    ∧ (FMap.get? s.sites site = some x → x.db < value → 6 ≤ s.bringup → ∃ t y, Gives (.hostRingDoorbell site value) s t
        ∧ FMap.get? t.sites site = some y ∧ y.db = value ∧ y.rd = x.rd ∧ t.mem = s.mem
        ∧ ∀ i, x.rd ≤ i → i < value → i < x.rd + 256 → bitAt (s.mem.getNat (Config.ringKey site (64 * (i % 256))) 4) 8 = true → i ∈ y.seen)
    ∧ (∀ i ∈ ofCtx ++ [(Instr.ctxCreate, 5), (.timetable, 1), (.restore, 0)],
        (s.bringup < 8 → refused i.1 8) ∧ (8 ≤ s.bringup → ¬ rest i.2 → refused i.1 7))
    ∧ (∀ i ∈ ofCtx ++ [(Instr.restore, 0)], 8 ≤ s.bringup → rest i.2 → s.ctx? id = none → refused i.1 7)
    ∧ (8 ≤ s.bringup → rest 5 → id = 0 → p 1 < 2 ^ 48 → p 2 ≤ 4096 → p 3 ≤ 16384 → p 4 < 2 ^ 48 →
        let setts := bitList (p 1) 48
        let new := FMap.free s.ctxs 1 65535
        (∀ t ∈ setts, (s.sett t).withdrawn = false) → FMap.get? s.sites s.hcmd.site = some x →
        (s.allotCounters (p 2) setts = none → refused .ctxCreate 8)
        ∧ ∀ m, s.allotCounters (p 2) setts = some m → new ≤ 65535 → (∀ t ∈ setts, s.placesIn t + p 3 ≤ 16384) →
          ∃ v, v.setts = setts ∧ v.cntBase = m ∧ v.cntCount = p 2 ∧ v.places = p 3 ∧ v.job = nth 0 s.hcmd.params 0 ∧ v.roots = [] ∧ v.stopAt = none
            ∧ (∀ t ∈ v.accounts, t.2.balance = 0)
            ∧ Gives .ctxCreate s (State.hostDone { s with ctxs := FMap.set s.ctxs new v, mem := s.mem.setNat (ringSlot s.hcmd.site x.rd + 4) 2 new } 1))
    ∧ (runs 0 → (s.ctxBusy id c = true → refused .ctxDestroy 8) ∧ (s.ctxBusy id c = false → ∃ u : State, Gives .ctxDestroy s (u.hostDone 1)
        ∧ u.ctxs = FMap.erase s.ctxs id ∧ (∀ y ∈ u.queues, y.2.ctx ≠ id) ∧ (∀ y ∈ u.bound, y.2 ≠ id) ∧ (∀ y ∈ u.groups, y.2.ctx ≠ id)
        ∧ (∀ y ∈ u.setts, ∀ e ∈ y.2.entries, e.ctx ≠ id) ∧ u.mem = s.mem))
    ∧ (runs 2 → p 0 % 2 ^ 21 = 0 → 0 < p 1 → p 0 / 2 ^ 21 + p 1 ≤ 2 ^ 33 →
        (∀ y ∈ s.bound, p 0 / 2 ^ 21 ≤ y.1 → y.1 < p 0 / 2 ^ 21 + p 1 → y.2 = id) → ∃ m, Gives .bind s (State.hostDone { s with bound := m } 1)
          ∧ ∀ u, FMap.get? m u = if p 0 / 2 ^ 21 ≤ u ∧ u < p 0 / 2 ^ 21 + p 1 then some id else FMap.get? s.bound u)
    ∧ (runs 2 → (p 0 ∈ c.setts → p 1 % 4096 = 0 → p 1 < Config.dramBytes →
          done .pagetable (fun c => { c with roots := FMap.set c.roots (p 0) (p 1) })) ∧ (p 0 ∉ c.setts → refused .pagetable 7))
    ∧ (runs 4 → p 0 ∈ c.setts → p 3 = 0 → p 1 % 2 ^ 16 = 0 → p 1 + p 2 * 2 ^ 16 ≤ Config.dramBytes →
        let frames := (upTo 0 (p 2)).map (fun i => p 1 + i * 2 ^ 16)
        let old (c : Context) : Pool := FMap.getD c.pools (p 0) { k64 := [], m2 := [], g1 := [], slots := [] }
        done .poolAdd (fun c => { c with pools := FMap.set c.pools (p 0) ((old c).add 0 frames) }))
    ∧ (runs 4 → p 0 ≤ 1023 → p 1 % 64 = 0 → globalOk (p 1) = true → 1 ≤ p 2 → p 2 ≤ 16 → p 3 ≤ 3 → FMap.get? s.queues (queueKey s.hcmd.site (p 0)) = none →
        let q : UserQueue := { ctx := id, base := BitVec.ofNat 64 (p 1), log2 := p 2, prio := p 3, rd := 0, db := 0, seen := [], eligible := none, running := false }
        Gives .queue s (State.hostDone { s with queues := FMap.set s.queues (queueKey s.hcmd.site (p 0)) q } 1))
    ∧ (runs 1 → (p 0 % 16 = 0 → globalOk (p 0) = true → done .handlers (fun c => { c with handlers := some (BitVec.ofNat 64 (p 0)) }))
        ∧ (p 0 % 16 ≠ 0 → refused .handlers 7) ∧ done .watchdog (fun c => { c with wdog := nth 0 s.hcmd.params 0 })
        ∧ (p 0 < s.gtc + ahead → refused .stop 7) ∧ (s.gtc + ahead ≤ p 0 → c.stopAt ≠ none → refused .stop 8)
        ∧ (s.gtc + ahead ≤ p 0 → c.stopAt = none → done .stop (fun c => { c with stopAt := some (p 0) })))
    ∧ (runs 2 → globalOk (p 0) = true → 4 ≤ p 1 → p 1 ≤ 16 →
        (p 0 % 32 = 0 → done .eventq (fun c => { c with eventq := some { base := BitVec.ofNat 64 (p 0), log2 := p 1, next := 0 } }))
        ∧ (p 0 % 16 = 0 → done .complq (fun c => { c with complq := some { base := BitVec.ofNat 64 (p 0), log2 := p 1, next := 0 } })))
    ∧ (runs 2 → (p 0 ∉ c.setts → refused .grant 7 ∧ refused .snapshot 7 ∧ refused .statement 7) ∧ (p 0 ∈ c.setts →
        let y := FMap.getD c.accounts (p 0) { balance := 0, rem := 0 }
        done .grant (fun c => { c with accounts := FMap.set c.accounts (p 0) { y with balance := min (2 ^ 48 - 1) (y.balance + p 1) } })))
    ∧ (runs 3 → p 0 ∈ c.setts → p 1 % 64 = 0 → p 2 % 64 = 0 → globalOk (p 1) = true → bitsNat (p 1) 59 54 = s.ownPkg → bitsNat (p 1) 53 48 = p 0 →
        bitsNat (p 1) 47 0 + p 2 ≤ 2 ^ 48 →
        (s.rangeRw0 id (p 1) (p 2) = false → refused .harea 7)
        ∧ (s.rangeRw0 id (p 1) (p 2) = true → FMap.get? c.regions (p 0) = none → done .harea (fun c =>
            { c with regions := FMap.set c.regions (p 0) { base := BitVec.ofNat 64 (p 1), len := p 2, areas := [] } })))

/-- R351, R359, R360, R393, R397, R398, R412, R420, R444, R445, R447: the commands that start and end services. A restored context
goes on from its save; signed records carry a signature of their module over their bytes. Log entries 15, 29, 52, 54, 56, 66,
67 and 82 name the model's choices here. -/
def Obligations.ServiceCommands : Prop := ∀ (s r w : State) (c : Context) (bs hdr body : List Byte) (xs : List Spot) (gid : Nat) (g : Group)
    (t : Timetable) (ts : List Team) (homes : List (Nat × Nat)) (ws : List Word32),
  let id := s.hcmd.ctx
  let p := s.param
  let runs (n : Nat) : Prop := 8 ≤ s.bringup ∧ (∀ w ∈ s.hcmd.params.drop n, w = 0) ∧ s.ctx? id = some c
  let refused (i : Instr) (status : Nat) : Prop := Gives i s (s.hostDone status)
  let me : Asker := .host s.hcmd.site
  let awaits (i : Instr) (n status : Nat) : Prop := Gives i s (if isAwait n = true then s.askFar me n else s.hostDone status)
  let here : Prop := globalOk (p 1) = true ∧ bitsNat (p 1) 59 54 = s.ownPkg
  let records (i : Instr) (record : List Byte) : Prop :=
    let far := allOk ((lineCut (p 1) record.length).map (fun x => s.devOk me id x.1 .store))
    (globalOk (p 1) = false → refused i 7)
      ∧ (here → s.hostSpots id (p 1) record.length .store = some xs → Gives i s ((writeSpots [] xs record s).hostDone 1))
      ∧ (here → s.hostSpots id (p 1) record.length .store = none → refused i 7)
      ∧ (globalOk (p 1) = true → bitsNat (p 1) 59 54 ≠ s.ownPkg → far = .ok () → Gives i s ((s.sendRecord id (p 1) record).hostDone 1))
      ∧ (globalOk (p 1) = true → bitsNat (p 1) 59 54 ≠ s.ownPkg → ∀ n, far = .error n → awaits i n 7)
  let nonce := bytesOf 8 (p 2) ++ bytesOf 8 (p 3) ++ bytesOf 8 (p 4) ++ bytesOf 8 (p 5)
  let mask := nth 0 s.hcmd.params 2
  let b := fieldAt bs 2 1
  (∀ m, signed m body = body ++ bytesOf 64 (Config.signature (natOf body * 64 + m)).toNat)
    ∧ (runs 2 → p 0 ∈ c.setts → records .snapshot (signed (p 0) (snapshotBytes id s.gtc c (p 0)))
        ∧ records .statement (signed s.gtcSett (statementBytes s.ownPkg id c)))
    ∧ (runs 6 → p 0 < 48 → records .quote (signed (p 0)
        ((s.sett (p 0)).measure.flatMap (fun m => bytesOf 32 m.toNat) ++ Config.certChain (p 0) ++ nonce)))
    ∧ (runs 1 → ∀ n, s.anyRead me id .load (p 0) 64 = .error n → awaits .collective n 7)
    ∧ (runs 1 → s.anyRead me id .load (p 0) 64 = .ok hdr →
        let n := fieldAt hdr 0 2 + fieldAt hdr 2 2
        (headerOk (parseGroup id 0 hdr) hdr = false → refused .collective 7)
        ∧ (headerOk (parseGroup id 0 hdr) hdr = true → ∀ k, s.anyRead me id .load (p 0) (64 + 48 * n) = .error k → awaits .collective k 7)
        ∧ (headerOk (parseGroup id 0 hdr) hdr = true → s.anyRead me id .load (p 0) (64 + 48 * n) = .ok bs →
            g = parseGroup id (BitVec.ofNat 64 (p 0)) bs →
            let rows := g.positions.zip ((upTo 0 n).map (fun i => (bs.drop (64 + 48 * i)).take 48))
            let fine := (∀ y ∈ rows, s.positionOk id c g y.2 y.1 = true) ∧ peersOk g = true ∧ s.extentOk id g.ostatus.toNat 8 .store = true
            (∀ k, s.extentsUnread id g = some k → awaits .collective k 7)
            ∧ (s.extentsUnread id g = none → ¬ fine → refused .collective 7)
            ∧ (s.extentsUnread id g = none → fine → (∃ y ∈ s.groups, y.2.ctx = id ∧ y.2.addr = g.addr ∧ y.2.st.live = true) → refused .collective 8)
            ∧ (s.extentsUnread id g = none → fine → (∀ y ∈ s.groups, y.2.ctx = id → y.2.addr = g.addr → y.2.st.live = false) → ∃ k v,
                Gives .collective s (State.hostDone { s with groups := FMap.set s.groups k v } 1)
                  ∧ v.positions.map Position.base = g.positions.map (s.readyCount id)
                  ∧ { v with positions := g.positions } = g)))
    ∧ (runs 1 → (s.groupAt id (p 0) = none → refused .abort 7)
        ∧ (s.groupAt id (p 0) = some (gid, g) → (g.st.live = false ∨ g.aborting = true) → refused .abort 8)
        ∧ (s.groupAt id (p 0) = some (gid, g) → FMap.get? s.groups gid = some g → g.st.live = true → g.aborting = false →
            ∃ (u : State) (v : Group), Gives .abort s (u.hostDone 1) ∧ FMap.get? u.groups gid = some v ∧ v.aborting = true ∧ v.st = g.st))
    ∧ (runs 1 → ∀ n, s.anyRead me id .load (p 0) 448 = .error n → awaits .sumacLoad n 7)
    ∧ (runs 1 → s.anyRead me id .load (p 0) 448 = .ok bs →
        (s.slotBad id bs = true → refused .sumacLoad 0x11)
        ∧ (s.slotBad id bs = false → fieldAt bs 6 1 ≠ 1 → refused .sumacLoad 0x14)
        ∧ (s.slotBad id bs = false → fieldAt bs 6 1 = 1 →
            let ch := s.chip (b / 16 % 2)
            let used := (FMap.get? ch.slots (b % 16)).isSome = true ∨ ∃ y ∈ ch.slots, y.2.ctx = id
            (used → refused .sumacLoad 0x12)
            ∧ (¬ used → ∀ n, s.imageWords id (fieldAt bs 8 8) (fieldAt bs 16 2) = .error n → awaits .sumacLoad n 0x11)
            ∧ (¬ used → s.imageWords id (fieldAt bs 8 8) (fieldAt bs 16 2) = .ok ws →
                (kernelOk ws = false → refused .sumacLoad 0x13)
                ∧ (kernelOk ws = true → ∃ v, v.ctx = id ∧ v.image = ws ∧ v.dir = fieldAt bs 3 1 ∧ v.active = fieldAt bs 24 8 ∧ v.store = []
                    ∧ v.holds = [] ∧ Gives .sumacLoad s (State.hostDone (s.setChip (b / 16 % 2) (fun c => { c with slots := FMap.set c.slots (b % 16) v })) 1)))))
    ∧ (runs 1 → ((∀ y ∈ s.chips, ∀ z ∈ y.2.slots, z.2.ctx ≠ id) → refused .sumacUnload 7)
        ∧ ((∃ y ∈ s.chips, ∃ z ∈ y.2.slots, z.2.ctx = id) → ∃ m, Gives .sumacUnload s (State.hostDone { s with chips := m } 1)
            ∧ m = s.chips.map (fun y => (y.1, { y.2 with
                slots := y.2.slots.map (fun z => (z.1, if z.2.ctx = id ∧ z.2.unloadAt = none then { z.2 with unloadAt := some (p 0) } else z.2)) }))))
    ∧ (8 ≤ s.bringup → (∀ w ∈ s.hcmd.params.drop 1, w = 0) → id = 0 → s.windowRead (p 0) 64 = some hdr →
        s.windowRead (p 0) (64 + 520 * min 256 (fieldAt hdr 2 2)) = some bs → t = parseTimetable bs →
        let bad := s.tableOk bs t = false ∨ t.base < s.gtc + 100000 ∨ ∃ k d, k < 64 ∧ t.dark k = some d ∧ 50000 < d
        (bad → refused .timetable 7)
        ∧ (¬ bad → ∃ u : State, Gives .timetable s (u.hostDone 1) ∧ u.pendingTable = some t ∧ u.timetable = s.inForce
            ∧ { u with pendingTable := s.pendingTable, timetable := s.timetable, outbox := s.outbox } = s))
    ∧ (s.bringup < 6 → Gives .grandmaster s s)
    ∧ (6 ≤ s.bringup → (id ≠ 0 ∨ 64 ≤ p 0 ∨ 64 ≤ p 1 ∨ mask.getLsbD (p 0) = false ∨ mask.getLsbD (p 1) = false) → refused .grandmaster 7)
    ∧ (6 ≤ s.bringup → id = 0 → (∀ w ∈ s.hcmd.params.drop 3, w = 0) → p 0 < 64 → p 1 < 64 → mask.getLsbD (p 0) = true →
        mask.getLsbD (p 1) = true → s.ctxs = [] → ∃ u : State, Gives .grandmaster s (u.hostDone 1) ∧ u.grandmaster = p 0 ∧ u.ownPkg = p 1 ∧ u.domain = mask
          ∧ (p 0 = p 1 → u.locked = true ∧ u.bringup = 8) ∧ (p 0 ≠ p 1 → u.locked = false ∧ u.bringup = 7) ∧ u.mem = s.mem)
    ∧ (runs 0 → (c.stopAt = none → refused .restore 7) ∧ (c.stopAt ≠ none → c.saved = none → refused .restore 8)
        ∧ (c.stopAt ≠ none → c.saved = some ts → restoreGangs ts (gangHeads ts) s = none → refused .restore 8)
        ∧ (c.stopAt ≠ none → c.saved = some ts → restoreGangs ts (gangHeads ts) s = some (homes, r) →
            (∀ h ∈ homes, h.2 ∉ (s.sett h.1).clusterOff) →
            (restoreChips (s.gridsOf id) r = none → refused .restore 8)
            ∧ (restoreChips (s.gridsOf id) r = some w →
                let u := w.setCtx id (fun c => { c with saved := none, savedMem := [], cut := false, stopAt := none })
                let u : State := { u with groups := u.groups.map (fun y => (y.1, { y.2 with since := if y.2.ctx = id then u.gtc else y.2.since })) }
                let u := takeCompletions id (u.complEntries id) u
                let u := ts.foldl (fun u t => u.onTeam t.uid (fun u => u.resolvePending.resume id)) u
                Gives .restore s ((u.testEntries id).hostDone 1))))

/-! ### Events of the package -/

/-- R345, R348, R352, R353, R358, R441, R442: energy, cluster power, the queues of fault events and completions, and the stop
and the save of a context. A saved team keeps, where it passed a liveness record, only what the record names. -/
def Obligations.ServiceEvents : Prop := ∀ (s : State) (c : Context) (ctx sett cl : Nat) (e : Event) (es : List Event) (r : Ring) (bs : List Byte)
    (x : Charge) (v : Live) (q : Reg) (bill : List Charge),
  let y := s.sett sett
  let at_ := r.base.toNat + 32 * (r.next % 2 ^ r.log2)
  (s.gtc % 10000 ≠ 0 → Gives (.energyCharge sett bill) s s)
    ∧ (s.gtc % 10000 = 0 → s.ctx? x.ctx = some c → x.team = none →
        (∃ t ∈ s.teams, t.ctx = x.ctx ∧ t.sett = sett ∧ t.status = .running) → ∃ t d, Gives (.energyCharge sett [x]) s t ∧ t.ctx? x.ctx = some d
          ∧ t.mem = s.mem ∧ t.cur = s.cur ∧
          let a := FMap.getD c.accounts sett { balance := 0, rem := 0 }
          FMap.get? d.accounts sett = some { balance := a.balance - min ((x.amount + a.rem) / 1000) a.balance, rem := (x.amount + a.rem) % 1000 })
    ∧ ((cl ∈ y.clusterOff ∨ s.gtc < FMap.getD y.clusterIdle cl 0 + 1000000
        ∨ ∃ t ∈ s.teams, t.resident = true ∧ t.sett = sett ∧ clusterOf t.core = cl) → Gives (.clusterPowerDown sett cl) s s)
    ∧ (cl ∉ y.clusterOff → FMap.getD y.clusterIdle cl 0 + 1000000 ≤ s.gtc → cl ∈ clustersOf (s.gridRows sett) →
        (∀ t ∈ s.teams, ¬ (t.resident = true ∧ t.sett = sett ∧ clusterOf t.core = cl)) →
        Gives (.clusterPowerDown sett cl) s (s.setSett sett (fun x => { x with clusterOff := insertNat cl x.clusterOff })))
    ∧ ((∀ t ∈ y.tokens, s.gtc < t.2 + 20000) → Gives (.inrushTokenRelease sett) s s)
    ∧ (∀ k ks, y.tokens = k :: ks → k.2 + 20000 ≤ s.gtc → ∃ t z, Gives (.inrushTokenRelease sett) s t ∧ FMap.get? t.setts sett = some z
        ∧ k.1 ∉ z.clusterOff ∧ t.mem = s.mem ∧ (y.inrush = [] → z.tokens = ks)
        ∧ (∀ w, nextInrush s.gtc y.inrush = some w → z.tokens = ks ++ [(w.cluster, s.gtc)] ∧ z.inrush = y.inrush.erase w))
    ∧ (s.ctx? ctx = some c → c.events = [] ∨ c.eventq = none → Gives (.faultEventPost ctx) s s)
    ∧ (s.ctx? ctx = some c → c.events = e :: es → c.eventq = some r → ∀ k, s.devNat ctx at_ 1 = .ok k →
        (k ≠ 0 → Gives (.faultEventPost ctx) s s)
        ∧ (k = 0 → ∃ t : State, Gives (.faultEventPost ctx) s t ∧ t.mem = ((s.devWrite ctx (at_ + 1) e.bytes).devWrite ctx at_ (bytesOf 1 e.kind)).mem
            ∧ t.ctx? ctx = some { c with events := es, eventq := some { r with next := r.next + 1 } }))
    ∧ e.bytes.length = 31
    ∧ (s.ctx? ctx = some c → c.saved ≠ none ∨ c.complq = none → Gives (.faultCompletionEntry ctx) s s)
    ∧ (s.ctx? ctx = some c → c.saved = none → c.complq = some r → s.devRead ctx (r.base.toNat + 16 * (r.next % 2 ^ r.log2)) 16 = .ok bs →
        (fieldAt bs 0 2 = 0 → Gives (.faultCompletionEntry ctx) s s)
        ∧ (fieldAt bs 0 2 ≠ 0 → Gives (.faultCompletionEntry ctx) s (State.applyCompletion
            ((s.devWrite ctx (r.base.toNat + 16 * (r.next % 2 ^ r.log2)) (bytesOf 2 0)).setCtx ctx (fun c => { c with complq := some { r with next := r.next + 1 } }))
            ctx bs)))
    ∧ (∀ w, fieldAt bs 0 2 = ctx → s.teams.find? (fun t => t.ctx == ctx && t.status == .running && t.ctxSlot == fieldAt bs 2 2) = some s.cur →
        s.cur.gen.toNat = fieldAt bs 4 4 → s.cur.status = .running → s.cur.paths = [] → s.cur.userWork = none →
        s.cur.wait = some (.host w) → w.toNat / 2 ^ 16 = fieldAt bs 10 6 → fieldAt bs 8 1 % 4 = 0 →
        (s.applyCompletion ctx bs).cur = { s.cur with wait := none })
    ∧ (∀ k, s.ctx? ctx = some c → c.stopAt = some k → ∃ t : State, Gives (.stopCut ctx) s t ∧ { t with ctxs := s.ctxs } = s
        ∧ t.ctx? ctx = some (if k ≤ s.gtc then { c with cut := true } else c))
    ∧ (s.ctx? ctx = some c → (c.cut = false ∨ c.saved ≠ none ∨ s.drained ctx = false) → Gives (.save ctx) s s)
    ∧ (s.ctx? ctx = some c → c.cut = true → c.saved = none → s.drained ctx = true → ∀ y,
        (s.running ctx).findSome? (fun t => (s.liveUnread t).map (fun n => (t.uid, n))) = some y → Gives (.save ctx) s (s.askFar (.code y.1) y.2))
    ∧ (s.ctx? ctx = some c → c.cut = true → c.saved = none → s.drained ctx = true → (∀ t ∈ s.running ctx, s.liveUnread t = none) →
        ∃ t d, Gives (.save ctx) s t ∧ t.ctx? ctx = some d
        ∧ d.saved ≠ none ∧ (∀ k ∈ s.running ctx, ∀ w ∈ t.teams, w.uid ≠ k.uid)
        ∧ (s.others = [] → s.cur.status = .running → s.cur.ctx = ctx → d.saved = some [s.saveTeam.cur]))
    ∧ (s.liveOf s.cur = none → s.saveTeam.cur.sregs = s.cur.sregs ∧ s.saveTeam.cur.lanes = s.cur.lanes)
    ∧ (s.liveOf s.cur = some v → s.saveTeam.cur.s q = (if bitAt v.smap q.toNat then s.cur.s q else 0)
        ∧ ∀ l j, l < s.cur.lanes.length → j < (s.cur.lane l).regs.length →
            nth 0 (s.saveTeam.cur.lane l).regs j = if bitAt v.vmap j then nth 0 (s.cur.lane l).regs j else 0)

/-- R415, R417 to R420: collective runs. A run starts when every position is ready, commits chunk after chunk and completes
with the last one; a position that misses the deadline is lost; a loss ends the run, or a spare takes the position over;
an abort is applied sett by sett and finished once everywhere. -/
def Obligations.CollectiveRuns : Prop := ∀ (s : State) (id p i sett : Nat) (g : Group), FMap.get? s.groups id = some g →
  let becomes (i : Instr) (f : Group → Prop) : Prop := ∃ t v, Gives i s t ∧ FMap.get? t.groups id = some v ∧ f v
  let stays (i : Instr) : Prop := Gives i s s
  let ready := g.active.all (s.positionReady g) = true
  ((g.st.live = true ∨ g.aborting = true ∨ s.halted g.ctx = true ∨ ¬ ready) → stays (.collectiveRunStart id))
    ∧ (g.st.live = false → g.aborting = false → s.halted g.ctx = false → ready →
        becomes (.collectiveRunStart id) (fun v => v.run = g.run + 1 ∧ v.st = .running ∧ v.chunk = 0 ∧ v.since = s.gtc ∧ v.lost = none
          ∧ v.n = g.n ∧ v.ctx = g.ctx))
    ∧ ((g.st ≠ .running ∨ g.phase ≠ 1 ∨ g.lost ≠ none) → stays (.chunkCommit id))
    ∧ (g.st = .running → g.phase = 1 → g.lost = none →
        let all := (∀ x ∈ g.active, x.out = true) ∧ s.linked id = false
        (all → becomes (.chunkCommit id) (fun v => v.chunk = g.chunk + 1 ∧ v.run = g.run ∧ v.since = s.gtc
            ∧ (g.chunk + 1 < g.chunks → v.st = .running ∧ v.phase = 1) ∧ (g.chunks ≤ g.chunk + 1 → v.st = .complete)))
        ∧ (¬ all → (g.chunk + 1 ≠ g.chunks ∨ s.halted g.ctx = true) → stays (.chunkCommit id))
        ∧ (¬ all → g.chunk + 1 = g.chunks → s.halted g.ctx = false →
            becomes (.chunkCommit id) (fun v => v = g.mapActive (fun x => if x.out && !x.st.final then { x with st := .complete } else x))))
    ∧ ((g.st ≠ .running ∨ g.phase = 2 ∨ g.lost ≠ none ∨ s.halted g.ctx = true ∨ s.gtc < g.since + g.deadline) → stays (.collectiveDeadlineExpiry id))
    ∧ (g.st = .running → g.phase ≠ 2 → g.lost = none → s.halted g.ctx = false → g.since + g.deadline ≤ s.gtc →
        becomes (.collectiveDeadlineExpiry id) (fun v => v = { g with lost := some (s.laggard id g) }))
    ∧ (g.lost = none → stays (.collectiveLossEnd id) ∧ stays (.collectiveRecovery id))
    ∧ (g.lost = some p → g.phase ≠ 2 → (g.aborting = true ∨ s.firedLink id = true) → stays (.collectiveLossEnd id) ∧ stays (.collectiveRecovery id))
    ∧ (g.lost = some p → g.st.live = true → g.phase ≠ 2 → g.aborting = false → s.firedLink id = false → s.hopeless g p = true →
        becomes (.collectiveLossEnd id) (fun v => v.st = .memberLost ∧ v.lost = none ∧ v.more = [] ∧ v.run = g.run)
          ∧ stays (.collectiveRecovery id))
    ∧ (g.lost = some p → g.st.live = true → g.phase ≠ 2 → g.aborting = false → s.firedLink id = false → s.hopeless g p = false →
        s.halted g.ctx = false → s.spareOf g = some i → p < g.n → g.n ≤ i → i < g.positions.length →
        stays (.collectiveLossEnd id) ∧ becomes (.collectiveRecovery id) (fun v => v.st = .paused ∧ v.phase = 2 ∧ v.lost = some p
          ∧ (v.pos p).sett = (g.pos i).sett ∧ (v.pos p).pkg = (g.pos i).pkg ∧ (v.pos p).peer = (g.pos p).peer ∧ (v.pos i).used = true))
    ∧ (g.aborting = false → (∀ r ∈ (s.sett sett).inbox, r.msg.body ≠ .abort g.ctx id) → stays (.abortApply id sett))
    ∧ (g.aborting = true → g.n ≤ g.positions.length →
        let got := ∃ r ∈ (s.sett sett).inbox, r.msg.body = .abort g.ctx id
        becomes (.abortApply id sett) (fun v => v.aborting = true ∧ ∀ k, k < g.n →
          let mine := (g.pos k).sett = sett ∧ (got ∨ (g.pos k).pkg ≠ s.ownPkg)
          (¬ mine → v.pos k = g.pos k)
            ∧ (mine → (v.pos k).applied = true
              ∧ ((g.pos k).applied = false → (g.pos k).st.final = false →
                  (v.pos k).st = (if g.chunk + 1 = g.chunks ∧ (g.pos k).out then .complete else .aborted)))))
    ∧ ((g.aborting = false ∨ ∃ x ∈ g.active, x.applied = false) → stays (.abortFinish id))
    ∧ (g.aborting = true → (∀ x ∈ g.active, x.applied = true) → becomes (.abortFinish id) (fun v => v.aborting = false ∧ v.lost = none
        ∧ ((∃ x ∈ g.active, x.st = .aborted) → v.st = .aborted)
        ∧ ((∀ x ∈ g.active, x.st ≠ .aborted ∧ x.st ≠ .memberLost) → v.st = .complete)))

/-- R379 to R382, R385, R387 to R390, R395, R396, R400: links and flits. A link passes flits on in order and once; one that
goes down hands its unacknowledged flits back; ports retrain. A flit that arrives is queued, a port sends the head of a
queue with the link's next SEQ and a good CRC, and what reaches its sett is performed and counted. -/
def Obligations.LinksAndFlits : Prop := ∀ (s : State) (n chip port sett tag rate mask pkg key fabric : Nat) (flit : List Byte) (f : QFlit)
    (l' : Link) (r : GReq) (ctx : Nat) (a x e : Word) (bs : List Byte) (xs : List Spot) (mode : UeMode) (t : Timetable) (op : UeOp),
  let l := s.link n
  let q := s.port sett port
  let out := outLink chip port
  (l.up = false → Gives (.linkLossOfLock n) s s) ∧ (l.up = true → Gives (.linkLossOfLock n) s (s.dropLink n))
    ∧ ((l.up = false ∨ l.replays ≤ 8) → Gives (.linkDown n) s s) ∧ (l.up = true → 8 < l.replays → Gives (.linkDown n) s (s.dropLink n))
    ∧ ((s.dropLink n).link n = { l with up := false, unacked := [], replays := 0 }
        ∧ ((s.dropLink n).port (portBehind (n % 1024 / 512) (n % 512)).1 (portBehind (n % 1024 / 512) (n % 512)).2).works = false)
    ∧ (∀ p l', l.receive flit = (p, l') → (p = true ↔ l.up = true ∧ flitGood flit = true ∧ flitSeq flit = l.next)
        ∧ (p = true → l' = { l with next := (l.next + 1) % 2 ^ 32, replays := 0 })
        ∧ (l.up = true → flitGood flit = false → l' = { l with replays := l.replays + 1 }))
    ∧ (l.unacked.find? (fun f => f.buf == flit) = none → flitGood flit = true → Gives (.linkFlitReceived n flit) s s)
    ∧ (l.unacked.find? (fun f => f.buf == flit) = some f → l.receive flit = (true, l') → n % 512 < 384 → n < 1024 →
        Gives (.linkFlitReceived n flit) s ((s.setLink n (fun _ => { l' with unacked := l.unacked.erase f })).deliverFlit f))
    ∧ (l.unacked.find? (fun f => f.buf == flit) = some f → l.receive flit = (true, l') → (384 ≤ n % 512 ∨ 1024 ≤ n) →
        Gives (.linkFlitReceived n flit) s (s.setLink n (fun _ => { l' with unacked := l.unacked.erase f })))
    ∧ (let y := s.sett (flitDstSett f.buf)
       let u := s.setSett (flitDstSett f.buf) (fun x => x.deliver f.buf)
       (flitClass f.buf ≠ 3 ∨ y.hasDelivered f.buf = true → s.deliverFlit f = s)
        ∧ ((y.deliver f.buf).hasDelivered f.buf = true)
        ∧ (flitClass f.buf = 3 → y.hasDelivered f.buf = false → u.performFlit f.buf = none → s.deliverFlit f = u)
        ∧ (∀ v, flitClass f.buf = 3 → y.hasDelivered f.buf = false → u.performFlit f.buf = some v → s.deliverFlit f = v.countFlit f))
    ∧ ((rateOk rate = false ∨ 2 ^ 32 ≤ mask ∨ s.portDead sett port = true) → Gives (.retrainRequest sett port rate mask) s s)
    ∧ (rateOk rate = true → mask < 2 ^ 32 → s.portDead sett port = false → ∃ v u, Gives (.retrainRequest sett port rate mask) s u ∧ u.port sett port = v
        ∧ (q.training = none → v = { q with training := some (rate, mask, s.gtc) })
        ∧ (∀ r m k, q.training = some (r, m, k) → (s.gtc - k) * aggregate q.rate q.mask < 2048 →
            v = { q with training := some (min r rate, m &&& mask, k) })
        ∧ (∀ r m k, q.training = some (r, m, k) → 2048 ≤ (s.gtc - k) * aggregate q.rate q.mask → v = { q with pending := q.pending ++ [(rate, mask)] }))
    ∧ (q.training = none → Gives (.retrainComplete sett port rate mask fabric) s s)
    ∧ (∀ r m k, q.training = some (r, m, k) →
        let rt := min rate r
        let mk := mask &&& m &&& s.goodLanes sett port
        let bad := trainingFails rt mk fabric = true ∨ k + 20000 < s.gtc
        ∃ u : State, Gives (.retrainComplete sett port rate mask fabric) s u ∧ u.mem = s.mem
        ∧ (¬ bad → q.pending = [] → u.port sett port = { q with up := true, failed := 0, rate := rt, mask := mk, training := none })
        ∧ (bad → (u.port sett port).up = false ∧ (u.port sett port).failed = q.failed + 1)
        ∧ (bad → q.failed = 2 → sett < 48 →
            ∃ y, FMap.get? u.setts sett = some y ∧ { kind := 5, sett := sett, prow := 0, pcol := 0, index := port } ∈ y.delta))
    ∧ (s.reqs.find? (fun r => r.tag == tag && r.performed == (r.pkg != s.ownPkg)) = some r →
        (r.pkg ≠ s.ownPkg → s.overdue (r.core / 256) r.sentAt = false → Gives (.deliveryTimeout tag) s s)
        ∧ (r.pkg ≠ s.ownPkg → s.overdue (r.core / 256) r.sentAt = true → Gives (.deliveryTimeout tag) s (s.onTeam r.uid (fun s =>
            s.reply r (r.accs.map (fun a => { lane := a.lane, code := codeRemoteUnreach, data := [] })))))
        ∧ (r.pkg = s.ownPkg → (s.gtc < r.sentAt + 100000 ∨ r.checks ≠ [] ∨ r.done ≠ []) → Gives (.deliveryTimeout tag) s s)
        ∧ (r.pkg = s.ownPkg → r.sentAt + 100000 ≤ s.gtc → r.checks = [] → r.done = [] → Gives (.deliveryTimeout tag) s (s.undelivered r)))
    ∧ (let behind := s.port (portBehind chip port).1 (portBehind chip port).2
       ((2 ≤ chip ∨ 512 ≤ port ∨ (flitGood flit = true ∧ (s.chip chip).room flit = false) ∨ behind.works = false) →
          Gives (.flitTraversal chip port flit) s s)
       ∧ (chip < 2 → port < 512 → (s.chip chip).room flit = true → behind.works = true → (s.link (inLink chip port)).receive flit = (true, l') →
        let v := s.setLink (inLink chip port) (fun _ => l')
        let u := v.leave chip port flit
        let f : QFlit := { buf := flit, stamp := s.gtc, port := port, also := [], counts := true, orig := flit }
        (s.foreign port flit = true → Gives (.flitTraversal chip port flit) s v)
        ∧ (s.foreign port flit = false → u.slotFor chip f = none → ∃ v, Gives (.flitTraversal chip port flit) s v ∧ v.mem = s.mem
            ∧ FMap.get? (v.chip chip).voqs (voqKey flit) = some (FMap.getD (s.chip chip).voqs (voqKey flit) [] ++ [f]))
        ∧ (s.foreign port flit = false → u.slotFor chip f ≠ none → ∃ v, Gives (.flitTraversal chip port flit) s v
            ∧ f ∈ (v.chip chip).arrivals ∧ (v.chip chip).voqs = (s.chip chip).voqs)))
    ∧ (s.servable chip port = [] → Gives (.voqTransmit chip port) s s)
    ∧ (s.servable chip port = [(key, f)] → key / 4096 < 4 → FMap.get? (s.chip chip).voqs key = some (f :: []) → ∃ v g, Gives (.voqTransmit chip port) s v
        ∧ FMap.get? (v.chip chip).voqs key = some [] ∧ (v.link out).unacked = (s.link out).unacked ++ [g] ∧ g.stamp = f.stamp ∧ g.also = f.also
        ∧ (v.link out).seq = ((s.link out).seq + 1) % 2 ^ 32 ∧ g.buf = sealFlit (f.buf.take 8 ++ bytesOf 4 (s.link out).seq ++ f.buf.drop 12))
    ∧ (∀ c : List Byte, c.length = 256 → flitGood (sealFlit c) = true ∧ (sealFlit c).take 248 = c.take 248)
    ∧ (s.inForce = none → Gives (.circuitLit pkg) s s)
    ∧ (s.inForce = some t → t.lit s.gtc pkg = false → Gives (.circuitLit pkg) s s)
    ∧ (s.inForce = some t → t.lit s.gtc pkg = true → s.others = [] → s.cur.status = .running → s.halted s.cur.ctx = false → s.cur.userWork = none →
        Gives (.circuitLit pkg) s s.lightPaths)
    ∧ ((48 ≤ sett ∨ 65536 ≤ port ∨ mode = .uud) → Gives (.ueConnectionSetup sett port mode) s { s with ueOut := s.ueOut ++ [[1]] })
    ∧ (sett < 48 → port < 65536 → mode ≠ .uud → Gives (.ueConnectionSetup sett port mode) s
        { s with ue := FMap.set s.ue (sett * 65536 + port) mode, ueOut := s.ueOut ++ [[0]] })
    ∧ (let conn := FMap.get? s.ue (sett * 65536 + port)
       let ue (op : UeOp) (t : State) : Prop := Gives (.inboundUeOperation { sett := sett, endpoint := port, op := op }) s t
       let off := s.ueAway a.toNat
       let spots := s.ueTarget ctx a.toNat
       ((conn = none ∨ 65536 ≤ port ∨ 2 ^ 32 ≤ ueSize op) → ue op (s.ueAnswer true []))
       ∧ (conn ≠ none → port < 65536 → bs.length < 2 ^ 32 → pkg < 2 ^ 32 →
          ue (.send ctx (some a) bs) (s.ueAnswer false bs) ∧ ue (.send ctx none bs) (s.ueAnswer false bs)
          ∧ (off = true → ue (.write ctx a bs) (s.ueSend 2 ctx a.toNat bs.length bs) ∧ ue (.read ctx a pkg) (s.ueSend 1 ctx a.toNat pkg []))
          ∧ (off = false → spots bs.length .store = none → ue (.write ctx a bs) (s.ueAnswer true []))
          ∧ (off = false → spots bs.length .store = some xs → ue (.write ctx a bs) ((writeSpots [] xs bs s).ueAnswer false []))
          ∧ (off = false → spots pkg .load = none → ue (.read ctx a pkg) (s.ueAnswer true []))
          ∧ (off = false → spots pkg .load = some xs → ue (.read ctx a pkg) (State.ueAnswer (readSpots xs s).2 false (readSpots xs s).1))
          ∧ (a.toNat % 8 ≠ 0 → ue (.fetchAdd ctx a x) (s.ueAnswer true []) ∧ ue (.compareSwap ctx a e x) (s.ueAnswer true []))
          ∧ (a.toNat % 8 = 0 → off = true → ue (.fetchAdd ctx a x) (s.ueSend 3 ctx a.toNat 8 (bytesOf 8 x.toNat))
              ∧ ue (.compareSwap ctx a e x) (s.ueSend 4 ctx a.toNat 8 (bytesOf 8 e.toNat ++ bytesOf 8 x.toNat)))
          ∧ (a.toNat % 8 = 0 → off = false → spots 8 .atomic = none →
              ue (.fetchAdd ctx a x) (s.ueAnswer true []) ∧ ue (.compareSwap ctx a e x) (s.ueAnswer true []))
          ∧ (a.toNat % 8 = 0 → off = false → spots 8 .atomic = some xs →
            let old := (readSpots xs s).1
            let u := (readSpots xs s).2
            ue (.fetchAdd ctx a x) ((writeSpots [] xs (bytesOf 8 ((natOf old + x.toNat) % 2 ^ 64)) u).ueAnswer false old)
            ∧ (natOf old = e.toNat → ue (.compareSwap ctx a e x) ((writeSpots [] xs (bytesOf 8 x.toNat) u).ueAnswer false old))
            ∧ (natOf old ≠ e.toNat → ue (.compareSwap ctx a e x) (u.ueAnswer false old)))))

/-- R391 to R393, R397, R398, R402 to R410: the timetable and Sumac. An instruction of a run changes only the run and goes on to the
next place, at the end of a REPEAT body to its head; a flow number out of range traps; a run ends by forwarding, dropping or
holding its packet, and only then are its writes of flow state and its copies taken over. -/
def Obligations.SumacRuns : Prop := ∀ (s : State) (chip slot : Nat) (x : Slot) (t : Timetable) (d a b : BitVec 4) (w f g h : BitVec 3)
    (i : BitVec 16) (n : BitVec 7) (u : Bool) (k : XCond) (o l : BitVec 10) (c : BitVec 5) (y : KType) (dt st : KFmt) (part : BitVec 2) (fd : BitVec 8),
  let r := s.run
  let imm : Word32 := i.signExtend 32
  let now (v : Run) : State := { s with run := v.goTo (r.pc + 1) }
  let flow (q : BitVec 3) : Nat := (r.xGet q).toNat
  let holds (k : XCond) (a y : Word32) : Prop := match k with
    | .eq => a = y
    | .ne => a ≠ y
    | .lt => a.toInt < y.toInt
    | .ge => y.toInt ≤ a.toInt
    | .ltn => a.toNat < y.toNat
    | .gen => y.toNat ≤ a.toNat
  let bytes := bytesOf 32 (r.kGet a).toNat
  let put (at_ : Nat) (bs : List Byte) : Run := { r with buf := spliceBytes r.buf at_ bs }
  let reduced (rop : Nat) : List (Nat × Flags5) :=
    ((wordElems (fmtBytes (kTypeFmt y)) (r.kGet a)).zip (wordElems (fmtBytes (kTypeFmt y)) (r.kGet b))).map (fun z => reduceElem rop (kTypeFmt y) z.1 z.2)
  let reduces (j : Instr) (rop : Nat) : Prop := ∃ v, Gives j s v
    ∧ v.run = (r.kPut d (elemsWord (fmtBytes (kTypeFmt y)) ((reduced rop).map Prod.fst))).goTo (r.pc + 1) ∧ v.mem = s.mem
    ∧ ∃ z, FMap.get? (v.chip r.chip).slots r.slot = some z ∧ ∀ m : Nat, z.flags.getLsbD m = true ↔ x.flags.getLsbD m = true
        ∨ ∃ e ∈ reduced rop, e.2.getLsbD m = true
  let ends (q : State) : State := { q with run := Run.none }
  let room (fs : List (List Byte)) : Prop := s.runRoom fs = true
  let buffer : QFlit := { r.orig with buf := r.buf }
  let dst (bs : List Byte) : Bool := x.mayGo bs (flitDstPkg bs) (flitDstSett bs)
  let copyTo : List Byte := spliceBytes r.buf 4 (bytesOf 2 (flow f % 2 ^ 12))
  let toDst : Bool := x.mayGo r.buf (bitsNat (flow f) 11 6) (bitsNat (flow f) 5 0)
  (∀ (z : Run) (m : Nat), (z.rep = none → z.goTo m = { z with pc := m })
      ∧ ∀ first last left, z.rep = some (first, last, left) → (z.pc ≠ last → z.goTo m = { z with pc := m })
        ∧ (z.pc = last → 1 < left → z.goTo m = { z with pc := first, rep := some (first, last, left - 1) })
        ∧ (z.pc = last → left ≤ 1 → z.goTo m = { z with pc := last + 1, rep := none }))
    ∧ (s.pendingTable = some t → s.gtc < t.base → Gives .timetableTakesEffect s s)
    ∧ (s.pendingTable = some t → t.base ≤ s.gtc → Gives .timetableTakesEffect s { s with timetable := some t, pendingTable := none })
    ∧ Gives .phaseChange s s
    ∧ (FMap.get? (s.chip chip).slots slot = some x → (x.unloadAt = none ∨ (∃ m, x.unloadAt = some m ∧ s.gtc < m)) → Gives (.slotUnloadTakesEffect chip slot) s s)
    ∧ (∀ m, FMap.get? (s.chip chip).slots slot = some x → x.unloadAt = some m → m ≤ s.gtc → s.slotBusy chip slot = true → Gives (.slotUnloadTakesEffect chip slot) s s)
    ∧ (∀ m, FMap.get? (s.chip chip).slots slot = some x → x.unloadAt = some m → m ≤ s.gtc → s.slotBusy chip slot = false → ∃ v, Gives (.slotUnloadTakesEffect chip slot) s v
        ∧ FMap.get? (v.chip chip).slots slot = none ∧ v.mem = s.mem)
    ∧ (r.active = true →
        Gives (.ldp d w) s (now (r.kPut d (wordAt r.buf w.toNat)))
        ∧ Gives (.stp a w) s (now (if w = 0 then put 16 ((bytes.drop 16).take 8) else if w = 7 then put 224 (bytes.take 24) else put (32 * w.toNat) bytes))
        ∧ Gives (.ldh f fd) s (now (r.xPut f (BitVec.ofNat 32 (s.ldhField fd.toNat))))
        ∧ Gives (.xadd f g h) s (now (r.xPut f (r.xGet g + r.xGet h))) ∧ Gives (.xaddImm f g i) s (now (r.xPut f (r.xGet g + imm)))
        ∧ Gives (.xsub f g h) s (now (r.xPut f (r.xGet g - r.xGet h))) ∧ Gives (.xsubImm f g i) s (now (r.xPut f (r.xGet g - imm)))
        ∧ Gives (.xand f g h) s (now (r.xPut f (r.xGet g &&& r.xGet h))) ∧ Gives (.xandImm f g i) s (now (r.xPut f (r.xGet g &&& imm)))
        ∧ Gives (.xli f u i) s (now (r.xPut f (if u then BitVec.ofNat 32 (i.toNat * 65536 + (r.xGet f).toNat % 65536) else imm)))
        ∧ (∃ v, Gives (.xcmp k g h) s (now { r with f := v }) ∧ (v = true ↔ holds k (r.xGet g) (r.xGet h)))
        ∧ (∃ v, Gives (.xcmpImm k g i) s (now { r with f := v }) ∧ (v = true ↔ holds k (r.xGet g) imm))
        ∧ Gives (.brf u o) s (if r.f = u then now r else { s with run := { r with pc := r.pc + o.toNat } })
        ∧ Gives (.repeatN c l) s { s with run := { r with pc := r.pc + 1, rep := some (r.pc + 1, r.pc + l.toNat, c.toNat) } }
        ∧ Gives .drop s (if room r.emits then ends s.runLeaves else s) ∧ Gives (.ktrap i) s (s.runTrap 3 i.toNat))
    ∧ (r.active = true → s.runSlot = some x →
        (∀ j, j ∈ [Instr.ldpH d f w, .ldf d f n, .stf a f n, .fwdC f, .dropC f, .hold f] → x.flows ≤ flow f → Gives j s (s.runTrap 1 (flow f % 2 ^ 16)))
        ∧ (flow f < x.flows →
            (FMap.get? x.holds (flow f) = none → Gives (.ldpH d f w) s (now { r.kPut d 0 with f := false }))
            ∧ (∀ m, FMap.get? x.holds (flow f) = some m → Gives (.ldpH d f w) s (now { r.kPut d (wordAt m.buf w.toNat) with f := true }))
            ∧ (r.stf = [] → Gives (.ldf d f n) s (now (r.kPut d (BitVec.ofNat 256 (natOf (x.store.getBytes (4096 * flow f + 32 * n.toNat) 32))))))
            ∧ Gives (.stf a f n) s (now { r with stf := r.stf ++ [(4096 * flow f + 32 * n.toNat, bytes)] })
            ∧ (room r.emits → Gives (.dropC f) s (ends (s.runLeaves.unhold (flow f)))) ∧ (¬ room r.emits → Gives (.dropC f) s s)
            ∧ (dst r.buf = true → ¬ room (r.emits ++ [r.buf]) → Gives (.fwdC f) s s)
            ∧ (dst r.buf = true → room (r.emits ++ [r.buf]) → Gives (.fwdC f) s (ends (State.unhold (s.runLeaves.enqueueFlit r.chip
                { buffer with also := r.orig.also ++ (match FMap.get? x.holds (flow f) with | some m => m.sources | none => []) }) (flow f))))
            ∧ (dst r.buf = false → Gives (.fwdC f) s (s.runTrap 2 0))
            ∧ (FMap.get? x.holds (flow f) = none → ¬ room r.emits → Gives (.hold f) s s)
            ∧ (∀ m, FMap.get? x.holds (flow f) = some m → ¬ room (r.emits ++ [m.buf]) → Gives (.hold f) s s)
            ∧ (FMap.get? x.holds (flow f) = none → room r.emits → Gives (.hold f) s (ends (s.runLeaves.setSlot r.chip r.slot (fun y => { y with holds := FMap.set y.holds (flow f) buffer }))))
            ∧ (∀ m, FMap.get? x.holds (flow f) = some m → room (r.emits ++ [m.buf]) → Gives (.hold f) s (ends ((s.runLeaves.enqueueFlit r.chip m).setSlot r.chip r.slot
                (fun y => { y with holds := FMap.set y.holds (flow f) buffer })))))
        ∧ reduces (.kadd d a b y) 0 ∧ reduces (.kmax d a b y) 1 ∧ reduces (.kmin d a b y) 2
        ∧ (∃ v, Gives (.kcvt d a dt st part) s v ∧ v.run = (r.kPut d (kcvtWord dt st part.toNat (r.kGet d) (r.kGet a)).1).goTo (r.pc + 1) ∧ v.mem = s.mem)
        ∧ ((x.policy ≠ 1 ∨ room [r.orig.buf]) → ∀ cause m, (s.runTrap cause m).run = Run.none ∧ (s.runTrap cause m).mem = s.mem
            ∧ ∃ z, FMap.get? ((s.runTrap cause m).chip r.chip).slots r.slot = some z ∧ z.records = x.records + 1)
        ∧ (dst r.buf = true → ¬ room (r.emits ++ [r.buf]) → Gives .fwd s s)
        ∧ (dst r.buf = true → room (r.emits ++ [r.buf]) → Gives .fwd s (ends (s.runLeaves.enqueueFlit r.chip { buffer with also := r.orig.also ++ [] })))
        ∧ (dst r.buf = false → Gives .fwd s (s.runTrap 2 0))
        ∧ ((flow f / 2 ^ 12 ≠ 0 ∨ toDst = false) → Gives (.emit f) s (s.runTrap 2 0))
        ∧ (flow f / 2 ^ 12 = 0 → toDst = true → Gives (.emit f) s (now { r with emits := r.emits ++ [copyTo] })))

/-- R108, R110, R374, R376, R424, R425, R440, R446: power, bring-up, sett reset, time and errors of the register file. -/
def Obligations.BringupAndTime : Prop := ∀ (s : State) (ds : List Defect) (torn : List Nat) (site lo hi sett core col bank seam link lane w asym : Nat)
    (m : PtpMsg) (double : Bool),
  let x := s.sett sett
  let o : Int := (((m.t2 : Int) - m.t1) - ((m.t4 : Int) - m.t3)) / 2
  let place := s.physical sett core
  let bad : Defect := { kind := 3, sett := sett, prow := place.1, pcol := place.2, index := col * 12 + bank }
  (s.bringup ≠ 0 → Gives (.powerOn ds) s s)
    ∧ (s.bringup = 0 → (∃ n, n < 48 ∧ (s.sett n).imagesOk = false) → Gives (.powerOn ds) s { s with bringup := 1 })
    ∧ (s.bringup = 0 → (∀ n, n < 48 → (s.sett n).imagesOk = true) → ∃ t : State, Gives (.powerOn ds) s t ∧ t.bringup = 4 ∧ t.mem = s.mem
        ∧ ∀ n, n < 48 → FMap.get? t.setts n = some { ((s.sett n).measureAll n).reset n ds with seamCut := seamRows t n })
    ∧ (∃ t : State, Gives (.powerLoss torn) s t ∧ t.bringup = 0 ∧ t.mem = [] ∧ t.ctxs = [] ∧ t.sites = [] ∧ t.others = [] ∧ t.cur.status = .absent
        ∧ ∀ n y, FMap.get? s.setts n = some y → n ∉ torn → FMap.get? t.setts n = some y.kept)
    ∧ ((2 < lo ∨ hi < 1 ∨ hi < lo ∨ 4 ≤ site ∨ s.bringup < 4) → Gives (.ucieLinkUp site lo hi) s s)
    ∧ (max 1 lo ≤ min 2 hi → site < 4 → 4 ≤ s.bringup → FMap.get? s.sites site = none → Gives (.ucieLinkUp site lo hi) s
        { s with sites := FMap.set s.sites site { level := min 2 hi, rd := 0, db := 0, seen := [] }, bringup := max s.bringup 6 })
    ∧ ((s.bringup < 7 ∨ s.grandmaster = s.ownPkg) → Gives (.ptpMessage m) s s)
    ∧ (7 ≤ s.bringup → s.grandmaster ≠ s.ownPkg → ∃ t : State, Gives (.ptpMessage m) s t ∧ -100 ≤ t.rate ∧ t.rate ≤ 100
        ∧ (s.locked = true → t.gtc = s.gtc ∧ t.locked = true) ∧ (0 ≤ o → t.gtc = s.gtc) ∧ s.gtc ≤ t.gtc
        ∧ (s.locked = false → -5 ≤ o → o ≤ 5 → t.locked = true ∧ t.gtc = s.gtc ∧ 8 ≤ t.bringup)
        ∧ (s.locked = false → 5 < o → t.locked = false ∧ t.gtc = s.gtc)
        ∧ (s.locked = false → o < -5 → s.stepped = false → s.ctxs = [] → t.locked = true ∧ (t.gtc : Int) = s.gtc - o)
        ∧ (s.locked = false → o < -5 → (s.stepped = true ∨ s.ctxs ≠ []) → t.locked = false ∧ t.gtc = s.gtc))
    ∧ (s.locked = true → Gives (.gtcskewRecompute asym) s { s with skewBound := min 0xFFFF (2 + 5 + asym) })
    ∧ (s.locked = false → Gives (.gtcskewRecompute asym) s s)
    ∧ (s.locked = true → s.grandmaster ≠ s.ownPkg → Gives .ptpLockLost s { s with locked := false, holdover := s.gtc })
    ∧ ((s.locked = false ∨ s.grandmaster = s.ownPkg) → Gives .ptpLockLost s s)
    ∧ (s.locked = false → s.holdover + 100000 ≤ s.gtc → Gives .gtcskewHoldover s
        { s with skewBound := min 0xFFFF (s.skewBound + 1), holdover := s.holdover + 100000 })
    ∧ ((s.locked = true ∨ s.gtc < s.holdover + 100000) → Gives .gtcskewHoldover s s)
    ∧ ((48 ≤ sett ∨ s.bringup < 2 ∨ s.settFree sett = false) → Gives (.settReset sett ds) s s)
    ∧ (sett < 48 → 2 ≤ s.bringup → s.settFree sett = true → ∃ t y, Gives (.settReset sett ds) s t ∧ FMap.get? t.setts sett = some y
        ∧ y.counters = [] ∧ y.entries = [] ∧ y.regcorr = [] ∧ y.factory = x.factory ∧ (∀ d ∈ x.delta, d ∈ y.delta) ∧ t.mem = s.mem
        ∧ y = { x.reset sett ds with seamCut := seamRows t sett } ∧ (∀ n, n ≠ sett → FMap.get? t.setts n = FMap.get? s.setts n)
        ∧ t.ctxs = s.ctxs ∧ t.cur = s.cur)
    ∧ ((∀ y ∈ x.corrected, y.1 / 512 = (core * 32 + col) * 12 + bank → y.2 < 4) → Gives (.registerWordCorrectionLimit sett core col bank) s s)
    ∧ (col < 32 → bank < 12 → (∃ y ∈ x.corrected, y.1 / 512 = (core * 32 + col) * 12 + bank ∧ 4 ≤ y.2) → bad ∉ x.delta →
        Gives (.registerWordCorrectionLimit sett core col bank) s (s.setSett sett (fun x => x.append bad)))
    ∧ ((seamOk seam = false ∨ 18 ≤ link) → Gives (.seamLinkLockLoss seam link) s s)
    ∧ (seamOk seam = true → link < 18 → ∃ t y, Gives (.seamLinkLockLoss seam link) s t ∧ FMap.get? t.setts (seam / 4) = some y
        ∧ (seam, link, s.gtc) ∈ y.seamLosses ∧ t.mem = s.mem
        ∧ ((s.sett (seam / 4)).seamLosses = [] → y.delta = (s.sett (seam / 4)).delta))
    ∧ (s.cur.lanes.length ≤ lane → Gives (.registerWordError lane (some w) double) s s)
    ∧ (lane < s.cur.lanes.length → w < (s.cur.lane lane).regs.length → (s.cur.lane lane).clean → ∃ t : State, Gives (.registerWordError lane (some w) double) s t
        ∧ (∀ l, l ≠ lane → t.cur.lane l = s.cur.lane l) ∧ (t.cur.lane lane).regs = (s.cur.lane lane).regs ∧ t.mem = s.mem
        ∧ (t.cur.lane lane).bad = (if double then [w] else []) ∧ (t.cur.lane lane).soft = (if double then [] else [w]))

/-! ### Encodings, reset and the step -/

/-- R36 to R42, R111 to R117, R399, R407: no bit of an encoding is dropped. Every well-formed instruction that a scalar, lane
or Sumac word encodes is read back from its word with every operand; a scalar or a lane instruction also from its bytes in
memory order (R9). -/
def Obligations.EncodingRoundTrip : Prop := ∀ i : Instr, wf i = true →
  (∀ w, encodeScalar i = some w → decodeScalar w = .ok i ∧ decodeTableWord 32 w.toNat = some i)
    ∧ (∀ w, encodeLane i = some w → decodeLane w = .ok i ∧ decodeTableWord 96 w.toNat = some i)
    ∧ (∀ w, encodeSumac i = some w → decodeSumac w = .ok i)

/-- R36, R111, R407: some words written out from the tables of the spec, and what they stand for. -/
def Obligations.DecodeWords : Prop :=
  decodeTableWord 32 0x26096207 = some (.scmp .len 1 11 4) ∧ decodeTableWord 32 0x8A1C0003 = some (.sloop 0 14 3)
    ∧ decodeTableWord 32 0xB8000001 = some (.trap 1) ∧ decodeTableWord 32 0xB4480011 = some (.srd 9 0x011)
    ∧ decodeTableWord 32 0xBE006000 = some (.waitt 3) ∧ decodeTableWord 32 0xC020A022 = some (.chdef 4 5 1 2)
    ∧ decodeTableWord 32 0xC4380002 = some (.chwaitCnt 7 2) ∧ decodeTableWord 32 0xCA300000 = some (.mvfill 6)
    ∧ decodeTableWord 32 0xE0380000 = some (.qpost 7 false) ∧ decodeTableWord 32 0xE2300000 = some (.cntset 6 0)
    ∧ decodeTableWord 32 0xE400C000 = some (.cntadd 0 6 false false)
    ∧ decodeTableWord 32 0xBC000001 = none
    ∧ decodeTableWord 96 0x0000A005006803E000000000 = some (.vadd ⟨⟨true, 2⟩, .i32, .v 5, .v 6, .s 3, .none⟩ ⟨0, 0, false, false, .dyn⟩)
    ∧ decodeTableWord 96 0x31007E00E00E00E000000000 = some (.lend ⟨⟨false, 7⟩, .i32, .none, .none, .none, .none⟩)
    ∧ decodeSumac 0x4C040000#32 = .ok (.hold 1) ∧ decodeSumac 0x10800008#32 = .ok (.ldh 1 8)

/-- R34, R35, R376, R403, R446: the machine at reset. It is powered off, no sett, context, grid or team is there; the team
record holds the launch values of R35; the GTCSKEW bound is its largest value; a Sumac run starts at zero. That memory reads 0 and that SPC is 0 are the model's own
choices (log entries 1 and 2). -/
def Obligations.ResetHolds : Prop :=
  let s := State.reset
  s.mem.wf = true ∧ s.bringup = 0 ∧ s.cur.status = .absent ∧ s.others = [] ∧ s.ctxs = [] ∧ s.grids = [] ∧ s.gtc = 0 ∧ s.locked = false
    ∧ s.skewBound = 0xFFFF ∧ (∀ n, FMap.get? s.setts n = none) ∧ (∀ k, s.mem.get k = 0)
    ∧ (∀ r, s.cur.s r = 0) ∧ (∀ c, s.cur.c c = false) ∧ (∀ k : Fin 4, s.cur.ls[k] = 0 ∧ s.cur.le[k] = 0 ∧ s.cur.lc[k] = 0)
    ∧ s.cur.armed = 0 ∧ s.cur.spc = 0 ∧ s.cur.mode = .user ∧ s.cur.fstat = 0 ∧ s.cur.ftrapen = 0 ∧ s.cur.fmode = 0
    ∧ s.cur.srseed = 0 ∧ s.cur.pkr = 0 ∧ s.run.active = false ∧ s.run.pc = 0 ∧ s.run.f = false
    ∧ (∀ k : Fin 16, s.run.k[k] = 0) ∧ (∀ k : Fin 8, s.run.x[k] = 0)

/-- R9, R20, R36, R42, R53, R87, R117, R163, R338, R403, R439: a step runs the instruction that its agent fetches, once the time of its
turn has passed. The scalar and the lane stream fetch the words at SPC and at the path's index and decode them; a failed fetch
and a word that is none raise their trap or fault, and code in another package of the domain is asked for; before a lane word, the end
of the path's turn, a flag of the spin detector and the watchdog come first; a run of a processor takes the word at its PC; a host command ring takes the next command;
the steps of the table that nothing fetches are handed over. Where the agenda is empty the step picks one of the movers. No step
refuses, and it stops only where nobody is there to move. The agenda is the model's own (log entry 4). -/
def Obligations.StepRunsDecoded : Prop := ∀ (s : State) (rest : List Turn) (dt uid site a : Nat) (i : Instr) (w : Word32) (x : BitVec 96)
    (p : Path) (c : Nat) (e : DecodeError) (y : Site) (part : Option Nat),
  let v := State.arriveReady (State.elapse { s with agenda := rest } dt)
  let u := v.focus uid
  let can := (v.team? uid).isSome = true ∧ u.cur.status = .running ∧ u.cur.evWait = false ∧ u.halted u.cur.ctx = false
  let turn (b : Act) := s.agenda = { dt := dt, act := b } :: rest
  let free := u.cur.pendf = [] ∧ u.cur.wantsHandler = false ∧ ∀ h, u.cur.wait ≠ some (.host h)
  let o := u.setCur (fun t => t.offer part)
  let k := ringSlot site y.rd
  let word := v.mem.getNat k 8
  let par : List Word := (upTo 1 7).map (fun j => BitVec.ofNat 64 (v.mem.getNat (k + 8 * j) 8))
  let holding (v : State) : State := { v with
    hcmd := { site := site, ctx := bitsNat word 47 32, params := par } }
  (turn (.scalar uid) → can → free → u.fetchWord u.cur.spc.toNat = .ok w →
      (decodeScalar w = .ok i → step s = exec i u) ∧ (decodeScalar w = .error e → step s = .next u.illegal))
    ∧ (turn (.scalar uid) → can → free → u.fetchWord u.cur.spc.toNat = .error c →
        step s = .next (if isAwait c = true then u.askFar (.code u.cur.uid) c else u.trap c u.cur.spc))
    ∧ (turn (.scalar uid) → can → u.cur.pendf = [] → u.cur.wantsHandler = true → u.cur.sent = [] → step s = exec .handlerEntry u)
    ∧ (∀ w, bitsNat a 59 54 = u.ownPkg → u.fetchWord a = .ok w → u.fetchCheck a false = none
        ∧ ∃ l, u.ownerCheck u.cur.ctx (bitsNat a 53 48) (bitsNat a 47 0) .fetch 0 = .ok l
          ∧ (u.packState l.key = 0 → w.toNat = natOf (u.mem.getBytes l.key 4)))
    ∧ (turn (match part with | none => .lanes uid | some n => .lanePart uid n) → can → o.cur.wantsHandler = false → o.cur.pendf = [] →
        o.lateFaults.1 = [] → o.cur.current = some p →
        (p.slice + p.hold = 0 → step s = exec .sliceExpiry o)
        ∧ (0 < p.slice + p.hold → o.cur.flagged = true → step s = exec .spinDetectorFlag o)
        ∧ (0 < p.slice + p.hold → o.cur.flagged = false → o.cur.wdogDue p = true → step s = exec (.watchdogFire p.idx) o)
        ∧ (0 < p.slice + p.hold → o.cur.flagged = false → o.cur.wdogDue p = false →
            (o.fetchLane p.ip = .ok x →
              (decodeLane x = .ok i → (isControl i = false ∨ p.skipLeft = 0) → step s = exec i o)
                ∧ (decodeLane x = .ok i → isControl i = true → p.skipLeft ≠ 0 → step s = .next (o.faultPath p codeIllegal 0))
                ∧ (decodeLane x = .error e → step s = .next (o.faultPath p codeIllegal 0)))
            ∧ (o.fetchLane p.ip = .error c → step s = .next (if isAwait c = true then o.askFar (.code o.cur.uid) c
                else o.faultPath p c (if c = codeIllegal then 0 else BitVec.ofNat 64 (o.cur.code.lbase.toNat + 12 * p.ip))))))
    ∧ (u.fetchLane a = .ok x → a < u.cur.code.lcount
        ∧ u.fetchWord (u.cur.code.lbase.toNat + 12 * a) = .ok (x.extractLsb' 0 32)
        ∧ u.fetchWord (u.cur.code.lbase.toNat + 12 * a + 4) = .ok (x.extractLsb' 32 32)
        ∧ u.fetchWord (u.cur.code.lbase.toNat + 12 * a + 8) = .ok (x.extractLsb' 64 32))
    ∧ (turn (.sumac a) → a < 256 → (v.focusRun a).run.active = true → (v.focusRun a).runInstr = some i → step s = exec i (v.focusRun a))
    ∧ (turn (.sumac a) → a < 256 → (v.focusRun a).run.active = false → step s = .next ((v.focusRun a).nextRun a))
    ∧ (turn (.event uid i) → isEvent i = true → isTeamEvent i = false → step s = exec i v)
    ∧ (turn (.event uid i) → isEvent i = true → isTeamEvent i = true → (v.team? uid).isSome = true → step s = exec i u)
    ∧ (turn (.ring site) → FMap.get? v.sites site = some y → y.rd ∈ y.seen → 6 ≤ v.bringup →
        hostCommand (bitsNat word 7 0) = some i → (i = .grandmaster ∨ 8 ≤ v.bringup) → commandHeaderOk word = true →
        step s = exec i (holding v))
    ∧ (turn .idle → step s = .next v)
    ∧ (s.agenda = [] → ∃ b, step s = step { s with agenda := [{ dt := 1, act := b }] } ∧ (s.movers ≠ [] → b ∈ s.movers))
    ∧ (Goes s ∨ step s = .fault .noSuchAgent)

/-- R192, R198, R204, R205; the model's own invariant (log entry 1): every step keeps memory in its canonical form, keys strictly rising and no
entry equal to what an unlisted key reads as, so that equal memories are equal data. -/
def Obligations.StepKeepsMemory : Prop := ∀ s t : State, s.mem.wf = true → step s = .next t → t.mem.wf = true
end

