-- ==== Sys2Proof/Laws/Access.lean ====
section
/-!
SUPPORT. What the checks of a lane's access come to: a place in chip scratchpad, or a fault (R191, R205).
-/

set_option Elab.async false

namespace Sys2Proof.Machine

/-- R191, R205: an access of a lane in chip scratchpad that passes its checks stands where the grid's allocation puts it. -/
theorem locateLane_chip (u : State) (i : Instr) (pkr : Word) (m : MemOp) (h1 : m.ea / 2 ^ 60 = 10)
    (h2 : gvaBad (.lane m.lane) m.ea = false) (h3 : m.ea % m.align = 0) (h4 : winOff m.ea + m.w ≤ u.cur.kspsize)
    (h5 : memPieces m.ea m.w = [(m.ea, m.w)]) :
    u.locateLane i pkr m = (u, .here [(Config.chipKey u.cur.sett (u.chipBase u.cur + winOff m.ea), m.w)]) := by
  have h6 : ∀ al wr, al = true → checkAccess u.cur (.lane m.lane) m.ea m.w al wr = none := by
    intro al wr h
    have : rangeBad u.cur (.lane m.lane) m.ea m.w = none := by
      unfold rangeBad; simp only [h1]; exact if_neg (Nat.not_lt.2 h4)
    have h8 : ¬ (m.ea / 2 ^ 60 = 8 ∨ m.ea / 2 ^ 60 = 11) := by rw [h1]; decide
    simp only [checkAccess, h2, h, this, sttBad, if_neg h8, Bool.not_true, Bool.false_eq_true, if_false]
  have h7 : ¬ m.ea / 2 ^ 60 = 0 := by rw [h1]; decide
  unfold State.locateLane
  rw [h6 _ _ (by simp [h3])]
  simp only [h7, if_false, h5, locateAll]
  unfold State.locate
  rw [h6 true _ rfl]
  simp only [h1]

/-- R191: an access of a lane that fails a check faults with that check's code. -/
theorem locateLane_bad (u : State) (i : Instr) (pkr : Word) (m : MemOp) (c : Nat)
    (h : checkAccess u.cur (.lane m.lane) m.ea m.w (m.ea % m.align == 0) (m.kind != 0) = some c) :
    u.locateLane i pkr m = (u, .fault c) := by
  unfold State.locateLane
  rw [h]

/-- R191, R207: a global access of a lane to this package that passes its checks, and none of whose sectors the L1 of its core
holds, crosses to the sett of its address. -/
theorem locateLane_request {s u : State} (h : s.nearIn u) (i : Instr) (pkr : Word) (m : MemOp) (h0 : m.ea / 2 ^ 60 = 0)
    (h1 : gvaBad (.lane m.lane) m.ea = false) (h2 : m.ea % m.align = 0) (h3 : bitsNat m.ea 59 54 = s.ownPkg)
    (h4 : s.inDomain s.ownPkg = true) (h5 : ∀ k, FMap.get? s.l1 k = none) (h6 : sectorsOf m.ea m.w ≠ []) :
    u.locateLane i pkr m = (u, .request (bitsNat m.ea 59 54) (bitsNat m.ea 53 48)) := by
  obtain ⟨⟨e, -, -⟩, hl⟩ := h
  have ho : u.ownPkg = s.ownPkg := by rw [e]
  have hd : u.domain = s.domain := by rw [e]
  have hn : ∀ c a, u.heldSector c a = none := fun c a => by
    rcases hl (l1Key u.cur.ctx u.cur.sett c a) with h | h
    · exact h.trans (h5 _)
    · exact h
  have hc : checkAccess u.cur (.lane m.lane) m.ea m.w (m.ea % m.align == 0) (m.kind != 0) = none := by
    have hg : rangeBad u.cur (.lane m.lane) m.ea m.w = none := by unfold rangeBad; simp only [h0]
    have hw : ¬ (m.ea / 2 ^ 60 = 8 ∨ m.ea / 2 ^ 60 = 11) := by rw [h0]; decide
    simp only [checkAccess, h1, h2, hg, sttBad, if_neg hw, beq_self_eq_true, Bool.not_true, Bool.false_eq_true, if_false]
  have hi : u.inDomain (bitsNat m.ea 59 54) = true := by rw [h3, State.inDomain, hd]; exact h4
  have hr : u.reach (bitsNat m.ea 59 54) = .own := by rw [State.reach, if_pos (h3.trans ho.symm)]
  obtain ⟨x, xs, hx⟩ := List.exists_cons_of_ne_nil h6
  unfold State.locateLane
  rw [hc]
  simp only [h0, if_true]
  unfold State.globalLane
  simp only [hi, hr, hx, hn, List.map_cons, List.findSome?_cons, List.all_cons, Option.isSome_none, Option.bind_none, Bool.false_and,
    Bool.and_false, Bool.not_true, Bool.false_eq_true, if_false]
  have hf : ∀ wr, List.findSome? (fun x => x.bind (fun y => sectorFault y pkr wr)) (xs.map (fun _ => (none : Option Sector))) = none := by
    intro wr
    rw [List.findSome?_eq_none_iff]
    intro y hy
    obtain ⟨_, _, rfl⟩ := List.mem_map.1 hy
    rfl
  simp only [hf, ite_self]

theorem near_chip {s u : State} (h : s.near u) :
    u.cur.kspsize = s.cur.kspsize ∧ u.cur.sett = s.cur.sett ∧ u.chipBase u.cur = s.chipBase s.cur := by
  obtain ⟨e, -, -⟩ := h
  rw [e]
  exact ⟨rfl, rfl, rfl⟩

end Sys2Proof.Machine
end

