-- ==== Sys2Proof/Laws/Encoding.lean ====
section
/-!
SUPPORT. The fields of an encoded word: a field of a concatenation, and every field code read back.
-/

set_option Elab.async false

namespace Sys2Proof

/-- A field that lies in the upper part of a concatenation. -/
theorem extractLsb'_append_high {n m : Nat} (a : BitVec n) (b : BitVec m) (lo len : Nat) (h : m ≤ lo) :
    (a ++ b).extractLsb' lo len = a.extractLsb' (lo - m) len := by
  apply BitVec.eq_of_getLsbD_eq
  intro i hi
  simp only [BitVec.getLsbD_extractLsb', BitVec.getLsbD_append]
  rw [if_neg (by omega), show lo + i - m = lo - m + i by omega]

/-- A field that lies in the lower part of a concatenation. -/
theorem extractLsb'_append_low {n m : Nat} (a : BitVec n) (b : BitVec m) (lo len : Nat) (h : lo + len ≤ m) :
    (a ++ b).extractLsb' lo len = b.extractLsb' lo len := by
  apply BitVec.eq_of_getLsbD_eq
  intro i hi
  simp only [BitVec.getLsbD_extractLsb', BitVec.getLsbD_append]
  by_cases h1 : i < len
  · rw [if_pos (by omega)]
  · simp [h1]

theorem extractLsb'_whole {n : Nat} (a : BitVec n) : a.extractLsb' 0 n = a := by simp

theorem bit1_eq_one (b : Bool) : (bit1 b == (1 : BitVec 1)) = b := by cases b <;> rfl

theorem Cond.ofCode_toBits4 (k : Cond) : Cond.ofCode k.toBits4.toNat = some k := by cases k <;> rfl
theorem Ordering4.ofBits_toBits (x : Ordering4) : Ordering4.ofBits x.toBits = x := by cases x <;> rfl
theorem AtomOp.ofCode_toBits (x : AtomOp) : AtomOp.ofCode x.toBits.toNat = some x := by cases x <;> rfl
theorem LType.ofCode_toBits (t : LType) : LType.ofCode t.toBits.toNat = some t := by cases t <;> rfl
theorem LType.ofCode_code (t : LType) : LType.ofCode t.code = some t := by cases t <;> rfl
theorem Special.ofCode_toBits (x : Special) : Special.ofCode x.toBits.toNat = some x := by cases x <;> rfl
theorem Rnd.ofCode_toBits (x : Rnd) : Rnd.ofCode x.toBits.toNat = some x := by cases x <;> rfl
theorem Aop.ofCode_toBits (x : Aop) : Aop.ofCode x.toBits.toNat = some x := by cases x <;> rfl
theorem Cache.ofBits_toBits (x : Cache) : Cache.ofBits x.toBits = x := by cases x <;> rfl
theorem Scope.ofCode_toBits (x : Scope) : Scope.ofCode x.toBits.toNat = some x := by cases x <;> rfl
theorem KType.ofCode_toBits (x : KType) : KType.ofCode x.toBits.toNat = some x := by cases x <;> rfl
theorem KFmt.ofCode_toBits (x : KFmt) : KFmt.ofCode x.toBits.toNat = some x := by cases x <;> rfl
theorem XCond.ofCode_toBits (x : XCond) : XCond.ofCode x.toBits.toNat = some x := by cases x <;> rfl

/-- GUARD reads back (R111). -/
theorem Guard.ofBits_toBits (g : Guard) : Guard.ofBits g.toBits = g := by
  obtain ⟨n, p⟩ := g
  have h : (bit1 n ++ p).extractLsb' 3 1 = bit1 n := by rw [extractLsb'_append_high _ _ _ _ (by omega), extractLsb'_whole]
  have h' : (bit1 n ++ p).extractLsb' 0 3 = p := by rw [extractLsb'_append_low _ _ _ _ (by omega), extractLsb'_whole]
  simp only [Guard.ofBits, Guard.toBits, h, h', bit1_eq_one]

/-- Every operand reads back from its 12 bits (R111). -/
theorem Operand.ofBits_toBits (o : Operand) : Operand.ofBits o.toBits = some o := by
  cases o with
  | v i | w i | q i | imm i =>
    simp only [Operand.ofBits, Operand.toBits, extractLsb'_append_high, extractLsb'_append_low, Nat.le_refl, extractLsb'_whole]
    rfl
  | m n j =>
    have h1 : ((3#3 ++ n) ++ j).extractLsb' 9 3 = 3#3 := by
      rw [extractLsb'_append_high _ _ _ _ (by omega), extractLsb'_append_high _ _ _ _ (by omega), extractLsb'_whole]
    have h2 : ((3#3 ++ n) ++ j).extractLsb' 7 2 = n := by
      rw [extractLsb'_append_high _ _ _ _ (by omega), extractLsb'_append_low _ _ _ _ (by omega), extractLsb'_whole]
    have h3 : ((3#3 ++ n) ++ j).extractLsb' 0 7 = j := by rw [extractLsb'_append_low _ _ _ _ (by omega), extractLsb'_whole]
    simp only [Operand.ofBits, Operand.toBits, h1, h2, h3]
    rfl
  | s i =>
    have h1 : ((4#3 ++ 0#3) ++ i).extractLsb' 9 3 = 4#3 := by
      rw [extractLsb'_append_high _ _ _ _ (by omega), extractLsb'_append_high _ _ _ _ (by omega), extractLsb'_whole]
    have h2 : ((4#3 ++ 0#3) ++ i).extractLsb' 0 6 = i := by rw [extractLsb'_append_low _ _ _ _ (by omega), extractLsb'_whole]
    have h3 : (((4#3 ++ 0#3) ++ i).extractLsb' 0 9).toNat < 64 := by
      have : ((4#3 ++ 0#3) ++ i).toNat = 2048 + i.toNat := by
        have := i.isLt
        simp only [BitVec.toNat_append, BitVec.toNat_ofNat, Nat.shiftLeft_eq]
        rw [Nat.mul_comm, ← Nat.two_pow_add_eq_or_of_lt i.isLt]
        simp
      rw [BitVec.extractLsb'_toNat, this]
      have := i.isLt
      omega
    simp only [Operand.ofBits, Operand.toBits, h1, h2]
    show (if _ then _ else _) = _
    rw [if_pos h3]
  | special x => cases x <;> rfl
  | none => rfl

/-! ### The layouts of AUX (R115) -/

theorem AuxA.ofBits_toBits (x : AuxA) : AuxA.ofBits x.toBits = some x := by
  obtain ⟨i, st, sat, satf, r⟩ := x
  simp (disch := omega) only [AuxA.ofBits, AuxA.toBits, extractLsb'_append_high, extractLsb'_append_low, Nat.sub_self, Nat.reduceSub,
    extractLsb'_whole, Rnd.ofCode_toBits, bit1_eq_one]
  rfl

theorem AuxC.ofBits_toBits (x : AuxC) : AuxC.ofBits x.toBits = some x := by
  obtain ⟨pfn, pb, pa, pd, k⟩ := x
  simp (disch := omega) only [AuxC.ofBits, AuxC.toBits, extractLsb'_append_high, extractLsb'_append_low, Nat.sub_self, Nat.reduceSub,
    extractLsb'_whole, Cond.ofCode_toBits4]
  rfl

/-- Layout M reads back where NARROW is no reserved value (R115). -/
theorem AuxM.ofBits_toBits (x : AuxM) (h : x.narrow ≠ 3) : AuxM.ofBits x.toBits = some x := by
  obtain ⟨n, a, c, o, sc, off⟩ := x
  simp (disch := omega) only [AuxM.ofBits, AuxM.toBits, extractLsb'_append_high, extractLsb'_append_low, Nat.sub_self, Nat.reduceSub,
    extractLsb'_whole, Aop.ofCode_toBits, Scope.ofCode_toBits, Cache.ofBits_toBits, Ordering4.ofBits_toBits]
  have h : (n != (3 : BitVec 2)) = true := by simpa using h
  simp only [h]
  rfl

theorem AuxX.ofBits_toBits (x : AuxX) : AuxX.ofBits x.toBits = some x := by
  obtain ⟨pa, i, xop⟩ := x
  simp (disch := omega) only [AuxX.ofBits, AuxX.toBits, extractLsb'_append_high, extractLsb'_append_low, Nat.sub_self, Nat.reduceSub,
    extractLsb'_whole]
  rfl

theorem AuxB.ofBits_toBits (x : AuxB) : AuxB.ofBits x.toBits = some x := by
  obtain ⟨p, i⟩ := x
  simp (disch := omega) only [AuxB.ofBits, AuxB.toBits, extractLsb'_append_high, extractLsb'_append_low, Nat.sub_self, Nat.reduceSub,
    extractLsb'_whole, bit1_eq_one]
  rfl

/-! ### The fields of a lane word (R111) -/

/-- The fields of a word in the form with four operands. -/
theorem encLane_fields (op : BitVec 10) (h : LaneHead) (aux : BitVec 28) :
    (encLane op h aux).extractLsb' 86 10 = op ∧ (encLane op h aux).extractLsb' 80 6 = h.ty.toBits
      ∧ (encLane op h aux).extractLsb' 76 4 = h.g.toBits ∧ (encLane op h aux).extractLsb' 64 12 = h.d.toBits
      ∧ (encLane op h aux).extractLsb' 52 12 = h.a.toBits ∧ (encLane op h aux).extractLsb' 40 12 = h.b.toBits
      ∧ (encLane op h aux).extractLsb' 28 12 = h.c.toBits ∧ (encLane op h aux).extractLsb' 0 28 = aux := by
  simp (disch := omega) only [encLane, extractLsb'_append_high, extractLsb'_append_low, Nat.sub_self, Nat.reduceSub, extractLsb'_whole,
    and_self]

/-- The fields of a word in the long form. -/
theorem encLong_fields (op : BitVec 10) (t : LType) (g : Guard) (d : Operand) (imm : BitVec 32) (aux : BitVec 28) :
    (encLong op t g d imm aux).extractLsb' 86 10 = op ∧ (encLong op t g d imm aux).extractLsb' 80 6 = t.toBits
      ∧ (encLong op t g d imm aux).extractLsb' 76 4 = g.toBits ∧ (encLong op t g d imm aux).extractLsb' 64 12 = d.toBits
      ∧ (encLong op t g d imm aux).extractLsb' 32 32 = imm ∧ (encLong op t g d imm aux).extractLsb' 28 4 = 0#4
      ∧ (encLong op t g d imm aux).extractLsb' 0 28 = aux := by
  simp (disch := omega) only [encLong, extractLsb'_append_high, extractLsb'_append_low, Nat.sub_self, Nat.reduceSub, extractLsb'_whole,
    and_self]

end Sys2Proof
end

