-- ==== Sys2Proof/Laws/Lane.lean ====
section
/-!
SUPPORT. What a lane word that works in each lane on its own registers leaves (`State.laneEach`), where no lane holds a
register error.
-/

set_option Elab.async false

namespace Sys2Proof.Machine

theorem nth_setNth {α : Type} (d y : α) : ∀ (xs : List α) (k j : Nat), k < xs.length →
    nth d (setNth xs k y) j = if j = k then y else nth d xs j
  | _ :: _, 0, 0, _ => by simp [setNth, nth]
  | _ :: _, 0, j + 1, _ => by simp [setNth, nth]
  | _ :: _, k + 1, 0, _ => by simp [setNth, nth]
  | _ :: xs, k + 1, j + 1, h => by simp [setNth, nth, nth_setNth d y xs k j (by simpa using h)]

theorem length_setNth {α : Type} (y : α) : ∀ (xs : List α) (k : Nat), (setNth xs k y).length = xs.length
  | [], _ => rfl
  | _ :: _, 0 => rfl
  | _ :: xs, k + 1 => by simp [setNth, length_setNth y xs k]

theorem Team.lane_setLane (t : Team) (k l : Nat) (f : Lane → Lane) (h : k < t.lanes.length) :
    (t.setLane k f).lane l = if l = k then f (t.lane k) else t.lane l := nth_setNth _ _ _ _ _ h

/-- R75, R77: results written in sweep order, each from what its lane read before any was written. -/
theorem applyLanes_spec (e : LaneEnv) (eff : LaneEff) : ∀ (act : List Nat) (t : Team) (c : Bool) (fl : Flags5),
    (∀ l ∈ act, l < t.lanes.length) →
    (∀ l, (applyLanes e eff act t c fl).1.lane l = if l ∈ act then (eff e l).1 else t.lane l)
      ∧ (∃ ls, (applyLanes e eff act t c fl).1 = { t with lanes := ls })
      ∧ (applyLanes e eff act t c fl).2.2 = act.foldl (fun (acc : Flags5) l => acc ||| (eff e l).2) fl
  | [], t, c, fl, _ => ⟨fun l => by simp [applyLanes], ⟨t.lanes, rfl⟩, rfl⟩
  | k :: ks, t, c, fl, h => by
    have hk : k < t.lanes.length := h k (by simp)
    have hks : ∀ l ∈ ks, l < (t.setLane k (fun _ => (eff e k).1)).lanes.length := fun l hl => by
      simpa [Team.setLane, length_setNth] using h l (by simp [hl])
    obtain ⟨h1, ⟨ls, h2⟩, h3⟩ := applyLanes_spec e eff ks (t.setLane k (fun _ => (eff e k).1))
      (c || (eff e k).1.regs != (e.t.lane k).regs || (eff e k).1.preds != (e.t.lane k).preds) (fl ||| (eff e k).2) hks
    refine ⟨fun l => ?_, ⟨ls, h2⟩, h3⟩
    have := h1 l
    rw [Team.lane_setLane _ _ _ _ hk] at this
    simp only [applyLanes, List.mem_cons]
    rw [this]
    by_cases hl : l ∈ ks
    · simp [hl]
    · by_cases hlk : l = k
      · subst hlk; simp
      · simp [hl, hlk]

theorem Team.path?_setPath (t : Team) (i k : Nat) (f : Path → Path) (hf : ∀ p : Path, (f p).idx = p.idx) :
    (t.setPath i f).path? k = (t.path? k).map (fun p => if p.idx == i then f p else p) := by
  have key : ∀ ps : List Path, (ps.map (fun p => if p.idx == i then f p else p)).find? (fun p => p.idx == k)
      = (ps.find? (fun p => p.idx == k)).map (fun p => if p.idx == i then f p else p) := fun ps => by
    induction ps with
    | nil => rfl
    | cons p ps ih =>
      have : ((if p.idx == i then f p else p).idx == k) = (p.idx == k) := by split <;> simp [hf]
      simp only [List.map_cons, List.find?_cons, this]
      cases p.idx == k
      · exact ih
      · rfl
  exact key t.paths

theorem Lane.clean_error (x : Lane) (h : x.clean) (i : Instr) (ws : List Nat) : x.error i ws = none := by
  simp [Lane.error, Lane.wordError, h.2.2.1, h.1]

theorem State.correct_clean (s : State) (h : ∀ l, (s.cur.lane l).clean) (i : Instr) (ws : List Nat) :
    ∀ ls, s.correct i ws ls = s
  | [] => rfl
  | l :: ls => by
    have h1 : s.correctLane l ws = s := by simp [State.correctLane, (h l).2.1, sortNat]
    have h2 : s.correctPreds l = s := by simp [State.correctPreds, (h l).2.2.2]
    simp only [State.correct, h1, h2, ite_self]
    exact State.correct_clean s h i ws ls

theorem Team.current_path? {t : Team} {p : Path} (h : t.current = some p) : t.path? p.idx = some p := by
  unfold Team.current at h
  cases hc : t.curPath with
  | none => simp [hc] at h
  | some k =>
    simp only [hc, Option.bind_some] at h
    have : p.idx = k := by
      have := List.find?_some h
      simpa using this
    rw [this]; exact h

/-- No reply that has returned brings faults: an instruction boundary takes those of the word alone (R337). -/
theorem State.boundary_quiet (s : State) (h : ∀ r ∈ s.reqs, r.back = false) (inHandler : Bool) : s.boundary inHandler [] = s := by
  have : s.reqs.filter (fun r => r.uid == s.cur.uid && r.back && r.current s.cur) = [] := by
    rw [List.filter_eq_nil_iff]
    intro r hr
    simp [h r hr]
  simp [State.boundary, State.lateFaults, this]

theorem State.finishWord_quiet (s : State) (r : LaneRun) (c : Bool) (h : ∀ q ∈ s.reqs, q.back = false) :
    s.finishWord r c [] = { s with cur := s.cur.setPath r.p.idx (fun p => p.past (p.passCount r.act) c) } :=
  State.boundary_quiet { s with cur := s.cur.setPath r.p.idx (fun p => p.past (p.passCount r.act) c) } h _

/-- A word that starts with slots for all its passes issues them all (R87). -/
theorem LaneReady.whole {s : State} {i : Instr} {p : Path} {b : Block} (h : LaneReady s i p b) (e : LaneEnv) (act : List Nat) :
    (LaneRun.mk i p b e act).whole = true ∧ (LaneRun.mk i p b e act).part = act := by
  have hw : (LaneRun.mk i p b e act).whole = true := by
    have := h.turn
    simp only [LaneRun.whole, LaneRun.left, Path.passCount, decide_eq_true_eq, h.start.1]
    split <;> omega
  exact ⟨hw, by simp [LaneRun.part, hw, h.start.1]⟩

theorem State.laneEach_spec (s : State) (i : Instr) (p : Path) (b : Block) (cls n : Nat) (eff : LaneEff) (ok : Team → Bool)
    (h : LaneReady s i p b) (hok : ok s.cur = true) :
    Swept s (s.laneParts i ok (fun r s => s.laneEach r cls n eff)) p (s.lanesOn p i) (eff (s.env b p)) := by
  have hcur := Team.current_path? h.path
  have he : ∀ l ws, (s.cur.lane l).error i ws = none := fun l ws => Lane.clean_error _ (h.clean l) _ _
  obtain ⟨h1, ⟨ls, h2⟩, h3⟩ := applyLanes_spec (s.env b p) eff (s.lanesOn p i) s.cur false 0 h.lanes
  obtain ⟨hw, hpart⟩ := h.whole (s.env b p) (s.lanesOn p i)
  have hz : ∀ y : Flags5, y ||| (0 : Flags5) = y := fun y => by simp
  have hrun : s.laneParts i ok (fun r s => s.laneEach r cls n eff)
      = State.countCur (State.finishWord { s with cur := Team.orFlags (applyLanes (s.env b p) eff (s.lanesOn p i) s.cur false 0).1 (applyLanes (s.env b p) eff (s.lanesOn p i) s.cur false 0).2.2 } ⟨i, p, b, s.env b p, s.lanesOn p i⟩
          (applyLanes (s.env b p) eff (s.lanesOn p i) s.cur false 0).2.1 []) cls (n * (s.lanesOn p i).length) := by
    show (match s.cur.current, s.cur.block with | some p, some b => _ | _, _ => _) = _
    rw [h.path, h.block]
    simp only [h.indices, hok, h.free, Bool.and_self, Bool.not_true, Bool.false_eq_true, if_false]
    show State.laneEach s ⟨i, p, b, s.env b p, s.lanesOn p i⟩ cls n eff = _
    unfold State.laneEach
    simp only [hw, hpart, he, State.correct_clean s h.clean, Option.isNone_none, List.filter_true, if_true, h.start.2.2.2.1, LaneRun.earlier,
      h.start.2.1, Option.map_none, List.map_nil, List.nil_append, hz]
    have : (s.lanesOn p i).filterMap (fun _ => (none : Option LaneFault)) = [] := by simp
    rw [this]
    rfl
  have hpast : ∀ (c : Bool) (q : Path), (q.past (q.passCount (s.lanesOn p i)) c).idx = q.idx := fun _ _ => rfl
  have hcc : ∀ (x : State) c m, (x.countCur c m).cur = x.cur := fun x c m => by
    unfold State.countCur; split <;> rfl
  have hq (u : Team) (r : LaneRun) (c : Bool) : State.finishWord { s with cur := u } r c []
      = { s with cur := u.setPath r.p.idx (fun p => p.past (p.passCount r.act) c) } := State.finishWord_quiet { s with cur := u } r c h.quiet
  rw [hrun, hq]
  generalize hA : applyLanes (s.env b p) eff (s.lanesOn p i) s.cur false 0 = A at *
  have hfold : ∀ (xs : List Nat) (a : Flags5), xs.foldl (fun (acc : Flags5) l => acc ||| (eff (s.env b p) l).2) a
      = a ||| xs.foldl (fun (acc : Flags5) l => acc ||| (eff (s.env b p) l).2) 0 := fun xs => by
    induction xs with
    | nil => simp
    | cons x xs ih => intro a; simp only [List.foldl_cons]; rw [ih, ih (0 ||| _)]; simp [BitVec.or_assoc]
  constructor
  · intro l; rw [hcc, ← h1 l]; rfl
  · rw [hcc, hfold, ← h3]; simp [Team.orFlags, Team.setPath, h2]
  · refine ⟨A.2.1, ?_⟩
    rw [hcc]
    rw [Team.path?_setPath _ _ _ _ (hpast _)]
    have hp : (A.1.orFlags A.2.2).path? p.idx = some p := by simp only [h2]; exact hcur
    rw [hp]; simp
  · intro k hk
    rw [hcc]
    rw [Team.path?_setPath _ _ _ _ (hpast _)]
    simp only [Team.orFlags, h2]
    show Option.map _ (s.cur.path? k) = s.cur.path? k
    cases hq : s.cur.path? k with
    | none => rfl
    | some q =>
      have : q.idx = k := by simpa using List.find?_some hq
      simp [this, hk]
  · rw [hcc]; simp [Team.orFlags, Team.setPath, h2]
  · refine ⟨cls, n * (s.lanesOn p i).length, ?_⟩
    rw [hcc]

end Sys2Proof.Machine
end

