-- ==== Sys2Proof/Laws/Links.lean ====
section
/-!
SUPPORT. Flits whose CRC is computed afresh (R380).
-/

set_option Elab.async false

namespace Sys2Proof.Machine

theorem length_bytesOf : ∀ n x : Nat, (bytesOf n x).length = n
  | 0, _ => rfl
  | n + 1, x => by simp [bytesOf, length_bytesOf n]

theorem natOf_bytesOf : ∀ n x : Nat, natOf (bytesOf n x) = x % 256 ^ n
  | 0, x => by simp [bytesOf, natOf, Nat.mod_one]
  | n + 1, x => by
    have h := natOf_bytesOf n (x / 256)
    simp only [bytesOf, natOf, h, BitVec.toNat_ofNat]
    rw [show 256 ^ (n + 1) = 256 * 256 ^ n from Nat.pow_succ', Nat.mod_mul]

/-- R380: a flit whose CRC is computed afresh is good, and its other fields stay. -/
theorem flitGood_sealFlit (c : List Byte) (h : c.length = 256) : flitGood (sealFlit c) = true := by
  have hl : (c.take 248).length = 248 := by simp [h]
  have ht : (sealFlit c).take 248 = c.take 248 := by rw [sealFlit, List.take_left' hl]
  have hd : ((sealFlit c).drop 248).take 8 = bytesOf 8 (crc64 (c.take 248)).toNat := by
    rw [sealFlit, List.drop_left' hl, List.take_of_length_le (by simp [bytesOf])]
  rw [flitGood, ht, fieldAt, hd, natOf_bytesOf]
  have : (sealFlit c).length = 256 := by simp [sealFlit, bytesOf, h]
  rw [this, Nat.mod_eq_of_lt (show _ < 256 ^ 8 from (crc64 (c.take 248)).isLt)]
  simp

theorem fieldAt_sealFlit (c : List Byte) (h : c.length = 256) (a n : Nat) (ha : a + n ≤ 248) : fieldAt (sealFlit c) a n = fieldAt c a n := by
  have hl : (c.take 248).length = 248 := by simp [h]
  unfold fieldAt sealFlit
  rw [List.drop_append_of_le_length (by omega), List.take_append_of_le_length (by simp; omega), List.drop_take, List.take_take]
  congr 2
  omega

end Sys2Proof.Machine
end

