-- ==== Sys2Proof/Laws/Memory.lean ====
section
/-!
SUPPORT. What byte storage does: reads after writes, and the canonical form that every memory operation keeps, so that
equal memories are equal data.
-/

set_option Elab.async false

namespace Sys2Proof.Machine

/-! ### The canonical form -/

/-- The keys of a memory lie above `a`. -/
def Memory.above (a : Nat) (m : Memory) : Prop := ∀ x ∈ m, a < x.1

theorem Memory.wf_cons (k : Nat) (b : Byte) (m : Memory) : Memory.wf ((k, b) :: m) = true ↔ b ≠ 0 ∧ Memory.above k m ∧ Memory.wf m = true := by
  induction m generalizing k b with
  | nil => simp [Memory.wf, Memory.above]
  | cons y m ih =>
    obtain ⟨k', b'⟩ := y
    have h : Memory.wf ((k, b) :: (k', b') :: m) = (decide (k < k') && b != 0 && Memory.wf ((k', b') :: m)) := rfl
    rw [h, Bool.and_eq_true, Bool.and_eq_true, decide_eq_true_eq, bne_iff_ne, ih]
    constructor
    · rintro ⟨⟨h1, h2⟩, h3, h4, h5⟩
      refine ⟨h2, ?_, h3, h4, h5⟩
      intro x hx
      rcases List.mem_cons.1 hx with rfl | hx
      · exact h1
      · exact Nat.lt_trans h1 (h4 x hx)
    · rintro ⟨h1, h2, h3⟩
      exact ⟨⟨h2 _ (List.mem_cons_self ..), h1⟩, h3⟩

/-- A key below every entry reads as zero. -/
theorem Memory.get_above {a : Nat} {m : Memory} (h : Memory.above a m) : Memory.get m a = 0 := by
  cases m with
  | nil => rfl
  | cons y m =>
    have := h y (List.mem_cons_self ..)
    simp [Memory.get, Nat.ne_of_lt this, this]

theorem Memory.above_mono {a b : Nat} {m : Memory} (hb : a ≤ b) (h : Memory.above b m) : Memory.above a m :=
  fun x hx => Nat.lt_of_le_of_lt hb (h x hx)

theorem Memory.above_set {k : Nat} {m : Memory} {a : Nat} (v : Byte) (ha : k < a) (h : Memory.above k m) :
    Memory.above k (Memory.set m a v) := by
  induction m with
  | nil =>
    intro x hx
    simp only [Memory.set] at hx
    split at hx
    · cases hx
    · rw [List.mem_singleton.1 hx]; exact ha
  | cons y m ih =>
    obtain ⟨k', b⟩ := y
    have hk : k < k' := h _ (List.mem_cons_self ..)
    have ht : Memory.above k m := fun x hx => h x (List.mem_cons_of_mem _ hx)
    intro x hx
    simp only [Memory.set] at hx
    split at hx
    · split at hx
      · exact h x hx
      · rcases List.mem_cons.1 hx with rfl | hx
        · exact ha
        · exact h x hx
    · split at hx
      · split at hx
        · exact ht x hx
        · rcases List.mem_cons.1 hx with rfl | hx
          · exact ha
          · exact ht x hx
      · rcases List.mem_cons.1 hx with rfl | hx
        · exact hk
        · exact ih ht x hx

theorem Memory.wf_set {m : Memory} (h : Memory.wf m = true) (a : Nat) (v : Byte) : Memory.wf (Memory.set m a v) = true := by
  induction m with
  | nil =>
    simp only [Memory.set]
    split
    · rfl
    · simpa [Memory.wf]
  | cons y m ih =>
    obtain ⟨k, b⟩ := y
    have h' := (Memory.wf_cons k b m).1 h
    simp only [Memory.set]
    split
    · split
      · exact h
      · refine (Memory.wf_cons ..).2 ⟨by assumption, ?_, h⟩
        intro x hx
        rcases List.mem_cons.1 hx with rfl | hx
        · assumption
        · exact Nat.lt_trans (by assumption) (h'.2.1 x hx)
    · split
      · subst_vars
        split
        · exact h'.2.2
        · exact (Memory.wf_cons ..).2 ⟨by assumption, h'.2.1, h'.2.2⟩
      · exact (Memory.wf_cons ..).2 ⟨h'.1, Memory.above_set v (by omega) h'.2.1, ih h'.2.2⟩

theorem Memory.wf_setBytes {m : Memory} (h : Memory.wf m = true) (a : Nat) (bs : List Byte) :
    Memory.wf (Memory.setBytes m a bs) = true := by
  induction bs generalizing m a with
  | nil => exact h
  | cons b bs ih => exact ih (Memory.wf_set h a b) (a + 1)

theorem Memory.wf_setNat {m : Memory} (h : Memory.wf m = true) (a n x : Nat) : Memory.wf (Memory.setNat m a n x) = true :=
  Memory.wf_setBytes h a _

theorem Memory.wf_filter {m : Memory} (h : Memory.wf m = true) (p : Host.Cell → Bool) : Memory.wf (List.filter p m) = true := by
  induction m with
  | nil => rfl
  | cons y m ih =>
    obtain ⟨k, b⟩ := y
    have h' := (Memory.wf_cons k b m).1 h
    rw [List.filter_cons]
    split
    · exact (Memory.wf_cons ..).2 ⟨h'.1, fun x hx => h'.2.1 x (List.mem_filter.1 hx).1, ih h'.2.2⟩
    · exact ih h'.2.2

theorem Memory.wf_clear {m : Memory} (h : Memory.wf m = true) (a n : Nat) : Memory.wf (Memory.clear m a n) = true :=
  Memory.wf_filter h _

theorem Memory.wf_slice {m : Memory} (h : Memory.wf m = true) (a n : Nat) : Memory.wf (Memory.slice m a n) = true :=
  Memory.wf_filter h _

theorem Memory.wf_putSlice {m : Memory} (h : Memory.wf m = true) (xs : Memory) (a b : Nat) :
    Memory.wf (Memory.putSlice m xs a b) = true := by
  induction xs generalizing m with
  | nil => exact h
  | cons y xs ih => exact ih (Memory.wf_set h _ _)

theorem Memory.wf_copy {m : Memory} (h : Memory.wf m = true) (a b n : Nat) : Memory.wf (Memory.copy m a b n) = true :=
  Memory.wf_putSlice (Memory.wf_clear h b n) _ a b

/-! ### Reads after writes -/

theorem Memory.get_cons_ne {k a : Nat} {b : Byte} {m : Memory} (h : Memory.above k m) (hk : a ≠ k) :
    Memory.get ((k, b) :: m) a = Memory.get m a := by
  by_cases hl : a < k
  · rw [Memory.get_above (Memory.above_mono (Nat.le_of_lt hl) h)]
    simp [Memory.get, hk, hl]
  · simp [Memory.get, hk, hl]

theorem Memory.get_set {m : Memory} (h : Memory.wf m = true) (a : Nat) (v : Byte) (c : Nat) :
    Memory.get (Memory.set m a v) c = if c = a then v else Memory.get m c := by
  induction m with
  | nil =>
    simp only [Memory.set]
    split
    · subst_vars; simp [Memory.get]
    · simp [Memory.get]
  | cons y m ih =>
    obtain ⟨k, b⟩ := y
    have h' := (Memory.wf_cons k b m).1 h
    simp only [Memory.set]
    split
    next hak =>
      have above : Memory.above a ((k, b) :: m) := by
        intro x hx
        rcases List.mem_cons.1 hx with rfl | hx
        · exact hak
        · exact Nat.lt_trans hak (h'.2.1 x hx)
      split
      · subst_vars
        by_cases hc : c = a
        · subst hc; simp [Memory.get_above above]
        · simp [hc]
      · by_cases hc : c = a
        · subst hc; simp [Memory.get]
        · rw [Memory.get_cons_ne above hc]; simp [hc]
    next hak =>
      split
      next hk =>
        subst hk
        split
        · subst_vars
          by_cases hc : c = a
          · subst hc; simp [Memory.get_above h'.2.1]
          · rw [Memory.get_cons_ne h'.2.1 hc]; simp [hc]
        · by_cases hc : c = a
          · subst hc; simp [Memory.get]
          · rw [Memory.get_cons_ne h'.2.1 hc, Memory.get_cons_ne h'.2.1 hc]; simp [hc]
      next hk =>
        have ha : k < a := by omega
        by_cases hc : c = k
        · subst hc; simp [Memory.get, Nat.ne_of_lt ha]
        · rw [Memory.get_cons_ne (Memory.above_set v ha h'.2.1) hc, ih h'.2.2, Memory.get_cons_ne h'.2.1 hc]

/-- A byte written reads back. -/
theorem Memory.get_set_same {m : Memory} (h : Memory.wf m = true) (a : Nat) (v : Byte) : Memory.get (Memory.set m a v) a = v := by
  rw [Memory.get_set h, if_pos rfl]

/-- A write leaves every other byte alone. -/
theorem Memory.get_set_other {m : Memory} (h : Memory.wf m = true) {a c : Nat} (v : Byte) (hc : c ≠ a) :
    Memory.get (Memory.set m a v) c = Memory.get m c := by
  rw [Memory.get_set h, if_neg hc]

/-- What bytes read as after a run of bytes is written. -/
theorem Memory.get_setBytes {m : Memory} (h : Memory.wf m = true) (a : Nat) (bs : List Byte) (c : Nat) :
    Memory.get (Memory.setBytes m a bs) c = if a ≤ c then (bs[c - a]?).getD (Memory.get m c) else Memory.get m c := by
  induction bs generalizing m a with
  | nil => simp [Memory.setBytes]
  | cons b bs ih =>
    rw [Memory.setBytes, ih (Memory.wf_set h a b), Memory.get_set h]
    by_cases h1 : c = a
    · subst h1; simp
    · by_cases h2 : a ≤ c
      · have : c - a = (c - (a + 1)) + 1 := by omega
        rw [if_neg h1, if_pos h2, if_pos (by omega), this, List.getElem?_cons_succ]
      · rw [if_neg h1, if_neg h2, if_neg (by omega)]

/-- A byte outside the written ones reads as before. -/
theorem Memory.get_setBytes_other {m : Memory} (h : Memory.wf m = true) {a c : Nat} {bs : List Byte} (hc : c < a ∨ a + bs.length ≤ c) :
    Memory.get (Memory.setBytes m a bs) c = Memory.get m c := by
  rw [Memory.get_setBytes h]
  split
  · rw [List.getElem?_eq_none (by omega)]; rfl
  · rfl

theorem Memory.length_getBytes (m : Memory) (a n : Nat) : (Memory.getBytes m a n).length = n := by
  induction n generalizing a with
  | zero => rfl
  | succ n ih => simp [Memory.getBytes, ih]

/-- The bytes of two memories that read alike there. -/
theorem Memory.getBytes_congr {m m' : Memory} {a n : Nat} (h : ∀ c, a ≤ c → c < a + n → Memory.get m c = Memory.get m' c) :
    Memory.getBytes m a n = Memory.getBytes m' a n := by
  induction n generalizing a with
  | zero => rfl
  | succ n ih =>
    rw [Memory.getBytes, Memory.getBytes, h a (by omega) (by omega), ih (fun c h1 h2 => h c (by omega) (by omega))]

/-- Bytes written read back. -/
theorem Memory.getBytes_setBytes {m : Memory} (h : Memory.wf m = true) (a : Nat) (bs : List Byte) :
    Memory.getBytes (Memory.setBytes m a bs) a bs.length = bs := by
  induction bs generalizing m a with
  | nil => rfl
  | cons b bs ih =>
    rw [List.length_cons, Memory.getBytes, Memory.setBytes, ih (Memory.wf_set h a b),
      Memory.get_setBytes_other (Memory.wf_set h a b) (Or.inl (by omega)), Memory.get_set_same h]

/-- What bytes read as after a stretch is cleared. -/
theorem Memory.get_clear {m : Memory} (h : Memory.wf m = true) (a n c : Nat) :
    Memory.get (Memory.clear m a n) c = if a ≤ c ∧ c < a + n then 0 else Memory.get m c := by
  induction m with
  | nil => simp [Memory.clear, Memory.get]
  | cons y m ih =>
    obtain ⟨k, b⟩ := y
    have h' := (Memory.wf_cons k b m).1 h
    have hb : Memory.above k (Memory.clear m a n) := fun x hx => h'.2.1 x (List.mem_filter.1 hx).1
    have e : Memory.clear ((k, b) :: m) a n
        = if (decide (k < a) || decide (a + n ≤ k)) = true then (k, b) :: Memory.clear m a n else Memory.clear m a n := by
      simp only [Memory.clear, List.filter_cons]
    rw [e]
    by_cases hk : c = k
    · subst hk
      split
      next hh =>
        have : ¬(a ≤ c ∧ c < a + n) := by simp at hh; omega
        rw [if_neg this]; simp [Memory.get]
      next hh =>
        have : a ≤ c ∧ c < a + n := by simp at hh; omega
        rw [if_pos this, Memory.get_above hb]
    · rw [Memory.get_cons_ne h'.2.1 hk, ← ih h'.2.2]
      split
      · rw [Memory.get_cons_ne hb hk]
      · rfl

/-- Two memories in canonical form that read alike everywhere are one. -/
theorem Memory.ext {m m' : Memory} (h : Memory.wf m = true) (h' : Memory.wf m' = true) (e : ∀ a, Memory.get m a = Memory.get m' a) :
    m = m' := by
  induction m generalizing m' with
  | nil =>
    cases m' with
    | nil => rfl
    | cons y m' =>
      obtain ⟨k, b⟩ := y
      have := e k
      simp [Memory.get] at this
      exact absurd this.symm ((Memory.wf_cons ..).1 h').1
  | cons y m ih =>
    obtain ⟨k, b⟩ := y
    have hm := (Memory.wf_cons ..).1 h
    cases m' with
    | nil =>
      have := e k
      simp [Memory.get] at this
      exact absurd this hm.1
    | cons y' m' =>
      obtain ⟨k', b'⟩ := y'
      have hm' := (Memory.wf_cons ..).1 h'
      have hk : k = k' := by
        rcases Nat.lt_trichotomy k k' with hl | hl | hl
        · have := e k
          simp [Memory.get, Nat.ne_of_lt hl, hl] at this
          exact absurd this hm.1
        · exact hl
        · have := e k'
          simp [Memory.get, Nat.ne_of_lt hl, hl] at this
          exact absurd this.symm hm'.1
      subst hk
      have hb : b = b' := by simpa [Memory.get] using e k
      subst hb
      congr 1
      refine ih hm.2.2 hm'.2.2 (fun a => ?_)
      by_cases ha : a = k
      · subst ha; rw [Memory.get_above hm.2.1, Memory.get_above hm'.2.1]
      · rw [← Memory.get_cons_ne (b := b) hm.2.1 ha, e a, Memory.get_cons_ne hm'.2.1 ha]

end Sys2Proof.Machine
end

