-- ==== Sys2Proof/Laws/PerInstr.lean ====
section
/-!
SUPPORT. What holds of every instruction as syntax, one lemma per constructor.
-/

set_option Elab.async false

namespace Sys2Proof

/-- The commands of the host command ring (R439). -/
def Laws.isHostCommand : Instr → Bool
  | .ctxCreate | .ctxDestroy | .bind | .pagetable | .poolAdd | .queue | .handlers | .eventq | .complq | .stop | .restore | .timetable | .sumacLoad | .sumacUnload | .collective | .abort | .grandmaster | .grant | .snapshot | .statement | .quote | .watchdog | .harea => true
  | _ => false

/-- Every row of the table comes from exactly one place: a scalar word, a lane word, a Sumac word, the host command ring,
the entry of a handler, or a step that the device or its surroundings take. -/
def Laws.OneSource.Statement (i : Instr) : Prop :=
  b2n (encodeScalar i).isSome + b2n (encodeLane i).isSome + b2n (encodeSumac i).isSome + b2n (Laws.isHostCommand i)
    + b2n (Machine.isEvent i) + b2n (decide (i = .handlerEntry)) = 1

theorem Laws.OneSource.sadd (d a b : Reg) : Laws.OneSource.Statement (.sadd d a b) := by rfl
theorem Laws.OneSource.ssub (d a b : Reg) : Laws.OneSource.Statement (.ssub d a b) := by rfl
theorem Laws.OneSource.smul (d a b : Reg) : Laws.OneSource.Statement (.smul d a b) := by rfl
theorem Laws.OneSource.smulh (d a b : Reg) : Laws.OneSource.Statement (.smulh d a b) := by rfl
theorem Laws.OneSource.smulhn (d a b : Reg) : Laws.OneSource.Statement (.smulhn d a b) := by rfl
theorem Laws.OneSource.sdiv (d a b : Reg) : Laws.OneSource.Statement (.sdiv d a b) := by rfl
theorem Laws.OneSource.sdivn (d a b : Reg) : Laws.OneSource.Statement (.sdivn d a b) := by rfl
theorem Laws.OneSource.srem (d a b : Reg) : Laws.OneSource.Statement (.srem d a b) := by rfl
theorem Laws.OneSource.sremn (d a b : Reg) : Laws.OneSource.Statement (.sremn d a b) := by rfl
theorem Laws.OneSource.sand (d a b : Reg) : Laws.OneSource.Statement (.sand d a b) := by rfl
theorem Laws.OneSource.sor (d a b : Reg) : Laws.OneSource.Statement (.sor d a b) := by rfl
theorem Laws.OneSource.sxor (d a b : Reg) : Laws.OneSource.Statement (.sxor d a b) := by rfl
theorem Laws.OneSource.sshl (d a b : Reg) : Laws.OneSource.Statement (.sshl d a b) := by rfl
theorem Laws.OneSource.sshr (d a b : Reg) : Laws.OneSource.Statement (.sshr d a b) := by rfl
theorem Laws.OneSource.ssra (d a b : Reg) : Laws.OneSource.Statement (.ssra d a b) := by rfl
theorem Laws.OneSource.smin (d a b : Reg) : Laws.OneSource.Statement (.smin d a b) := by rfl
theorem Laws.OneSource.smax (d a b : Reg) : Laws.OneSource.Statement (.smax d a b) := by rfl
theorem Laws.OneSource.sminn (d a b : Reg) : Laws.OneSource.Statement (.sminn d a b) := by rfl
theorem Laws.OneSource.smaxn (d a b : Reg) : Laws.OneSource.Statement (.smaxn d a b) := by rfl
theorem Laws.OneSource.scmp (k : Cond) (c : Bit3) (a b : Reg) : Laws.OneSource.Statement (.scmp k c a b) := by rfl
theorem Laws.OneSource.ssel (d a b : Reg) (c : Bit3) : Laws.OneSource.Statement (.ssel d a b c) := by rfl
theorem Laws.OneSource.sclz (d a : Reg) : Laws.OneSource.Statement (.sclz d a) := by rfl
theorem Laws.OneSource.spopc (d a : Reg) : Laws.OneSource.Statement (.spopc d a) := by rfl
theorem Laws.OneSource.saddi (d a : Reg) (i : BitVec 13) : Laws.OneSource.Statement (.saddi d a i) := by rfl
theorem Laws.OneSource.sandi (d a : Reg) (i : BitVec 13) : Laws.OneSource.Statement (.sandi d a i) := by rfl
theorem Laws.OneSource.sori (d a : Reg) (i : BitVec 13) : Laws.OneSource.Statement (.sori d a i) := by rfl
theorem Laws.OneSource.sxori (d a : Reg) (i : BitVec 13) : Laws.OneSource.Statement (.sxori d a i) := by rfl
theorem Laws.OneSource.sshli (d a : Reg) (n : BitVec 6) : Laws.OneSource.Statement (.sshli d a n) := by rfl
theorem Laws.OneSource.sshri (d a : Reg) (n : BitVec 6) : Laws.OneSource.Statement (.sshri d a n) := by rfl
theorem Laws.OneSource.ssrai (d a : Reg) (n : BitVec 6) : Laws.OneSource.Statement (.ssrai d a n) := by rfl
theorem Laws.OneSource.scmpi (k : Cond) (c : Bit3) (a : Reg) (i : BitVec 13) : Laws.OneSource.Statement (.scmpi k c a i) := by rfl
theorem Laws.OneSource.sli (d : Reg) (i : BitVec 19) : Laws.OneSource.Statement (.sli d i) := by rfl
theorem Laws.OneSource.sext (i : BitVec 25) : Laws.OneSource.Statement (.sext i) := by rfl
theorem Laws.OneSource.sbr (c : Bit3) (neg : Bool) (o : BitVec 21) : Laws.OneSource.Statement (.sbr c neg o) := by rfl
theorem Laws.OneSource.sjmp (o : BitVec 21) : Laws.OneSource.Statement (.sjmp o) := by rfl
theorem Laws.OneSource.scall (o : BitVec 21) : Laws.OneSource.Statement (.scall o) := by rfl
theorem Laws.OneSource.sret (a : Reg) : Laws.OneSource.Statement (.sret a) := by rfl
theorem Laws.OneSource.sjmpr (d a : Reg) : Laws.OneSource.Statement (.sjmpr d a) := by rfl
theorem Laws.OneSource.sloop (l : BitVec 2) (c : Reg) (o : BitVec 17) : Laws.OneSource.Statement (.sloop l c o) := by rfl
theorem Laws.OneSource.sldw (d a : Reg) (i : BitVec 13) : Laws.OneSource.Statement (.sldw d a i) := by rfl
theorem Laws.OneSource.sldd (d a : Reg) (i : BitVec 13) : Laws.OneSource.Statement (.sldd d a i) := by rfl
theorem Laws.OneSource.sstw (d a : Reg) (i : BitVec 13) : Laws.OneSource.Statement (.sstw d a i) := by rfl
theorem Laws.OneSource.sstd (d a : Reg) (i : BitVec 13) : Laws.OneSource.Statement (.sstd d a i) := by rfl
theorem Laws.OneSource.satom (d a b : Reg) (ord : Ordering4) (word : Bool) (op : AtomOp) : Laws.OneSource.Statement (.satom d a b ord word op) := by rfl
theorem Laws.OneSource.lgo (i : BitVec 19) : Laws.OneSource.Statement (.lgo i) := by rfl
theorem Laws.OneSource.srd (d : Reg) (n : BitVec 12) : Laws.OneSource.Statement (.srd d n) := by rfl
theorem Laws.OneSource.swr (a : Reg) (n : BitVec 12) : Laws.OneSource.Statement (.swr a n) := by rfl
theorem Laws.OneSource.trap (n : BitVec 16) : Laws.OneSource.Statement (.trap n) := by rfl
theorem Laws.OneSource.waitt (a : Reg) : Laws.OneSource.Statement (.waitt a) := by rfl
theorem Laws.OneSource.chdef (a b : Reg) (l : BitVec 4) (h : BitVec 5) : Laws.OneSource.Statement (.chdef a b l h) := by rfl
theorem Laws.OneSource.chadvP (a : Reg) (h : BitVec 5) : Laws.OneSource.Statement (.chadvP a h) := by rfl
theorem Laws.OneSource.chadvC (a : Reg) (h : BitVec 5) : Laws.OneSource.Statement (.chadvC a h) := by rfl
theorem Laws.OneSource.chwaitCnt (a : Reg) (h : BitVec 5) : Laws.OneSource.Statement (.chwaitCnt a h) := by rfl
theorem Laws.OneSource.chwaitRoom (a : Reg) (h : BitVec 5) : Laws.OneSource.Statement (.chwaitRoom a h) := by rfl
theorem Laws.OneSource.mvcopy (a : Reg) (dec : Bool) : Laws.OneSource.Statement (.mvcopy a dec) := by rfl
theorem Laws.OneSource.mvgath (a : Reg) : Laws.OneSource.Statement (.mvgath a) := by rfl
theorem Laws.OneSource.mvfill (a : Reg) : Laws.OneSource.Statement (.mvfill a) := by rfl
theorem Laws.OneSource.tmma (a : Reg) (bord aord zero : Bool) (hb ha : BitVec 5) : Laws.OneSource.Statement (.tmma a bord aord zero hb ha) := by rfl
theorem Laws.OneSource.taccZero (a : Reg) : Laws.OneSource.Statement (.taccZero a) := by rfl
theorem Laws.OneSource.taccLoad (a : Reg) (h : BitVec 5) : Laws.OneSource.Statement (.taccLoad a h) := by rfl
theorem Laws.OneSource.taccStore (a : Reg) (h : BitVec 5) : Laws.OneSource.Statement (.taccStore a h) := by rfl
theorem Laws.OneSource.taccStoreBf16 (a : Reg) (h : BitVec 5) : Laws.OneSource.Statement (.taccStoreBf16 a h) := by rfl
theorem Laws.OneSource.taccStoreE4m3 (a : Reg) (satf : Bool) (h : BitVec 5) : Laws.OneSource.Statement (.taccStoreE4m3 a satf h) := by rfl
theorem Laws.OneSource.twait (d : Reg) (w : WaitSel) : Laws.OneSource.Statement (.twait d w) := by rfl
theorem Laws.OneSource.spanopen (a : Reg) : Laws.OneSource.Statement (.spanopen a) := by rfl
theorem Laws.OneSource.spanmma (a : Reg) (keep zero : Bool) (ha hb : BitVec 5) : Laws.OneSource.Statement (.spanmma a keep zero ha hb) := by rfl
theorem Laws.OneSource.dfence (a b : Reg) : Laws.OneSource.Statement (.dfence a b) := by rfl
theorem Laws.OneSource.qpost (a : Reg) (arrive : Bool) : Laws.OneSource.Statement (.qpost a arrive) := by rfl
theorem Laws.OneSource.cntset (a b : Reg) : Laws.OneSource.Statement (.cntset a b) := by rfl
theorem Laws.OneSource.cntadd (a b : Reg) (arrive remote : Bool) : Laws.OneSource.Statement (.cntadd a b arrive remote) := by rfl
theorem Laws.OneSource.cntwait (a b : Reg) : Laws.OneSource.Statement (.cntwait a b) := by rfl
theorem Laws.OneSource.cntwaitNowait (a b : Reg) (c : Bit3) : Laws.OneSource.Statement (.cntwaitNowait a b c) := by rfl
theorem Laws.OneSource.barx (a : Reg) (sc : BarScope) : Laws.OneSource.Statement (.barx a sc) := by rfl
theorem Laws.OneSource.spmap (a b : Reg) (we : Bool) : Laws.OneSource.Statement (.spmap a b we) := by rfl
theorem Laws.OneSource.spunmap (a b : Reg) : Laws.OneSource.Statement (.spunmap a b) := by rfl
theorem Laws.OneSource.spmig (a : Reg) (c : Bit3) : Laws.OneSource.Statement (.spmig a c) := by rfl
theorem Laws.OneSource.tlaunch (a : Reg) : Laws.OneSource.Statement (.tlaunch a) := by rfl
theorem Laws.OneSource.phint (i : BitVec 19) : Laws.OneSource.Statement (.phint i) := by rfl
theorem Laws.OneSource.pgmap (a b : Reg) (x w r : Bool) (key : BitVec 5) (size : PageSize) : Laws.OneSource.Statement (.pgmap a b x w r key size) := by rfl
theorem Laws.OneSource.enres (a : Reg) : Laws.OneSource.Statement (.enres a) := by rfl
theorem Laws.OneSource.enresNowait (a : Reg) (c : Bit3) : Laws.OneSource.Statement (.enresNowait a c) := by rfl
theorem Laws.OneSource.fstatWrite (a : Reg) : Laws.OneSource.Statement (.fstatWrite a) := by rfl
theorem Laws.OneSource.fmodeWrite (a : Reg) : Laws.OneSource.Statement (.fmodeWrite a) := by rfl
theorem Laws.OneSource.srseedWrite (a : Reg) : Laws.OneSource.Statement (.srseedWrite a) := by rfl
theorem Laws.OneSource.pkrWrite (a : Reg) : Laws.OneSource.Statement (.pkrWrite a) := by rfl
theorem Laws.OneSource.loopRegisterWrite (a : Reg) (r : LoopReg) : Laws.OneSource.Statement (.loopRegisterWrite a r) := by rfl
theorem Laws.OneSource.vadd (h : LaneHead) (x : AuxA) : Laws.OneSource.Statement (.vadd h x) := by rfl
theorem Laws.OneSource.vsub (h : LaneHead) (x : AuxA) : Laws.OneSource.Statement (.vsub h x) := by rfl
theorem Laws.OneSource.vmul (h : LaneHead) (x : AuxA) : Laws.OneSource.Statement (.vmul h x) := by rfl
theorem Laws.OneSource.vmulh (h : LaneHead) : Laws.OneSource.Statement (.vmulh h) := by rfl
theorem Laws.OneSource.vmad (h : LaneHead) (x : AuxA) : Laws.OneSource.Statement (.vmad h x) := by rfl
theorem Laws.OneSource.vmin (h : LaneHead) : Laws.OneSource.Statement (.vmin h) := by rfl
theorem Laws.OneSource.vmax (h : LaneHead) : Laws.OneSource.Statement (.vmax h) := by rfl
theorem Laws.OneSource.vabs (h : LaneHead) (x : AuxA) : Laws.OneSource.Statement (.vabs h x) := by rfl
theorem Laws.OneSource.vneg (h : LaneHead) (x : AuxA) : Laws.OneSource.Statement (.vneg h x) := by rfl
theorem Laws.OneSource.vand (h : LaneHead) : Laws.OneSource.Statement (.vand h) := by rfl
theorem Laws.OneSource.vor (h : LaneHead) : Laws.OneSource.Statement (.vor h) := by rfl
theorem Laws.OneSource.vxor (h : LaneHead) : Laws.OneSource.Statement (.vxor h) := by rfl
theorem Laws.OneSource.vnot (h : LaneHead) : Laws.OneSource.Statement (.vnot h) := by rfl
theorem Laws.OneSource.vshl (h : LaneHead) : Laws.OneSource.Statement (.vshl h) := by rfl
theorem Laws.OneSource.vshr (h : LaneHead) : Laws.OneSource.Statement (.vshr h) := by rfl
theorem Laws.OneSource.vsra (h : LaneHead) : Laws.OneSource.Statement (.vsra h) := by rfl
theorem Laws.OneSource.vrol (h : LaneHead) : Laws.OneSource.Statement (.vrol h) := by rfl
theorem Laws.OneSource.vclz (h : LaneHead) : Laws.OneSource.Statement (.vclz h) := by rfl
theorem Laws.OneSource.vpopc (h : LaneHead) : Laws.OneSource.Statement (.vpopc h) := by rfl
theorem Laws.OneSource.vbfx (h : LaneHead) : Laws.OneSource.Statement (.vbfx h) := by rfl
theorem Laws.OneSource.vbfi (h : LaneHead) : Laws.OneSource.Statement (.vbfi h) := by rfl
theorem Laws.OneSource.vdot4 (h : LaneHead) (x : AuxA) : Laws.OneSource.Statement (.vdot4 h x) := by rfl
theorem Laws.OneSource.vcmp (h : LaneHead) (x : AuxC) : Laws.OneSource.Statement (.vcmp h x) := by rfl
theorem Laws.OneSource.vsel (h : LaneHead) (x : AuxC) : Laws.OneSource.Statement (.vsel h x) := by rfl
theorem Laws.OneSource.plop (h : LaneHead) (x : AuxC) : Laws.OneSource.Statement (.plop h x) := by rfl
theorem Laws.OneSource.vmov (h : LaneHead) : Laws.OneSource.Statement (.vmov h) := by rfl
theorem Laws.OneSource.vli (g : Guard) (t : LType) (d : Operand) (i : BitVec 32) : Laws.OneSource.Statement (.vli g t d i) := by rfl
theorem Laws.OneSource.vshfl (h : LaneHead) (x : AuxX) : Laws.OneSource.Statement (.vshfl h x) := by rfl
theorem Laws.OneSource.vbcast (h : LaneHead) (x : AuxX) : Laws.OneSource.Statement (.vbcast h x) := by rfl
theorem Laws.OneSource.vreduce (h : LaneHead) (x : AuxX) : Laws.OneSource.Statement (.vreduce h x) := by rfl
theorem Laws.OneSource.vscan (h : LaneHead) (x : AuxX) : Laws.OneSource.Statement (.vscan h x) := by rfl
theorem Laws.OneSource.vvote (h : LaneHead) (x : AuxX) : Laws.OneSource.Statement (.vvote h x) := by rfl
theorem Laws.OneSource.bra (g : Guard) (target : BitVec 32) (d : Operand) (x : AuxB) : Laws.OneSource.Statement (.bra g target d x) := by rfl
theorem Laws.OneSource.brx (h : LaneHead) (x : AuxB) : Laws.OneSource.Statement (.brx h x) := by rfl
theorem Laws.OneSource.skip (h : LaneHead) (x : AuxB) : Laws.OneSource.Statement (.skip h x) := by rfl
theorem Laws.OneSource.join (h : LaneHead) : Laws.OneSource.Statement (.join h) := by rfl
theorem Laws.OneSource.lend (h : LaneHead) : Laws.OneSource.Statement (.lend h) := by rfl
theorem Laws.OneSource.yieldl (h : LaneHead) : Laws.OneSource.Statement (.yieldl h) := by rfl
theorem Laws.OneSource.ltrap (h : LaneHead) (x : AuxB) : Laws.OneSource.Statement (.ltrap h x) := by rfl
theorem Laws.OneSource.vfadd (h : LaneHead) (x : AuxA) : Laws.OneSource.Statement (.vfadd h x) := by rfl
theorem Laws.OneSource.vfsub (h : LaneHead) (x : AuxA) : Laws.OneSource.Statement (.vfsub h x) := by rfl
theorem Laws.OneSource.vfmul (h : LaneHead) (x : AuxA) : Laws.OneSource.Statement (.vfmul h x) := by rfl
theorem Laws.OneSource.vfma (h : LaneHead) (x : AuxA) : Laws.OneSource.Statement (.vfma h x) := by rfl
theorem Laws.OneSource.vfmin (h : LaneHead) : Laws.OneSource.Statement (.vfmin h) := by rfl
theorem Laws.OneSource.vfmax (h : LaneHead) : Laws.OneSource.Statement (.vfmax h) := by rfl
theorem Laws.OneSource.vfdiv (h : LaneHead) (x : AuxA) : Laws.OneSource.Statement (.vfdiv h x) := by rfl
theorem Laws.OneSource.vfsqrt (h : LaneHead) (x : AuxA) : Laws.OneSource.Statement (.vfsqrt h x) := by rfl
theorem Laws.OneSource.vfrcp (h : LaneHead) : Laws.OneSource.Statement (.vfrcp h) := by rfl
theorem Laws.OneSource.vfrsq (h : LaneHead) : Laws.OneSource.Statement (.vfrsq h) := by rfl
theorem Laws.OneSource.vfexp2 (h : LaneHead) : Laws.OneSource.Statement (.vfexp2 h) := by rfl
theorem Laws.OneSource.vflog2 (h : LaneHead) : Laws.OneSource.Statement (.vflog2 h) := by rfl
theorem Laws.OneSource.vfsin (h : LaneHead) : Laws.OneSource.Statement (.vfsin h) := by rfl
theorem Laws.OneSource.vfcos (h : LaneHead) : Laws.OneSource.Statement (.vfcos h) := by rfl
theorem Laws.OneSource.vfclass (h : LaneHead) : Laws.OneSource.Statement (.vfclass h) := by rfl
theorem Laws.OneSource.vfrnd (h : LaneHead) (x : AuxA) : Laws.OneSource.Statement (.vfrnd h x) := by rfl
theorem Laws.OneSource.vfsgn (h : LaneHead) (x : AuxA) : Laws.OneSource.Statement (.vfsgn h x) := by rfl
theorem Laws.OneSource.vfexpo (h : LaneHead) : Laws.OneSource.Statement (.vfexpo h) := by rfl
theorem Laws.OneSource.vcvt (h : LaneHead) (x : AuxA) : Laws.OneSource.Statement (.vcvt h x) := by rfl
theorem Laws.OneSource.vpack (h : LaneHead) (x : AuxA) : Laws.OneSource.Statement (.vpack h x) := by rfl
theorem Laws.OneSource.vunpk (h : LaneHead) (x : AuxA) : Laws.OneSource.Statement (.vunpk h x) := by rfl
theorem Laws.OneSource.vld (h : LaneHead) (x : AuxM) : Laws.OneSource.Statement (.vld h x) := by rfl
theorem Laws.OneSource.vst (h : LaneHead) (x : AuxM) : Laws.OneSource.Statement (.vst h x) := by rfl
theorem Laws.OneSource.vatom (h : LaneHead) (x : AuxM) : Laws.OneSource.Statement (.vatom h x) := by rfl
theorem Laws.OneSource.vcas (h : LaneHead) (x : AuxM) : Laws.OneSource.Statement (.vcas h x) := by rfl
theorem Laws.OneSource.vpref (h : LaneHead) (x : AuxM) : Laws.OneSource.Statement (.vpref h x) := by rfl
theorem Laws.OneSource.fence (h : LaneHead) (x : AuxM) : Laws.OneSource.Statement (.fence h x) := by rfl
theorem Laws.OneSource.bar (h : LaneHead) (x : AuxX) : Laws.OneSource.Statement (.bar h x) := by rfl
theorem Laws.OneSource.fmma (h : LaneHead) : Laws.OneSource.Statement (.fmma h) := by rfl
theorem Laws.OneSource.fld (h : LaneHead) (x : AuxM) : Laws.OneSource.Statement (.fld h x) := by rfl
theorem Laws.OneSource.fst (h : LaneHead) (x : AuxM) : Laws.OneSource.Statement (.fst h x) := by rfl
theorem Laws.OneSource.watchdogFire (path : Nat) : Laws.OneSource.Statement (.watchdogFire path) := by rfl
theorem Laws.OneSource.lineArrival (frame line : Nat) : Laws.OneSource.Statement (.lineArrival frame line) := by rfl
theorem Laws.OneSource.globalRequest (r : ReqPart) : Laws.OneSource.Statement (.globalRequest r) := by rfl
theorem Laws.OneSource.globalReply (tag : Nat) (ext : List Answer) : Laws.OneSource.Statement (.globalReply tag ext) := by rfl
theorem Laws.OneSource.engineCommandFire (matrix : Bool) : Laws.OneSource.Statement (.engineCommandFire matrix) := by rfl
theorem Laws.OneSource.moverOperationComplete (op : Nat) (ext : List Answer) : Laws.OneSource.Statement (.moverOperationComplete op ext) := by rfl
theorem Laws.OneSource.matrixOperationComplete (op : Nat) : Laws.OneSource.Statement (.matrixOperationComplete op) := by rfl
theorem Laws.OneSource.spanRoundComplete (op : Nat) : Laws.OneSource.Statement (.spanRoundComplete op) := by rfl
theorem Laws.OneSource.cleEntryComplete (sett entry : Nat) (ext : List Answer) : Laws.OneSource.Statement (.cleEntryComplete sett entry ext) := by rfl
theorem Laws.OneSource.cleEntryFaulted (sett entry : Nat) : Laws.OneSource.Statement (.cleEntryFaulted sett entry) := by rfl
theorem Laws.OneSource.remoteCounterIncrement (sett : Nat) : Laws.OneSource.Statement (.remoteCounterIncrement sett) := by rfl
theorem Laws.OneSource.barxArrival (sett : Nat) : Laws.OneSource.Statement (.barxArrival sett) := by rfl
theorem Laws.OneSource.releaseFlagApply (sett : Nat) : Laws.OneSource.Statement (.releaseFlagApply sett) := by rfl
theorem Laws.OneSource.controlMessageReceived (sett : Nat) (m : CtlMsg) : Laws.OneSource.Statement (.controlMessageReceived sett m) := by rfl
theorem Laws.OneSource.faultEventPost (ctx : Nat) : Laws.OneSource.Statement (.faultEventPost ctx) := by rfl
theorem Laws.OneSource.faultCompletionEntry (ctx : Nat) : Laws.OneSource.Statement (.faultCompletionEntry ctx) := by rfl
theorem Laws.OneSource.stopCut (ctx : Nat) : Laws.OneSource.Statement (.stopCut ctx) := by rfl
theorem Laws.OneSource.save (ctx : Nat) : Laws.OneSource.Statement (.save ctx) := by rfl
theorem Laws.OneSource.userQueueDoorbell (site queue value : Nat) : Laws.OneSource.Statement (.userQueueDoorbell site queue value) := by rfl
theorem Laws.OneSource.packetStart (site : Nat) : Laws.OneSource.Statement (.packetStart site) := by rfl
theorem Laws.OneSource.gangPlacement (grid : Nat) : Laws.OneSource.Statement (.gangPlacement grid) := by rfl
theorem Laws.OneSource.gridComplete (grid : Nat) : Laws.OneSource.Statement (.gridComplete grid) := by rfl
theorem Laws.OneSource.tailChildStart (grid : Nat) : Laws.OneSource.Statement (.tailChildStart grid) := by rfl
theorem Laws.OneSource.hostMemoryAccess (site off : Nat) (acc : HostAccess) : Laws.OneSource.Statement (.hostMemoryAccess site off acc) := by rfl
theorem Laws.OneSource.hostRingDoorbell (site value : Nat) : Laws.OneSource.Statement (.hostRingDoorbell site value) := by rfl
theorem Laws.OneSource.energyCharge (sett : Nat) (bill : List Charge) : Laws.OneSource.Statement (.energyCharge sett bill) := by rfl
theorem Laws.OneSource.clusterPowerDown (sett cluster : Nat) : Laws.OneSource.Statement (.clusterPowerDown sett cluster) := by rfl
theorem Laws.OneSource.inrushTokenRelease (sett : Nat) : Laws.OneSource.Statement (.inrushTokenRelease sett) := by rfl
theorem Laws.OneSource.collectiveRunStart (group : Nat) : Laws.OneSource.Statement (.collectiveRunStart group) := by rfl
theorem Laws.OneSource.chunkCommit (group : Nat) : Laws.OneSource.Statement (.chunkCommit group) := by rfl
theorem Laws.OneSource.collectiveDeadlineExpiry (group : Nat) : Laws.OneSource.Statement (.collectiveDeadlineExpiry group) := by rfl
theorem Laws.OneSource.collectiveLossEnd (group : Nat) : Laws.OneSource.Statement (.collectiveLossEnd group) := by rfl
theorem Laws.OneSource.collectiveRecovery (group : Nat) : Laws.OneSource.Statement (.collectiveRecovery group) := by rfl
theorem Laws.OneSource.abortApply (group sett : Nat) : Laws.OneSource.Statement (.abortApply group sett) := by rfl
theorem Laws.OneSource.abortFinish (group : Nat) : Laws.OneSource.Statement (.abortFinish group) := by rfl
theorem Laws.OneSource.linkFlitReceived (link : Nat) (flit : List Byte) : Laws.OneSource.Statement (.linkFlitReceived link flit) := by rfl
theorem Laws.OneSource.linkDown (link : Nat) : Laws.OneSource.Statement (.linkDown link) := by rfl
theorem Laws.OneSource.linkLossOfLock (link : Nat) : Laws.OneSource.Statement (.linkLossOfLock link) := by rfl
theorem Laws.OneSource.retrainRequest (sett port rate mask : Nat) : Laws.OneSource.Statement (.retrainRequest sett port rate mask) := by rfl
theorem Laws.OneSource.retrainComplete (sett port rate mask fabric : Nat) : Laws.OneSource.Statement (.retrainComplete sett port rate mask fabric) := by rfl
theorem Laws.OneSource.deliveryTimeout (tag : Nat) : Laws.OneSource.Statement (.deliveryTimeout tag) := by rfl
theorem Laws.OneSource.controlMessageTimeout (sett : Nat) (m : CtlMsg) : Laws.OneSource.Statement (.controlMessageTimeout sett m) := by rfl
theorem Laws.OneSource.flitTraversal (chip port : Nat) (flit : List Byte) : Laws.OneSource.Statement (.flitTraversal chip port flit) := by rfl
theorem Laws.OneSource.voqTransmit (chip port : Nat) : Laws.OneSource.Statement (.voqTransmit chip port) := by rfl
theorem Laws.OneSource.circuitLit (pkg : Nat) : Laws.OneSource.Statement (.circuitLit pkg) := by rfl
theorem Laws.OneSource.slotUnloadTakesEffect (chip slot : Nat) : Laws.OneSource.Statement (.slotUnloadTakesEffect chip slot) := by rfl
theorem Laws.OneSource.ldp (d : BitVec 4) (w : BitVec 3) : Laws.OneSource.Statement (.ldp d w) := by rfl
theorem Laws.OneSource.ldpH (d : BitVec 4) (f w : BitVec 3) : Laws.OneSource.Statement (.ldpH d f w) := by rfl
theorem Laws.OneSource.stp (r : BitVec 4) (w : BitVec 3) : Laws.OneSource.Statement (.stp r w) := by rfl
theorem Laws.OneSource.ldf (d : BitVec 4) (f : BitVec 3) (n : BitVec 7) : Laws.OneSource.Statement (.ldf d f n) := by rfl
theorem Laws.OneSource.stf (r : BitVec 4) (f : BitVec 3) (n : BitVec 7) : Laws.OneSource.Statement (.stf r f n) := by rfl
theorem Laws.OneSource.ldh (d : BitVec 3) (f : BitVec 8) : Laws.OneSource.Statement (.ldh d f) := by rfl
theorem Laws.OneSource.xadd (d a b : BitVec 3) : Laws.OneSource.Statement (.xadd d a b) := by rfl
theorem Laws.OneSource.xaddImm (d a : BitVec 3) (i : BitVec 16) : Laws.OneSource.Statement (.xaddImm d a i) := by rfl
theorem Laws.OneSource.xsub (d a b : BitVec 3) : Laws.OneSource.Statement (.xsub d a b) := by rfl
theorem Laws.OneSource.xsubImm (d a : BitVec 3) (i : BitVec 16) : Laws.OneSource.Statement (.xsubImm d a i) := by rfl
theorem Laws.OneSource.xand (d a b : BitVec 3) : Laws.OneSource.Statement (.xand d a b) := by rfl
theorem Laws.OneSource.xandImm (d a : BitVec 3) (i : BitVec 16) : Laws.OneSource.Statement (.xandImm d a i) := by rfl
theorem Laws.OneSource.xli (d : BitVec 3) (u : Bool) (i : BitVec 16) : Laws.OneSource.Statement (.xli d u i) := by rfl
theorem Laws.OneSource.xcmp (k : XCond) (a b : BitVec 3) : Laws.OneSource.Statement (.xcmp k a b) := by rfl
theorem Laws.OneSource.xcmpImm (k : XCond) (a : BitVec 3) (i : BitVec 16) : Laws.OneSource.Statement (.xcmpImm k a i) := by rfl
theorem Laws.OneSource.brf (n : Bool) (o : BitVec 10) : Laws.OneSource.Statement (.brf n o) := by rfl
theorem Laws.OneSource.repeatN (c : BitVec 5) (l : BitVec 10) : Laws.OneSource.Statement (.repeatN c l) := by rfl
theorem Laws.OneSource.kadd (d a b : BitVec 4) (t : KType) : Laws.OneSource.Statement (.kadd d a b t) := by rfl
theorem Laws.OneSource.kmax (d a b : BitVec 4) (t : KType) : Laws.OneSource.Statement (.kmax d a b t) := by rfl
theorem Laws.OneSource.kmin (d a b : BitVec 4) (t : KType) : Laws.OneSource.Statement (.kmin d a b t) := by rfl
theorem Laws.OneSource.kcvt (d a : BitVec 4) (dt st : KFmt) (p : BitVec 2) : Laws.OneSource.Statement (.kcvt d a dt st p) := by rfl
theorem Laws.OneSource.fwdC (f : BitVec 3) : Laws.OneSource.Statement (.fwdC f) := by rfl
theorem Laws.OneSource.dropC (f : BitVec 3) : Laws.OneSource.Statement (.dropC f) := by rfl
theorem Laws.OneSource.emit (a : BitVec 3) : Laws.OneSource.Statement (.emit a) := by rfl
theorem Laws.OneSource.hold (f : BitVec 3) : Laws.OneSource.Statement (.hold f) := by rfl
theorem Laws.OneSource.ktrap (c : BitVec 16) : Laws.OneSource.Statement (.ktrap c) := by rfl
theorem Laws.OneSource.inboundUeOperation (arrival : UeArrival) : Laws.OneSource.Statement (.inboundUeOperation arrival) := by rfl
theorem Laws.OneSource.ueConnectionSetup (sett endpoint : Nat) (mode : UeMode) : Laws.OneSource.Statement (.ueConnectionSetup sett endpoint mode) := by rfl
theorem Laws.OneSource.ptpMessage (p : PtpMsg) : Laws.OneSource.Statement (.ptpMessage p) := by rfl
theorem Laws.OneSource.gtcskewRecompute (asymmetry : Nat) : Laws.OneSource.Statement (.gtcskewRecompute asymmetry) := by rfl
theorem Laws.OneSource.settReset (sett : Nat) (selfTest : List Defect) : Laws.OneSource.Statement (.settReset sett selfTest) := by rfl
theorem Laws.OneSource.registerWordCorrectionLimit (sett core column bank : Nat) : Laws.OneSource.Statement (.registerWordCorrectionLimit sett core column bank) := by rfl
theorem Laws.OneSource.seamLinkLockLoss (seam link : Nat) : Laws.OneSource.Statement (.seamLinkLockLoss seam link) := by rfl
theorem Laws.OneSource.ucieLinkUp (site lo hi : Nat) : Laws.OneSource.Statement (.ucieLinkUp site lo hi) := by rfl
theorem Laws.OneSource.registerWordError (lane : Nat) (word : Option Nat) (double : Bool) : Laws.OneSource.Statement (.registerWordError lane word double) := by rfl
theorem Laws.OneSource.powerOn (selfTest : List Defect) : Laws.OneSource.Statement (.powerOn selfTest) := by rfl
theorem Laws.OneSource.powerLoss (torn : List Nat) : Laws.OneSource.Statement (.powerLoss torn) := by rfl
theorem Laws.OneSource.sleave : Laws.OneSource.Statement (.sleave) := by rfl
theorem Laws.OneSource.shalt : Laws.OneSource.Statement (.shalt) := by rfl
theorem Laws.OneSource.lwait : Laws.OneSource.Statement (.lwait) := by rfl
theorem Laws.OneSource.tret : Laws.OneSource.Statement (.tret) := by rfl
theorem Laws.OneSource.tfence : Laws.OneSource.Statement (.tfence) := by rfl
theorem Laws.OneSource.tarrive : Laws.OneSource.Statement (.tarrive) := by rfl
theorem Laws.OneSource.spanclose : Laws.OneSource.Statement (.spanclose) := by rfl
theorem Laws.OneSource.sliceExpiry : Laws.OneSource.Statement (.sliceExpiry) := by rfl
theorem Laws.OneSource.spinDetectorFlag : Laws.OneSource.Statement (.spinDetectorFlag) := by rfl
theorem Laws.OneSource.spanRendezvous : Laws.OneSource.Statement (.spanRendezvous) := by rfl
theorem Laws.OneSource.spanRoundFire : Laws.OneSource.Statement (.spanRoundFire) := by rfl
theorem Laws.OneSource.handlerEntry : Laws.OneSource.Statement (.handlerEntry) := by rfl
theorem Laws.OneSource.ctxCreate : Laws.OneSource.Statement (.ctxCreate) := by rfl
theorem Laws.OneSource.ctxDestroy : Laws.OneSource.Statement (.ctxDestroy) := by rfl
theorem Laws.OneSource.bind : Laws.OneSource.Statement (.bind) := by rfl
theorem Laws.OneSource.pagetable : Laws.OneSource.Statement (.pagetable) := by rfl
theorem Laws.OneSource.poolAdd : Laws.OneSource.Statement (.poolAdd) := by rfl
theorem Laws.OneSource.queue : Laws.OneSource.Statement (.queue) := by rfl
theorem Laws.OneSource.handlers : Laws.OneSource.Statement (.handlers) := by rfl
theorem Laws.OneSource.eventq : Laws.OneSource.Statement (.eventq) := by rfl
theorem Laws.OneSource.complq : Laws.OneSource.Statement (.complq) := by rfl
theorem Laws.OneSource.stop : Laws.OneSource.Statement (.stop) := by rfl
theorem Laws.OneSource.restore : Laws.OneSource.Statement (.restore) := by rfl
theorem Laws.OneSource.timetable : Laws.OneSource.Statement (.timetable) := by rfl
theorem Laws.OneSource.sumacLoad : Laws.OneSource.Statement (.sumacLoad) := by rfl
theorem Laws.OneSource.sumacUnload : Laws.OneSource.Statement (.sumacUnload) := by rfl
theorem Laws.OneSource.collective : Laws.OneSource.Statement (.collective) := by rfl
theorem Laws.OneSource.abort : Laws.OneSource.Statement (.abort) := by rfl
theorem Laws.OneSource.grandmaster : Laws.OneSource.Statement (.grandmaster) := by rfl
theorem Laws.OneSource.grant : Laws.OneSource.Statement (.grant) := by rfl
theorem Laws.OneSource.snapshot : Laws.OneSource.Statement (.snapshot) := by rfl
theorem Laws.OneSource.statement : Laws.OneSource.Statement (.statement) := by rfl
theorem Laws.OneSource.quote : Laws.OneSource.Statement (.quote) := by rfl
theorem Laws.OneSource.watchdog : Laws.OneSource.Statement (.watchdog) := by rfl
theorem Laws.OneSource.harea : Laws.OneSource.Statement (.harea) := by rfl
theorem Laws.OneSource.timetableTakesEffect : Laws.OneSource.Statement (.timetableTakesEffect) := by rfl
theorem Laws.OneSource.phaseChange : Laws.OneSource.Statement (.phaseChange) := by rfl
theorem Laws.OneSource.fwd : Laws.OneSource.Statement (.fwd) := by rfl
theorem Laws.OneSource.drop : Laws.OneSource.Statement (.drop) := by rfl
theorem Laws.OneSource.ptpLockLost : Laws.OneSource.Statement (.ptpLockLost) := by rfl
theorem Laws.OneSource.gtcskewHoldover : Laws.OneSource.Statement (.gtcskewHoldover) := by rfl
theorem Laws.OneSource.waittGtcReached : Laws.OneSource.Statement (.waittGtcReached) := by rfl

end Sys2Proof
end

