-- ==== Sys2Proof/Laws/State.lean ====
section
/-!
SUPPORT. The fields of the state after each named update of it, one lemma per field and update, so that no proof unfolds
a record update.
-/

namespace Sys2Proof.Machine

/-! ### `State.setCur` -/

@[simp] theorem State.setCur_others (s : State) (f : Team → Team) : (s.setCur f).others = s.others := rfl
@[simp] theorem State.setCur_mem (s : State) (f : Team → Team) : (s.setCur f).mem = s.mem := rfl
@[simp] theorem State.setCur_packed (s : State) (f : Team → Team) : (s.setCur f).packed = s.packed := rfl
@[simp] theorem State.setCur_frames (s : State) (f : Team → Team) : (s.setCur f).frames = s.frames := rfl
@[simp] theorem State.setCur_l1 (s : State) (f : Team → Team) : (s.setCur f).l1 = s.l1 := rfl
@[simp] theorem State.setCur_reqs (s : State) (f : Team → Team) : (s.setCur f).reqs = s.reqs := rfl
@[simp] theorem State.setCur_gtc (s : State) (f : Team → Team) : (s.setCur f).gtc = s.gtc := rfl
@[simp] theorem State.setCur_skewBound (s : State) (f : Team → Team) : (s.setCur f).skewBound = s.skewBound := rfl
@[simp] theorem State.setCur_locked (s : State) (f : Team → Team) : (s.setCur f).locked = s.locked := rfl
@[simp] theorem State.setCur_rate (s : State) (f : Team → Team) : (s.setCur f).rate = s.rate := rfl
@[simp] theorem State.setCur_stepped (s : State) (f : Team → Team) : (s.setCur f).stepped = s.stepped := rfl
@[simp] theorem State.setCur_holdover (s : State) (f : Team → Team) : (s.setCur f).holdover = s.holdover := rfl
@[simp] theorem State.setCur_ownPkg (s : State) (f : Team → Team) : (s.setCur f).ownPkg = s.ownPkg := rfl
@[simp] theorem State.setCur_domain (s : State) (f : Team → Team) : (s.setCur f).domain = s.domain := rfl
@[simp] theorem State.setCur_grandmaster (s : State) (f : Team → Team) : (s.setCur f).grandmaster = s.grandmaster := rfl
@[simp] theorem State.setCur_bringup (s : State) (f : Team → Team) : (s.setCur f).bringup = s.bringup := rfl
@[simp] theorem State.setCur_setts (s : State) (f : Team → Team) : (s.setCur f).setts = s.setts := rfl
@[simp] theorem State.setCur_ctxs (s : State) (f : Team → Team) : (s.setCur f).ctxs = s.ctxs := rfl
@[simp] theorem State.setCur_bound (s : State) (f : Team → Team) : (s.setCur f).bound = s.bound := rfl
@[simp] theorem State.setCur_queues (s : State) (f : Team → Team) : (s.setCur f).queues = s.queues := rfl
@[simp] theorem State.setCur_grids (s : State) (f : Team → Team) : (s.setCur f).grids = s.grids := rfl
@[simp] theorem State.setCur_sites (s : State) (f : Team → Team) : (s.setCur f).sites = s.sites := rfl
@[simp] theorem State.setCur_chips (s : State) (f : Team → Team) : (s.setCur f).chips = s.chips := rfl
@[simp] theorem State.setCur_hcmd (s : State) (f : Team → Team) : (s.setCur f).hcmd = s.hcmd := rfl
@[simp] theorem State.setCur_run (s : State) (f : Team → Team) : (s.setCur f).run = s.run := rfl
@[simp] theorem State.setCur_runs (s : State) (f : Team → Team) : (s.setCur f).runs = s.runs := rfl
@[simp] theorem State.setCur_timetable (s : State) (f : Team → Team) : (s.setCur f).timetable = s.timetable := rfl
@[simp] theorem State.setCur_pendingTable (s : State) (f : Team → Team) : (s.setCur f).pendingTable = s.pendingTable := rfl
@[simp] theorem State.setCur_groups (s : State) (f : Team → Team) : (s.setCur f).groups = s.groups := rfl
@[simp] theorem State.setCur_links (s : State) (f : Team → Team) : (s.setCur f).links = s.links := rfl
@[simp] theorem State.setCur_transit (s : State) (f : Team → Team) : (s.setCur f).transit = s.transit := rfl
@[simp] theorem State.setCur_flags (s : State) (f : Team → Team) : (s.setCur f).flags = s.flags := rfl
@[simp] theorem State.setCur_incs (s : State) (f : Team → Team) : (s.setCur f).incs = s.incs := rfl
@[simp] theorem State.setCur_outbox (s : State) (f : Team → Team) : (s.setCur f).outbox = s.outbox := rfl
@[simp] theorem State.setCur_sendq (s : State) (f : Team → Team) : (s.setCur f).sendq = s.sendq := rfl
@[simp] theorem State.setCur_far (s : State) (f : Team → Team) : (s.setCur f).far = s.far := rfl
@[simp] theorem State.setCur_ue (s : State) (f : Team → Team) : (s.setCur f).ue = s.ue := rfl
@[simp] theorem State.setCur_ueOut (s : State) (f : Team → Team) : (s.setCur f).ueOut = s.ueOut := rfl
@[simp] theorem State.setCur_agenda (s : State) (f : Team → Team) : (s.setCur f).agenda = s.agenda := rfl
@[simp] theorem State.setCur_free (s : State) (f : Team → Team) : (s.setCur f).free = s.free := rfl
@[simp] theorem State.setCur_tick (s : State) (f : Team → Team) : (s.setCur f).tick = s.tick := rfl

/-! ### `State.setCtx` -/

@[simp] theorem State.setCtx_cur (s : State) (c : Nat) (f : Context → Context) : (s.setCtx c f).cur = s.cur := rfl
@[simp] theorem State.setCtx_others (s : State) (c : Nat) (f : Context → Context) : (s.setCtx c f).others = s.others := rfl
@[simp] theorem State.setCtx_mem (s : State) (c : Nat) (f : Context → Context) : (s.setCtx c f).mem = s.mem := rfl
@[simp] theorem State.setCtx_packed (s : State) (c : Nat) (f : Context → Context) : (s.setCtx c f).packed = s.packed := rfl
@[simp] theorem State.setCtx_frames (s : State) (c : Nat) (f : Context → Context) : (s.setCtx c f).frames = s.frames := rfl
@[simp] theorem State.setCtx_l1 (s : State) (c : Nat) (f : Context → Context) : (s.setCtx c f).l1 = s.l1 := rfl
@[simp] theorem State.setCtx_reqs (s : State) (c : Nat) (f : Context → Context) : (s.setCtx c f).reqs = s.reqs := rfl
@[simp] theorem State.setCtx_gtc (s : State) (c : Nat) (f : Context → Context) : (s.setCtx c f).gtc = s.gtc := rfl
@[simp] theorem State.setCtx_skewBound (s : State) (c : Nat) (f : Context → Context) : (s.setCtx c f).skewBound = s.skewBound := rfl
@[simp] theorem State.setCtx_locked (s : State) (c : Nat) (f : Context → Context) : (s.setCtx c f).locked = s.locked := rfl
@[simp] theorem State.setCtx_rate (s : State) (c : Nat) (f : Context → Context) : (s.setCtx c f).rate = s.rate := rfl
@[simp] theorem State.setCtx_stepped (s : State) (c : Nat) (f : Context → Context) : (s.setCtx c f).stepped = s.stepped := rfl
@[simp] theorem State.setCtx_holdover (s : State) (c : Nat) (f : Context → Context) : (s.setCtx c f).holdover = s.holdover := rfl
@[simp] theorem State.setCtx_ownPkg (s : State) (c : Nat) (f : Context → Context) : (s.setCtx c f).ownPkg = s.ownPkg := rfl
@[simp] theorem State.setCtx_domain (s : State) (c : Nat) (f : Context → Context) : (s.setCtx c f).domain = s.domain := rfl
@[simp] theorem State.setCtx_grandmaster (s : State) (c : Nat) (f : Context → Context) : (s.setCtx c f).grandmaster = s.grandmaster := rfl
@[simp] theorem State.setCtx_bringup (s : State) (c : Nat) (f : Context → Context) : (s.setCtx c f).bringup = s.bringup := rfl
@[simp] theorem State.setCtx_setts (s : State) (c : Nat) (f : Context → Context) : (s.setCtx c f).setts = s.setts := rfl
@[simp] theorem State.setCtx_bound (s : State) (c : Nat) (f : Context → Context) : (s.setCtx c f).bound = s.bound := rfl
@[simp] theorem State.setCtx_queues (s : State) (c : Nat) (f : Context → Context) : (s.setCtx c f).queues = s.queues := rfl
@[simp] theorem State.setCtx_grids (s : State) (c : Nat) (f : Context → Context) : (s.setCtx c f).grids = s.grids := rfl
@[simp] theorem State.setCtx_sites (s : State) (c : Nat) (f : Context → Context) : (s.setCtx c f).sites = s.sites := rfl
@[simp] theorem State.setCtx_chips (s : State) (c : Nat) (f : Context → Context) : (s.setCtx c f).chips = s.chips := rfl
@[simp] theorem State.setCtx_hcmd (s : State) (c : Nat) (f : Context → Context) : (s.setCtx c f).hcmd = s.hcmd := rfl
@[simp] theorem State.setCtx_run (s : State) (c : Nat) (f : Context → Context) : (s.setCtx c f).run = s.run := rfl
@[simp] theorem State.setCtx_runs (s : State) (c : Nat) (f : Context → Context) : (s.setCtx c f).runs = s.runs := rfl
@[simp] theorem State.setCtx_timetable (s : State) (c : Nat) (f : Context → Context) : (s.setCtx c f).timetable = s.timetable := rfl
@[simp] theorem State.setCtx_pendingTable (s : State) (c : Nat) (f : Context → Context) : (s.setCtx c f).pendingTable = s.pendingTable := rfl
@[simp] theorem State.setCtx_groups (s : State) (c : Nat) (f : Context → Context) : (s.setCtx c f).groups = s.groups := rfl
@[simp] theorem State.setCtx_links (s : State) (c : Nat) (f : Context → Context) : (s.setCtx c f).links = s.links := rfl
@[simp] theorem State.setCtx_transit (s : State) (c : Nat) (f : Context → Context) : (s.setCtx c f).transit = s.transit := rfl
@[simp] theorem State.setCtx_flags (s : State) (c : Nat) (f : Context → Context) : (s.setCtx c f).flags = s.flags := rfl
@[simp] theorem State.setCtx_incs (s : State) (c : Nat) (f : Context → Context) : (s.setCtx c f).incs = s.incs := rfl
@[simp] theorem State.setCtx_outbox (s : State) (c : Nat) (f : Context → Context) : (s.setCtx c f).outbox = s.outbox := rfl
@[simp] theorem State.setCtx_sendq (s : State) (c : Nat) (f : Context → Context) : (s.setCtx c f).sendq = s.sendq := rfl
@[simp] theorem State.setCtx_far (s : State) (c : Nat) (f : Context → Context) : (s.setCtx c f).far = s.far := rfl
@[simp] theorem State.setCtx_ue (s : State) (c : Nat) (f : Context → Context) : (s.setCtx c f).ue = s.ue := rfl
@[simp] theorem State.setCtx_ueOut (s : State) (c : Nat) (f : Context → Context) : (s.setCtx c f).ueOut = s.ueOut := rfl
@[simp] theorem State.setCtx_agenda (s : State) (c : Nat) (f : Context → Context) : (s.setCtx c f).agenda = s.agenda := rfl
@[simp] theorem State.setCtx_free (s : State) (c : Nat) (f : Context → Context) : (s.setCtx c f).free = s.free := rfl
@[simp] theorem State.setCtx_tick (s : State) (c : Nat) (f : Context → Context) : (s.setCtx c f).tick = s.tick := rfl

/-! ### `State.setSett` -/

@[simp] theorem State.setSett_cur (s : State) (n : Nat) (f : Sett → Sett) : (s.setSett n f).cur = s.cur := rfl
@[simp] theorem State.setSett_others (s : State) (n : Nat) (f : Sett → Sett) : (s.setSett n f).others = s.others := rfl
@[simp] theorem State.setSett_mem (s : State) (n : Nat) (f : Sett → Sett) : (s.setSett n f).mem = s.mem := rfl
@[simp] theorem State.setSett_packed (s : State) (n : Nat) (f : Sett → Sett) : (s.setSett n f).packed = s.packed := rfl
@[simp] theorem State.setSett_frames (s : State) (n : Nat) (f : Sett → Sett) : (s.setSett n f).frames = s.frames := rfl
@[simp] theorem State.setSett_l1 (s : State) (n : Nat) (f : Sett → Sett) : (s.setSett n f).l1 = s.l1 := rfl
@[simp] theorem State.setSett_reqs (s : State) (n : Nat) (f : Sett → Sett) : (s.setSett n f).reqs = s.reqs := rfl
@[simp] theorem State.setSett_gtc (s : State) (n : Nat) (f : Sett → Sett) : (s.setSett n f).gtc = s.gtc := rfl
@[simp] theorem State.setSett_skewBound (s : State) (n : Nat) (f : Sett → Sett) : (s.setSett n f).skewBound = s.skewBound := rfl
@[simp] theorem State.setSett_locked (s : State) (n : Nat) (f : Sett → Sett) : (s.setSett n f).locked = s.locked := rfl
@[simp] theorem State.setSett_rate (s : State) (n : Nat) (f : Sett → Sett) : (s.setSett n f).rate = s.rate := rfl
@[simp] theorem State.setSett_stepped (s : State) (n : Nat) (f : Sett → Sett) : (s.setSett n f).stepped = s.stepped := rfl
@[simp] theorem State.setSett_holdover (s : State) (n : Nat) (f : Sett → Sett) : (s.setSett n f).holdover = s.holdover := rfl
@[simp] theorem State.setSett_ownPkg (s : State) (n : Nat) (f : Sett → Sett) : (s.setSett n f).ownPkg = s.ownPkg := rfl
@[simp] theorem State.setSett_domain (s : State) (n : Nat) (f : Sett → Sett) : (s.setSett n f).domain = s.domain := rfl
@[simp] theorem State.setSett_grandmaster (s : State) (n : Nat) (f : Sett → Sett) : (s.setSett n f).grandmaster = s.grandmaster := rfl
@[simp] theorem State.setSett_bringup (s : State) (n : Nat) (f : Sett → Sett) : (s.setSett n f).bringup = s.bringup := rfl
@[simp] theorem State.setSett_ctxs (s : State) (n : Nat) (f : Sett → Sett) : (s.setSett n f).ctxs = s.ctxs := rfl
@[simp] theorem State.setSett_bound (s : State) (n : Nat) (f : Sett → Sett) : (s.setSett n f).bound = s.bound := rfl
@[simp] theorem State.setSett_queues (s : State) (n : Nat) (f : Sett → Sett) : (s.setSett n f).queues = s.queues := rfl
@[simp] theorem State.setSett_grids (s : State) (n : Nat) (f : Sett → Sett) : (s.setSett n f).grids = s.grids := rfl
@[simp] theorem State.setSett_sites (s : State) (n : Nat) (f : Sett → Sett) : (s.setSett n f).sites = s.sites := rfl
@[simp] theorem State.setSett_chips (s : State) (n : Nat) (f : Sett → Sett) : (s.setSett n f).chips = s.chips := rfl
@[simp] theorem State.setSett_hcmd (s : State) (n : Nat) (f : Sett → Sett) : (s.setSett n f).hcmd = s.hcmd := rfl
@[simp] theorem State.setSett_run (s : State) (n : Nat) (f : Sett → Sett) : (s.setSett n f).run = s.run := rfl
@[simp] theorem State.setSett_runs (s : State) (n : Nat) (f : Sett → Sett) : (s.setSett n f).runs = s.runs := rfl
@[simp] theorem State.setSett_timetable (s : State) (n : Nat) (f : Sett → Sett) : (s.setSett n f).timetable = s.timetable := rfl
@[simp] theorem State.setSett_pendingTable (s : State) (n : Nat) (f : Sett → Sett) : (s.setSett n f).pendingTable = s.pendingTable := rfl
@[simp] theorem State.setSett_groups (s : State) (n : Nat) (f : Sett → Sett) : (s.setSett n f).groups = s.groups := rfl
@[simp] theorem State.setSett_links (s : State) (n : Nat) (f : Sett → Sett) : (s.setSett n f).links = s.links := rfl
@[simp] theorem State.setSett_transit (s : State) (n : Nat) (f : Sett → Sett) : (s.setSett n f).transit = s.transit := rfl
@[simp] theorem State.setSett_flags (s : State) (n : Nat) (f : Sett → Sett) : (s.setSett n f).flags = s.flags := rfl
@[simp] theorem State.setSett_incs (s : State) (n : Nat) (f : Sett → Sett) : (s.setSett n f).incs = s.incs := rfl
@[simp] theorem State.setSett_outbox (s : State) (n : Nat) (f : Sett → Sett) : (s.setSett n f).outbox = s.outbox := rfl
@[simp] theorem State.setSett_sendq (s : State) (n : Nat) (f : Sett → Sett) : (s.setSett n f).sendq = s.sendq := rfl
@[simp] theorem State.setSett_far (s : State) (n : Nat) (f : Sett → Sett) : (s.setSett n f).far = s.far := rfl
@[simp] theorem State.setSett_ue (s : State) (n : Nat) (f : Sett → Sett) : (s.setSett n f).ue = s.ue := rfl
@[simp] theorem State.setSett_ueOut (s : State) (n : Nat) (f : Sett → Sett) : (s.setSett n f).ueOut = s.ueOut := rfl
@[simp] theorem State.setSett_agenda (s : State) (n : Nat) (f : Sett → Sett) : (s.setSett n f).agenda = s.agenda := rfl
@[simp] theorem State.setSett_free (s : State) (n : Nat) (f : Sett → Sett) : (s.setSett n f).free = s.free := rfl
@[simp] theorem State.setSett_tick (s : State) (n : Nat) (f : Sett → Sett) : (s.setSett n f).tick = s.tick := rfl

/-! ### `State.setRun` -/

@[simp] theorem State.setRun_cur (s : State) (f : Run → Run) : (s.setRun f).cur = s.cur := rfl
@[simp] theorem State.setRun_others (s : State) (f : Run → Run) : (s.setRun f).others = s.others := rfl
@[simp] theorem State.setRun_mem (s : State) (f : Run → Run) : (s.setRun f).mem = s.mem := rfl
@[simp] theorem State.setRun_packed (s : State) (f : Run → Run) : (s.setRun f).packed = s.packed := rfl
@[simp] theorem State.setRun_frames (s : State) (f : Run → Run) : (s.setRun f).frames = s.frames := rfl
@[simp] theorem State.setRun_l1 (s : State) (f : Run → Run) : (s.setRun f).l1 = s.l1 := rfl
@[simp] theorem State.setRun_reqs (s : State) (f : Run → Run) : (s.setRun f).reqs = s.reqs := rfl
@[simp] theorem State.setRun_gtc (s : State) (f : Run → Run) : (s.setRun f).gtc = s.gtc := rfl
@[simp] theorem State.setRun_skewBound (s : State) (f : Run → Run) : (s.setRun f).skewBound = s.skewBound := rfl
@[simp] theorem State.setRun_locked (s : State) (f : Run → Run) : (s.setRun f).locked = s.locked := rfl
@[simp] theorem State.setRun_rate (s : State) (f : Run → Run) : (s.setRun f).rate = s.rate := rfl
@[simp] theorem State.setRun_stepped (s : State) (f : Run → Run) : (s.setRun f).stepped = s.stepped := rfl
@[simp] theorem State.setRun_holdover (s : State) (f : Run → Run) : (s.setRun f).holdover = s.holdover := rfl
@[simp] theorem State.setRun_ownPkg (s : State) (f : Run → Run) : (s.setRun f).ownPkg = s.ownPkg := rfl
@[simp] theorem State.setRun_domain (s : State) (f : Run → Run) : (s.setRun f).domain = s.domain := rfl
@[simp] theorem State.setRun_grandmaster (s : State) (f : Run → Run) : (s.setRun f).grandmaster = s.grandmaster := rfl
@[simp] theorem State.setRun_bringup (s : State) (f : Run → Run) : (s.setRun f).bringup = s.bringup := rfl
@[simp] theorem State.setRun_setts (s : State) (f : Run → Run) : (s.setRun f).setts = s.setts := rfl
@[simp] theorem State.setRun_ctxs (s : State) (f : Run → Run) : (s.setRun f).ctxs = s.ctxs := rfl
@[simp] theorem State.setRun_bound (s : State) (f : Run → Run) : (s.setRun f).bound = s.bound := rfl
@[simp] theorem State.setRun_queues (s : State) (f : Run → Run) : (s.setRun f).queues = s.queues := rfl
@[simp] theorem State.setRun_grids (s : State) (f : Run → Run) : (s.setRun f).grids = s.grids := rfl
@[simp] theorem State.setRun_sites (s : State) (f : Run → Run) : (s.setRun f).sites = s.sites := rfl
@[simp] theorem State.setRun_chips (s : State) (f : Run → Run) : (s.setRun f).chips = s.chips := rfl
@[simp] theorem State.setRun_hcmd (s : State) (f : Run → Run) : (s.setRun f).hcmd = s.hcmd := rfl
@[simp] theorem State.setRun_runs (s : State) (f : Run → Run) : (s.setRun f).runs = s.runs := rfl
@[simp] theorem State.setRun_timetable (s : State) (f : Run → Run) : (s.setRun f).timetable = s.timetable := rfl
@[simp] theorem State.setRun_pendingTable (s : State) (f : Run → Run) : (s.setRun f).pendingTable = s.pendingTable := rfl
@[simp] theorem State.setRun_groups (s : State) (f : Run → Run) : (s.setRun f).groups = s.groups := rfl
@[simp] theorem State.setRun_links (s : State) (f : Run → Run) : (s.setRun f).links = s.links := rfl
@[simp] theorem State.setRun_transit (s : State) (f : Run → Run) : (s.setRun f).transit = s.transit := rfl
@[simp] theorem State.setRun_flags (s : State) (f : Run → Run) : (s.setRun f).flags = s.flags := rfl
@[simp] theorem State.setRun_incs (s : State) (f : Run → Run) : (s.setRun f).incs = s.incs := rfl
@[simp] theorem State.setRun_outbox (s : State) (f : Run → Run) : (s.setRun f).outbox = s.outbox := rfl
@[simp] theorem State.setRun_sendq (s : State) (f : Run → Run) : (s.setRun f).sendq = s.sendq := rfl
@[simp] theorem State.setRun_far (s : State) (f : Run → Run) : (s.setRun f).far = s.far := rfl
@[simp] theorem State.setRun_ue (s : State) (f : Run → Run) : (s.setRun f).ue = s.ue := rfl
@[simp] theorem State.setRun_ueOut (s : State) (f : Run → Run) : (s.setRun f).ueOut = s.ueOut := rfl
@[simp] theorem State.setRun_agenda (s : State) (f : Run → Run) : (s.setRun f).agenda = s.agenda := rfl
@[simp] theorem State.setRun_free (s : State) (f : Run → Run) : (s.setRun f).free = s.free := rfl
@[simp] theorem State.setRun_tick (s : State) (f : Run → Run) : (s.setRun f).tick = s.tick := rfl

/-! ### `State.setChip` -/

@[simp] theorem State.setChip_cur (s : State) (c : Nat) (f : Chip → Chip) : (s.setChip c f).cur = s.cur := rfl
@[simp] theorem State.setChip_others (s : State) (c : Nat) (f : Chip → Chip) : (s.setChip c f).others = s.others := rfl
@[simp] theorem State.setChip_mem (s : State) (c : Nat) (f : Chip → Chip) : (s.setChip c f).mem = s.mem := rfl
@[simp] theorem State.setChip_packed (s : State) (c : Nat) (f : Chip → Chip) : (s.setChip c f).packed = s.packed := rfl
@[simp] theorem State.setChip_frames (s : State) (c : Nat) (f : Chip → Chip) : (s.setChip c f).frames = s.frames := rfl
@[simp] theorem State.setChip_l1 (s : State) (c : Nat) (f : Chip → Chip) : (s.setChip c f).l1 = s.l1 := rfl
@[simp] theorem State.setChip_reqs (s : State) (c : Nat) (f : Chip → Chip) : (s.setChip c f).reqs = s.reqs := rfl
@[simp] theorem State.setChip_gtc (s : State) (c : Nat) (f : Chip → Chip) : (s.setChip c f).gtc = s.gtc := rfl
@[simp] theorem State.setChip_skewBound (s : State) (c : Nat) (f : Chip → Chip) : (s.setChip c f).skewBound = s.skewBound := rfl
@[simp] theorem State.setChip_locked (s : State) (c : Nat) (f : Chip → Chip) : (s.setChip c f).locked = s.locked := rfl
@[simp] theorem State.setChip_rate (s : State) (c : Nat) (f : Chip → Chip) : (s.setChip c f).rate = s.rate := rfl
@[simp] theorem State.setChip_stepped (s : State) (c : Nat) (f : Chip → Chip) : (s.setChip c f).stepped = s.stepped := rfl
@[simp] theorem State.setChip_holdover (s : State) (c : Nat) (f : Chip → Chip) : (s.setChip c f).holdover = s.holdover := rfl
@[simp] theorem State.setChip_ownPkg (s : State) (c : Nat) (f : Chip → Chip) : (s.setChip c f).ownPkg = s.ownPkg := rfl
@[simp] theorem State.setChip_domain (s : State) (c : Nat) (f : Chip → Chip) : (s.setChip c f).domain = s.domain := rfl
@[simp] theorem State.setChip_grandmaster (s : State) (c : Nat) (f : Chip → Chip) : (s.setChip c f).grandmaster = s.grandmaster := rfl
@[simp] theorem State.setChip_bringup (s : State) (c : Nat) (f : Chip → Chip) : (s.setChip c f).bringup = s.bringup := rfl
@[simp] theorem State.setChip_setts (s : State) (c : Nat) (f : Chip → Chip) : (s.setChip c f).setts = s.setts := rfl
@[simp] theorem State.setChip_ctxs (s : State) (c : Nat) (f : Chip → Chip) : (s.setChip c f).ctxs = s.ctxs := rfl
@[simp] theorem State.setChip_bound (s : State) (c : Nat) (f : Chip → Chip) : (s.setChip c f).bound = s.bound := rfl
@[simp] theorem State.setChip_queues (s : State) (c : Nat) (f : Chip → Chip) : (s.setChip c f).queues = s.queues := rfl
@[simp] theorem State.setChip_grids (s : State) (c : Nat) (f : Chip → Chip) : (s.setChip c f).grids = s.grids := rfl
@[simp] theorem State.setChip_sites (s : State) (c : Nat) (f : Chip → Chip) : (s.setChip c f).sites = s.sites := rfl
@[simp] theorem State.setChip_hcmd (s : State) (c : Nat) (f : Chip → Chip) : (s.setChip c f).hcmd = s.hcmd := rfl
@[simp] theorem State.setChip_run (s : State) (c : Nat) (f : Chip → Chip) : (s.setChip c f).run = s.run := rfl
@[simp] theorem State.setChip_runs (s : State) (c : Nat) (f : Chip → Chip) : (s.setChip c f).runs = s.runs := rfl
@[simp] theorem State.setChip_timetable (s : State) (c : Nat) (f : Chip → Chip) : (s.setChip c f).timetable = s.timetable := rfl
@[simp] theorem State.setChip_pendingTable (s : State) (c : Nat) (f : Chip → Chip) : (s.setChip c f).pendingTable = s.pendingTable := rfl
@[simp] theorem State.setChip_groups (s : State) (c : Nat) (f : Chip → Chip) : (s.setChip c f).groups = s.groups := rfl
@[simp] theorem State.setChip_links (s : State) (c : Nat) (f : Chip → Chip) : (s.setChip c f).links = s.links := rfl
@[simp] theorem State.setChip_transit (s : State) (c : Nat) (f : Chip → Chip) : (s.setChip c f).transit = s.transit := rfl
@[simp] theorem State.setChip_flags (s : State) (c : Nat) (f : Chip → Chip) : (s.setChip c f).flags = s.flags := rfl
@[simp] theorem State.setChip_incs (s : State) (c : Nat) (f : Chip → Chip) : (s.setChip c f).incs = s.incs := rfl
@[simp] theorem State.setChip_outbox (s : State) (c : Nat) (f : Chip → Chip) : (s.setChip c f).outbox = s.outbox := rfl
@[simp] theorem State.setChip_sendq (s : State) (c : Nat) (f : Chip → Chip) : (s.setChip c f).sendq = s.sendq := rfl
@[simp] theorem State.setChip_far (s : State) (c : Nat) (f : Chip → Chip) : (s.setChip c f).far = s.far := rfl
@[simp] theorem State.setChip_ue (s : State) (c : Nat) (f : Chip → Chip) : (s.setChip c f).ue = s.ue := rfl
@[simp] theorem State.setChip_ueOut (s : State) (c : Nat) (f : Chip → Chip) : (s.setChip c f).ueOut = s.ueOut := rfl
@[simp] theorem State.setChip_agenda (s : State) (c : Nat) (f : Chip → Chip) : (s.setChip c f).agenda = s.agenda := rfl
@[simp] theorem State.setChip_free (s : State) (c : Nat) (f : Chip → Chip) : (s.setChip c f).free = s.free := rfl
@[simp] theorem State.setChip_tick (s : State) (c : Nat) (f : Chip → Chip) : (s.setChip c f).tick = s.tick := rfl

/-! ### `State.setSlot` -/

@[simp] theorem State.setSlot_cur (s : State) (c n : Nat) (f : Slot → Slot) : (s.setSlot c n f).cur = s.cur := rfl
@[simp] theorem State.setSlot_others (s : State) (c n : Nat) (f : Slot → Slot) : (s.setSlot c n f).others = s.others := rfl
@[simp] theorem State.setSlot_mem (s : State) (c n : Nat) (f : Slot → Slot) : (s.setSlot c n f).mem = s.mem := rfl
@[simp] theorem State.setSlot_packed (s : State) (c n : Nat) (f : Slot → Slot) : (s.setSlot c n f).packed = s.packed := rfl
@[simp] theorem State.setSlot_frames (s : State) (c n : Nat) (f : Slot → Slot) : (s.setSlot c n f).frames = s.frames := rfl
@[simp] theorem State.setSlot_l1 (s : State) (c n : Nat) (f : Slot → Slot) : (s.setSlot c n f).l1 = s.l1 := rfl
@[simp] theorem State.setSlot_reqs (s : State) (c n : Nat) (f : Slot → Slot) : (s.setSlot c n f).reqs = s.reqs := rfl
@[simp] theorem State.setSlot_gtc (s : State) (c n : Nat) (f : Slot → Slot) : (s.setSlot c n f).gtc = s.gtc := rfl
@[simp] theorem State.setSlot_skewBound (s : State) (c n : Nat) (f : Slot → Slot) : (s.setSlot c n f).skewBound = s.skewBound := rfl
@[simp] theorem State.setSlot_locked (s : State) (c n : Nat) (f : Slot → Slot) : (s.setSlot c n f).locked = s.locked := rfl
@[simp] theorem State.setSlot_rate (s : State) (c n : Nat) (f : Slot → Slot) : (s.setSlot c n f).rate = s.rate := rfl
@[simp] theorem State.setSlot_stepped (s : State) (c n : Nat) (f : Slot → Slot) : (s.setSlot c n f).stepped = s.stepped := rfl
@[simp] theorem State.setSlot_holdover (s : State) (c n : Nat) (f : Slot → Slot) : (s.setSlot c n f).holdover = s.holdover := rfl
@[simp] theorem State.setSlot_ownPkg (s : State) (c n : Nat) (f : Slot → Slot) : (s.setSlot c n f).ownPkg = s.ownPkg := rfl
@[simp] theorem State.setSlot_domain (s : State) (c n : Nat) (f : Slot → Slot) : (s.setSlot c n f).domain = s.domain := rfl
@[simp] theorem State.setSlot_grandmaster (s : State) (c n : Nat) (f : Slot → Slot) : (s.setSlot c n f).grandmaster = s.grandmaster := rfl
@[simp] theorem State.setSlot_bringup (s : State) (c n : Nat) (f : Slot → Slot) : (s.setSlot c n f).bringup = s.bringup := rfl
@[simp] theorem State.setSlot_setts (s : State) (c n : Nat) (f : Slot → Slot) : (s.setSlot c n f).setts = s.setts := rfl
@[simp] theorem State.setSlot_ctxs (s : State) (c n : Nat) (f : Slot → Slot) : (s.setSlot c n f).ctxs = s.ctxs := rfl
@[simp] theorem State.setSlot_bound (s : State) (c n : Nat) (f : Slot → Slot) : (s.setSlot c n f).bound = s.bound := rfl
@[simp] theorem State.setSlot_queues (s : State) (c n : Nat) (f : Slot → Slot) : (s.setSlot c n f).queues = s.queues := rfl
@[simp] theorem State.setSlot_grids (s : State) (c n : Nat) (f : Slot → Slot) : (s.setSlot c n f).grids = s.grids := rfl
@[simp] theorem State.setSlot_sites (s : State) (c n : Nat) (f : Slot → Slot) : (s.setSlot c n f).sites = s.sites := rfl
@[simp] theorem State.setSlot_hcmd (s : State) (c n : Nat) (f : Slot → Slot) : (s.setSlot c n f).hcmd = s.hcmd := rfl
@[simp] theorem State.setSlot_run (s : State) (c n : Nat) (f : Slot → Slot) : (s.setSlot c n f).run = s.run := rfl
@[simp] theorem State.setSlot_runs (s : State) (c n : Nat) (f : Slot → Slot) : (s.setSlot c n f).runs = s.runs := rfl
@[simp] theorem State.setSlot_timetable (s : State) (c n : Nat) (f : Slot → Slot) : (s.setSlot c n f).timetable = s.timetable := rfl
@[simp] theorem State.setSlot_pendingTable (s : State) (c n : Nat) (f : Slot → Slot) : (s.setSlot c n f).pendingTable = s.pendingTable := rfl
@[simp] theorem State.setSlot_groups (s : State) (c n : Nat) (f : Slot → Slot) : (s.setSlot c n f).groups = s.groups := rfl
@[simp] theorem State.setSlot_links (s : State) (c n : Nat) (f : Slot → Slot) : (s.setSlot c n f).links = s.links := rfl
@[simp] theorem State.setSlot_transit (s : State) (c n : Nat) (f : Slot → Slot) : (s.setSlot c n f).transit = s.transit := rfl
@[simp] theorem State.setSlot_flags (s : State) (c n : Nat) (f : Slot → Slot) : (s.setSlot c n f).flags = s.flags := rfl
@[simp] theorem State.setSlot_incs (s : State) (c n : Nat) (f : Slot → Slot) : (s.setSlot c n f).incs = s.incs := rfl
@[simp] theorem State.setSlot_outbox (s : State) (c n : Nat) (f : Slot → Slot) : (s.setSlot c n f).outbox = s.outbox := rfl
@[simp] theorem State.setSlot_sendq (s : State) (c n : Nat) (f : Slot → Slot) : (s.setSlot c n f).sendq = s.sendq := rfl
@[simp] theorem State.setSlot_far (s : State) (c n : Nat) (f : Slot → Slot) : (s.setSlot c n f).far = s.far := rfl
@[simp] theorem State.setSlot_ue (s : State) (c n : Nat) (f : Slot → Slot) : (s.setSlot c n f).ue = s.ue := rfl
@[simp] theorem State.setSlot_ueOut (s : State) (c n : Nat) (f : Slot → Slot) : (s.setSlot c n f).ueOut = s.ueOut := rfl
@[simp] theorem State.setSlot_agenda (s : State) (c n : Nat) (f : Slot → Slot) : (s.setSlot c n f).agenda = s.agenda := rfl
@[simp] theorem State.setSlot_free (s : State) (c n : Nat) (f : Slot → Slot) : (s.setSlot c n f).free = s.free := rfl
@[simp] theorem State.setSlot_tick (s : State) (c n : Nat) (f : Slot → Slot) : (s.setSlot c n f).tick = s.tick := rfl

/-! ### `State.setGrid` -/

@[simp] theorem State.setGrid_cur (s : State) (g : Nat) (f : Grid → Grid) : (s.setGrid g f).cur = s.cur := rfl
@[simp] theorem State.setGrid_others (s : State) (g : Nat) (f : Grid → Grid) : (s.setGrid g f).others = s.others := rfl
@[simp] theorem State.setGrid_mem (s : State) (g : Nat) (f : Grid → Grid) : (s.setGrid g f).mem = s.mem := rfl
@[simp] theorem State.setGrid_packed (s : State) (g : Nat) (f : Grid → Grid) : (s.setGrid g f).packed = s.packed := rfl
@[simp] theorem State.setGrid_frames (s : State) (g : Nat) (f : Grid → Grid) : (s.setGrid g f).frames = s.frames := rfl
@[simp] theorem State.setGrid_l1 (s : State) (g : Nat) (f : Grid → Grid) : (s.setGrid g f).l1 = s.l1 := rfl
@[simp] theorem State.setGrid_reqs (s : State) (g : Nat) (f : Grid → Grid) : (s.setGrid g f).reqs = s.reqs := rfl
@[simp] theorem State.setGrid_gtc (s : State) (g : Nat) (f : Grid → Grid) : (s.setGrid g f).gtc = s.gtc := rfl
@[simp] theorem State.setGrid_skewBound (s : State) (g : Nat) (f : Grid → Grid) : (s.setGrid g f).skewBound = s.skewBound := rfl
@[simp] theorem State.setGrid_locked (s : State) (g : Nat) (f : Grid → Grid) : (s.setGrid g f).locked = s.locked := rfl
@[simp] theorem State.setGrid_rate (s : State) (g : Nat) (f : Grid → Grid) : (s.setGrid g f).rate = s.rate := rfl
@[simp] theorem State.setGrid_stepped (s : State) (g : Nat) (f : Grid → Grid) : (s.setGrid g f).stepped = s.stepped := rfl
@[simp] theorem State.setGrid_holdover (s : State) (g : Nat) (f : Grid → Grid) : (s.setGrid g f).holdover = s.holdover := rfl
@[simp] theorem State.setGrid_ownPkg (s : State) (g : Nat) (f : Grid → Grid) : (s.setGrid g f).ownPkg = s.ownPkg := rfl
@[simp] theorem State.setGrid_domain (s : State) (g : Nat) (f : Grid → Grid) : (s.setGrid g f).domain = s.domain := rfl
@[simp] theorem State.setGrid_grandmaster (s : State) (g : Nat) (f : Grid → Grid) : (s.setGrid g f).grandmaster = s.grandmaster := rfl
@[simp] theorem State.setGrid_bringup (s : State) (g : Nat) (f : Grid → Grid) : (s.setGrid g f).bringup = s.bringup := rfl
@[simp] theorem State.setGrid_setts (s : State) (g : Nat) (f : Grid → Grid) : (s.setGrid g f).setts = s.setts := rfl
@[simp] theorem State.setGrid_ctxs (s : State) (g : Nat) (f : Grid → Grid) : (s.setGrid g f).ctxs = s.ctxs := rfl
@[simp] theorem State.setGrid_bound (s : State) (g : Nat) (f : Grid → Grid) : (s.setGrid g f).bound = s.bound := rfl
@[simp] theorem State.setGrid_queues (s : State) (g : Nat) (f : Grid → Grid) : (s.setGrid g f).queues = s.queues := rfl
@[simp] theorem State.setGrid_sites (s : State) (g : Nat) (f : Grid → Grid) : (s.setGrid g f).sites = s.sites := rfl
@[simp] theorem State.setGrid_chips (s : State) (g : Nat) (f : Grid → Grid) : (s.setGrid g f).chips = s.chips := rfl
@[simp] theorem State.setGrid_hcmd (s : State) (g : Nat) (f : Grid → Grid) : (s.setGrid g f).hcmd = s.hcmd := rfl
@[simp] theorem State.setGrid_run (s : State) (g : Nat) (f : Grid → Grid) : (s.setGrid g f).run = s.run := rfl
@[simp] theorem State.setGrid_runs (s : State) (g : Nat) (f : Grid → Grid) : (s.setGrid g f).runs = s.runs := rfl
@[simp] theorem State.setGrid_timetable (s : State) (g : Nat) (f : Grid → Grid) : (s.setGrid g f).timetable = s.timetable := rfl
@[simp] theorem State.setGrid_pendingTable (s : State) (g : Nat) (f : Grid → Grid) : (s.setGrid g f).pendingTable = s.pendingTable := rfl
@[simp] theorem State.setGrid_groups (s : State) (g : Nat) (f : Grid → Grid) : (s.setGrid g f).groups = s.groups := rfl
@[simp] theorem State.setGrid_links (s : State) (g : Nat) (f : Grid → Grid) : (s.setGrid g f).links = s.links := rfl
@[simp] theorem State.setGrid_transit (s : State) (g : Nat) (f : Grid → Grid) : (s.setGrid g f).transit = s.transit := rfl
@[simp] theorem State.setGrid_flags (s : State) (g : Nat) (f : Grid → Grid) : (s.setGrid g f).flags = s.flags := rfl
@[simp] theorem State.setGrid_incs (s : State) (g : Nat) (f : Grid → Grid) : (s.setGrid g f).incs = s.incs := rfl
@[simp] theorem State.setGrid_outbox (s : State) (g : Nat) (f : Grid → Grid) : (s.setGrid g f).outbox = s.outbox := rfl
@[simp] theorem State.setGrid_sendq (s : State) (g : Nat) (f : Grid → Grid) : (s.setGrid g f).sendq = s.sendq := rfl
@[simp] theorem State.setGrid_far (s : State) (g : Nat) (f : Grid → Grid) : (s.setGrid g f).far = s.far := rfl
@[simp] theorem State.setGrid_ue (s : State) (g : Nat) (f : Grid → Grid) : (s.setGrid g f).ue = s.ue := rfl
@[simp] theorem State.setGrid_ueOut (s : State) (g : Nat) (f : Grid → Grid) : (s.setGrid g f).ueOut = s.ueOut := rfl
@[simp] theorem State.setGrid_agenda (s : State) (g : Nat) (f : Grid → Grid) : (s.setGrid g f).agenda = s.agenda := rfl
@[simp] theorem State.setGrid_free (s : State) (g : Nat) (f : Grid → Grid) : (s.setGrid g f).free = s.free := rfl
@[simp] theorem State.setGrid_tick (s : State) (g : Nat) (f : Grid → Grid) : (s.setGrid g f).tick = s.tick := rfl

/-! ### `State.setLink` -/

@[simp] theorem State.setLink_cur (s : State) (n : Nat) (f : Link → Link) : (s.setLink n f).cur = s.cur := rfl
@[simp] theorem State.setLink_others (s : State) (n : Nat) (f : Link → Link) : (s.setLink n f).others = s.others := rfl
@[simp] theorem State.setLink_mem (s : State) (n : Nat) (f : Link → Link) : (s.setLink n f).mem = s.mem := rfl
@[simp] theorem State.setLink_packed (s : State) (n : Nat) (f : Link → Link) : (s.setLink n f).packed = s.packed := rfl
@[simp] theorem State.setLink_frames (s : State) (n : Nat) (f : Link → Link) : (s.setLink n f).frames = s.frames := rfl
@[simp] theorem State.setLink_l1 (s : State) (n : Nat) (f : Link → Link) : (s.setLink n f).l1 = s.l1 := rfl
@[simp] theorem State.setLink_reqs (s : State) (n : Nat) (f : Link → Link) : (s.setLink n f).reqs = s.reqs := rfl
@[simp] theorem State.setLink_gtc (s : State) (n : Nat) (f : Link → Link) : (s.setLink n f).gtc = s.gtc := rfl
@[simp] theorem State.setLink_skewBound (s : State) (n : Nat) (f : Link → Link) : (s.setLink n f).skewBound = s.skewBound := rfl
@[simp] theorem State.setLink_locked (s : State) (n : Nat) (f : Link → Link) : (s.setLink n f).locked = s.locked := rfl
@[simp] theorem State.setLink_rate (s : State) (n : Nat) (f : Link → Link) : (s.setLink n f).rate = s.rate := rfl
@[simp] theorem State.setLink_stepped (s : State) (n : Nat) (f : Link → Link) : (s.setLink n f).stepped = s.stepped := rfl
@[simp] theorem State.setLink_holdover (s : State) (n : Nat) (f : Link → Link) : (s.setLink n f).holdover = s.holdover := rfl
@[simp] theorem State.setLink_ownPkg (s : State) (n : Nat) (f : Link → Link) : (s.setLink n f).ownPkg = s.ownPkg := rfl
@[simp] theorem State.setLink_domain (s : State) (n : Nat) (f : Link → Link) : (s.setLink n f).domain = s.domain := rfl
@[simp] theorem State.setLink_grandmaster (s : State) (n : Nat) (f : Link → Link) : (s.setLink n f).grandmaster = s.grandmaster := rfl
@[simp] theorem State.setLink_bringup (s : State) (n : Nat) (f : Link → Link) : (s.setLink n f).bringup = s.bringup := rfl
@[simp] theorem State.setLink_setts (s : State) (n : Nat) (f : Link → Link) : (s.setLink n f).setts = s.setts := rfl
@[simp] theorem State.setLink_ctxs (s : State) (n : Nat) (f : Link → Link) : (s.setLink n f).ctxs = s.ctxs := rfl
@[simp] theorem State.setLink_bound (s : State) (n : Nat) (f : Link → Link) : (s.setLink n f).bound = s.bound := rfl
@[simp] theorem State.setLink_queues (s : State) (n : Nat) (f : Link → Link) : (s.setLink n f).queues = s.queues := rfl
@[simp] theorem State.setLink_grids (s : State) (n : Nat) (f : Link → Link) : (s.setLink n f).grids = s.grids := rfl
@[simp] theorem State.setLink_sites (s : State) (n : Nat) (f : Link → Link) : (s.setLink n f).sites = s.sites := rfl
@[simp] theorem State.setLink_chips (s : State) (n : Nat) (f : Link → Link) : (s.setLink n f).chips = s.chips := rfl
@[simp] theorem State.setLink_hcmd (s : State) (n : Nat) (f : Link → Link) : (s.setLink n f).hcmd = s.hcmd := rfl
@[simp] theorem State.setLink_run (s : State) (n : Nat) (f : Link → Link) : (s.setLink n f).run = s.run := rfl
@[simp] theorem State.setLink_runs (s : State) (n : Nat) (f : Link → Link) : (s.setLink n f).runs = s.runs := rfl
@[simp] theorem State.setLink_timetable (s : State) (n : Nat) (f : Link → Link) : (s.setLink n f).timetable = s.timetable := rfl
@[simp] theorem State.setLink_pendingTable (s : State) (n : Nat) (f : Link → Link) : (s.setLink n f).pendingTable = s.pendingTable := rfl
@[simp] theorem State.setLink_groups (s : State) (n : Nat) (f : Link → Link) : (s.setLink n f).groups = s.groups := rfl
@[simp] theorem State.setLink_transit (s : State) (n : Nat) (f : Link → Link) : (s.setLink n f).transit = s.transit := rfl
@[simp] theorem State.setLink_flags (s : State) (n : Nat) (f : Link → Link) : (s.setLink n f).flags = s.flags := rfl
@[simp] theorem State.setLink_incs (s : State) (n : Nat) (f : Link → Link) : (s.setLink n f).incs = s.incs := rfl
@[simp] theorem State.setLink_outbox (s : State) (n : Nat) (f : Link → Link) : (s.setLink n f).outbox = s.outbox := rfl
@[simp] theorem State.setLink_sendq (s : State) (n : Nat) (f : Link → Link) : (s.setLink n f).sendq = s.sendq := rfl
@[simp] theorem State.setLink_far (s : State) (n : Nat) (f : Link → Link) : (s.setLink n f).far = s.far := rfl
@[simp] theorem State.setLink_ue (s : State) (n : Nat) (f : Link → Link) : (s.setLink n f).ue = s.ue := rfl
@[simp] theorem State.setLink_ueOut (s : State) (n : Nat) (f : Link → Link) : (s.setLink n f).ueOut = s.ueOut := rfl
@[simp] theorem State.setLink_agenda (s : State) (n : Nat) (f : Link → Link) : (s.setLink n f).agenda = s.agenda := rfl
@[simp] theorem State.setLink_free (s : State) (n : Nat) (f : Link → Link) : (s.setLink n f).free = s.free := rfl
@[simp] theorem State.setLink_tick (s : State) (n : Nat) (f : Link → Link) : (s.setLink n f).tick = s.tick := rfl

/-! ### `State.setGroup` -/

@[simp] theorem State.setGroup_cur (s : State) (g : Nat) (f : Group → Group) : (s.setGroup g f).cur = s.cur := rfl
@[simp] theorem State.setGroup_others (s : State) (g : Nat) (f : Group → Group) : (s.setGroup g f).others = s.others := rfl
@[simp] theorem State.setGroup_mem (s : State) (g : Nat) (f : Group → Group) : (s.setGroup g f).mem = s.mem := rfl
@[simp] theorem State.setGroup_packed (s : State) (g : Nat) (f : Group → Group) : (s.setGroup g f).packed = s.packed := rfl
@[simp] theorem State.setGroup_frames (s : State) (g : Nat) (f : Group → Group) : (s.setGroup g f).frames = s.frames := rfl
@[simp] theorem State.setGroup_l1 (s : State) (g : Nat) (f : Group → Group) : (s.setGroup g f).l1 = s.l1 := rfl
@[simp] theorem State.setGroup_reqs (s : State) (g : Nat) (f : Group → Group) : (s.setGroup g f).reqs = s.reqs := rfl
@[simp] theorem State.setGroup_gtc (s : State) (g : Nat) (f : Group → Group) : (s.setGroup g f).gtc = s.gtc := rfl
@[simp] theorem State.setGroup_skewBound (s : State) (g : Nat) (f : Group → Group) : (s.setGroup g f).skewBound = s.skewBound := rfl
@[simp] theorem State.setGroup_locked (s : State) (g : Nat) (f : Group → Group) : (s.setGroup g f).locked = s.locked := rfl
@[simp] theorem State.setGroup_rate (s : State) (g : Nat) (f : Group → Group) : (s.setGroup g f).rate = s.rate := rfl
@[simp] theorem State.setGroup_stepped (s : State) (g : Nat) (f : Group → Group) : (s.setGroup g f).stepped = s.stepped := rfl
@[simp] theorem State.setGroup_holdover (s : State) (g : Nat) (f : Group → Group) : (s.setGroup g f).holdover = s.holdover := rfl
@[simp] theorem State.setGroup_ownPkg (s : State) (g : Nat) (f : Group → Group) : (s.setGroup g f).ownPkg = s.ownPkg := rfl
@[simp] theorem State.setGroup_domain (s : State) (g : Nat) (f : Group → Group) : (s.setGroup g f).domain = s.domain := rfl
@[simp] theorem State.setGroup_grandmaster (s : State) (g : Nat) (f : Group → Group) : (s.setGroup g f).grandmaster = s.grandmaster := rfl
@[simp] theorem State.setGroup_bringup (s : State) (g : Nat) (f : Group → Group) : (s.setGroup g f).bringup = s.bringup := rfl
@[simp] theorem State.setGroup_setts (s : State) (g : Nat) (f : Group → Group) : (s.setGroup g f).setts = s.setts := rfl
@[simp] theorem State.setGroup_ctxs (s : State) (g : Nat) (f : Group → Group) : (s.setGroup g f).ctxs = s.ctxs := rfl
@[simp] theorem State.setGroup_bound (s : State) (g : Nat) (f : Group → Group) : (s.setGroup g f).bound = s.bound := rfl
@[simp] theorem State.setGroup_queues (s : State) (g : Nat) (f : Group → Group) : (s.setGroup g f).queues = s.queues := rfl
@[simp] theorem State.setGroup_grids (s : State) (g : Nat) (f : Group → Group) : (s.setGroup g f).grids = s.grids := rfl
@[simp] theorem State.setGroup_sites (s : State) (g : Nat) (f : Group → Group) : (s.setGroup g f).sites = s.sites := rfl
@[simp] theorem State.setGroup_chips (s : State) (g : Nat) (f : Group → Group) : (s.setGroup g f).chips = s.chips := rfl
@[simp] theorem State.setGroup_hcmd (s : State) (g : Nat) (f : Group → Group) : (s.setGroup g f).hcmd = s.hcmd := rfl
@[simp] theorem State.setGroup_run (s : State) (g : Nat) (f : Group → Group) : (s.setGroup g f).run = s.run := rfl
@[simp] theorem State.setGroup_runs (s : State) (g : Nat) (f : Group → Group) : (s.setGroup g f).runs = s.runs := rfl
@[simp] theorem State.setGroup_timetable (s : State) (g : Nat) (f : Group → Group) : (s.setGroup g f).timetable = s.timetable := rfl
@[simp] theorem State.setGroup_pendingTable (s : State) (g : Nat) (f : Group → Group) : (s.setGroup g f).pendingTable = s.pendingTable := rfl
@[simp] theorem State.setGroup_links (s : State) (g : Nat) (f : Group → Group) : (s.setGroup g f).links = s.links := rfl
@[simp] theorem State.setGroup_transit (s : State) (g : Nat) (f : Group → Group) : (s.setGroup g f).transit = s.transit := rfl
@[simp] theorem State.setGroup_flags (s : State) (g : Nat) (f : Group → Group) : (s.setGroup g f).flags = s.flags := rfl
@[simp] theorem State.setGroup_incs (s : State) (g : Nat) (f : Group → Group) : (s.setGroup g f).incs = s.incs := rfl
@[simp] theorem State.setGroup_outbox (s : State) (g : Nat) (f : Group → Group) : (s.setGroup g f).outbox = s.outbox := rfl
@[simp] theorem State.setGroup_sendq (s : State) (g : Nat) (f : Group → Group) : (s.setGroup g f).sendq = s.sendq := rfl
@[simp] theorem State.setGroup_far (s : State) (g : Nat) (f : Group → Group) : (s.setGroup g f).far = s.far := rfl
@[simp] theorem State.setGroup_ue (s : State) (g : Nat) (f : Group → Group) : (s.setGroup g f).ue = s.ue := rfl
@[simp] theorem State.setGroup_ueOut (s : State) (g : Nat) (f : Group → Group) : (s.setGroup g f).ueOut = s.ueOut := rfl
@[simp] theorem State.setGroup_agenda (s : State) (g : Nat) (f : Group → Group) : (s.setGroup g f).agenda = s.agenda := rfl
@[simp] theorem State.setGroup_free (s : State) (g : Nat) (f : Group → Group) : (s.setGroup g f).free = s.free := rfl
@[simp] theorem State.setGroup_tick (s : State) (g : Nat) (f : Group → Group) : (s.setGroup g f).tick = s.tick := rfl

/-! ### `State.event` -/

@[simp] theorem State.event_cur (s : State) (c : Nat) (e : Event) : (s.event c e).cur = s.cur := rfl
@[simp] theorem State.event_others (s : State) (c : Nat) (e : Event) : (s.event c e).others = s.others := rfl
@[simp] theorem State.event_mem (s : State) (c : Nat) (e : Event) : (s.event c e).mem = s.mem := rfl
@[simp] theorem State.event_packed (s : State) (c : Nat) (e : Event) : (s.event c e).packed = s.packed := rfl
@[simp] theorem State.event_frames (s : State) (c : Nat) (e : Event) : (s.event c e).frames = s.frames := rfl
@[simp] theorem State.event_l1 (s : State) (c : Nat) (e : Event) : (s.event c e).l1 = s.l1 := rfl
@[simp] theorem State.event_reqs (s : State) (c : Nat) (e : Event) : (s.event c e).reqs = s.reqs := rfl
@[simp] theorem State.event_gtc (s : State) (c : Nat) (e : Event) : (s.event c e).gtc = s.gtc := rfl
@[simp] theorem State.event_skewBound (s : State) (c : Nat) (e : Event) : (s.event c e).skewBound = s.skewBound := rfl
@[simp] theorem State.event_locked (s : State) (c : Nat) (e : Event) : (s.event c e).locked = s.locked := rfl
@[simp] theorem State.event_rate (s : State) (c : Nat) (e : Event) : (s.event c e).rate = s.rate := rfl
@[simp] theorem State.event_stepped (s : State) (c : Nat) (e : Event) : (s.event c e).stepped = s.stepped := rfl
@[simp] theorem State.event_holdover (s : State) (c : Nat) (e : Event) : (s.event c e).holdover = s.holdover := rfl
@[simp] theorem State.event_ownPkg (s : State) (c : Nat) (e : Event) : (s.event c e).ownPkg = s.ownPkg := rfl
@[simp] theorem State.event_domain (s : State) (c : Nat) (e : Event) : (s.event c e).domain = s.domain := rfl
@[simp] theorem State.event_grandmaster (s : State) (c : Nat) (e : Event) : (s.event c e).grandmaster = s.grandmaster := rfl
@[simp] theorem State.event_bringup (s : State) (c : Nat) (e : Event) : (s.event c e).bringup = s.bringup := rfl
@[simp] theorem State.event_setts (s : State) (c : Nat) (e : Event) : (s.event c e).setts = s.setts := rfl
@[simp] theorem State.event_bound (s : State) (c : Nat) (e : Event) : (s.event c e).bound = s.bound := rfl
@[simp] theorem State.event_queues (s : State) (c : Nat) (e : Event) : (s.event c e).queues = s.queues := rfl
@[simp] theorem State.event_grids (s : State) (c : Nat) (e : Event) : (s.event c e).grids = s.grids := rfl
@[simp] theorem State.event_sites (s : State) (c : Nat) (e : Event) : (s.event c e).sites = s.sites := rfl
@[simp] theorem State.event_chips (s : State) (c : Nat) (e : Event) : (s.event c e).chips = s.chips := rfl
@[simp] theorem State.event_hcmd (s : State) (c : Nat) (e : Event) : (s.event c e).hcmd = s.hcmd := rfl
@[simp] theorem State.event_run (s : State) (c : Nat) (e : Event) : (s.event c e).run = s.run := rfl
@[simp] theorem State.event_runs (s : State) (c : Nat) (e : Event) : (s.event c e).runs = s.runs := rfl
@[simp] theorem State.event_timetable (s : State) (c : Nat) (e : Event) : (s.event c e).timetable = s.timetable := rfl
@[simp] theorem State.event_pendingTable (s : State) (c : Nat) (e : Event) : (s.event c e).pendingTable = s.pendingTable := rfl
@[simp] theorem State.event_groups (s : State) (c : Nat) (e : Event) : (s.event c e).groups = s.groups := rfl
@[simp] theorem State.event_links (s : State) (c : Nat) (e : Event) : (s.event c e).links = s.links := rfl
@[simp] theorem State.event_transit (s : State) (c : Nat) (e : Event) : (s.event c e).transit = s.transit := rfl
@[simp] theorem State.event_flags (s : State) (c : Nat) (e : Event) : (s.event c e).flags = s.flags := rfl
@[simp] theorem State.event_incs (s : State) (c : Nat) (e : Event) : (s.event c e).incs = s.incs := rfl
@[simp] theorem State.event_outbox (s : State) (c : Nat) (e : Event) : (s.event c e).outbox = s.outbox := rfl
@[simp] theorem State.event_sendq (s : State) (c : Nat) (e : Event) : (s.event c e).sendq = s.sendq := rfl
@[simp] theorem State.event_far (s : State) (c : Nat) (e : Event) : (s.event c e).far = s.far := rfl
@[simp] theorem State.event_ue (s : State) (c : Nat) (e : Event) : (s.event c e).ue = s.ue := rfl
@[simp] theorem State.event_ueOut (s : State) (c : Nat) (e : Event) : (s.event c e).ueOut = s.ueOut := rfl
@[simp] theorem State.event_agenda (s : State) (c : Nat) (e : Event) : (s.event c e).agenda = s.agenda := rfl
@[simp] theorem State.event_free (s : State) (c : Nat) (e : Event) : (s.event c e).free = s.free := rfl
@[simp] theorem State.event_tick (s : State) (c : Nat) (e : Event) : (s.event c e).tick = s.tick := rfl

/-! ### `State.count` -/

@[simp] theorem State.count_cur (s : State) (c n k x : Nat) : (s.count c n k x).cur = s.cur := rfl
@[simp] theorem State.count_others (s : State) (c n k x : Nat) : (s.count c n k x).others = s.others := rfl
@[simp] theorem State.count_mem (s : State) (c n k x : Nat) : (s.count c n k x).mem = s.mem := rfl
@[simp] theorem State.count_packed (s : State) (c n k x : Nat) : (s.count c n k x).packed = s.packed := rfl
@[simp] theorem State.count_frames (s : State) (c n k x : Nat) : (s.count c n k x).frames = s.frames := rfl
@[simp] theorem State.count_l1 (s : State) (c n k x : Nat) : (s.count c n k x).l1 = s.l1 := rfl
@[simp] theorem State.count_reqs (s : State) (c n k x : Nat) : (s.count c n k x).reqs = s.reqs := rfl
@[simp] theorem State.count_gtc (s : State) (c n k x : Nat) : (s.count c n k x).gtc = s.gtc := rfl
@[simp] theorem State.count_skewBound (s : State) (c n k x : Nat) : (s.count c n k x).skewBound = s.skewBound := rfl
@[simp] theorem State.count_locked (s : State) (c n k x : Nat) : (s.count c n k x).locked = s.locked := rfl
@[simp] theorem State.count_rate (s : State) (c n k x : Nat) : (s.count c n k x).rate = s.rate := rfl
@[simp] theorem State.count_stepped (s : State) (c n k x : Nat) : (s.count c n k x).stepped = s.stepped := rfl
@[simp] theorem State.count_holdover (s : State) (c n k x : Nat) : (s.count c n k x).holdover = s.holdover := rfl
@[simp] theorem State.count_ownPkg (s : State) (c n k x : Nat) : (s.count c n k x).ownPkg = s.ownPkg := rfl
@[simp] theorem State.count_domain (s : State) (c n k x : Nat) : (s.count c n k x).domain = s.domain := rfl
@[simp] theorem State.count_grandmaster (s : State) (c n k x : Nat) : (s.count c n k x).grandmaster = s.grandmaster := rfl
@[simp] theorem State.count_bringup (s : State) (c n k x : Nat) : (s.count c n k x).bringup = s.bringup := rfl
@[simp] theorem State.count_setts (s : State) (c n k x : Nat) : (s.count c n k x).setts = s.setts := rfl
@[simp] theorem State.count_bound (s : State) (c n k x : Nat) : (s.count c n k x).bound = s.bound := rfl
@[simp] theorem State.count_queues (s : State) (c n k x : Nat) : (s.count c n k x).queues = s.queues := rfl
@[simp] theorem State.count_grids (s : State) (c n k x : Nat) : (s.count c n k x).grids = s.grids := rfl
@[simp] theorem State.count_sites (s : State) (c n k x : Nat) : (s.count c n k x).sites = s.sites := rfl
@[simp] theorem State.count_chips (s : State) (c n k x : Nat) : (s.count c n k x).chips = s.chips := rfl
@[simp] theorem State.count_hcmd (s : State) (c n k x : Nat) : (s.count c n k x).hcmd = s.hcmd := rfl
@[simp] theorem State.count_run (s : State) (c n k x : Nat) : (s.count c n k x).run = s.run := rfl
@[simp] theorem State.count_runs (s : State) (c n k x : Nat) : (s.count c n k x).runs = s.runs := rfl
@[simp] theorem State.count_timetable (s : State) (c n k x : Nat) : (s.count c n k x).timetable = s.timetable := rfl
@[simp] theorem State.count_pendingTable (s : State) (c n k x : Nat) : (s.count c n k x).pendingTable = s.pendingTable := rfl
@[simp] theorem State.count_groups (s : State) (c n k x : Nat) : (s.count c n k x).groups = s.groups := rfl
@[simp] theorem State.count_links (s : State) (c n k x : Nat) : (s.count c n k x).links = s.links := rfl
@[simp] theorem State.count_transit (s : State) (c n k x : Nat) : (s.count c n k x).transit = s.transit := rfl
@[simp] theorem State.count_flags (s : State) (c n k x : Nat) : (s.count c n k x).flags = s.flags := rfl
@[simp] theorem State.count_incs (s : State) (c n k x : Nat) : (s.count c n k x).incs = s.incs := rfl
@[simp] theorem State.count_outbox (s : State) (c n k x : Nat) : (s.count c n k x).outbox = s.outbox := rfl
@[simp] theorem State.count_sendq (s : State) (c n k x : Nat) : (s.count c n k x).sendq = s.sendq := rfl
@[simp] theorem State.count_far (s : State) (c n k x : Nat) : (s.count c n k x).far = s.far := rfl
@[simp] theorem State.count_ue (s : State) (c n k x : Nat) : (s.count c n k x).ue = s.ue := rfl
@[simp] theorem State.count_ueOut (s : State) (c n k x : Nat) : (s.count c n k x).ueOut = s.ueOut := rfl
@[simp] theorem State.count_agenda (s : State) (c n k x : Nat) : (s.count c n k x).agenda = s.agenda := rfl
@[simp] theorem State.count_free (s : State) (c n k x : Nat) : (s.count c n k x).free = s.free := rfl
@[simp] theorem State.count_tick (s : State) (c n k x : Nat) : (s.count c n k x).tick = s.tick := rfl

@[simp] theorem State.setCur_cur (s : State) (f : Team → Team) : (s.setCur f).cur = f s.cur := rfl
@[simp] theorem State.setRun_run (s : State) (f : Run → Run) : (s.setRun f).run = f s.run := rfl

/-! ### `State.countCur` -/

@[simp] theorem State.countCur_cur (s : State) (k n : Nat) : (s.countCur k n).cur = s.cur := by unfold State.countCur; split <;> rfl
@[simp] theorem State.countCur_others (s : State) (k n : Nat) : (s.countCur k n).others = s.others := by unfold State.countCur; split <;> rfl
@[simp] theorem State.countCur_mem (s : State) (k n : Nat) : (s.countCur k n).mem = s.mem := by unfold State.countCur; split <;> rfl
@[simp] theorem State.countCur_packed (s : State) (k n : Nat) : (s.countCur k n).packed = s.packed := by unfold State.countCur; split <;> rfl
@[simp] theorem State.countCur_frames (s : State) (k n : Nat) : (s.countCur k n).frames = s.frames := by unfold State.countCur; split <;> rfl
@[simp] theorem State.countCur_l1 (s : State) (k n : Nat) : (s.countCur k n).l1 = s.l1 := by unfold State.countCur; split <;> rfl
@[simp] theorem State.countCur_reqs (s : State) (k n : Nat) : (s.countCur k n).reqs = s.reqs := by unfold State.countCur; split <;> rfl
@[simp] theorem State.countCur_gtc (s : State) (k n : Nat) : (s.countCur k n).gtc = s.gtc := by unfold State.countCur; split <;> rfl
@[simp] theorem State.countCur_skewBound (s : State) (k n : Nat) : (s.countCur k n).skewBound = s.skewBound := by unfold State.countCur; split <;> rfl
@[simp] theorem State.countCur_locked (s : State) (k n : Nat) : (s.countCur k n).locked = s.locked := by unfold State.countCur; split <;> rfl
@[simp] theorem State.countCur_rate (s : State) (k n : Nat) : (s.countCur k n).rate = s.rate := by unfold State.countCur; split <;> rfl
@[simp] theorem State.countCur_stepped (s : State) (k n : Nat) : (s.countCur k n).stepped = s.stepped := by unfold State.countCur; split <;> rfl
@[simp] theorem State.countCur_holdover (s : State) (k n : Nat) : (s.countCur k n).holdover = s.holdover := by unfold State.countCur; split <;> rfl
@[simp] theorem State.countCur_ownPkg (s : State) (k n : Nat) : (s.countCur k n).ownPkg = s.ownPkg := by unfold State.countCur; split <;> rfl
@[simp] theorem State.countCur_domain (s : State) (k n : Nat) : (s.countCur k n).domain = s.domain := by unfold State.countCur; split <;> rfl
@[simp] theorem State.countCur_grandmaster (s : State) (k n : Nat) : (s.countCur k n).grandmaster = s.grandmaster := by unfold State.countCur; split <;> rfl
@[simp] theorem State.countCur_bringup (s : State) (k n : Nat) : (s.countCur k n).bringup = s.bringup := by unfold State.countCur; split <;> rfl
@[simp] theorem State.countCur_setts (s : State) (k n : Nat) : (s.countCur k n).setts = s.setts := by unfold State.countCur; split <;> rfl
@[simp] theorem State.countCur_bound (s : State) (k n : Nat) : (s.countCur k n).bound = s.bound := by unfold State.countCur; split <;> rfl
@[simp] theorem State.countCur_queues (s : State) (k n : Nat) : (s.countCur k n).queues = s.queues := by unfold State.countCur; split <;> rfl
@[simp] theorem State.countCur_grids (s : State) (k n : Nat) : (s.countCur k n).grids = s.grids := by unfold State.countCur; split <;> rfl
@[simp] theorem State.countCur_sites (s : State) (k n : Nat) : (s.countCur k n).sites = s.sites := by unfold State.countCur; split <;> rfl
@[simp] theorem State.countCur_chips (s : State) (k n : Nat) : (s.countCur k n).chips = s.chips := by unfold State.countCur; split <;> rfl
@[simp] theorem State.countCur_hcmd (s : State) (k n : Nat) : (s.countCur k n).hcmd = s.hcmd := by unfold State.countCur; split <;> rfl
@[simp] theorem State.countCur_run (s : State) (k n : Nat) : (s.countCur k n).run = s.run := by unfold State.countCur; split <;> rfl
@[simp] theorem State.countCur_runs (s : State) (k n : Nat) : (s.countCur k n).runs = s.runs := by unfold State.countCur; split <;> rfl
@[simp] theorem State.countCur_timetable (s : State) (k n : Nat) : (s.countCur k n).timetable = s.timetable := by unfold State.countCur; split <;> rfl
@[simp] theorem State.countCur_pendingTable (s : State) (k n : Nat) : (s.countCur k n).pendingTable = s.pendingTable := by unfold State.countCur; split <;> rfl
@[simp] theorem State.countCur_groups (s : State) (k n : Nat) : (s.countCur k n).groups = s.groups := by unfold State.countCur; split <;> rfl
@[simp] theorem State.countCur_links (s : State) (k n : Nat) : (s.countCur k n).links = s.links := by unfold State.countCur; split <;> rfl
@[simp] theorem State.countCur_transit (s : State) (k n : Nat) : (s.countCur k n).transit = s.transit := by unfold State.countCur; split <;> rfl
@[simp] theorem State.countCur_flags (s : State) (k n : Nat) : (s.countCur k n).flags = s.flags := by unfold State.countCur; split <;> rfl
@[simp] theorem State.countCur_incs (s : State) (k n : Nat) : (s.countCur k n).incs = s.incs := by unfold State.countCur; split <;> rfl
@[simp] theorem State.countCur_outbox (s : State) (k n : Nat) : (s.countCur k n).outbox = s.outbox := by unfold State.countCur; split <;> rfl
@[simp] theorem State.countCur_sendq (s : State) (k n : Nat) : (s.countCur k n).sendq = s.sendq := by unfold State.countCur; split <;> rfl
@[simp] theorem State.countCur_far (s : State) (k n : Nat) : (s.countCur k n).far = s.far := by unfold State.countCur; split <;> rfl
@[simp] theorem State.countCur_ue (s : State) (k n : Nat) : (s.countCur k n).ue = s.ue := by unfold State.countCur; split <;> rfl
@[simp] theorem State.countCur_ueOut (s : State) (k n : Nat) : (s.countCur k n).ueOut = s.ueOut := by unfold State.countCur; split <;> rfl
@[simp] theorem State.countCur_agenda (s : State) (k n : Nat) : (s.countCur k n).agenda = s.agenda := by unfold State.countCur; split <;> rfl
@[simp] theorem State.countCur_free (s : State) (k n : Nat) : (s.countCur k n).free = s.free := by unfold State.countCur; split <;> rfl
@[simp] theorem State.countCur_tick (s : State) (k n : Nat) : (s.countCur k n).tick = s.tick := by unfold State.countCur; split <;> rfl

/-! ### `Team.setS` and `Team.setC` -/

@[simp] theorem Team.setS_uid (t : Team) (d : Reg) (x : Word) : (t.setS d x).uid = t.uid := by unfold Team.setS; split <;> rfl
@[simp] theorem Team.setS_status (t : Team) (d : Reg) (x : Word) : (t.setS d x).status = t.status := by unfold Team.setS; split <;> rfl
@[simp] theorem Team.setS_creg (t : Team) (d : Reg) (x : Word) : (t.setS d x).creg = t.creg := by unfold Team.setS; split <;> rfl
@[simp] theorem Team.setS_ls (t : Team) (d : Reg) (x : Word) : (t.setS d x).ls = t.ls := by unfold Team.setS; split <;> rfl
@[simp] theorem Team.setS_le (t : Team) (d : Reg) (x : Word) : (t.setS d x).le = t.le := by unfold Team.setS; split <;> rfl
@[simp] theorem Team.setS_lc (t : Team) (d : Reg) (x : Word) : (t.setS d x).lc = t.lc := by unfold Team.setS; split <;> rfl
@[simp] theorem Team.setS_armed (t : Team) (d : Reg) (x : Word) : (t.setS d x).armed = t.armed := by unfold Team.setS; split <;> rfl
@[simp] theorem Team.setS_spc (t : Team) (d : Reg) (x : Word) : (t.setS d x).spc = t.spc := by unfold Team.setS; split <;> rfl
@[simp] theorem Team.setS_mode (t : Team) (d : Reg) (x : Word) : (t.setS d x).mode = t.mode := by unfold Team.setS; split <;> rfl
@[simp] theorem Team.setS_fstat (t : Team) (d : Reg) (x : Word) : (t.setS d x).fstat = t.fstat := by unfold Team.setS; split <;> rfl
@[simp] theorem Team.setS_ftrapen (t : Team) (d : Reg) (x : Word) : (t.setS d x).ftrapen = t.ftrapen := by unfold Team.setS; split <;> rfl
@[simp] theorem Team.setS_fmode (t : Team) (d : Reg) (x : Word) : (t.setS d x).fmode = t.fmode := by unfold Team.setS; split <;> rfl
@[simp] theorem Team.setS_srseed (t : Team) (d : Reg) (x : Word) : (t.setS d x).srseed = t.srseed := by unfold Team.setS; split <;> rfl
@[simp] theorem Team.setS_seedSet (t : Team) (d : Reg) (x : Word) : (t.setS d x).seedSet = t.seedSet := by unfold Team.setS; split <;> rfl
@[simp] theorem Team.setS_pkr (t : Team) (d : Reg) (x : Word) : (t.setS d x).pkr = t.pkr := by unfold Team.setS; split <;> rfl
@[simp] theorem Team.setS_wdoglim (t : Team) (d : Reg) (x : Word) : (t.setS d x).wdoglim = t.wdoglim := by unfold Team.setS; split <;> rfl
@[simp] theorem Team.setS_hcause (t : Team) (d : Reg) (x : Word) : (t.setS d x).hcause = t.hcause := by unfold Team.setS; split <;> rfl
@[simp] theorem Team.setS_hva (t : Team) (d : Reg) (x : Word) : (t.setS d x).hva = t.hva := by unfold Team.setS; split <;> rfl
@[simp] theorem Team.setS_hmask (t : Team) (d : Reg) (x : Word) : (t.setS d x).hmask = t.hmask := by unfold Team.setS; split <;> rfl
@[simp] theorem Team.setS_hrec (t : Team) (d : Reg) (x : Word) : (t.setS d x).hrec = t.hrec := by unfold Team.setS; split <;> rfl
@[simp] theorem Team.setS_area (t : Team) (d : Reg) (x : Word) : (t.setS d x).area = t.area := by unfold Team.setS; split <;> rfl
@[simp] theorem Team.setS_teamIndex (t : Team) (d : Reg) (x : Word) : (t.setS d x).teamIndex = t.teamIndex := by unfold Team.setS; split <;> rfl
@[simp] theorem Team.setS_gridId (t : Team) (d : Reg) (x : Word) : (t.setS d x).gridId = t.gridId := by unfold Team.setS; split <;> rfl
@[simp] theorem Team.setS_gangId (t : Team) (d : Reg) (x : Word) : (t.setS d x).gangId = t.gangId := by unfold Team.setS; split <;> rfl
@[simp] theorem Team.setS_gangSize (t : Team) (d : Reg) (x : Word) : (t.setS d x).gangSize = t.gangSize := by unfold Team.setS; split <;> rfl
@[simp] theorem Team.setS_sett (t : Team) (d : Reg) (x : Word) : (t.setS d x).sett = t.sett := by unfold Team.setS; split <;> rfl
@[simp] theorem Team.setS_core (t : Team) (d : Reg) (x : Word) : (t.setS d x).core = t.core := by unfold Team.setS; split <;> rfl
@[simp] theorem Team.setS_pair (t : Team) (d : Reg) (x : Word) : (t.setS d x).pair = t.pair := by unfold Team.setS; split <;> rfl
@[simp] theorem Team.setS_ctx (t : Team) (d : Reg) (x : Word) : (t.setS d x).ctx = t.ctx := by unfold Team.setS; split <;> rfl
@[simp] theorem Team.setS_kern (t : Team) (d : Reg) (x : Word) : (t.setS d x).kern = t.kern := by unfold Team.setS; split <;> rfl
@[simp] theorem Team.setS_cmsize (t : Team) (d : Reg) (x : Word) : (t.setS d x).cmsize = t.cmsize := by unfold Team.setS; split <;> rfl
@[simp] theorem Team.setS_kspsize (t : Team) (d : Reg) (x : Word) : (t.setS d x).kspsize = t.kspsize := by unfold Team.setS; split <;> rfl
@[simp] theorem Team.setS_acctiles (t : Team) (d : Reg) (x : Word) : (t.setS d x).acctiles = t.acctiles := by unfold Team.setS; split <;> rfl
@[simp] theorem Team.setS_cbase (t : Team) (d : Reg) (x : Word) : (t.setS d x).cbase = t.cbase := by unfold Team.setS; split <;> rfl
@[simp] theorem Team.setS_ccluster (t : Team) (d : Reg) (x : Word) : (t.setS d x).ccluster = t.ccluster := by unfold Team.setS; split <;> rfl
@[simp] theorem Team.setS_liveRec (t : Team) (d : Reg) (x : Word) : (t.setS d x).liveRec = t.liveRec := by unfold Team.setS; split <;> rfl
@[simp] theorem Team.setS_reserve (t : Team) (d : Reg) (x : Word) : (t.setS d x).reserve = t.reserve := by unfold Team.setS; split <;> rfl
@[simp] theorem Team.setS_record (t : Team) (d : Reg) (x : Word) : (t.setS d x).record = t.record := by unfold Team.setS; split <;> rfl
@[simp] theorem Team.setS_wait (t : Team) (d : Reg) (x : Word) : (t.setS d x).wait = t.wait := by unfold Team.setS; split <;> rfl
@[simp] theorem Team.setS_sent (t : Team) (d : Reg) (x : Word) : (t.setS d x).sent = t.sent := by unfold Team.setS; split <;> rfl
@[simp] theorem Team.setS_replies (t : Team) (d : Reg) (x : Word) : (t.setS d x).replies = t.replies := by unfold Team.setS; split <;> rfl
@[simp] theorem Team.setS_ctxSlot (t : Team) (d : Reg) (x : Word) : (t.setS d x).ctxSlot = t.ctxSlot := by unfold Team.setS; split <;> rfl
@[simp] theorem Team.setS_gen (t : Team) (d : Reg) (x : Word) : (t.setS d x).gen = t.gen := by unfold Team.setS; split <;> rfl
@[simp] theorem Team.setS_hqueue (t : Team) (d : Reg) (x : Word) : (t.setS d x).hqueue = t.hqueue := by unfold Team.setS; split <;> rfl
@[simp] theorem Team.setS_inv (t : Team) (d : Reg) (x : Word) : (t.setS d x).inv = t.inv := by unfold Team.setS; split <;> rfl
@[simp] theorem Team.setS_frame (t : Team) (d : Reg) (x : Word) : (t.setS d x).frame = t.frame := by unfold Team.setS; split <;> rfl
@[simp] theorem Team.setS_hkern (t : Team) (d : Reg) (x : Word) : (t.setS d x).hkern = t.hkern := by unfold Team.setS; split <;> rfl
@[simp] theorem Team.setS_userWork (t : Team) (d : Reg) (x : Word) : (t.setS d x).userWork = t.userWork := by unfold Team.setS; split <;> rfl
@[simp] theorem Team.setS_pendf (t : Team) (d : Reg) (x : Word) : (t.setS d x).pendf = t.pendf := by unfold Team.setS; split <;> rfl
@[simp] theorem Team.setS_lanes (t : Team) (d : Reg) (x : Word) : (t.setS d x).lanes = t.lanes := by unfold Team.setS; split <;> rfl
@[simp] theorem Team.setS_blocks (t : Team) (d : Reg) (x : Word) : (t.setS d x).blocks = t.blocks := by unfold Team.setS; split <;> rfl
@[simp] theorem Team.setS_queue (t : Team) (d : Reg) (x : Word) : (t.setS d x).queue = t.queue := by unfold Team.setS; split <;> rfl
@[simp] theorem Team.setS_block (t : Team) (d : Reg) (x : Word) : (t.setS d x).block = t.block := by unfold Team.setS; split <;> rfl
@[simp] theorem Team.setS_paths (t : Team) (d : Reg) (x : Word) : (t.setS d x).paths = t.paths := by unfold Team.setS; split <;> rfl
@[simp] theorem Team.setS_recs (t : Team) (d : Reg) (x : Word) : (t.setS d x).recs = t.recs := by unfold Team.setS; split <;> rfl
@[simp] theorem Team.setS_ready (t : Team) (d : Reg) (x : Word) : (t.setS d x).ready = t.ready := by unfold Team.setS; split <;> rfl
@[simp] theorem Team.setS_curPath (t : Team) (d : Reg) (x : Word) : (t.setS d x).curPath = t.curPath := by unfold Team.setS; split <;> rfl
@[simp] theorem Team.setS_flagged (t : Team) (d : Reg) (x : Word) : (t.setS d x).flagged = t.flagged := by unfold Team.setS; split <;> rfl
@[simp] theorem Team.setS_chans (t : Team) (d : Reg) (x : Word) : (t.setS d x).chans = t.chans := by unfold Team.setS; split <;> rfl
@[simp] theorem Team.setS_mvq (t : Team) (d : Reg) (x : Word) : (t.setS d x).mvq = t.mvq := by unfold Team.setS; split <;> rfl
@[simp] theorem Team.setS_mxq (t : Team) (d : Reg) (x : Word) : (t.setS d x).mxq = t.mxq := by unfold Team.setS; split <;> rfl
@[simp] theorem Team.setS_fired (t : Team) (d : Reg) (x : Word) : (t.setS d x).fired = t.fired := by unfold Team.setS; split <;> rfl
@[simp] theorem Team.setS_arrives (t : Team) (d : Reg) (x : Word) : (t.setS d x).arrives = t.arrives := by unfold Team.setS; split <;> rfl
@[simp] theorem Team.setS_need (t : Team) (d : Reg) (x : Word) : (t.setS d x).need = t.need := by unfold Team.setS; split <;> rfl
@[simp] theorem Team.setS_wlog (t : Team) (d : Reg) (x : Word) : (t.setS d x).wlog = t.wlog := by unfold Team.setS; split <;> rfl
@[simp] theorem Team.setS_unwaited (t : Team) (d : Reg) (x : Word) : (t.setS d x).unwaited = t.unwaited := by unfold Team.setS; split <;> rfl
@[simp] theorem Team.setS_acc (t : Team) (d : Reg) (x : Word) : (t.setS d x).acc = t.acc := by unfold Team.setS; split <;> rfl
@[simp] theorem Team.setS_span (t : Team) (d : Reg) (x : Word) : (t.setS d x).span = t.span := by unfold Team.setS; split <;> rfl
@[simp] theorem Team.setS_spanStatus (t : Team) (d : Reg) (x : Word) : (t.setS d x).spanStatus = t.spanStatus := by unfold Team.setS; split <;> rfl
@[simp] theorem Team.setS_stt (t : Team) (d : Reg) (x : Word) : (t.setS d x).stt = t.stt := by unfold Team.setS; split <;> rfl
@[simp] theorem Team.setS_evWait (t : Team) (d : Reg) (x : Word) : (t.setS d x).evWait = t.evWait := by unfold Team.setS; split <;> rfl
@[simp] theorem Team.setS_seen (t : Team) (d : Reg) (x : Word) : (t.setS d x).seen = t.seen := by unfold Team.setS; split <;> rfl
@[simp] theorem Team.setS_want (t : Team) (d : Reg) (x : Word) : (t.setS d x).want = t.want := by unfold Team.setS; split <;> rfl
@[simp] theorem Team.setS_placed (t : Team) (d : Reg) (x : Word) : (t.setS d x).placed = t.placed := by unfold Team.setS; split <;> rfl
@[simp] theorem Team.setC_uid (t : Team) (d : Bit3) (x : Bool) : (t.setC d x).uid = t.uid := rfl
@[simp] theorem Team.setC_status (t : Team) (d : Bit3) (x : Bool) : (t.setC d x).status = t.status := rfl
@[simp] theorem Team.setC_sregs (t : Team) (d : Bit3) (x : Bool) : (t.setC d x).sregs = t.sregs := rfl
@[simp] theorem Team.setC_ls (t : Team) (d : Bit3) (x : Bool) : (t.setC d x).ls = t.ls := rfl
@[simp] theorem Team.setC_le (t : Team) (d : Bit3) (x : Bool) : (t.setC d x).le = t.le := rfl
@[simp] theorem Team.setC_lc (t : Team) (d : Bit3) (x : Bool) : (t.setC d x).lc = t.lc := rfl
@[simp] theorem Team.setC_armed (t : Team) (d : Bit3) (x : Bool) : (t.setC d x).armed = t.armed := rfl
@[simp] theorem Team.setC_spc (t : Team) (d : Bit3) (x : Bool) : (t.setC d x).spc = t.spc := rfl
@[simp] theorem Team.setC_mode (t : Team) (d : Bit3) (x : Bool) : (t.setC d x).mode = t.mode := rfl
@[simp] theorem Team.setC_fstat (t : Team) (d : Bit3) (x : Bool) : (t.setC d x).fstat = t.fstat := rfl
@[simp] theorem Team.setC_ftrapen (t : Team) (d : Bit3) (x : Bool) : (t.setC d x).ftrapen = t.ftrapen := rfl
@[simp] theorem Team.setC_fmode (t : Team) (d : Bit3) (x : Bool) : (t.setC d x).fmode = t.fmode := rfl
@[simp] theorem Team.setC_srseed (t : Team) (d : Bit3) (x : Bool) : (t.setC d x).srseed = t.srseed := rfl
@[simp] theorem Team.setC_seedSet (t : Team) (d : Bit3) (x : Bool) : (t.setC d x).seedSet = t.seedSet := rfl
@[simp] theorem Team.setC_pkr (t : Team) (d : Bit3) (x : Bool) : (t.setC d x).pkr = t.pkr := rfl
@[simp] theorem Team.setC_wdoglim (t : Team) (d : Bit3) (x : Bool) : (t.setC d x).wdoglim = t.wdoglim := rfl
@[simp] theorem Team.setC_hcause (t : Team) (d : Bit3) (x : Bool) : (t.setC d x).hcause = t.hcause := rfl
@[simp] theorem Team.setC_hva (t : Team) (d : Bit3) (x : Bool) : (t.setC d x).hva = t.hva := rfl
@[simp] theorem Team.setC_hmask (t : Team) (d : Bit3) (x : Bool) : (t.setC d x).hmask = t.hmask := rfl
@[simp] theorem Team.setC_hrec (t : Team) (d : Bit3) (x : Bool) : (t.setC d x).hrec = t.hrec := rfl
@[simp] theorem Team.setC_area (t : Team) (d : Bit3) (x : Bool) : (t.setC d x).area = t.area := rfl
@[simp] theorem Team.setC_teamIndex (t : Team) (d : Bit3) (x : Bool) : (t.setC d x).teamIndex = t.teamIndex := rfl
@[simp] theorem Team.setC_gridId (t : Team) (d : Bit3) (x : Bool) : (t.setC d x).gridId = t.gridId := rfl
@[simp] theorem Team.setC_gangId (t : Team) (d : Bit3) (x : Bool) : (t.setC d x).gangId = t.gangId := rfl
@[simp] theorem Team.setC_gangSize (t : Team) (d : Bit3) (x : Bool) : (t.setC d x).gangSize = t.gangSize := rfl
@[simp] theorem Team.setC_sett (t : Team) (d : Bit3) (x : Bool) : (t.setC d x).sett = t.sett := rfl
@[simp] theorem Team.setC_core (t : Team) (d : Bit3) (x : Bool) : (t.setC d x).core = t.core := rfl
@[simp] theorem Team.setC_pair (t : Team) (d : Bit3) (x : Bool) : (t.setC d x).pair = t.pair := rfl
@[simp] theorem Team.setC_ctx (t : Team) (d : Bit3) (x : Bool) : (t.setC d x).ctx = t.ctx := rfl
@[simp] theorem Team.setC_kern (t : Team) (d : Bit3) (x : Bool) : (t.setC d x).kern = t.kern := rfl
@[simp] theorem Team.setC_cmsize (t : Team) (d : Bit3) (x : Bool) : (t.setC d x).cmsize = t.cmsize := rfl
@[simp] theorem Team.setC_kspsize (t : Team) (d : Bit3) (x : Bool) : (t.setC d x).kspsize = t.kspsize := rfl
@[simp] theorem Team.setC_acctiles (t : Team) (d : Bit3) (x : Bool) : (t.setC d x).acctiles = t.acctiles := rfl
@[simp] theorem Team.setC_cbase (t : Team) (d : Bit3) (x : Bool) : (t.setC d x).cbase = t.cbase := rfl
@[simp] theorem Team.setC_ccluster (t : Team) (d : Bit3) (x : Bool) : (t.setC d x).ccluster = t.ccluster := rfl
@[simp] theorem Team.setC_liveRec (t : Team) (d : Bit3) (x : Bool) : (t.setC d x).liveRec = t.liveRec := rfl
@[simp] theorem Team.setC_reserve (t : Team) (d : Bit3) (x : Bool) : (t.setC d x).reserve = t.reserve := rfl
@[simp] theorem Team.setC_record (t : Team) (d : Bit3) (x : Bool) : (t.setC d x).record = t.record := rfl
@[simp] theorem Team.setC_wait (t : Team) (d : Bit3) (x : Bool) : (t.setC d x).wait = t.wait := rfl
@[simp] theorem Team.setC_sent (t : Team) (d : Bit3) (x : Bool) : (t.setC d x).sent = t.sent := rfl
@[simp] theorem Team.setC_replies (t : Team) (d : Bit3) (x : Bool) : (t.setC d x).replies = t.replies := rfl
@[simp] theorem Team.setC_ctxSlot (t : Team) (d : Bit3) (x : Bool) : (t.setC d x).ctxSlot = t.ctxSlot := rfl
@[simp] theorem Team.setC_gen (t : Team) (d : Bit3) (x : Bool) : (t.setC d x).gen = t.gen := rfl
@[simp] theorem Team.setC_hqueue (t : Team) (d : Bit3) (x : Bool) : (t.setC d x).hqueue = t.hqueue := rfl
@[simp] theorem Team.setC_inv (t : Team) (d : Bit3) (x : Bool) : (t.setC d x).inv = t.inv := rfl
@[simp] theorem Team.setC_frame (t : Team) (d : Bit3) (x : Bool) : (t.setC d x).frame = t.frame := rfl
@[simp] theorem Team.setC_hkern (t : Team) (d : Bit3) (x : Bool) : (t.setC d x).hkern = t.hkern := rfl
@[simp] theorem Team.setC_userWork (t : Team) (d : Bit3) (x : Bool) : (t.setC d x).userWork = t.userWork := rfl
@[simp] theorem Team.setC_pendf (t : Team) (d : Bit3) (x : Bool) : (t.setC d x).pendf = t.pendf := rfl
@[simp] theorem Team.setC_lanes (t : Team) (d : Bit3) (x : Bool) : (t.setC d x).lanes = t.lanes := rfl
@[simp] theorem Team.setC_blocks (t : Team) (d : Bit3) (x : Bool) : (t.setC d x).blocks = t.blocks := rfl
@[simp] theorem Team.setC_queue (t : Team) (d : Bit3) (x : Bool) : (t.setC d x).queue = t.queue := rfl
@[simp] theorem Team.setC_block (t : Team) (d : Bit3) (x : Bool) : (t.setC d x).block = t.block := rfl
@[simp] theorem Team.setC_paths (t : Team) (d : Bit3) (x : Bool) : (t.setC d x).paths = t.paths := rfl
@[simp] theorem Team.setC_recs (t : Team) (d : Bit3) (x : Bool) : (t.setC d x).recs = t.recs := rfl
@[simp] theorem Team.setC_ready (t : Team) (d : Bit3) (x : Bool) : (t.setC d x).ready = t.ready := rfl
@[simp] theorem Team.setC_curPath (t : Team) (d : Bit3) (x : Bool) : (t.setC d x).curPath = t.curPath := rfl
@[simp] theorem Team.setC_flagged (t : Team) (d : Bit3) (x : Bool) : (t.setC d x).flagged = t.flagged := rfl
@[simp] theorem Team.setC_chans (t : Team) (d : Bit3) (x : Bool) : (t.setC d x).chans = t.chans := rfl
@[simp] theorem Team.setC_mvq (t : Team) (d : Bit3) (x : Bool) : (t.setC d x).mvq = t.mvq := rfl
@[simp] theorem Team.setC_mxq (t : Team) (d : Bit3) (x : Bool) : (t.setC d x).mxq = t.mxq := rfl
@[simp] theorem Team.setC_fired (t : Team) (d : Bit3) (x : Bool) : (t.setC d x).fired = t.fired := rfl
@[simp] theorem Team.setC_arrives (t : Team) (d : Bit3) (x : Bool) : (t.setC d x).arrives = t.arrives := rfl
@[simp] theorem Team.setC_need (t : Team) (d : Bit3) (x : Bool) : (t.setC d x).need = t.need := rfl
@[simp] theorem Team.setC_wlog (t : Team) (d : Bit3) (x : Bool) : (t.setC d x).wlog = t.wlog := rfl
@[simp] theorem Team.setC_unwaited (t : Team) (d : Bit3) (x : Bool) : (t.setC d x).unwaited = t.unwaited := rfl
@[simp] theorem Team.setC_acc (t : Team) (d : Bit3) (x : Bool) : (t.setC d x).acc = t.acc := rfl
@[simp] theorem Team.setC_span (t : Team) (d : Bit3) (x : Bool) : (t.setC d x).span = t.span := rfl
@[simp] theorem Team.setC_spanStatus (t : Team) (d : Bit3) (x : Bool) : (t.setC d x).spanStatus = t.spanStatus := rfl
@[simp] theorem Team.setC_stt (t : Team) (d : Bit3) (x : Bool) : (t.setC d x).stt = t.stt := rfl
@[simp] theorem Team.setC_evWait (t : Team) (d : Bit3) (x : Bool) : (t.setC d x).evWait = t.evWait := rfl
@[simp] theorem Team.setC_seen (t : Team) (d : Bit3) (x : Bool) : (t.setC d x).seen = t.seen := rfl
@[simp] theorem Team.setC_want (t : Team) (d : Bit3) (x : Bool) : (t.setC d x).want = t.want := rfl
@[simp] theorem Team.setC_placed (t : Team) (d : Bit3) (x : Bool) : (t.setC d x).placed = t.placed := rfl

/-! ### Completing an instruction (R28) -/

/-- The end check changes the loop counts, the armed levels and SPC alone. -/
theorem endLevels_eq (a : Word) (ks : List (BitVec 2)) (t : Team) :
    ∃ lc armed spc, endLevels a ks t = { t with lc := lc, armed := armed, spc := spc } := by
  induction ks generalizing t with
  | nil => exact ⟨t.lc, t.armed, t.spc, rfl⟩
  | cons k ks ih =>
    simp only [endLevels]
    split
    · split
      · obtain ⟨lc, ar, sp, h⟩ := ih { t with lc := t.lc.set k.toNat 0, armed := t.armed &&& ~~~(1#4 <<< k.toNat) }
        exact ⟨lc, ar, sp, h⟩
      · exact ⟨_, _, _, rfl⟩
    · exact ih t

theorem Team.advance_eq (t : Team) (n : Nat) : ∃ lc armed spc, t.advance n = { t with lc := lc, armed := armed, spc := spc } := by
  obtain ⟨lc, ar, sp, h⟩ := endLevels_eq (t.spc + BitVec.ofNat 64 (4 * (n - 1))) [3, 2, 1, 0] { t with spc := t.spc + BitVec.ofNat 64 (4 * n) }
  exact ⟨lc, ar, sp, h⟩

@[simp] theorem Team.advance_uid (t : Team) (n : Nat) : (t.advance n).uid = t.uid := by obtain ⟨_, _, _, h⟩ := t.advance_eq n; rw [h]
@[simp] theorem Team.advance_status (t : Team) (n : Nat) : (t.advance n).status = t.status := by obtain ⟨_, _, _, h⟩ := t.advance_eq n; rw [h]
@[simp] theorem Team.advance_sregs (t : Team) (n : Nat) : (t.advance n).sregs = t.sregs := by obtain ⟨_, _, _, h⟩ := t.advance_eq n; rw [h]
@[simp] theorem Team.advance_creg (t : Team) (n : Nat) : (t.advance n).creg = t.creg := by obtain ⟨_, _, _, h⟩ := t.advance_eq n; rw [h]
@[simp] theorem Team.advance_ls (t : Team) (n : Nat) : (t.advance n).ls = t.ls := by obtain ⟨_, _, _, h⟩ := t.advance_eq n; rw [h]
@[simp] theorem Team.advance_le (t : Team) (n : Nat) : (t.advance n).le = t.le := by obtain ⟨_, _, _, h⟩ := t.advance_eq n; rw [h]
@[simp] theorem Team.advance_mode (t : Team) (n : Nat) : (t.advance n).mode = t.mode := by obtain ⟨_, _, _, h⟩ := t.advance_eq n; rw [h]
@[simp] theorem Team.advance_fstat (t : Team) (n : Nat) : (t.advance n).fstat = t.fstat := by obtain ⟨_, _, _, h⟩ := t.advance_eq n; rw [h]
@[simp] theorem Team.advance_ftrapen (t : Team) (n : Nat) : (t.advance n).ftrapen = t.ftrapen := by obtain ⟨_, _, _, h⟩ := t.advance_eq n; rw [h]
@[simp] theorem Team.advance_fmode (t : Team) (n : Nat) : (t.advance n).fmode = t.fmode := by obtain ⟨_, _, _, h⟩ := t.advance_eq n; rw [h]
@[simp] theorem Team.advance_srseed (t : Team) (n : Nat) : (t.advance n).srseed = t.srseed := by obtain ⟨_, _, _, h⟩ := t.advance_eq n; rw [h]
@[simp] theorem Team.advance_seedSet (t : Team) (n : Nat) : (t.advance n).seedSet = t.seedSet := by obtain ⟨_, _, _, h⟩ := t.advance_eq n; rw [h]
@[simp] theorem Team.advance_pkr (t : Team) (n : Nat) : (t.advance n).pkr = t.pkr := by obtain ⟨_, _, _, h⟩ := t.advance_eq n; rw [h]
@[simp] theorem Team.advance_wdoglim (t : Team) (n : Nat) : (t.advance n).wdoglim = t.wdoglim := by obtain ⟨_, _, _, h⟩ := t.advance_eq n; rw [h]
@[simp] theorem Team.advance_hcause (t : Team) (n : Nat) : (t.advance n).hcause = t.hcause := by obtain ⟨_, _, _, h⟩ := t.advance_eq n; rw [h]
@[simp] theorem Team.advance_hva (t : Team) (n : Nat) : (t.advance n).hva = t.hva := by obtain ⟨_, _, _, h⟩ := t.advance_eq n; rw [h]
@[simp] theorem Team.advance_hmask (t : Team) (n : Nat) : (t.advance n).hmask = t.hmask := by obtain ⟨_, _, _, h⟩ := t.advance_eq n; rw [h]
@[simp] theorem Team.advance_hrec (t : Team) (n : Nat) : (t.advance n).hrec = t.hrec := by obtain ⟨_, _, _, h⟩ := t.advance_eq n; rw [h]
@[simp] theorem Team.advance_area (t : Team) (n : Nat) : (t.advance n).area = t.area := by obtain ⟨_, _, _, h⟩ := t.advance_eq n; rw [h]
@[simp] theorem Team.advance_teamIndex (t : Team) (n : Nat) : (t.advance n).teamIndex = t.teamIndex := by obtain ⟨_, _, _, h⟩ := t.advance_eq n; rw [h]
@[simp] theorem Team.advance_gridId (t : Team) (n : Nat) : (t.advance n).gridId = t.gridId := by obtain ⟨_, _, _, h⟩ := t.advance_eq n; rw [h]
@[simp] theorem Team.advance_gangId (t : Team) (n : Nat) : (t.advance n).gangId = t.gangId := by obtain ⟨_, _, _, h⟩ := t.advance_eq n; rw [h]
@[simp] theorem Team.advance_gangSize (t : Team) (n : Nat) : (t.advance n).gangSize = t.gangSize := by obtain ⟨_, _, _, h⟩ := t.advance_eq n; rw [h]
@[simp] theorem Team.advance_sett (t : Team) (n : Nat) : (t.advance n).sett = t.sett := by obtain ⟨_, _, _, h⟩ := t.advance_eq n; rw [h]
@[simp] theorem Team.advance_core (t : Team) (n : Nat) : (t.advance n).core = t.core := by obtain ⟨_, _, _, h⟩ := t.advance_eq n; rw [h]
@[simp] theorem Team.advance_pair (t : Team) (n : Nat) : (t.advance n).pair = t.pair := by obtain ⟨_, _, _, h⟩ := t.advance_eq n; rw [h]
@[simp] theorem Team.advance_ctx (t : Team) (n : Nat) : (t.advance n).ctx = t.ctx := by obtain ⟨_, _, _, h⟩ := t.advance_eq n; rw [h]
@[simp] theorem Team.advance_kern (t : Team) (n : Nat) : (t.advance n).kern = t.kern := by obtain ⟨_, _, _, h⟩ := t.advance_eq n; rw [h]
@[simp] theorem Team.advance_cmsize (t : Team) (n : Nat) : (t.advance n).cmsize = t.cmsize := by obtain ⟨_, _, _, h⟩ := t.advance_eq n; rw [h]
@[simp] theorem Team.advance_kspsize (t : Team) (n : Nat) : (t.advance n).kspsize = t.kspsize := by obtain ⟨_, _, _, h⟩ := t.advance_eq n; rw [h]
@[simp] theorem Team.advance_acctiles (t : Team) (n : Nat) : (t.advance n).acctiles = t.acctiles := by obtain ⟨_, _, _, h⟩ := t.advance_eq n; rw [h]
@[simp] theorem Team.advance_cbase (t : Team) (n : Nat) : (t.advance n).cbase = t.cbase := by obtain ⟨_, _, _, h⟩ := t.advance_eq n; rw [h]
@[simp] theorem Team.advance_ccluster (t : Team) (n : Nat) : (t.advance n).ccluster = t.ccluster := by obtain ⟨_, _, _, h⟩ := t.advance_eq n; rw [h]
@[simp] theorem Team.advance_liveRec (t : Team) (n : Nat) : (t.advance n).liveRec = t.liveRec := by obtain ⟨_, _, _, h⟩ := t.advance_eq n; rw [h]
@[simp] theorem Team.advance_reserve (t : Team) (n : Nat) : (t.advance n).reserve = t.reserve := by obtain ⟨_, _, _, h⟩ := t.advance_eq n; rw [h]
@[simp] theorem Team.advance_record (t : Team) (n : Nat) : (t.advance n).record = t.record := by obtain ⟨_, _, _, h⟩ := t.advance_eq n; rw [h]
@[simp] theorem Team.advance_wait (t : Team) (n : Nat) : (t.advance n).wait = t.wait := by obtain ⟨_, _, _, h⟩ := t.advance_eq n; rw [h]
@[simp] theorem Team.advance_sent (t : Team) (n : Nat) : (t.advance n).sent = t.sent := by obtain ⟨_, _, _, h⟩ := t.advance_eq n; rw [h]
@[simp] theorem Team.advance_replies (t : Team) (n : Nat) : (t.advance n).replies = t.replies := by obtain ⟨_, _, _, h⟩ := t.advance_eq n; rw [h]
@[simp] theorem Team.advance_ctxSlot (t : Team) (n : Nat) : (t.advance n).ctxSlot = t.ctxSlot := by obtain ⟨_, _, _, h⟩ := t.advance_eq n; rw [h]
@[simp] theorem Team.advance_gen (t : Team) (n : Nat) : (t.advance n).gen = t.gen := by obtain ⟨_, _, _, h⟩ := t.advance_eq n; rw [h]
@[simp] theorem Team.advance_hqueue (t : Team) (n : Nat) : (t.advance n).hqueue = t.hqueue := by obtain ⟨_, _, _, h⟩ := t.advance_eq n; rw [h]
@[simp] theorem Team.advance_inv (t : Team) (n : Nat) : (t.advance n).inv = t.inv := by obtain ⟨_, _, _, h⟩ := t.advance_eq n; rw [h]
@[simp] theorem Team.advance_frame (t : Team) (n : Nat) : (t.advance n).frame = t.frame := by obtain ⟨_, _, _, h⟩ := t.advance_eq n; rw [h]
@[simp] theorem Team.advance_hkern (t : Team) (n : Nat) : (t.advance n).hkern = t.hkern := by obtain ⟨_, _, _, h⟩ := t.advance_eq n; rw [h]
@[simp] theorem Team.advance_userWork (t : Team) (n : Nat) : (t.advance n).userWork = t.userWork := by obtain ⟨_, _, _, h⟩ := t.advance_eq n; rw [h]
@[simp] theorem Team.advance_pendf (t : Team) (n : Nat) : (t.advance n).pendf = t.pendf := by obtain ⟨_, _, _, h⟩ := t.advance_eq n; rw [h]
@[simp] theorem Team.advance_lanes (t : Team) (n : Nat) : (t.advance n).lanes = t.lanes := by obtain ⟨_, _, _, h⟩ := t.advance_eq n; rw [h]
@[simp] theorem Team.advance_blocks (t : Team) (n : Nat) : (t.advance n).blocks = t.blocks := by obtain ⟨_, _, _, h⟩ := t.advance_eq n; rw [h]
@[simp] theorem Team.advance_queue (t : Team) (n : Nat) : (t.advance n).queue = t.queue := by obtain ⟨_, _, _, h⟩ := t.advance_eq n; rw [h]
@[simp] theorem Team.advance_block (t : Team) (n : Nat) : (t.advance n).block = t.block := by obtain ⟨_, _, _, h⟩ := t.advance_eq n; rw [h]
@[simp] theorem Team.advance_paths (t : Team) (n : Nat) : (t.advance n).paths = t.paths := by obtain ⟨_, _, _, h⟩ := t.advance_eq n; rw [h]
@[simp] theorem Team.advance_recs (t : Team) (n : Nat) : (t.advance n).recs = t.recs := by obtain ⟨_, _, _, h⟩ := t.advance_eq n; rw [h]
@[simp] theorem Team.advance_ready (t : Team) (n : Nat) : (t.advance n).ready = t.ready := by obtain ⟨_, _, _, h⟩ := t.advance_eq n; rw [h]
@[simp] theorem Team.advance_curPath (t : Team) (n : Nat) : (t.advance n).curPath = t.curPath := by obtain ⟨_, _, _, h⟩ := t.advance_eq n; rw [h]
@[simp] theorem Team.advance_flagged (t : Team) (n : Nat) : (t.advance n).flagged = t.flagged := by obtain ⟨_, _, _, h⟩ := t.advance_eq n; rw [h]
@[simp] theorem Team.advance_chans (t : Team) (n : Nat) : (t.advance n).chans = t.chans := by obtain ⟨_, _, _, h⟩ := t.advance_eq n; rw [h]
@[simp] theorem Team.advance_mvq (t : Team) (n : Nat) : (t.advance n).mvq = t.mvq := by obtain ⟨_, _, _, h⟩ := t.advance_eq n; rw [h]
@[simp] theorem Team.advance_mxq (t : Team) (n : Nat) : (t.advance n).mxq = t.mxq := by obtain ⟨_, _, _, h⟩ := t.advance_eq n; rw [h]
@[simp] theorem Team.advance_fired (t : Team) (n : Nat) : (t.advance n).fired = t.fired := by obtain ⟨_, _, _, h⟩ := t.advance_eq n; rw [h]
@[simp] theorem Team.advance_arrives (t : Team) (n : Nat) : (t.advance n).arrives = t.arrives := by obtain ⟨_, _, _, h⟩ := t.advance_eq n; rw [h]
@[simp] theorem Team.advance_need (t : Team) (n : Nat) : (t.advance n).need = t.need := by obtain ⟨_, _, _, h⟩ := t.advance_eq n; rw [h]
@[simp] theorem Team.advance_wlog (t : Team) (n : Nat) : (t.advance n).wlog = t.wlog := by obtain ⟨_, _, _, h⟩ := t.advance_eq n; rw [h]
@[simp] theorem Team.advance_unwaited (t : Team) (n : Nat) : (t.advance n).unwaited = t.unwaited := by obtain ⟨_, _, _, h⟩ := t.advance_eq n; rw [h]
@[simp] theorem Team.advance_acc (t : Team) (n : Nat) : (t.advance n).acc = t.acc := by obtain ⟨_, _, _, h⟩ := t.advance_eq n; rw [h]
@[simp] theorem Team.advance_span (t : Team) (n : Nat) : (t.advance n).span = t.span := by obtain ⟨_, _, _, h⟩ := t.advance_eq n; rw [h]
@[simp] theorem Team.advance_spanStatus (t : Team) (n : Nat) : (t.advance n).spanStatus = t.spanStatus := by obtain ⟨_, _, _, h⟩ := t.advance_eq n; rw [h]
@[simp] theorem Team.advance_stt (t : Team) (n : Nat) : (t.advance n).stt = t.stt := by obtain ⟨_, _, _, h⟩ := t.advance_eq n; rw [h]
@[simp] theorem Team.advance_evWait (t : Team) (n : Nat) : (t.advance n).evWait = t.evWait := by obtain ⟨_, _, _, h⟩ := t.advance_eq n; rw [h]
@[simp] theorem Team.advance_seen (t : Team) (n : Nat) : (t.advance n).seen = t.seen := by obtain ⟨_, _, _, h⟩ := t.advance_eq n; rw [h]
@[simp] theorem Team.advance_want (t : Team) (n : Nat) : (t.advance n).want = t.want := by obtain ⟨_, _, _, h⟩ := t.advance_eq n; rw [h]
@[simp] theorem Team.advance_placed (t : Team) (n : Nat) : (t.advance n).placed = t.placed := by obtain ⟨_, _, _, h⟩ := t.advance_eq n; rw [h]

@[simp] theorem State.advance_others (s : State) (n : Nat) : (s.advance n).others = s.others := rfl
@[simp] theorem State.advance_mem (s : State) (n : Nat) : (s.advance n).mem = s.mem := rfl
@[simp] theorem State.advance_packed (s : State) (n : Nat) : (s.advance n).packed = s.packed := rfl
@[simp] theorem State.advance_frames (s : State) (n : Nat) : (s.advance n).frames = s.frames := rfl
@[simp] theorem State.advance_l1 (s : State) (n : Nat) : (s.advance n).l1 = s.l1 := rfl
@[simp] theorem State.advance_reqs (s : State) (n : Nat) : (s.advance n).reqs = s.reqs := rfl
@[simp] theorem State.advance_gtc (s : State) (n : Nat) : (s.advance n).gtc = s.gtc := rfl
@[simp] theorem State.advance_skewBound (s : State) (n : Nat) : (s.advance n).skewBound = s.skewBound := rfl
@[simp] theorem State.advance_locked (s : State) (n : Nat) : (s.advance n).locked = s.locked := rfl
@[simp] theorem State.advance_rate (s : State) (n : Nat) : (s.advance n).rate = s.rate := rfl
@[simp] theorem State.advance_stepped (s : State) (n : Nat) : (s.advance n).stepped = s.stepped := rfl
@[simp] theorem State.advance_holdover (s : State) (n : Nat) : (s.advance n).holdover = s.holdover := rfl
@[simp] theorem State.advance_ownPkg (s : State) (n : Nat) : (s.advance n).ownPkg = s.ownPkg := rfl
@[simp] theorem State.advance_domain (s : State) (n : Nat) : (s.advance n).domain = s.domain := rfl
@[simp] theorem State.advance_grandmaster (s : State) (n : Nat) : (s.advance n).grandmaster = s.grandmaster := rfl
@[simp] theorem State.advance_bringup (s : State) (n : Nat) : (s.advance n).bringup = s.bringup := rfl
@[simp] theorem State.advance_setts (s : State) (n : Nat) : (s.advance n).setts = s.setts := rfl
@[simp] theorem State.advance_ctxs (s : State) (n : Nat) : (s.advance n).ctxs = s.ctxs := rfl
@[simp] theorem State.advance_bound (s : State) (n : Nat) : (s.advance n).bound = s.bound := rfl
@[simp] theorem State.advance_queues (s : State) (n : Nat) : (s.advance n).queues = s.queues := rfl
@[simp] theorem State.advance_grids (s : State) (n : Nat) : (s.advance n).grids = s.grids := rfl
@[simp] theorem State.advance_sites (s : State) (n : Nat) : (s.advance n).sites = s.sites := rfl
@[simp] theorem State.advance_chips (s : State) (n : Nat) : (s.advance n).chips = s.chips := rfl
@[simp] theorem State.advance_hcmd (s : State) (n : Nat) : (s.advance n).hcmd = s.hcmd := rfl
@[simp] theorem State.advance_run (s : State) (n : Nat) : (s.advance n).run = s.run := rfl
@[simp] theorem State.advance_runs (s : State) (n : Nat) : (s.advance n).runs = s.runs := rfl
@[simp] theorem State.advance_timetable (s : State) (n : Nat) : (s.advance n).timetable = s.timetable := rfl
@[simp] theorem State.advance_pendingTable (s : State) (n : Nat) : (s.advance n).pendingTable = s.pendingTable := rfl
@[simp] theorem State.advance_groups (s : State) (n : Nat) : (s.advance n).groups = s.groups := rfl
@[simp] theorem State.advance_links (s : State) (n : Nat) : (s.advance n).links = s.links := rfl
@[simp] theorem State.advance_transit (s : State) (n : Nat) : (s.advance n).transit = s.transit := rfl
@[simp] theorem State.advance_flags (s : State) (n : Nat) : (s.advance n).flags = s.flags := rfl
@[simp] theorem State.advance_incs (s : State) (n : Nat) : (s.advance n).incs = s.incs := rfl
@[simp] theorem State.advance_outbox (s : State) (n : Nat) : (s.advance n).outbox = s.outbox := rfl
@[simp] theorem State.advance_sendq (s : State) (n : Nat) : (s.advance n).sendq = s.sendq := rfl
@[simp] theorem State.advance_far (s : State) (n : Nat) : (s.advance n).far = s.far := rfl
@[simp] theorem State.advance_ue (s : State) (n : Nat) : (s.advance n).ue = s.ue := rfl
@[simp] theorem State.advance_ueOut (s : State) (n : Nat) : (s.advance n).ueOut = s.ueOut := rfl
@[simp] theorem State.advance_agenda (s : State) (n : Nat) : (s.advance n).agenda = s.agenda := rfl
@[simp] theorem State.advance_free (s : State) (n : Nat) : (s.advance n).free = s.free := rfl
@[simp] theorem State.advance_tick (s : State) (n : Nat) : (s.advance n).tick = s.tick := rfl

@[simp] theorem State.result_others (s : State) (n : Nat) (d : Reg) (x : Word) : (s.result n d x).others = s.others := rfl
@[simp] theorem State.result_mem (s : State) (n : Nat) (d : Reg) (x : Word) : (s.result n d x).mem = s.mem := rfl
@[simp] theorem State.result_packed (s : State) (n : Nat) (d : Reg) (x : Word) : (s.result n d x).packed = s.packed := rfl
@[simp] theorem State.result_frames (s : State) (n : Nat) (d : Reg) (x : Word) : (s.result n d x).frames = s.frames := rfl
@[simp] theorem State.result_l1 (s : State) (n : Nat) (d : Reg) (x : Word) : (s.result n d x).l1 = s.l1 := rfl
@[simp] theorem State.result_reqs (s : State) (n : Nat) (d : Reg) (x : Word) : (s.result n d x).reqs = s.reqs := rfl
@[simp] theorem State.result_gtc (s : State) (n : Nat) (d : Reg) (x : Word) : (s.result n d x).gtc = s.gtc := rfl
@[simp] theorem State.result_skewBound (s : State) (n : Nat) (d : Reg) (x : Word) : (s.result n d x).skewBound = s.skewBound := rfl
@[simp] theorem State.result_locked (s : State) (n : Nat) (d : Reg) (x : Word) : (s.result n d x).locked = s.locked := rfl
@[simp] theorem State.result_rate (s : State) (n : Nat) (d : Reg) (x : Word) : (s.result n d x).rate = s.rate := rfl
@[simp] theorem State.result_stepped (s : State) (n : Nat) (d : Reg) (x : Word) : (s.result n d x).stepped = s.stepped := rfl
@[simp] theorem State.result_holdover (s : State) (n : Nat) (d : Reg) (x : Word) : (s.result n d x).holdover = s.holdover := rfl
@[simp] theorem State.result_ownPkg (s : State) (n : Nat) (d : Reg) (x : Word) : (s.result n d x).ownPkg = s.ownPkg := rfl
@[simp] theorem State.result_domain (s : State) (n : Nat) (d : Reg) (x : Word) : (s.result n d x).domain = s.domain := rfl
@[simp] theorem State.result_grandmaster (s : State) (n : Nat) (d : Reg) (x : Word) : (s.result n d x).grandmaster = s.grandmaster := rfl
@[simp] theorem State.result_bringup (s : State) (n : Nat) (d : Reg) (x : Word) : (s.result n d x).bringup = s.bringup := rfl
@[simp] theorem State.result_setts (s : State) (n : Nat) (d : Reg) (x : Word) : (s.result n d x).setts = s.setts := rfl
@[simp] theorem State.result_ctxs (s : State) (n : Nat) (d : Reg) (x : Word) : (s.result n d x).ctxs = s.ctxs := rfl
@[simp] theorem State.result_bound (s : State) (n : Nat) (d : Reg) (x : Word) : (s.result n d x).bound = s.bound := rfl
@[simp] theorem State.result_queues (s : State) (n : Nat) (d : Reg) (x : Word) : (s.result n d x).queues = s.queues := rfl
@[simp] theorem State.result_grids (s : State) (n : Nat) (d : Reg) (x : Word) : (s.result n d x).grids = s.grids := rfl
@[simp] theorem State.result_sites (s : State) (n : Nat) (d : Reg) (x : Word) : (s.result n d x).sites = s.sites := rfl
@[simp] theorem State.result_chips (s : State) (n : Nat) (d : Reg) (x : Word) : (s.result n d x).chips = s.chips := rfl
@[simp] theorem State.result_hcmd (s : State) (n : Nat) (d : Reg) (x : Word) : (s.result n d x).hcmd = s.hcmd := rfl
@[simp] theorem State.result_run (s : State) (n : Nat) (d : Reg) (x : Word) : (s.result n d x).run = s.run := rfl
@[simp] theorem State.result_runs (s : State) (n : Nat) (d : Reg) (x : Word) : (s.result n d x).runs = s.runs := rfl
@[simp] theorem State.result_timetable (s : State) (n : Nat) (d : Reg) (x : Word) : (s.result n d x).timetable = s.timetable := rfl
@[simp] theorem State.result_pendingTable (s : State) (n : Nat) (d : Reg) (x : Word) : (s.result n d x).pendingTable = s.pendingTable := rfl
@[simp] theorem State.result_groups (s : State) (n : Nat) (d : Reg) (x : Word) : (s.result n d x).groups = s.groups := rfl
@[simp] theorem State.result_links (s : State) (n : Nat) (d : Reg) (x : Word) : (s.result n d x).links = s.links := rfl
@[simp] theorem State.result_transit (s : State) (n : Nat) (d : Reg) (x : Word) : (s.result n d x).transit = s.transit := rfl
@[simp] theorem State.result_flags (s : State) (n : Nat) (d : Reg) (x : Word) : (s.result n d x).flags = s.flags := rfl
@[simp] theorem State.result_incs (s : State) (n : Nat) (d : Reg) (x : Word) : (s.result n d x).incs = s.incs := rfl
@[simp] theorem State.result_outbox (s : State) (n : Nat) (d : Reg) (x : Word) : (s.result n d x).outbox = s.outbox := rfl
@[simp] theorem State.result_sendq (s : State) (n : Nat) (d : Reg) (x : Word) : (s.result n d x).sendq = s.sendq := rfl
@[simp] theorem State.result_far (s : State) (n : Nat) (d : Reg) (x : Word) : (s.result n d x).far = s.far := rfl
@[simp] theorem State.result_ue (s : State) (n : Nat) (d : Reg) (x : Word) : (s.result n d x).ue = s.ue := rfl
@[simp] theorem State.result_ueOut (s : State) (n : Nat) (d : Reg) (x : Word) : (s.result n d x).ueOut = s.ueOut := rfl
@[simp] theorem State.result_agenda (s : State) (n : Nat) (d : Reg) (x : Word) : (s.result n d x).agenda = s.agenda := rfl
@[simp] theorem State.result_free (s : State) (n : Nat) (d : Reg) (x : Word) : (s.result n d x).free = s.free := rfl
@[simp] theorem State.result_tick (s : State) (n : Nat) (d : Reg) (x : Word) : (s.result n d x).tick = s.tick := rfl

@[simp] theorem State.resultC_others (s : State) (n : Nat) (k : Bit3) (b : Bool) : (s.resultC n k b).others = s.others := rfl
@[simp] theorem State.resultC_mem (s : State) (n : Nat) (k : Bit3) (b : Bool) : (s.resultC n k b).mem = s.mem := rfl
@[simp] theorem State.resultC_packed (s : State) (n : Nat) (k : Bit3) (b : Bool) : (s.resultC n k b).packed = s.packed := rfl
@[simp] theorem State.resultC_frames (s : State) (n : Nat) (k : Bit3) (b : Bool) : (s.resultC n k b).frames = s.frames := rfl
@[simp] theorem State.resultC_l1 (s : State) (n : Nat) (k : Bit3) (b : Bool) : (s.resultC n k b).l1 = s.l1 := rfl
@[simp] theorem State.resultC_reqs (s : State) (n : Nat) (k : Bit3) (b : Bool) : (s.resultC n k b).reqs = s.reqs := rfl
@[simp] theorem State.resultC_gtc (s : State) (n : Nat) (k : Bit3) (b : Bool) : (s.resultC n k b).gtc = s.gtc := rfl
@[simp] theorem State.resultC_skewBound (s : State) (n : Nat) (k : Bit3) (b : Bool) : (s.resultC n k b).skewBound = s.skewBound := rfl
@[simp] theorem State.resultC_locked (s : State) (n : Nat) (k : Bit3) (b : Bool) : (s.resultC n k b).locked = s.locked := rfl
@[simp] theorem State.resultC_rate (s : State) (n : Nat) (k : Bit3) (b : Bool) : (s.resultC n k b).rate = s.rate := rfl
@[simp] theorem State.resultC_stepped (s : State) (n : Nat) (k : Bit3) (b : Bool) : (s.resultC n k b).stepped = s.stepped := rfl
@[simp] theorem State.resultC_holdover (s : State) (n : Nat) (k : Bit3) (b : Bool) : (s.resultC n k b).holdover = s.holdover := rfl
@[simp] theorem State.resultC_ownPkg (s : State) (n : Nat) (k : Bit3) (b : Bool) : (s.resultC n k b).ownPkg = s.ownPkg := rfl
@[simp] theorem State.resultC_domain (s : State) (n : Nat) (k : Bit3) (b : Bool) : (s.resultC n k b).domain = s.domain := rfl
@[simp] theorem State.resultC_grandmaster (s : State) (n : Nat) (k : Bit3) (b : Bool) : (s.resultC n k b).grandmaster = s.grandmaster := rfl
@[simp] theorem State.resultC_bringup (s : State) (n : Nat) (k : Bit3) (b : Bool) : (s.resultC n k b).bringup = s.bringup := rfl
@[simp] theorem State.resultC_setts (s : State) (n : Nat) (k : Bit3) (b : Bool) : (s.resultC n k b).setts = s.setts := rfl
@[simp] theorem State.resultC_ctxs (s : State) (n : Nat) (k : Bit3) (b : Bool) : (s.resultC n k b).ctxs = s.ctxs := rfl
@[simp] theorem State.resultC_bound (s : State) (n : Nat) (k : Bit3) (b : Bool) : (s.resultC n k b).bound = s.bound := rfl
@[simp] theorem State.resultC_queues (s : State) (n : Nat) (k : Bit3) (b : Bool) : (s.resultC n k b).queues = s.queues := rfl
@[simp] theorem State.resultC_grids (s : State) (n : Nat) (k : Bit3) (b : Bool) : (s.resultC n k b).grids = s.grids := rfl
@[simp] theorem State.resultC_sites (s : State) (n : Nat) (k : Bit3) (b : Bool) : (s.resultC n k b).sites = s.sites := rfl
@[simp] theorem State.resultC_chips (s : State) (n : Nat) (k : Bit3) (b : Bool) : (s.resultC n k b).chips = s.chips := rfl
@[simp] theorem State.resultC_hcmd (s : State) (n : Nat) (k : Bit3) (b : Bool) : (s.resultC n k b).hcmd = s.hcmd := rfl
@[simp] theorem State.resultC_run (s : State) (n : Nat) (k : Bit3) (b : Bool) : (s.resultC n k b).run = s.run := rfl
@[simp] theorem State.resultC_runs (s : State) (n : Nat) (k : Bit3) (b : Bool) : (s.resultC n k b).runs = s.runs := rfl
@[simp] theorem State.resultC_timetable (s : State) (n : Nat) (k : Bit3) (b : Bool) : (s.resultC n k b).timetable = s.timetable := rfl
@[simp] theorem State.resultC_pendingTable (s : State) (n : Nat) (k : Bit3) (b : Bool) : (s.resultC n k b).pendingTable = s.pendingTable := rfl
@[simp] theorem State.resultC_groups (s : State) (n : Nat) (k : Bit3) (b : Bool) : (s.resultC n k b).groups = s.groups := rfl
@[simp] theorem State.resultC_links (s : State) (n : Nat) (k : Bit3) (b : Bool) : (s.resultC n k b).links = s.links := rfl
@[simp] theorem State.resultC_transit (s : State) (n : Nat) (k : Bit3) (b : Bool) : (s.resultC n k b).transit = s.transit := rfl
@[simp] theorem State.resultC_flags (s : State) (n : Nat) (k : Bit3) (b : Bool) : (s.resultC n k b).flags = s.flags := rfl
@[simp] theorem State.resultC_incs (s : State) (n : Nat) (k : Bit3) (b : Bool) : (s.resultC n k b).incs = s.incs := rfl
@[simp] theorem State.resultC_outbox (s : State) (n : Nat) (k : Bit3) (b : Bool) : (s.resultC n k b).outbox = s.outbox := rfl
@[simp] theorem State.resultC_sendq (s : State) (n : Nat) (k : Bit3) (b : Bool) : (s.resultC n k b).sendq = s.sendq := rfl
@[simp] theorem State.resultC_far (s : State) (n : Nat) (k : Bit3) (b : Bool) : (s.resultC n k b).far = s.far := rfl
@[simp] theorem State.resultC_ue (s : State) (n : Nat) (k : Bit3) (b : Bool) : (s.resultC n k b).ue = s.ue := rfl
@[simp] theorem State.resultC_ueOut (s : State) (n : Nat) (k : Bit3) (b : Bool) : (s.resultC n k b).ueOut = s.ueOut := rfl
@[simp] theorem State.resultC_agenda (s : State) (n : Nat) (k : Bit3) (b : Bool) : (s.resultC n k b).agenda = s.agenda := rfl
@[simp] theorem State.resultC_free (s : State) (n : Nat) (k : Bit3) (b : Bool) : (s.resultC n k b).free = s.free := rfl
@[simp] theorem State.resultC_tick (s : State) (n : Nat) (k : Bit3) (b : Bool) : (s.resultC n k b).tick = s.tick := rfl

end Sys2Proof.Machine
end

