-- ==== Sys2Proof/Laws/Table.lean ====
section
/-!
SUPPORT. What tables by number do: an entry set, changed or removed, and every other entry as it was.
-/

set_option Elab.async false

namespace Sys2Proof.Machine

@[simp] theorem FMap.get?_nil {α : Type} (a : Nat) : FMap.get? ([] : FMap α) a = none := rfl

/-- What an entry reads as after one is set. -/
theorem FMap.get?_set {α : Type} (m : FMap α) (a : Nat) (v : α) (b : Nat) :
    FMap.get? (FMap.set m a v) b = if b = a then some v else FMap.get? m b := by
  induction m with
  | nil => simp [FMap.set, FMap.get?]
  | cons y m ih =>
    obtain ⟨k, w⟩ := y
    simp only [FMap.set]
    split
    · simp [FMap.get?]
    · split
      · subst_vars
        simp only [FMap.get?]
        split <;> rfl
      · simp only [FMap.get?, ih]
        by_cases hb : b = k
        · subst hb
          have : b ≠ a := by omega
          simp [this]
        · simp [hb]

@[simp] theorem FMap.get?_set_same {α : Type} (m : FMap α) (a : Nat) (v : α) : FMap.get? (FMap.set m a v) a = some v := by
  rw [FMap.get?_set, if_pos rfl]

theorem FMap.get?_set_other {α : Type} (m : FMap α) {a b : Nat} (v : α) (h : b ≠ a) :
    FMap.get? (FMap.set m a v) b = FMap.get? m b := by
  rw [FMap.get?_set, if_neg h]

/-- What an entry reads as after one is removed. -/
theorem FMap.get?_erase {α : Type} (m : FMap α) (a b : Nat) :
    FMap.get? (FMap.erase m a) b = if b = a then none else FMap.get? m b := by
  induction m with
  | nil => simp [FMap.erase]
  | cons y m ih =>
    obtain ⟨k, w⟩ := y
    have e : FMap.erase ((k, w) :: m) a = if (k != a) = true then (k, w) :: FMap.erase m a else FMap.erase m a := by
      simp only [FMap.erase, List.filter_cons]
    rw [e]
    split
    next h =>
      have h : k ≠ a := by simpa using h
      simp only [FMap.get?, ih]
      by_cases hb : b = k
      · subst hb; simp [h]
      · simp [hb]
    next h =>
      have h : k = a := by simpa using h
      subst h
      rw [ih, FMap.get?]
      by_cases hb : b = k
      · simp [hb]
      · simp [hb]

/-- What an entry reads as after one is changed where it stands. -/
theorem FMap.get?_modify {α : Type} (m : FMap α) (a : Nat) (f : α → α) (b : Nat) :
    FMap.get? (FMap.modify m a f) b = if b = a then (FMap.get? m b).map f else FMap.get? m b := by
  induction m with
  | nil => simp [FMap.modify]
  | cons y m ih =>
    obtain ⟨k, w⟩ := y
    have e : FMap.modify ((k, w) :: m) a f = (if (k == a) = true then (k, f w) else (k, w)) :: FMap.modify m a f := by
      simp only [FMap.modify, List.map_cons]
    rw [e]
    by_cases h : k = a
    · subst h
      simp only [beq_self_eq_true, if_true, FMap.get?, ih]
      by_cases hb : b = k <;> simp [hb]
    · have h' : (k == a) = false := by simpa using h
      rw [h']
      simp only [Bool.false_eq_true, if_false, FMap.get?, ih]
      by_cases hb : b = k
      · subst hb; simp [h]
      · simp [hb]

theorem FMap.getD_set {α : Type} (m : FMap α) (a : Nat) (v : α) (b : Nat) (d : α) :
    FMap.getD (FMap.set m a v) b d = if b = a then v else FMap.getD m b d := by
  simp only [FMap.getD, FMap.get?_set]
  split <;> rfl

theorem length_upTo (a n : Nat) : (upTo a n).length = n := by
  induction n generalizing a with
  | zero => rfl
  | succ n ih => simp [upTo, ih]

theorem mem_upTo (a n x : Nat) : x ∈ upTo a n ↔ a ≤ x ∧ x < a + n := by
  induction n generalizing a with
  | zero => simp [upTo]
  | succ n ih => simp only [upTo, List.mem_cons, ih]; omega

/-- The numbers put into rising order are the numbers. -/
theorem mem_insertNat (a : Nat) (xs : List Nat) (x : Nat) : x ∈ insertNat a xs ↔ x = a ∨ x ∈ xs := by
  induction xs with
  | nil => simp [insertNat]
  | cons y ys ih =>
    simp only [insertNat]
    split
    · simp
    · split
      · subst_vars; simp
      · simp only [List.mem_cons, ih]; tauto

theorem mem_sortNat (xs : List Nat) (x : Nat) : x ∈ sortNat xs ↔ x ∈ xs := by
  induction xs with
  | nil => simp [sortNat]
  | cons y ys ih =>
    have : sortNat (y :: ys) = insertNat y (sortNat ys) := rfl
    rw [this, mem_insertNat, ih, List.mem_cons]

end Sys2Proof.Machine
end

