-- ==== Sys2Proof/Tests/Scalar.lean ====
section
/-!
SUPPORT. States that meet the hypotheses of the statements about the scalar stream, the engines and the collective engine.
-/

set_option Elab.async false

namespace Sys2Proof.Tests
open Machine


/-- A running team of context 1 in sett 0 whose code page holds these bytes from its SPC on. -/
def code (bs : List Byte) : State := (State.reset.placeBytes bs).placeCodeTeam

/-- The same with no code, its team changed. -/
def on (f : Team → Team) : State := (code []).setCur f

/-- A block of four lanes. -/
def wBlock : Block :=
  { seq := 0, entry := 0, snap := { s := Vector.replicate 64 0, fmode := 0, pkr := 0, seed := none }, pend := 0,
    lanes := [0, 1, 2, 3], handler := false, arr := 0 }

/-- The views of an E4M3 product: A in registers 0 to 7, B in 8 to 23, the F32 accumulator in 24 to 31. -/
def views : List Word32 :=
  [2 ^ 20 + 13 * 2 ^ 14 + 3 * 2 ^ 11, 2 ^ 20 + 13 * 2 ^ 14 + 4 * 2 ^ 11 + 2 ^ 9 + 8, 2 ^ 20 + 8 * 2 ^ 14 + 3 * 2 ^ 11 + 2 * 2 ^ 9 + 24, 0]

/-- Sixteen lanes of 32 registers. -/
def few (t : Team) : Team :=
  { t with kern := { t.kern with lanesN := 16, gwidth := 16, regsN := 32, mview := views }, lanes := List.replicate 16 (Lane.launch 32 0) }

/-- A block that runs, its one path current at word 0. -/
def inBlock (f : Team → Team) : State := on (fun t => f (Team.startBlock (few { t with blocks := 1 }) wBlock))

/-- Bytes of the memory of sett 0. -/
def mem (xs : List (Nat × Nat × Nat)) (s : State) : State :=
  { s with mem := xs.foldl (fun m x => Memory.setNat m (Config.dramKey 0 x.1) x.2.1 x.2.2) s.mem }

/-- The header of an object at offset 0x200000, and a handler table at 0x300000 that names it for a code. -/
def handled (code : Nat) (s : State) : State :=
  mem [(0x200000, 4, 0x4F475445), (0x200004, 1, 1), (0x200006, 1, 32), (0x200008, 2, 32), (0x20000A, 2, 4), (0x200018, 8, 0x1000),
       (0x200020, 4, 0x1000), (0x300000 + 16 * code, 8, 0x200000)]
    (s.setCtx 1 (fun c => { c with handlers := some 0x300000 }))

/-- A scalar invocation, and a user frame of zeros. -/
def wInv (scalar : Bool) : Invocation :=
  { scalar := scalar, group := 0, code := 0x11, paths := [], lanes := [], addr := 0, kern := Kernel.none }
def wFrame : Frame :=
  { sregs := Vector.replicate 64 0, creg := Vector.replicate 8 false, ls := Vector.replicate 4 0, le := Vector.replicate 4 0,
    lc := Vector.replicate 4 0, armed := 0, spc := 0, fmode := 0, ftrapen := 0, pkr := 0, wait := none }

/-- A handler of a scalar trap that runs in supervisor mode. -/
def inHandler (f : Team → Team) : State :=
  on (fun t => f { t with mode := .supervisor, inv := some (wInv true), frame := some wFrame, hrec := 0x400000, area := 0x400000 })

/-- A channel of two entries of 128 bytes. -/
def wChan (p q : BitVec 32) : Chan :=
  { defd := true, base := 0x8000000000000000, esize := 1, log2n := 1, p := p, q := q, pc := p, qc := q, outs := [], ins := [], arrive := [] }

/-- A lane word: VLD of 4 bytes to v0 at the address in w2. -/
def aLoad : Instr := .vld ⟨⟨false, 7⟩, .i32, .v 0, .w 2, .none, .none⟩ ⟨0, .add, .default, .relaxed, .lane, 0⟩

/-- A request of lane 0 for 4 bytes at an address of sett 0. -/
def wReq (kind ea : Nat) (done : Bool) (as : List Answer) : GReq :=
  { tag := 3, uid := 0, path := 0, ip := 0, block := 0, instr := aLoad,
    accs := [{ lane := 0, ea := BitVec.ofNat 64 ea, width := 4, kind := kind, data := [1, 2, 3, 4], exp := [] }],
    pkg := 0, pkr := 0, eligible := false, core := 0, sentAt := 0, performed := done, answers := as, flags := 0, ctx := 1, line := ea / 128 }

/-- Whether an owner lets an access pass, and where to. -/
def granted (s : State) (ea : Nat) (k : Kind) : Option Nat :=
  match s.ownerCheck 1 (bitsNat ea 53 48) (bitsNat ea 47 0) k 0 with
  | .ok y => if y.cmp then none else some (s.packState y.key)
  | .error _ => none

/-! ### The scalar stream -/

theorem witness_ScalarArithmetic : (code []).ready [63, 1, 0] = true := by decide +kernel

/-- A result register that is pending waits (R48): the hypothesis is not empty talk. -/
theorem witness_ScalarArithmetic_waits :
    (on (fun t => { t with block := some { wBlock with pend := 2 } })).ready [1] = false := by decide +kernel

theorem witness_ScalarImmediates : (code []).ready [63, 1, 0] = true ∧ (code []).cur.s 1 = 0
    ∧ (let v := (on (fun t => t.setS 1 0x8000000000000001)).cur.s 1
       v.getLsbD 63 = true ∧ ∀ m : Fin 64, (63 : Fin 64) < m → v.getLsbD m = false)
    ∧ (let v := (on (fun t => t.setS 1 1)).cur.s 1
       v.getLsbD 0 = true ∧ ∀ m : Fin 64, (0 : Fin 64) < m → v.getLsbD m = false) := by decide +kernel

/-- An end check with no loop there, one that goes back with its count at 2, and one that is done with its count at 1. -/
theorem witness_ScalarCompletion :
    let looping (n : Word) : Team := { Team.launch with armed := 8, le := Vector.replicate 4 0x40, lc := Vector.replicate 4 n }
    Team.launch.noLoopEnd 0x40 = true
    ∧ ((looping 2).armed.getLsbD 3 = true ∧ (looping 2).le[3] = 0x40 ∧ 1 < (looping 2).lc[3].toNat)
    ∧ (looping 1).lc[3].toNat ≤ 1
    ∧ ∀ j : BitVec 2, 3 < j → ¬ ((looping 2).armed.getLsbD j.toNat = true ∧ (looping 2).le[j.toNat] = 0x40) := by decide +kernel

theorem witness_Transfers : (code []).cur.c 0 = false ∧ (code []).cur.c 0 ≠ true
    ∧ (code []).canJump ((code []).cur.spc + 4 * (0 : BitVec 21).signExtend 64) false = true
    ∧ (code []).ready [62, 1] = true ∧ (on (fun t => t.setS 1 t.spc)).canJump (on (fun t => t.setS 1 t.spc)).cur.spc true = true
    ∧ (on (fun t => t.setS 1 t.spc)).cur.s 1 = (code []).cur.spc
    ∧ (on (fun t => { t with spc := 0x1000000000000000 })).fetchCheck 0x1000000000000004 false = some codeGvaFormat
    ∧ (on (fun t => t.setS 1 (t.spc + 2))).fetchCheck ((on (fun t => t.setS 1 (t.spc + 2))).cur.s 1).toNat true = some codeAlign
    ∧ isAwait codeGvaFormat = false ∧ isAwait codeAlign = false := by decide +kernel

theorem witness_HardwareLoops :
    let armed (a : BitVec 4) : State := on (fun t => { t with armed := a, le := Vector.replicate 4 (t.spc + 8) }.setS 5 2)
    let bad : State := on (fun t => { t with armed := 1, le := Vector.replicate 4 0x1000000000000000 })
    (armed 0).ready [5] = true ∧ (¬ ∀ k : BitVec 2, 0 ≤ k → (armed 1).cur.armed.getLsbD k.toNat = false)
    ∧ (∀ k : BitVec 2, 1 ≤ k → (armed 1).cur.armed.getLsbD k.toNat = false) ∧ (armed 0).cur.s 5 ≠ 0 ∧ (armed 0).cur.s 6 = 0
    ∧ (armed 0).canJump ((armed 0).cur.spc + 4 * (0x1FF : BitVec 17).setWidth 64 + 4) false = true ∧ (armed 0).cur.armed = 0
    ∧ ((armed 8).cur.armed.getLsbD 3 = true ∧ (∀ j : BitVec 2, 3 < j → (armed 8).cur.armed.getLsbD j.toNat = false)
        ∧ (armed 8).canJump ((armed 8).cur.le[3] + 4) false = true)
    ∧ (bad.cur.armed.getLsbD 0 = true ∧ (∀ j : BitVec 2, 0 < j → bad.cur.armed.getLsbD j.toNat = false)
        ∧ bad.fetchCheck (bad.cur.le[0] + 4).toNat false = some codeGvaFormat) := by decide +kernel

/-! ### System registers -/

theorem witness_SystemRegisterAccess :
    let sup : State := on (fun t => { t with mode := .supervisor }.setS 1 7)
    (code []).sysReg 0xFFF = none ∧ (code []).cur.mode = .user ∧ (code []).sysReg 0x010 = some 0 ∧ (code []).ready [0, 1, 63] = true
    ∧ sup.cur.mode = .supervisor ∧ sup.ready [1] = true ∧ (sup.sysReg 0x053).isSome = true
    ∧ ((code []).sysReg 0x01F = none ∧ ((code []).sysReg 0x011).isSome = true) ∧ ((code []).sysReg 0x040).isSome = true
    ∧ ((code []).sysReg 0x060).isSome = true
    ∧ (on (fun t => t.setS 1 4)).cur.s 1 = 4 ∧ 4 < (sup.cur.s 1).toNat % 8 := by decide +kernel

/-! ### Prefix, loads and stores -/

theorem witness_SextPair :
    let pair (w : Word32) : State := code (bytesOf 4 0x52000001 ++ bytesOf 4 w.toNat)
    let loop : State := on (fun t => { t with armed := 1, le := Vector.replicate 4 t.spc })
    let lost : State := on (fun t => { t with spc := t.spc + 0x3FFFFFFC })
    loop.cur.noLoopEnd loop.cur.spc = false ∧ (code []).cur.noLoopEnd (code []).cur.spc = true
    ∧ ((lost.fetchWord (lost.cur.spc + 4).toNat).toOption = none)
    ∧ ((pair 0x40084007).fetchWord ((pair 0x40084007).cur.spc + 4).toNat).toOption = some 0x40084007 ∧ isAwait codeNotPresent = false
    ∧ (decodeScalar 0x40084007).toOption = some (.saddi 1 2 7) ∧ (pair 0x40084007).ready [1, 2] = true
    ∧ (decodeScalar 0x44084007).toOption = some (.sori 1 2 7) ∧ (decodeScalar 0x48084007).toOption = some (.sshli 1 2 7)
    ∧ (decodeScalar 0x52000001).toOption = some (.sext 1) ∧ (decodeScalar 0x8E000000).toOption = some .shalt
    ∧ (decodeScalar 0x50080007).toOption = some (.sli 1 7) ∧ (decodeScalar 0x82000001).toOption = some (.sjmp 1) := by decide +kernel

/-- Chip scratchpad of 64 bytes, at the generic address in s2; a load past its end traps. -/
def chip : State := on (fun t => { t with kspsize := 64 }.setS 2 (10 * 2 ^ 60))

/-- The bytes an access answers, and the code of the trap it takes. -/
def got : Acc (List Byte) → Option (List Byte)
  | .ok bs _ => some bs
  | _ => none
def trapped : Acc (List Byte) → Option Nat
  | .trap c _ => some c
  | _ => none

theorem witness_ScalarLoadStore : chip.ready [1, 2] = true
    ∧ got (chip.scalarLoad (10 * 2 ^ 60) 4) = some [0, 0, 0, 0] ∧ (got (chip.scalarLoad (10 * 2 ^ 60 + 56) 8)).isSome = true
    ∧ got (chip.scalarStore (10 * 2 ^ 60) [1, 2, 3, 4]) = some []
    ∧ got (chip.scalarStore (10 * 2 ^ 60 + 56) [1, 2, 3, 4, 5, 6, 7, 8]) = some []
    ∧ trapped (chip.scalarLoad (10 * 2 ^ 60 + 64) 4) = some codeChipspRange ∧ trapped (chip.scalarLoad (10 * 2 ^ 60 + 4) 8) = some codeAlign
    ∧ trapped (chip.scalarStore (10 * 2 ^ 60 + 64) [1, 2, 3, 4]) = some codeChipspRange
    ∧ trapped (chip.scalarStore (2 ^ 60) [1, 2, 3, 4, 5, 6, 7, 8]) = some codeGvaFormat := by decide +kernel

/-- Addresses at the edges of the clauses: the first and the last window without a meaning, cluster memory and chip
scratchpad misaligned, and one access past the end of each allocation. -/
theorem witness_ScalarLoadStore_order : (1 ≤ 2 ^ 60 / 2 ^ 60 ∧ (8 * 2 ^ 60 - 1) / 2 ^ 60 ≤ 7) ∧ 0xB ≤ 11 * 2 ^ 60 / 2 ^ 60
    ∧ ((9 * 2 ^ 60 + 2) / 2 ^ 60 = 9 ∧ (9 * 2 ^ 60 + 2) % 2 ^ 60 < 2 ^ 21 ∧ (9 * 2 ^ 60 + 2) % 4 ≠ 0)
    ∧ ((9 * 2 ^ 60 + 4096) % 8 = 0 ∧ (on (fun t => { t with cmsize := 4096 })).cur.cmsize < (9 * 2 ^ 60 + 4096) % 2 ^ 60 + 8)
    ∧ ((10 * 2 ^ 60 + 64) / 2 ^ 60 = 10 ∧ (10 * 2 ^ 60 + 64) % 4 = 0 ∧ chip.cur.kspsize < (10 * 2 ^ 60 + 64) % 2 ^ 60 + 4) := by
  decide +kernel

/-- A team with a page of scratchpad present, a page of cluster memory and chip scratchpad. -/
def windows (we : Bool) : State :=
  let f : State := on (fun t => { t with
    kspsize := 64, cmsize := 4096, kern := { t.kern with scratch := 4096 },
    stt := [(0, { we := we, st := 0, frame := 3, rcore := 0, dirty := false })] })
  { f with frames := [(3, { FrameInfo.filled f.cur.uid 0 0 with absent := [], filling := [] })] }

theorem witness_WindowAccess : (0 % 4 = 0 ∧ (windows true).undisturbed (Config.chipKey 0 0) 4 = true)
    ∧ ((windows true).cur.cbase % 4096 = 0 ∧ 4092 + 4 ≤ (windows true).cur.cmsize
        ∧ (windows true).present ((windows true).clusterFrame (windows true).cur 4092) (4092 / 128) = true)
    ∧ 60 + 4 ≤ (windows true).cur.kspsize
    ∧ (4092 + 4 ≤ (windows true).cur.kern.scratch ∧ ((FMap.get? (windows true).cur.stt 0).map (fun e => (e.st, e.we))) = some (0, true)
        ∧ ((FMap.get? (windows false).cur.stt 0).map (fun e => (e.st, e.we))) = some (0, false)
        ∧ (windows true).present (Config.frameNo 0 0 3) (4092 / 128) = true) := by decide +kernel

theorem witness_ScalarAtomics :
    let busy : State := { chip with reqs := [wReq 1 0x500000 false []] }
    let deep : State := on (fun t => { t with kspsize := 64 }.setS 2 (10 * 2 ^ 60 + 60))
    let cluster : State := (windows true).setCur (fun t => t.setS 2 (9 * 2 ^ 60 + 4092))
    let scratch : State := (windows true).setCur (fun t => t.setS 2 (8 * 2 ^ 60 + 4092))
    let global : State := on (fun t => t.setS 2 0x500000)
    chip.ready [1, 2, 3] = true ∧ satomOffCore chip.cur (chip.cur.s 2).toNat = true ∧ busy.quiet = false ∧ chip.quiet = true
    ∧ got (chip.scalarAtomic true (10 * 2 ^ 60) 4 (bytesOf 4 0) (fun x => some (x + 0))) = some [0, 0, 0, 0]
    ∧ (got (chip.scalarAtomic false (10 * 2 ^ 60) 8 (bytesOf 8 0 ++ bytesOf 8 0) (fun x => if x = 0 then some 0 else none))).isSome = true
    ∧ trapped (chip.scalarAtomic false (10 * 2 ^ 60 + 2) 4 (bytesOf 4 0) some) = some codeAlign
    ∧ ((cluster.cur.s 2).toNat / 2 ^ 60 = 9 ∧ (cluster.cur.s 2).toNat % 2 ^ 60 + 4 ≤ cluster.cur.cmsize
        ∧ cluster.present (cluster.clusterFrame cluster.cur 4092) (4092 / 128) = true ∧ cluster.quiet = true
        ∧ cluster.undisturbed (Config.frameKey (cluster.clusterFrame cluster.cur 4092) 4092) 4 = true)
    ∧ ((deep.cur.s 2).toNat / 2 ^ 60 = 10 ∧ (deep.cur.s 2).toNat % 2 ^ 60 + 4 ≤ deep.cur.kspsize
        ∧ deep.undisturbed (Config.chipKey 0 (deep.chipBase deep.cur + 60)) 4 = true)
    ∧ ((scratch.cur.s 2).toNat / 2 ^ 60 = 8 ∧ (scratch.cur.s 2).toNat % 2 ^ 60 + 4 ≤ scratch.cur.kern.scratch
        ∧ ((FMap.get? scratch.cur.stt 0).map (fun e => (e.st, e.we, e.frame))) = some (0, true, 3)
        ∧ scratch.present (Config.frameNo 0 0 3) (4092 / 128) = true ∧ scratch.undisturbed (Config.frameKey (Config.frameNo 0 0 3) 4092) 4 = true)
    ∧ ((global.cur.s 2).toNat / 2 ^ 60 = 0 ∧ bitsNat (global.cur.s 2).toNat 53 48 < 48 ∧ bitsNat (global.cur.s 2).toNat 59 54 = global.ownPkg
        ∧ global.inDomain global.ownPkg = true ∧ global.cur.sent = [] ∧ global.pendingStore (coreNo 0 0) 0x500000 4 = false
        ∧ granted global 0x500000 .atomic = some 0 ∧ global.undisturbed (Config.dramKey 0 0x500000) 4 = true) := by decide +kernel

/-! ### Blocks, waits and the end of a team -/

theorem witness_LaneDispatch : 8 ≤ (on (fun t => { t with queue := List.replicate 8 wBlock })).cur.queue.length
    ∧ (on (fun t => { t with queue := [{ wBlock with pend := 2 }] })).cur.anyPending = true
    ∧ (let s := inBlock (fun t => { t with queue := List.replicate 7 wBlock })
       s.cur.queue.length < 8 ∧ s.cur.anyPending = false ∧ s.cur.block.isSome = true ∧ s.cur.blockDone = false ∧ s.cur.packReady = none
         ∧ s.cur.recs = [] ∧ s.cur.releases = [] ∧ s.cur.curPath.isSome = true ∧ s.cur.inv = none)
    ∧ (let s := on few
       s.cur.lanesIdle = true ∧ s.cur.paths = [] ∧ s.cur.recs = [] ∧ s.cur.ready = [] ∧ s.cur.curPath = none ∧ s.cur.userWork = none
         ∧ s.cur.inv = none ∧ (upTo 0 s.cur.kern.lanesN).filter (fun l => !(s.cur.lane l).retired) ≠ []) := by decide +kernel

theorem witness_WaitsAndHalt : ((on id).cur.lanesIdle = true ∧ (on id).cur.anyPending = false ∧ (on id).cur.fstat &&& (on id).cur.ftrapen = 0)
    ∧ (inBlock id).cur.lanesIdle = false
    ∧ ((on (fun t => { t with fstat := 1, ftrapen := 1 })).cur.lanesIdle = true
        ∧ (on (fun t => { t with fstat := 1, ftrapen := 1 })).cur.fstat &&& 1 ≠ 0)
    ∧ ((on id).ready [1] = true ∧ ((on id).cur.s 1).toNat ≤ (on id).gtc ∧ (on id).gtc < ((on (fun t => t.setS 1 1)).cur.s 1).toNat)
    ∧ ((on (fun t => { t with wait := some (.waitt 0) })).cur.status = .running ∧ (on id).halted 1 = false
        ∧ (0 : Word).toNat ≤ (on id).gtc ∧ (on id).gtc < (1 : Word).toNat)
    ∧ ((on id).cur.mvq = [] ∧ (on id).cur.mxq = [] ∧ (on id).cur.fired = [] ∧ (on id).cur.sent = [] ∧ (on id).reqs = [])
    ∧ ((on id).ctx? (on id).cur.ctx).isSome = true
    ∧ ((on id).curCtx.bind (fun c => FMap.get? c.accounts (on id).cur.sett)).isSome = true := by decide +kernel

/-! ### Traps and handlers -/

theorem witness_TrapAndReturn : (on id).cur.mode = .user
    ∧ (let s := inHandler id
       s.cur.mode = .supervisor ∧ s.cur.lanesIdle = true ∧ s.cur.anyPending = false ∧ s.cur.inv = some (wInv true)
         ∧ s.cur.frame = some wFrame ∧ s.cur.hqueue = [] ∧ s.slotAt 0 58 1 = 0)
    ∧ (mem [(0x40003A, 1, 2)] (inHandler id)).slotAt 0 58 1 = 2 ∧ (mem [(0x40003A, 1, 4)] (inHandler id)).slotAt 0 58 1 = 4 := by
  decide +kernel

/-- What the handler table says of a code: an action, or a handler. -/
def acts : Except Nat Resolution → Option Nat
  | .ok (.action a) => some a
  | _ => none
def handles : Except Nat Resolution → Bool
  | .ok (.handler _) => true
  | _ => false

theorem witness_TrapTaken : (on id).halted (on id).cur.ctx = false ∧ (on id).cur.inv = none ∧ acts ((on id).lookup 0x11) = some 0
    ∧ ((on id).ctx? (on id).cur.ctx).isSome = true
    ∧ handles ((handled 0x11 (on id)).lookup 0x11) = true ∧ acts ((handled 0x11 (on id)).lookup 0x02) = some 0
    ∧ (handled 0x11 (on id)).cur.inv = none ∧ (handled 0x11 (on id)).halted 1 = false := by decide +kernel

theorem witness_HandlerEntered :
    let s := on (fun t => { t with hqueue := [wInv true] })
    s.cur.status = .running ∧ s.cur.hqueue = [wInv true] ∧ s.cur.inv = none ∧ s.cur.frame = none ∧ s.cur.sent = []
      ∧ s.halted s.cur.ctx = false ∧ (wInv true).code < 256 := by decide +kernel

/-! ### Mapping and energy -/

theorem witness_MappingAndEnergy :
    let sup (x : Word) : State := on (fun t => { t with mode := .supervisor }.setS 1 x)
    let rich : State := (on (fun t => t.setS 1 5)).setCtx 1 (fun c => { c with accounts := [(0, { balance := 5, rem := 0 })] })
    (on id).cur.mode = .user ∧ (sup 0).cur.mode = .supervisor ∧ (sup 0).ready [1, 2] = true
    ∧ bitsNat ((sup 0x1000000000000000).cur.s 1).toNat 63 60 ≠ 0 ∧ 48 ≤ bitsNat ((sup 0x0030000000000000).cur.s 1).toNat 53 48
    ∧ ((sup 0).inDomain 1 = false ∧ bitsNat ((sup 0x0040000000000000).cur.s 1).toNat 59 54 = 1)
    ∧ ((sup 0).inDomain 0 = true ∧ bitsNat ((sup 0).cur.s 1).toNat 59 54 = (sup 0).ownPkg ∧ bitsNat ((sup 0).cur.s 1).toNat 53 48 < 48)
    ∧ (State.ctx? { sup 0 with ctxs := [] } 1).isNone = true
    ∧ (rich.ready [1] = true ∧ rich.balance = (rich.cur.s 1).toNat ∧ 0 < (rich.cur.s 1).toNat)
    ∧ (on (fun t => t.setS 1 1)).balance < 1 ∧ ((on id).cur.s 1).toNat = 0 ∧ (on id).curCtx.isSome = true := by decide +kernel

/-! ### Channels and engine commands -/

/-- Whether an extent passes, or at which address it fails. -/
def passed : Extent → Option Nat
  | .bad a _ => some a
  | .good _ => none
  | .wait _ => none
def passes : Extent → Bool
  | .good _ => true
  | _ => false

theorem witness_ChannelDefined :
    (windows true).ready [1, 2] = true ∧ ((2 ^ 63 / 2 ^ 60 = 8) ∧ 2 ^ 63 % 128 = 0)
    ∧ (windows true).cur.inFlight.all (fun c => !c.op.slots.contains 2) = true
    ∧ passes (extentCheck false false 0x2000 (2 ^ 63) (2 ^ 5 * 1 * 128) (windows true)) = true
    ∧ passed (extentCheck false false 0x2000 (2 ^ 63) (2 ^ 1 * 512 * 128) (windows true)) = some (2 ^ 63 + 4096)
    ∧ ¬ (1 ≤ 0) ∧ ¬ (513 ≤ 512) := by decide +kernel

theorem witness_ChannelMotion :
    let s (p q : BitVec 32) : State := on (fun t => { t with chans := [(3, wChan p q)] })
    (on id).ready [1] = true ∧ (on id).cur.chan 3 = none ∧ (s 0 0).cur.chan 3 = some (wChan 0 0)
    ∧ (let c := wChan 0xFFFFFFFF 0xFFFFFFFF
       (c.p - c.qc).toNat = 0 ∧ (c.q + BitVec.ofNat 32 (2 ^ c.log2n) - c.pc).toNat = 2)
    ∧ (let c := wChan 1 0xFFFFFFFF
       (c.p - c.qc).toNat = 2 ∧ (c.q + BitVec.ofNat 32 (2 ^ c.log2n) - c.pc).toNat = 0)
    ∧ (FMap.get? (s 0 0).cur.chans 3 = some (wChan 0 0) ∧ (wChan 0 0).outs = [] ∧ (wChan 0 0).defd = true ∧ (1 : Nat) ≠ 2) := by
  decide +kernel

/-- A mover descriptor at offset 0x400000: 128 bytes from `src` to offset 0x600000. -/
def moverAt (src aux : Nat) (s : State) : State :=
  mem [(0x400000, 8, src), (0x400008, 8, 0x600000), (0x400010, 4, 128), (0x400014, 4, 1), (0x400028, 8, aux)] s

/-- The commands that stand in the queue after the checks of a mover instruction, where all of them pass. -/
def moverPasses (s : State) (k : MvKind) : Option Nat :=
  match s.readWords 0x400000 8 with
  | .ok bs r =>
    match parseMover r.cur bs with
    | some d =>
      if sideOk r.cur d.inch d.incnt d.src d.sstride d.rowlen d.rows && sideOk r.cur d.outch d.outcnt d.dst d.dstride d.rowlen d.rows then
        match extentsCheck false (k == .dec) (moverExtents k d).1 none r with
        | .good u =>
          match extentsCheck true false (moverExtents k d).2 none u with
          | .good v => if (moverPages v.cur k d).length + sidePages v.cur d.inch d.incnt + sidePages v.cur d.outch d.outcnt ≤ 64 then some v.cur.mvq.length else none
          | _ => none
        | _ => none
      else none
    | none => none
  | _ => none

theorem witness_MoverIssued :
    let s (src : Nat) : State := moverAt src 0 (on (fun t => t.setS 1 0x400000))
    let full : State := moverAt 0x500000 0 (on (fun t => { t with mvq := List.replicate 16 { id := 0, op := .marker 0, pkr := 0, arr := 0, need := 0 } }))
    let list : State := mem [(0x700000, 8, 0x500000)] (moverAt 0 0x700000 (on id))
    (s 0).cur.wait = none ∧ (s 0).ready [1] = true ∧ (s 0).cur.s 1 = 0x400000 ∧ structOk 0x400000 64 = true
    ∧ moverPasses (s 0x500000) .copy = some 0 ∧ moverPasses (mem [(0x1000, 8, 0x41F)] (s 0x500000)) .dec = some 0 ∧ moverPasses (s 0) .fill = some 0
    ∧ moverPasses full .copy = some 16
    ∧ structOk 0x700000 8 = true ∧ passes (extentCheck false false 4 0x700000 8 list) = true ∧ got (list.readWords 0x700000 1) = some [0, 0, 0x50, 0, 0, 0, 0, 0]
    ∧ moverPasses list (.gath [0x500000]) = some 0 := by decide +kernel

/-- Two entries of 1,024 bytes in cluster memory, one ready. -/
def wide : Chan := { wChan 1 0 with base := 0x9000000000000000, esize := 8 }

/-- A team with cluster memory, accumulator tiles and two such channels; s1 holds a shape or tile word. -/
def matrix (w : Word) (f : Team → Team) : State :=
  on (fun t => f ({ few t with acctiles := 4, cmsize := 0x10000, chans := [(0, wide), (1, wide)] }.setS 1 w))

/-- The shape 8 x 16 x 64 of E4M3 without scales, and as a word. -/
def wShape : Shape := { m8 := 1, n16 := 1, k64 := 1, afmt := 13, bfmt := 13, t := 0, mx := false }
def wShapeWord : Word := 1 + 2 ^ 10 + 2 ^ 20 + 13 * 2 ^ 36 + 13 * 2 ^ 41

theorem witness_MatrixIssued :
    let s : State := matrix wShapeWord id
    s.cur.wait = none ∧ s.ready [1] = true ∧ s.cur.mxq.length < 16 ∧ s.cur.s 1 = wShapeWord ∧ s.cur.acctiles = 4
    ∧ shapeOf wShapeWord = wShape ∧ s.cur.chan 0 = some wide ∧ formatFamily 13 = 2 ∧ formatFamily 9 = 1
    ∧ panelBytes 8 64 13 false ≤ wide.esize * 128 ∧ panelBytes 16 64 13 false ≤ wide.esize * 128
    ∧ (matrix 0 (fun t => { t with chans := [] })).cur.chan 0 = none
    ∧ tileWord (2 ^ 10 + 2 ^ 20) = { t := 0, nt := 1, c16 := 1, x := 0 }
    ∧ tileWord (4 * 2 ^ 10 + 2 ^ 20) = { t := 0, nt := 4, c16 := 1, x := 0 }
    ∧ tileWord (2 ^ 10 + 2 ^ 20 + 255 * 2 ^ 30) = { t := 0, nt := 1, c16 := 1, x := 255 }
    ∧ 512 * 1 ≤ wide.esize * 128 ∧ wide.esize * 128 < 512 * 4 ∧ 256 * 4 ≤ wide.esize * 128 ∧ wide.esize * 128 < 256 * 8
    ∧ 128 * 8 ≤ wide.esize * 128 ∧ wide.esize * 128 < 128 * 9 := by decide +kernel

/-- The limits of shape and tile words: the word above with its tiles, one without rows, and tile words of 1, 4 and 0 tiles and
with a scale. -/
theorem witness_MatrixIssued_limits : shapeFits wShapeWord 4 true ∧ ¬ shapeFits 0 4 true
    ∧ (∀ sc, tileFits (2 ^ 10 + 2 ^ 20) 4 sc) ∧ tileFits (4 * 2 ^ 10 + 2 ^ 20) 4 false ∧ ¬ tileFits 0 4 false
    ∧ tileFits (2 ^ 10 + 2 ^ 20 + 255 * 2 ^ 30) 4 true ∧ ¬ tileFits (2 ^ 10 + 2 ^ 20 + 255 * 2 ^ 30) 4 false := by
  refine ⟨?_, ?_, ?_, ?_, ?_, ?_, ?_⟩ <;> simp [shapeFits, shapeOf, tileFits, tileWord, wShapeWord]

/-- Commands: a marker, a fill of one byte into chip scratchpad, a TACC and a product. -/
def cmd (op : EngOp) : EngCmd := { id := 7, op := op, pkr := 0, arr := 0, need := 0 }
def wFill : MvDesc :=
  { src := 0, dst := 10 * 2 ^ 60, rowlen := 1, rows := 1, sstride := 0, dstride := 0, inch := none, outch := none, incnt := 0, outcnt := 0,
    aux := 0xFF }
def fired (op : EngOp) : Fired := { id := 7, cmd := cmd op, inStart := 0, in2Start := 0, outStart := 0, pins := [], ranges := [], raced := false }

theorem witness_ArriveAndWait :
    let full : State := on (fun t => { t with mxq := List.replicate 16 (cmd (.marker 0)) })
    let busy : State := on (fun t => { t with mvq := [cmd (.mover .fill wFill)] })
    let late : State := on (fun t => { t with mxq := [cmd .spanClose] })
    16 ≤ full.cur.mxq.length ∧ (busy.cur.mvq.length < 16 ∧ busy.cur.moverDone = false ∧ busy.cur.mvq ≠ []
        ∧ ∀ c ∈ busy.cur.mvq.head?, c.op = .mover .fill wFill)
    ∧ ((on id).cur.mvq = [] ∧ (on id).cur.mxq = []) ∧ (on id).ready [1] = true
    ∧ late.cur.matrixDone = false ∧ (on id).cur.matrixDone = true ∧ (on id).cur.moverDone = true := by decide +kernel

/-- Span 0 over columns 0 to `n` - 1 of bench 0. -/
def wSpan (n : Nat) (opened : Bool) : SpanMember :=
  { number := 0, g0 := 0, len := n, row := 0, bench := 0, opened := opened, broken := false }

/-- A member of a span of `n`, with these commands and operations. -/
def inSpan (n : Nat) (opened : Bool) (q : List EngCmd) (fs : List Fired) : State :=
  matrix wShapeWord (fun t => { t with span := some (wSpan n opened), mxq := q, fired := fs })

/-- Its neighbour in column 1, without a command. -/
def beside (s : State) : State := { s with others := [{ s.cur with uid := 1, core := 1, mxq := [], fired := [] }] }

theorem witness_SpanLife :
    let s (x : Word) : State := on (fun t => t.setS 1 x)
    let wait (o : Bool) : State := (inSpan 1 o [] []).setCur (fun t => { t with wait := some .span })
    let waiting (n : Nat) (s : State) : List Team := (upTo 0 n).filterMap (fun g => s.teams.find? (fun u =>
      u.columns.contains g && u.span.any (fun y => !y.opened) && sameSpan s.cur u (wSpan n false)))
    let near : State := { inSpan 1 false [] [] with others := [{ (inSpan 1 true [] []).cur with uid := 1 }] }
    ((s 0x2000).cur.wait = none ∧ (s 0x2000).ready [1] = true ∧ ((s 0x2000).cur.s 1).toNat < 2 ^ 21
        ∧ (s 0x2000).cur.columns = [0] ∧ 0 < (s 0x2000).benchOf 0 ∧ (s 0x2000).others = [] ∧ (s 0x2000).cur.span = none)
    ∧ (2 ^ 20 / 2 ^ 13 % 256 = 128 ∧ (2 ^ 20 + 2 ^ 6) / 2 ^ 13 % 256 + (2 ^ 20 + 2 ^ 6) / 64 % 128 = 129) ∧ 2 ^ 21 ≤ ((s 0x200000).cur.s 1).toNat
    ∧ ((wait true).cur.wait = some .span ∧ (wait true).cur.span = some (wSpan 1 true) ∧ (wait false).cur.span = some (wSpan 1 false))
    ∧ (waiting 2 (inSpan 2 false [] [])).length < 2
    ∧ ((waiting 1 (inSpan 1 false [] [])).length = 1 ∧ (waiting 1 (inSpan 1 false [] [])).all (fun u => u.status == .running) = true
        ∧ (inSpan 1 false [] []).teams.all (fun u => match u.span with | some y => !y.opened | none => true) = true
        ∧ (inSpan 1 false [] []).halted 1 = false)
    ∧ near.teams.any (fun u => u.span == some (wSpan 1 true)) = true
    ∧ ((inSpan 1 true [] []).cur.wait = none ∧ (inSpan 1 true [] []).cur.mxq.length < 16 ∧ (inSpan 1 true [] []).cur.span = some (wSpan 1 true)
        ∧ (inSpan 1 true [] []).cur.s 1 = wShapeWord ∧ (inSpan 1 true [] []).cur.acctiles = 4 ∧ (inSpan 1 true [] []).cur.columns.contains 0 = true
        ∧ (inSpan 1 true [] []).cur.chan 0 = some wide ∧ panelBytes 16 64 13 false ≤ wide.esize * 128)
    ∧ (on id).cur.span = none := by decide +kernel

/-- The command of a round. -/
def wRound : EngOp := .spanMma wShape true false 0 1

/-- Whether the pages of a command could be brought in with nothing to pin. -/
def brings (s : State) (c : EngCmd) : Bool :=
  match s.bringPages (s.cur.commandPages c.op) with
  | (u, ok) => ok && u.pinsOk (u.framesOf (s.cur.commandPages c.op)) && u.cur.mxq == s.cur.mxq && u.cur.mvq == s.cur.mvq

theorem witness_EngineFires :
    let mv : State := on (fun t => { t with kspsize := 64, mvq := [cmd (.mover .fill wFill)] })
    let zero : State := matrix 0 (fun t => { t with mxq := [cmd (.tacc .zero { t := 0, nt := 1, c16 := 1, x := 0 } 0)] })
    let load : State := matrix 0 (fun t => { t with chans := [(0, wChan 0 0)], mxq := [cmd (.tacc .load { t := 0, nt := 1, c16 := 1, x := 0 } 0)] })
    (on (fun t => { t with status := .complete })).cur.status ≠ .running
    ∧ (mv.cur.status = .running ∧ mv.halted 1 = false ∧ mv.cur.blocksDone 0 = true ∧ mv.capacity 0 0 false = true
        ∧ claimsOk (cmd (.mover .fill wFill)).op.claims mv.cur = true ∧ mv.firstInLine mv.cur false (cmd (.mover .fill wFill)) = true
        ∧ brings mv (cmd (.mover .fill wFill)) = true)
    ∧ (zero.capacity 0 0 true = true ∧ claimsOk ([] : List (Nat × Bool × Nat)) zero.cur = true
        ∧ zero.firstInLine zero.cur true (cmd (.tacc .zero { t := 0, nt := 1, c16 := 1, x := 0 } 0)) = true
        ∧ brings zero (cmd (.tacc .zero { t := 0, nt := 1, c16 := 1, x := 0 } 0)) = true)
    ∧ claimsOk (EngOp.tacc .load { t := 0, nt := 1, c16 := 1, x := 0 } 0).claims load.cur = false
    ∧ (on (fun t => { t with mvq := [cmd (.marker 0)] })).cur.mvq = cmd (.marker 0) :: []
    ∧ (mv.couldPin mv.cur (mv.cur.commandPages (cmd (.mover .fill wFill)).op) = true
        ∧ zero.couldPin zero.cur (zero.cur.commandPages (.tacc .zero { t := 0, nt := 1, c16 := 1, x := 0 } 0)) = true)
    ∧ (let s : State := on (fun t => { t with mxq := [cmd .spanClose] })
       s.cur.blocksDone 0 = true ∧ s.cur.fired = [] ∧ s.capacity 0 0 true = true ∧ s.firstInLine s.cur true (cmd .spanClose) = true)
    ∧ (inSpan 1 true [cmd .spanClose] [fired wRound]).cur.fired = [fired wRound] := by decide +kernel

theorem witness_EngineCompletes :
    let zero : EngOp := .tacc .zero { t := 0, nt := 4, c16 := 2, x := 0 } 0
    let mul : EngOp := .tmma wShape true false false 0 1
    let s (op : EngOp) : State := matrix 0 (fun t => { t with kspsize := 64, fired := [fired op] })
    ((s zero).cur.fired.find? (fun x => x.id == 7) = some (fired zero) ∧ 1 ≤ 2 ∧ 4 % 2 = 0)
    ∧ ((s mul).cur.fired.find? (fun x => x.id == 7) = some (fired mul) ∧ ((s mul).panel 0 0 8 64 13 false false).isSome = true
        ∧ ((s mul).panel 1 0 16 64 13 false false).isSome = true)
    ∧ ((s (.mover .fill wFill)).cur.fired.find? (fun x => x.id == 7 && x.isMover) = some (fired (.mover .fill wFill))
        ∧ (s (.mover .fill wFill)).cur.status = .running ∧ (s (.mover .fill wFill)).mem.wf = true
        ∧ wFill.rowlen + wFill.dst.toNat % 128 ≤ 128 ∧ wFill.dst.toNat / 2 ^ 60 = 10 ∧ wFill.dst.toNat % 2 ^ 60 < 2 ^ 26
        ∧ (s (.mover .fill wFill)).frames = [] ∧ (fired (.mover .fill wFill)).sent = false ∧ (fired (.mover .fill wFill)).lost = []
        ∧ (s (.mover .fill wFill)).calm none (Config.chipKey 0 ((s (.mover .fill wFill)).chipBase (s (.mover .fill wFill)).cur)) 1 = true) := by
  decide +kernel

/-- The members of a span as teams. -/
def spanTeams (s : State) (n : Nat) : List Team := (s.memberIds s.cur (wSpan n true)).filterMap s.team?

theorem witness_SpanRounds_fire :
    let one : State := inSpan 1 true [cmd wRound] []
    let two : State := beside (inSpan 2 true [cmd wRound] [])
    (one.cur.span = some (wSpan 1 true) ∧ one.cur.spanHead = some (cmd wRound, wShape, true, false, 0, 1) ∧ one.halted 1 = false)
    ∧ ((inSpan 2 true [cmd wRound] []).members (inSpan 2 true [cmd wRound] []).cur (wSpan 2 true)).length < 2
    ∧ ((two.members two.cur (wSpan 2 true)).length = 2 ∧ (spanTeams two 2).all (fun u => u.status == .running) = true
        ∧ (spanTeams two 2).any (fun u => u.spanHead.isNone) = true)
    ∧ ((one.members one.cur (wSpan 1 true)).length = 1 ∧ (spanTeams one 1).all (fun u => u.spanHead.isSome) = true
        ∧ roundAgrees ((spanTeams one 1).filterMap Team.spanHead) 1024 = true
        ∧ (spanTeams one 1).all (fun u => one.roundReady u true && one.capacity u.sett u.core true
            && (match u.head true with | some c => one.firstInLine u true c | none => false)) = true
        ∧ (fireMembers ((one.memberIds one.cur (wSpan 1 true)).map (fun i => (i, true))) one).isSome = true) := by decide +kernel

theorem witness_SpanRounds_complete :
    let done : State := inSpan 1 true [] [fired wRound]
    (done.cur.fired.find? (fun f => f.id == 7)).isSome = true ∧ done.memberIds done.cur (wSpan 1 true) = [done.cur.uid]
      ∧ (done.team? done.cur.uid).isSome = true ∧ done.cur.roundOp.isSome = true
      ∧ (roundPanels done (done.memberIds done.cur (wSpan 1 true))).isSome = true
      ∧ ((done.focus done.cur.uid).panel 0 0 8 64 13 false false).isSome = true := by decide +kernel

/-! ### Scratchpad pages, migration and DFENCE -/

theorem witness_ScratchpadPages :
    let s (p k : Word) : State := (windows true).setCur (fun t => { t with kern := { t.kern with scratch := 8192 } }.setS 1 p |>.setS 2 k)
    let held : State := (s 1 1).setCur (fun t => { t with chans := [(0, wChan 0 0)] })
    (s 1 0).ready [1, 2] = true ∧ ((s 1 0).cur.s 2).toNat = 0 ∧ 2048 < ((s 2048 1).cur.s 1).toNat + 1
    ∧ ((FMap.get? (s 0 1).cur.stt 0).isSome = true ∧ ¬ 4096 * 2 < (s 2 1).cur.kern.scratch)
    ∧ (4096 * 1 < (s 1 1).cur.kern.scratch ∧ FMap.get? (s 1 1).cur.stt 1 = none)
    ∧ (inBlock id).cur.lanesDone = false ∧ (s 0 1).cur.lanesDone = true
    ∧ (held.cur.covers 0 = true ∧ held.cur.covers 1 = false) := by decide +kernel

theorem witness_MigrationAndDfence :
    let s (x n : Word) : State := (on few).setCur (fun t => { t with acctiles := 1 }.setS 1 x |>.setS 2 n)
    let crowded : State := { s 1 0 with others := [{ (s 1 0).cur with uid := 9, core := 1, acctiles := 512 }] }
    ((s 0 0).ready [1, 2] = true ∧ (s 0 0).cur.pair = false ∧ (s 0 0).cur.span = none ∧ 255 / 16 < (s 0 0).gridRows 0
        ∧ (s 0 0).cur.lanesDone = true ∧ (s 0 0).cur.enginesDone = true ∧ (s 0 0).quiet = true ∧ (s 0 0).cur.core = 0)
    ∧ crowded.coreTakes 1 = false ∧ (s 255 0).coreTakes 255 = true
    ∧ 256 ≤ ((s 256 0).cur.s 1).toNat ∧ (1 ≤ ((s 0x1000000000000000 0).cur.s 1).toNat / 2 ^ 60 ∧ ((s 0 127).cur.s 2).toNat < 128
        ∧ 2 ^ 30 < ((s 0 0x40000080).cur.s 2).toNat)
    ∧ (((s 0x500000 128).cur.s 1).toNat % 128 = 0 ∧ bitsNat 0x500000 53 48 < 48 ∧ bitsNat 0x500000 59 54 = (s 0 0).ownPkg
        ∧ (s 0 0).inDomain (s 0 0).ownPkg = true ∧ (s 0 0).cur.moverDone = true
        ∧ ((s 0 0).walk 1 0 0x500000).isSome = true ∧ (s 0 0).packState (Config.dramKey 0 0x500000) ≤ 1)
    ∧ (inBlock id).cur.lanesDone = false := by decide +kernel

/-! ### The collective engine, counters and messages -/

/-- Four counters and four places in sett 0; counter `no` holds `v`. -/
def counters (no : Nat) (v : BitVec 32) (s : State) : State :=
  (s.setCtx 1 (fun c => { c with cntCount := 4, cntBase := [(0, 8)], places := 4 })).setSett 0
    (fun x => { x with counters := [(no, { value := v, gen := 3 })] })

theorem witness_CounterInstructions :
    let s (a b : Word) (v : BitVec 32) : State := counters 8 v (on (fun t => t.setS 1 a |>.setS 2 b))
    (s 0 0 0).ready [1, 2] = true ∧ (s 4 0 0).ctrNo 1 0 4 = none ∧ ((s 0 0 0).ctrNo 1 0 0 = some 8 ∧ (s 0 0 0).ctrNo 1 0 3 = some 11)
    ∧ ((s 0 0 0).sett 0).entries = []
    ∧ (1 ≤ ((s 0 65535 0).cur.s 2).toNat ∧ ((s 0 65535 0).cur.s 2).toNat ≤ 65535 ∧ (s 0 1 0).blocksPerformed (s 0 1 0).cur.uid 0 = true)
    ∧ 65536 ≤ ((s 0 65536 0).cur.s 2).toNat ∧ ((s 0 0 0).cur.s 2).toNat % 65536 = 0
    ∧ 2 ^ 31 < ((0x80000001 : BitVec 32) - ((s 0 0 0).counter 0 8).value).toNat
    ∧ (¬ 2 ^ 31 < ((0x80000000 : BitVec 32) - ((s 0 0 0).counter 0 8).value).toNat
        ∧ ¬ 0 ≤ (((s 0 0 0).counter 0 8).value - (0x80000000 : BitVec 32)).toInt)
    ∧ 0 ≤ (((s 0 0 5).counter 0 8).value - (5 : BitVec 32)).toInt ∧ (s 0 0 0).cur.wait = none
    ∧ (let w (met : Bool) : State := counters 8 4 (on (fun t => { t with wait := some (.cnt 0 8 5 met) }))
       (w true).cur.wait = some (.cnt 0 8 5 true) ∧ (w false).cur.wait = some (.cnt 0 8 5 false) ∧ (w false).cur.status = .running
         ∧ 0 ≤ (((w false).counter 0 8).value + BitVec.ofNat 32 1 - (5 : BitVec 32)).toInt) := by decide +kernel

/-- A descriptor of an entry at offset 0x400000: KIND 2, counters 0 and 1, a threshold, an increment of 1. -/
def entryAt (flags thresh : Nat) (s : State) : State :=
  mem [(0x400000, 4, flags), (0x400008, 4, thresh), (0x40000C, 4, 1), (0x400024, 2, 1)] s

/-- Whether an entry of memory passes, and whether its extents do. -/
def entryPasses (s : State) : Bool :=
  match s.readWords 0x400000 8 with
  | .ok bs r => entryOk bs && (r.ctrNo r.cur.ctx r.cur.sett (entryFields bs).trig).isSome
      && (r.ctrNo r.cur.ctx r.cur.sett (entryFields bs).cctr).isSome && passes (r.entryExtents 0x400000 (entryFields bs))
  | _ => false

theorem witness_EntryPosted :
    let s (flags thresh : Nat) : State := counters 8 0 (entryAt flags thresh (on (fun t => t.setS 1 0x400000)))
    (s 2 1).cur.wait = none ∧ (s 2 1).ready [1] = true ∧ structOk 0x400000 64 = true ∧ entryPasses (s 2 1) = true
    ∧ entryPasses (s 3 1) = false ∧ entryPasses (s (2 + 2 ^ 11) 0) = true
    ∧ (s 2 1).placeFree 1 0 = true ∧ ((s 2 1).setCtx 1 (fun c => { c with places := 0 })).placeFree 1 0 = false
    ∧ (BitVec.ofNat 32 0x80000000 - ((s 2 1).counter 0 8).value).toNat ≤ 2 ^ 31 ∧ (s 2 1).halted 1 = false := by decide +kernel

/-- A fired entry of sett 0 that moves `len` bytes, and one without a move. -/
def wEntry (kind src dst len : Nat) : Entry :=
  { id := 5, ctx := 1, bytes := bytesOf 4 kind ++ bytesOf 8 0 ++ bytesOf 4 1 ++ bytesOf 8 src ++ bytesOf 8 dst ++ bytesOf 4 len ++ bytesOf 2 1
      ++ List.replicate 26 0,
    pkr := 0, gen := 3, ctr := 8, waitBlocks := none, fired := true, grid := 0, group := none }

/-- A timetable of one phase in which transmitter 0 is lit toward package 1. -/
def litTable : Timetable := { base := 0, guardTicks := 100, phases := [{ dur := 600, entries := [0x8040] }] }

/-- How a move stands: 0 waits, 1 failed, 2 done, 3 sent. -/
def movedKind : Moved → Nat
  | .wait => 0
  | .failed _ _ _ => 1
  | .done _ _ _ => 2
  | .sent _ _ => 3

theorem witness_EntryCompletes :
    let s (e : Entry) : State := (counters 8 0 (on id)).setSett 0 (fun x => { x with entries := [e] })
    let lit (e : Entry) : State := { s e with domain := 3, timetable := some litTable }
    let e0 : Entry := wEntry 2 0 0 0
    let e1 : Entry := wEntry 0 0x500000 0x600000 128
    let e2 : Entry := wEntry 0 0x5000000000 0x600000 128
    let e3 : Entry := wEntry 0 (2 ^ 54) 0x600000 128
    let e4 : Entry := { e3 with asked := [2 ^ 54], at_ := 5 }
    let e5 : Entry := wEntry 0 0x500000 (2 ^ 54) 128
    ((s e0).firedEntry 0 5 = some e0 ∧ (s e0).linkEntry 0 5 = none ∧ ((s e0).ctx? 1).isSome = true ∧ (entryFields e0.bytes).recd = 0
        ∧ (entryFields e0.bytes).remote = false ∧ (entryFields e0.bytes).kind = 2 ∧ (s e0).ctrNo 1 0 (entryFields e0.bytes).cctr = some 9)
    ∧ (movedKind ((s e1).cleMove 0 e1 []) = 2 ∧ (entryFields e1.bytes).kind = 0) ∧ movedKind ((s e2).cleMove 0 e2 []) = 1
    ∧ (movedKind ((lit e3).cleMove 0 e3 []) = 0 ∧ ((lit e3).askFrom 0 e3 [((entryFields e3.bytes).src, 128)]).isSome = true)
    ∧ (movedKind ((lit e4).cleMove 0 e4 []) = 0 ∧ e4.asked ≠ [] ∧ 5 + 100000 ≤ State.gtc { lit e4 with gtc := 100005 }
        ∧ ((lit e4).askFrom 0 e4 [((entryFields e4.bytes).src, 128)]).isSome = false)
    ∧ movedKind ((lit e5).cleMove 0 e5 []) = 3 := by decide +kernel

/-- A message of another package's sett 0, and its receipt. -/
def wMsg (body : CtlBody) : CtlMsg := { srcPkg := 1, srcSett := 0, cseq := 1, sgtc := 0, body := body }

theorem witness_MessagesAndReceipts :
    let s : State := counters 8 0 (on id)
    let inc : CtlMsg := wMsg (.increment 1 0 1)
    let flag : CtlMsg := wMsg (.flag 1 0x500000 1 0)
    ((0 : Nat) < 48 ∧ inc.srcPkg ≠ s.ownPkg ∧ (s.sett 0).fresh (pairKey 1 0) 1 = true)
    ∧ ((s.setSett 0 (fun x => x.accept (pairKey 1 0) 1)).sett 0).fresh (pairKey 1 0) 1 = false
    ∧ State.transit { s with transit := [(0, inc)] } = [(0, inc)] ∧ (s.ctx? 1).isSome = true
    ∧ (s.ctrNo 1 0 3 = some 11 ∧ s.ctrNo 1 0 4 = none)
    ∧ ((FMap.getD (s.sett 0).performed (pairKey 1 0 * 65536 + 1) 0 - (1 : BitVec 32)).toInt < 0
        ∧ 0 ≤ (FMap.getD (s.sett 0).performed (pairKey 1 0 * 65536 + 1) 0 - (0 : BitVec 32)).toInt)
    ∧ (gvaBad .scalar 0x500000 = false ∧ 0x500000 / 2 ^ 60 = 0 ∧ bitsNat 0x500000 59 54 = s.ownPkg ∧ s.inDomain s.ownPkg = true
        ∧ (s.ownerCheck 1 0 0x500000 .store 0).toOption.isSome = true ∧ s.calm none (Config.dramKey 0 0x500000) 8 = true ∧ granted s 0x500000 .store = some 0 ∧ flag.body = .flag 1 0x500000 1 0)
    ∧ s.gtc < inc.sgtc + 100000 ∧ inc.sgtc + 100000 ≤ State.gtc { s with gtc := 100000 } ∧ inc.body = .increment 1 0 1 := by decide +kernel

theorem witness_Barrier :
    let desc (m : Nat) : State := counters 8 0 (mem [(0x400004, 4, m)] (on (fun t => t.setS 1 0x400000)))
    let held : State := on (fun t => { t with wait := some (.barxDesc (List.replicate 32 0)) })
    let home : State := (counters 8 7 (on (fun t => { t with wait := some (.barxSent 4) })))
    let at_ (w : Wait) : State := (counters 8 7 (on (fun t => { t with wait := some w })))
    let arr : CtlMsg := { wMsg (.arrival 1 0 4 0 0 0 0) with srcPkg := 0 }
    let ok (s : State) : Bool := match s.readWords 0x400000 8 with | .ok bs r => r.barxOk bs && r.cur.lanesDone && r.quiet | _ => false
    (desc 4).cur.wait = none ∧ (desc 4).ready [1] = true ∧ structOk 0x400000 64 = true ∧ ok (desc 0) = false ∧ ok (desc 1) = true
    ∧ (held.cur.wait = some (.barxDesc (List.replicate 32 0)) ∧ fieldAt (List.replicate 32 0) 3 1 = held.ownPkg ∧ held.cur.lanesDone = true
        ∧ held.quiet = true ∧ (inBlock id).cur.lanesDone = false)
    ∧ (home.ctrNo 1 0 0 = some 8 ∧ home.cur.uid = 0 ∧ home.cur.status = .running ∧ home.cur.wait = some (.barxSent 4) ∧ 1 ≤ 4
        ∧ arr.srcPkg = home.ownPkg ∧ arr.body = .arrival 1 0 4 0 0 0 0)
    ∧ ((at_ (.barx (some (0, 8)) 8)).cur.wait = some (.barx (some (0, 8)) 8) ∧ 0 ≤ (((at_ .barxDone).counter 0 8).value + BitVec.ofNat 32 1 - 8).toInt
        ∧ (at_ .barxDone).cur.wait = some .barxDone)
    ∧ ((home.counter 0 8).value - (8 : BitVec 32)).toInt < 0 ∧ 0 ≤ ((home.counter 0 8).value - (7 : BitVec 32)).toInt := by decide +kernel

end Sys2Proof.Tests
end

