-- ==== Sys2Proof/Tests/Lane.lean ====
section
/-!
SUPPORT. States that meet the hypotheses of the statements about the lane stream.
-/

set_option Elab.async false

namespace Sys2Proof.Tests
open Machine

/-! ### The lane stream -/

def wPath : Path := { Path.make 0 0 [0, 1, 2, 3] with state := .current }

/-- Everything that `LaneReady` asks for, as a check. -/
def readyCheck (s : State) (i : Instr) (p : Path) (b : Block) : Bool :=
  s.cur.current == some p && s.cur.paths == [p] && p.state == .current && s.cur.status == .running && s.cur.block == some b
    && indicesOk s.cur.code.mview s.cur.code.regsN i && !s.blocked p i && (s.lanesOn p i).all (fun l => decide (l < s.cur.lanes.length))
    && s.cur.lanes.all (fun x => x.bad.isEmpty && x.soft.isEmpty && !x.badPreds && !x.softPreds)
    && (p.passDone == 0 && p.faults == [] && p.doneLanes == [] && p.fl == 0 && p.issue == 0)
    && decide (p.passes.length ≤ p.slice) && s.reqs.all (fun r => !r.back)

theorem nth_of_all {P : Lane → Prop} (d : Lane) : ∀ (xs : List Lane) (l : Nat), P d → (∀ x ∈ xs, P x) → P (nth d xs l)
  | [], _, hd, _ => hd
  | x :: _, 0, _, h => h x (List.mem_cons_self ..)
  | _ :: xs, l + 1, hd, h => nth_of_all d xs l hd (fun x hx => h x (List.mem_cons_of_mem _ hx))

theorem ready_of_check {s : State} {i : Instr} {p : Path} {b : Block} (h : readyCheck s i p b = true) : LaneReady s i p b := by
  simp only [readyCheck, Bool.and_eq_true, beq_iff_eq, Bool.not_eq_true', List.all_eq_true, decide_eq_true_eq, List.isEmpty_iff] at h
  obtain ⟨⟨⟨⟨⟨⟨⟨⟨⟨⟨⟨h1, h2⟩, h3⟩, h4⟩, h5⟩, h6⟩, h7⟩, h8⟩, h9⟩, ⟨⟨⟨ha, hb⟩, hc⟩, hd⟩, he⟩, h10⟩, h11⟩ := h
  refine ⟨h1, ?_, h3, ⟨ha, hb, hc, hd, he⟩, h10, h11, h4, h5, h6, h7, h8, ?_⟩
  · intro q hq _
    rw [h2] at hq
    exact List.mem_singleton.1 hq
  · intro l
    exact nth_of_all _ _ l ⟨rfl, rfl, rfl, rfl⟩ (fun x hx => ⟨(h9 x hx).1.1.1, (h9 x hx).1.1.2, (h9 x hx).1.2, (h9 x hx).2⟩)

/-- Heads and AUX fields: 32-bit operands in v0 to v3, or those given. -/
def head (ty : LType) (d a b c : Operand) : LaneHead := { g := ⟨false, 7⟩, ty := ty, d := d, a := a, b := b, c := c }
def three (ty : LType) : LaneHead := head ty (.v 0) (.v 1) (.v 2) (.v 3)
def auxA : AuxA := ⟨0, 0, false, false, .dyn⟩
def auxC : AuxC := ⟨0, 0, 0, 0, .eq⟩
def auxM : AuxM := ⟨0, .add, .default, .relaxed, .lane, 0⟩
def auxX : AuxX := ⟨0, 0, 0⟩
def auxB : AuxB := ⟨false, 1⟩
def address (d c : Operand) : LaneHead := head .i32 d (.w 2) .none c

def laneArith : List Instr :=
  [.vadd (three .i32) auxA, .vsub (three .i32) auxA, .vmul (three .i32) auxA, .vmulh (three .i32), .vmad (three .i32) auxA,
   .vmin (three .i32), .vmax (three .i32), .vabs (three .i32) auxA, .vneg (three .i32) auxA]
def laneIntBits : List Instr :=
  [.vdot4 (three .i8x4) auxA, .vdot4 (three .n8x4) auxA, .vand (three .b32), .vor (three .b32), .vxor (three .b32), .vnot (three .b32),
   .vshl (three .b32), .vshr (three .b32), .vsra (three .b32), .vrol (three .b32), .vclz (three .b32), .vpopc (three .b32)]
def laneMoves : List Instr :=
  [.vbfx (three .i32), .vbfi (three .b32), .vcmp (three .i32) auxC, .vcmp (three .f32) auxC, .vsel (three .b32) auxC, .plop (three .i32) auxC,
   .vmov (three .b32), .vli ⟨false, 7⟩ .b64 (.w 1) 5]
def laneCross : List Instr :=
  [.vshfl (three .b32) auxX, .vbcast (three .b32) auxX, .vreduce (three .i32) auxX, .vreduce (three .f32) auxX,
   .vreduce (head .i32 (.s 4) (.v 1) .none .none) auxX, .vscan (three .i32) auxX, .vvote (three .b32) auxX,
   .vvote (head .b32 (.s 4) .none .none .none) auxX]
def laneCtl : List Instr :=
  [.bra ⟨false, 7⟩ 3 .none auxB, .brx (three .i32) auxB, .skip (three .i32) auxB, .join (three .i32), .lend (three .i32), .yieldl (three .i32),
   .ltrap (three .i32) auxB, .bar (three .i32) auxX]
def laneFloat1 : List Instr :=
  [.vfadd (three .f32) auxA, .vfsub (three .f32) auxA, .vfmul (three .f32) auxA, .vfma (three .f32) auxA, .vfmin (three .f32),
   .vfmax (three .f32), .vfdiv (three .f32) auxA, .vfsqrt (three .f32) auxA, .vfrcp (three .f32), .vfrsq (three .f32)]
def laneFloat2 : List Instr :=
  [.vfexp2 (three .f32), .vflog2 (three .f32), .vfsin (three .f32), .vfcos (three .f32), .vfclass (three .f32), .vfrnd (three .f32) auxA,
   .vfsgn (three .f32) auxA, .vfexpo (three .f32)]
def laneConvert : List Instr :=
  [.vcvt (three .f32) auxA, .vpack (head .f16 (.w 0) (.q 1) .none .none) { auxA with stype := 8 },
   .vunpk (head .f16 (.q 1) (.w 0) .none .none) { auxA with stype := 8 }, .fmma (head .f32 (.m 2 0) (.m 0 0) (.m 1 0) (.m 2 0))]
def laneMemory : List Instr :=
  [.vld (address (.v 0) .none) auxM, .vst (address .none (.v 0)) auxM, .vatom (address (.v 0) (.v 1)) auxM,
   .vcas (address (.w 0) (.w 3)) auxM, .vpref (address .none .none) auxM, .fence (three .i32) auxM, .fld (address (.m 2 0) .none) auxM,
   .fst (address .none (.m 2 0)) auxM]

/-- One word of every lane instruction. -/
def laneWords : List Instr := List.flatten [laneArith, laneIntBits, laneMoves, laneCross, laneCtl, laneFloat1, laneFloat2, laneConvert, laneMemory]

/-- In the small block every lane word can run. -/
theorem witness_LaneReady : laneWords.all (fun i => readyCheck (inBlock id) i wPath wBlock) = true := by decide +kernel

theorem witness_LaneReady_prop (i : Instr) (h : i ∈ laneWords) : LaneReady (inBlock id) i wPath wBlock := ready_of_check (List.all_eq_true.1 witness_LaneReady i h)

theorem witness_LaneOperands : (LType.b64.bits = 64 ∧ LType.b32.bits = 32 ∧ wPath.swrites = [] ∧ (1 : Reg) ≠ 0)
    ∧ operandSpan views (.v 31) = some (31, 1) ∧ 31 + 1 ≤ (Lane.launch 32 0).regs.length ∧ operandSpan views (.m 2 0) = some (24, 8)
    ∧ operandSpan views .none = none := by decide +kernel

/-- Types whose elements the clauses range over; the other hypotheses are `LaneReady`. -/
theorem witness_LaneInteger : elemOf .i32 = (32, 1, true) ∧ elemOf .i8x4 = (8, 4, true) ∧ LType.n8x4 = (if false then .i8x4 else .n8x4) := by decide

theorem witness_AtomicValues : LType.n32 ≠ .f32 ∧ 2 ^ 32 - 1 < 2 ^ (elemOf .n32).1 ∧ Aop.add ≠ .swap := by decide

theorem witness_LaneBits : ∀ l ∈ (inBlock id).lanesOn wPath (.vand (three .b32)),
    ((inBlock id).env wBlock wPath).val .b32 (.v 1) l < 2 ^ (elemOf .b32).1 ∧ ((inBlock id).env wBlock wPath).val .b32 (.v 2) l < 2 ^ (elemOf .b32).1 := by
  decide +kernel

theorem witness_LaneMoves : (fmtOf .i32).isNone = true ∧ (fmtOf .f32).isSome = true := by decide +kernel

/-- Widths of segments at the ends of their range, results in a register and in an s register, and no active lane. -/
theorem witness_CrossLane : 0 < (inBlock id).cur.kern.gwidth ∧ (16 ∈ [2, 4, 8, 16, 32, 64] ∧ 16 ≤ (inBlock id).cur.kern.gwidth)
    ∧ ¬ (32 ≤ (inBlock id).cur.kern.gwidth) ∧ (3 : Nat) ∉ [2, 4, 8, 16, 32, 64]
    ∧ (∀ l ∈ (inBlock id).lanesOn wPath (.vreduce (three .i32) auxX), ((inBlock id).env wBlock wPath).val .i32 (.v 1) l < 2 ^ (elemOf .i32).1)
    ∧ (inBlock id).lanesOn wPath (.vreduce (head .i32 (.s 4) (.v 1) .none .none) auxX) = [0, 1, 2, 3]
    ∧ readyCheck (inBlock id) (.vreduce { head .i32 (.s 4) (.v 1) .none .none with g := ⟨false, 0⟩ } auxX) wPath wBlock = true
    ∧ (inBlock id).lanesOn wPath (.vreduce { head .i32 (.s 4) (.v 1) .none .none with g := ⟨false, 0⟩ } auxX) = []
    ∧ (inBlock id).cur.kern.lanesN ≤ 32 := by decide +kernel

/-- A block whose path has word 1 of a section to skip over, one whose path is a child of record 0, and one with a path
that waits behind it. -/
def splitBlock : State := inBlock (fun t => { t with paths := t.paths.map (fun p => { p with split := some 0 }), recs := [⟨0, none, 1⟩] })
def behind : State := inBlock (fun t => { t with block := some { wBlock with lanes := [0, 1, 2, 3, 4] }, paths := t.paths ++ [{ Path.make 1 0 [4] with state := .ready }], ready := [1] })

theorem witness_LaneControl : wPath.lanes ≠ [] ∧ wPath.split = none ∧ wPath.idx ∉ (inBlock id).cur.ready ∧ (inBlock id).cur.ready = []
    ∧ (inBlock id).shadowOk 0 1 = true ∧ (inBlock (fun t => { t with kern := { t.kern with lcount := 1 } })).shadowOk 0 1 = false
    ∧ readyCheck splitBlock (.join (three .i32)) { wPath with split := some 0 } wBlock = true
    ∧ (behind.cur.current = some wPath ∧ behind.cur.ready = 1 :: [] ∧ (1 : Nat) ∉ ([] : List Nat))
    ∧ (inBlock id).lanesOn wPath (.ltrap { three .i32 with g := ⟨false, 0⟩ } auxB) = []
    ∧ (inBlock id).lanesOn wPath (.ltrap (three .i32) auxB) ≠ []
    ∧ (inBlock id).lanesOn wPath (.bra ⟨true, 0⟩ 3 .none auxB) = [0, 1, 2, 3] := by decide +kernel

theorem witness_LaneBarrier : 0 < (inBlock id).cur.kern.gwidth ∧ (inBlock id).cur.kern.gwidth ∣ (inBlock id).cur.kern.lanesN
    ∧ (∀ l ∈ wPath.lanes, l ∈ wBlock.lanes ∧ ((inBlock id).cur.lane l).retired = false ∧ l < (inBlock id).cur.kern.lanesN)
    ∧ (∀ l ∈ wPath.lanes, ∀ m ∈ (inBlock id).cur.instance_ (some (l / 16)), m ∈ wPath.lanes ∨ (inBlock id).cur.accounted m = true)
    ∧ (behind.cur.accounted 4 = false ∧ 4 ∈ behind.cur.instance_ none ∧ 4 ∉ wPath.lanes) := by decide +kernel

theorem witness_LaneFloat : (fmtOf .f32).isSome = true ∧ (fmtOf .f16x2).isSome = true ∧ (fmtOf .bf16).isSome = true := by decide +kernel

theorem witness_LaneConvert : LType.ofCode 0 = some .i32 ∧ LType.ofCode 18 = some .e8m0 ∧ (packPair .f16 .f32).isSome = true
    ∧ fmmaOk (head .f32 (.m 2 0) (.m 0 0) (.m 1 0) (.m 2 0)) (inBlock id).cur = true
    ∧ fmmaOk (head .f32 (.m 2 0) (.m 0 0) (.m 0 0) (.m 2 0)) (inBlock id).cur = false := by decide +kernel

/-- The four lanes point at chip scratchpad, at an address of no window, or at a page of another core's sett. -/
def pointing (a : Nat) : State := inBlock (fun t =>
  { t with kspsize := 64, lanes := t.lanes.map (fun x => x.write [] (.w 2) a) })

def access (s : State) (l : Nat) : MemOp := s.laneOp wPath wBlock aLoad (address (.v 0) .none) auxM l

/-- The hypotheses of a word that reads and writes where it stands: in every state that differs only by what the word itself
does, each lane finds the same bytes of chip scratchpad. -/
theorem witness_LaneMemory_here (l : Nat) (h : l ∈ wPath.lanes) (u : State) (hu : (pointing (10 * 2 ^ 60)).near u) :
    ∃ v, u.locateLane aLoad wBlock.snap.pkr (access (pointing (10 * 2 ^ 60)) l) = (v, .here [(Config.chipKey 0 0, 4)])
      ∧ (pointing (10 * 2 ^ 60)).near v ∧ v.mem = u.mem ∧ v.cur.lanes = u.cur.lanes := by
  have hc : ∀ l ∈ wPath.lanes, let m := access (pointing (10 * 2 ^ 60)) l
      m.ea / 2 ^ 60 = 10 ∧ gvaBad (.lane m.lane) m.ea = false ∧ m.ea % m.align = 0 ∧ winOff m.ea + m.w ≤ 64
        ∧ memPieces m.ea m.w = [(m.ea, m.w)] ∧ m.w = 4 ∧ winOff m.ea = 0 := by decide +kernel
  obtain ⟨h1, h2, h3, h4, h5, h6, h7⟩ := hc l h
  have hk : (pointing (10 * 2 ^ 60)).cur.kspsize = 64 ∧ (pointing (10 * 2 ^ 60)).cur.sett = 0
      ∧ (pointing (10 * 2 ^ 60)).chipBase (pointing (10 * 2 ^ 60)).cur = 0 := by decide +kernel
  obtain ⟨k1, k2, k3⟩ := near_chip hu
  have h8 : winOff (access (pointing (10 * 2 ^ 60)) l).ea + (access (pointing (10 * 2 ^ 60)) l).w ≤ u.cur.kspsize := by
    rw [k1, hk.1]; exact h4
  refine ⟨u, ?_, hu, rfl, rfl⟩
  rw [locateLane_chip u _ _ _ h1 h2 h3 h8 h5, h6, h7, k2, k3, hk.2.1, hk.2.2]

/-- The hypotheses of a word that faults: a window that is not assigned. -/
theorem witness_LaneMemory_fault (l : Nat) (h : l ∈ wPath.lanes) (u : State) (hu : (pointing (2 ^ 60)).near u) :
    ∃ v, u.locateLane aLoad wBlock.snap.pkr (access (pointing (2 ^ 60)) l) = (v, .fault codeGvaFormat)
      ∧ (pointing (2 ^ 60)).near v ∧ v.mem = u.mem ∧ v.cur.lanes = u.cur.lanes := by
  have hc : ∀ l ∈ wPath.lanes, gvaBad (.lane (access (pointing (2 ^ 60)) l).lane) (access (pointing (2 ^ 60)) l).ea = true := by
    decide +kernel
  exact ⟨u, locateLane_bad u _ _ _ _ (by rw [checkAccess, if_pos (hc l h)]), hu, rfl, rfl⟩

/-- The hypotheses of a word whose accesses cross: offset 0 of sett 0, and an empty L1. -/
theorem witness_LaneMemory_request (l : Nat) (h : l ∈ wPath.lanes) (u : State) (hu : (pointing 0).nearIn u) :
    u.locateLane aLoad wBlock.snap.pkr (access (pointing 0) l) = (u, .request 0 0) := by
  have hc : ∀ l ∈ wPath.lanes, let m := access (pointing 0) l
      m.ea / 2 ^ 60 = 0 ∧ gvaBad (.lane m.lane) m.ea = false ∧ m.ea % m.align = 0 ∧ bitsNat m.ea 59 54 = 0 ∧ bitsNat m.ea 53 48 = 0
        ∧ sectorsOf m.ea m.w ≠ [] := by decide +kernel
  obtain ⟨h1, h2, h3, h4, h5, h6⟩ := hc l h
  have hl : (pointing 0).l1 = [] := by decide +kernel
  have hd : (pointing 0).ownPkg = 0 ∧ (pointing 0).inDomain (pointing 0).ownPkg = true := by decide +kernel
  rw [locateLane_request hu _ _ _ h1 h2 h3 (h4.trans hd.1.symm) hd.2 (fun k => by rw [hl]; rfl) h6, h4, h5]

/-- The other hypotheses of a memory word, and a global address, whose access leaves as a request. -/
theorem witness_LaneMemory : readyCheck (pointing (10 * 2 ^ 60)) aLoad wPath wBlock = true ∧ wPath.passDone = 0 ∧ wPath.faults = []
    ∧ wPath.packed = none ∧ (pointing 0).lanesOn wPath aLoad = [0, 1, 2, 3] ∧ [0, 1, 2, 3].Nodup
    ∧ (pointing (10 * 2 ^ 60)).calm (some wBlock.arr) (Config.chipKey 0 0) 4 = true ∧ wPath.passes = [[0, 1, 2, 3]]
    ∧ readyCheck (pointing 0) aLoad wPath wBlock = true ∧ readyCheck (pointing (2 ^ 60)) aLoad wPath wBlock = true
    ∧ (pointing 0).missRoom (missesOf (pointing 0).cur (wPath.lanes.map (fun l => (access (pointing 0) l, .request 0 0)))) = true
    ∧ (match ((pointing 0).locateLane aLoad wBlock.snap.pkr (access (pointing 0) 0)).2 with | .request p n => p == 0 && n == 0 | _ => false) = true := by decide +kernel

end Sys2Proof.Tests
end

