-- ==== Sys2Proof/Tests/Host.lean ====
section
/-!
SUPPORT. States that meet the hypotheses of the statements about events of lanes, work, and the commands of the host.
-/

set_option Elab.async false

namespace Sys2Proof.Tests
open Machine

/-! ### Events of lanes -/

/-- A request on its way. -/
def asking (r : GReq) : State := { inBlock id with reqs := [r] }

theorem witness_LaneEvents :
    let turned : State := behind.setCur (fun t => { t with paths := t.paths.map (fun p => { p with slice := 0 }) })
    let late : Path := { wPath with wdog := 9 }
    let slow : State := inBlock (fun t => { t with wdoglim := 9, paths := [late] })
    let coming : State := { on id with frames := [(3, FrameInfo.filled 0 0 0)] }
    (turned.cur.current = some { wPath with slice := 0 } ∧ turned.cur.ready = 1 :: [] ∧ turned.halted turned.cur.ctx = false ∧ (0 : Nat) ∉ turned.cur.ready)
    ∧ ((inBlock id).cur.current = some wPath ∧ 0 < wPath.slice ∧ wPath.hold = 0 ∧ (inBlock id).cur.flagged = false)
    ∧ (behind.setCur (fun t => { t with flagged := true })).cur.flagged = true
    ∧ (slow.cur.path? 0 = some late ∧ slow.cur.wdogDue late = true ∧ acts (slow.lookup codeWatchdog) = some 0
        ∧ slow.halted slow.cur.ctx = false ∧ slow.cur.wdogDue { late with wdog := 8 } = false)
    ∧ ((coming.frame? 3).map (fun f => (f.filling.contains 31, f.copies)) = some (true, []) ∧ coming.frame? 4 = none
        ∧ coming.teams.all (fun t => t.want.isEmpty) = true)
    ∧ (let r := wReq 0 0x500000 false []
       let s := asking r
       (s.focusTag 3 == s && s.reqs == [r]) = true ∧ r.uid = s.cur.uid ∧ r.line = 0x500000 / 128 ∧ 0x500000 % 128 + 4 ≤ 128
         ∧ 0x500000 % 8 + 4 ≤ 8 ∧ s.inOrder r = true ∧ r.pkg = s.ownPkg ∧ r.done = [] ∧ r.checks = [] ∧ r.joint = false ∧ r.ctx = 1
         ∧ granted s 0x500000 .load = some 0 ∧ granted s 0x500000 .store = some 0 ∧ granted s 0x500000 .atomic = some 0
         ∧ s.calm none (Config.dramKey 0 0x500000) 4 = true ∧ granted s 0x5000000000 .load = none)
    ∧ (let r : GReq := { wReq 0 (2 ^ 54) false [] with pkg := 1 }
       (asking r).inOrder r = true ∧ r.pkg ≠ (asking r).ownPkg)
    ∧ (let r := wReq 0 0x500000 true [{ lane := 0, code := 0, data := [1, 2, 3, 4] }]
       (asking r).cur.status = .running ∧ (asking r).cur.block = some wBlock ∧ wBlock.seq = r.block ∧ 0 < (asking r).cur.lanes.length
         ∧ r.early = [] ∧ r.back = false)
    ∧ (wReq 0 0x500000 true []).answers = [] := by decide +kernel

/-! ### Work and the host -/

/-- A KERNEL packet of `teams` teams in gangs of one, of the object at offset 0x200000, for sett 0. -/
def wPacket (hdr teams : Nat) : List Byte :=
  bytesOf 4 hdr ++ bytesOf 2 1 ++ bytesOf 2 1 ++ bytesOf 8 0x200000 ++ bytesOf 8 0 ++ bytesOf 4 teams ++ bytesOf 2 0 ++ bytesOf 2 0
    ++ bytesOf 8 1 ++ List.replicate 24 0

/-- A queue at offset 0x500000 whose packet at the read index is this one. -/
def wQueue (eligible : Bool) : UserQueue :=
  { ctx := 1, base := 0x500000, log2 := 4, prio := 0, rd := 0, db := 1, seen := [0], eligible := if eligible then some 0 else none, running := false }

def queued (eligible : Bool) (bs : List Byte) : State :=
  let s : State := handled 0 (code [])
  let s : State := { s with mem := s.mem.setBytes (Config.dramKey 0 0x500000) bs, queues := [(queueKey 0 2, wQueue eligible)] }
  s.setCtx 1 (fun c => { c with regions := [(0, { base := 0x800000, len := 0x100000, areas := [] })] })

theorem witness_PacketsStart :
    let k1 : Nat := queueKey 0 2
    let pk (bs : List Byte) : Packet := parsePacket ((queued true bs).packetBytes (wQueue true) 0)
    FMap.get? (code []).queues k1 = none ∧ FMap.get? (queued true []).queues k1 = some (wQueue true) ∧ 1 ≤ (wQueue true).db
    ∧ ((wQueue false).db < 2 ∧ (wQueue false).rd < 2 ∧ (queued false (wPacket 0x101 1)).headerValid (wQueue false) 0 = true
        ∧ (wQueue false).running = false ∧ (wQueue false).eligible = none)
    ∧ (code []).nextQueue 0 = none ∧ (queued true []).nextQueue 0 = some (k1, wQueue true)
    ∧ (pk (wPacket 0x103 1)).ok = false ∧ ((pk (wPacket 0x102 1)).ok = true ∧ (pk (wPacket 0x102 1)).type = 2)
    ∧ ((pk (wPacket 0x101 1)).ok = true ∧ (pk (wPacket 0x101 1)).type = 1
        ∧ ((queued true []).launchTest (.packet k1) 1 (pk (wPacket 0x101 1))).1 = 0
        ∧ ((code []).launchTest (.packet k1) 1 (pk (wPacket 0x101 1))).1 = 6 ∧ isAwait 6 = false) := by decide +kernel

/-- A packet whose kernel object lies in a package that is lit: its words are asked for. -/
theorem witness_PacketsStart_far :
    let s : State := { queued true [] with domain := 3, timetable := some litTable }
    isAwait (s.launchTest (.packet (queueKey 0 2)) 1 (parsePacket (bytesOf 4 0x101 ++ bytesOf 2 1 ++ bytesOf 2 1 ++ bytesOf 8 (2 ^ 54) ++ bytesOf 8 0
      ++ bytesOf 4 1 ++ bytesOf 2 0 ++ bytesOf 2 0 ++ bytesOf 8 1 ++ List.replicate 24 0))).1 = true := by decide +kernel

/-- A grid of `teams` teams, `next` of them placed and `ended` of them over, with a tail list. -/
def wGrid (teams next ended : Nat) (es : List TailEntry) : Grid :=
  { id := 5, ctx := 1, site := 0, queue := some (queueKey 0 2, 0), parent := none, pkt := parsePacket (wPacket 0x101 teams), setts := [0],
    kern := placedKernel 0x200000, next := next, gang := 0, ended := ended, faulted := false, tail := es, child := false, kbase := [], prio := 0 }

def gridAt (g : Grid) : State := (queued true (wPacket 0x101 1)).setSett 0 (fun x => x) |> fun s => { s with grids := [(5, g)] }

/-- A team of a grid that has a packet at offset 0x500000. -/
def launching (hdr : Nat) (es : List TailEntry) : State :=
  { (gridAt (wGrid 1 1 0 es)).setCur (fun t => { t with gridId := 5 }.setS 1 0x500000) with
    mem := ((queued true []).mem.setBytes (Config.dramKey 0 0x500000) (wPacket hdr 1)) }

def tailOf (hdr : Nat) : TailEntry := { gtc := 0, team := 0, order := 0, pkt := parsePacket (wPacket hdr 1) }

theorem witness_GridsRun :
    let room (s : State) : Option (Nat × Nat × Nat × Nat) := (s.findRoom (wGrid 4 0 0 []) 1).map (fun (tt, cl, us, _, as, _) => (tt, cl, us.length, as.length))
    let asleep : State := (gridAt (wGrid 4 0 0 [])).setSett 0 (fun x => { x with clusterOff := [0], tokens := [], inrush := [] })
    let ended (es : List TailEntry) : State := (gridAt (wGrid 1 1 1 es)).setCur (fun t => { t with gridId := 5 })
    (wGrid 1 1 0 []).pkt.teams ≤ (wGrid 1 1 0 []).next
    ∧ (FMap.get? (gridAt (wGrid 4 0 0 [])).grids 5 = some (wGrid 4 0 0 []) ∧ (wGrid 4 0 0 []).next < (wGrid 4 0 0 []).pkt.teams
        ∧ (gridAt (wGrid 4 0 0 [])).halted 1 = false ∧ (wGrid 4 0 0 []).pkt.ksppages = 0
        ∧ (gridAt (wGrid 4 0 0 [])).chipReady (wGrid 4 0 0 []) = some (gridAt (wGrid 4 0 0 []))
        ∧ (gridAt (wGrid 4 0 0 [])).chipReady { wGrid 4 0 0 [] with pkt := { (wGrid 4 0 0 []).pkt with ksppages := 16385 } } = none
        ∧ (gridAt (wGrid 4 0 0 [])).liveTeams 1 + 1 ≤ 65536 ∧ min (wGrid 4 0 0 []).pkt.gp 4 = 1)
    ∧ room (asleep.setSett 0 (fun x => { x with clusterOff := [] })) = some (0, 0, 1, 1)
    ∧ (room asleep = some (0, 0, 1, 1) ∧ 0 ∈ (asleep.sett 0).clusterOff ∧ (asleep.sett 0).tokens = [] ∧ (asleep.sett 0).inrush = [])
    ∧ ((launching 0x101 []).ready [1] = true ∧ structOk 0x500000 64 = true ∧ structOk 0x500004 64 = false
        ∧ got ((launching 0x101 []).readWords 0x500000 8) = some (wPacket 0x101 1)
        ∧ (parsePacket (wPacket 0x101 1)).ok = true ∧ (parsePacket (wPacket 0x101 1)).barrier = false
        ∧ (parsePacket (wPacket 0x301 1)).barrier = true ∧ (parsePacket (wPacket 0x101 1)).settList = [0]
        ∧ FMap.get? (launching 0x101 []).grids (launching 0x101 []).cur.gridId.toNat = some (wGrid 1 1 0 []))
    ∧ ((ended []).teamsEnded (wGrid 1 1 1 []) = true ∧ (ended []).childLive 5 = false ∧ (ended []).halted 1 = false
        ∧ (gridAt (wGrid 1 1 0 [])).teamsEnded (wGrid 1 1 0 []) = false)
    ∧ ((tailOf 0x102).pkt.type = 2 ∧ (tailOf 0x101).pkt.type = 1
        ∧ (((ended [tailOf 0x101]).setGrid 5 (fun g => { g with tail := [] })).launchTest (.child 5) 1 (tailOf 0x101).pkt).1 = 0
        ∧ (ended [tailOf 0x101]).tick + 1 ≠ 5)
    ∧ (((ended []).ctx? 1).map Context.events = some [] ∧ ((ended []).ctx? 1).map Context.eventq = some none) := by decide +kernel

/-! ### Host commands -/

/-- The package locked, with a host command of context `ctx` to run. -/
def commanding (ctx : Nat) (ps : List Word) : State :=
  { code [] with bringup := 8, hcmd := { site := 0, ctx := ctx, params := ps }, sites := [(0, { level := 2, rd := 0, db := 0, seen := [] })] }

/-- What a command of `n` parameters asks for before anything else. -/
def mayRun (s : State) (n : Nat) : Bool :=
  decide (8 ≤ s.bringup) && (s.hcmd.params.drop n).all (fun w => w == 0) && (s.ctx? s.hcmd.ctx).isSome

theorem witness_HostCommands_window :
    let s := commanding 1 []
    FMap.get? s.sites 3 = none ∧ (FMap.get? s.sites 0).map (fun x => (x.level, x.db)) = some (2, 0)
    ∧ (0 + 2 ^ 10 < 2 ^ 54 ∧ s.bound = []) ∧ (1025 * 4096 ≤ 1029 * 4096 - 8 ∧ 1029 * 4096 - 8 + 8 ≤ 1029 * 4096)
    ∧ (0 ≤ 0 ∧ 0 < 1 ∧ 6 ≤ s.bringup) ∧ State.reset.bringup < 6
    ∧ bitAt ((s.mem.setNat (Config.ringKey 0 0) 4 0x100).getNat (Config.ringKey 0 (64 * (0 % 256))) 4) 8 = true := by decide +kernel

theorem witness_HostCommands :
    let full (n v : Nat) : State := commanding 1 (List.replicate n 0 ++ [BitVec.ofNat 64 v])
    let s (ps : List Nat) : State := commanding 1 (ps.map (BitVec.ofNat 64))
    let new (ps : List Nat) : State := commanding 0 (ps.map (BitVec.ofNat 64))
    let stopping : State := (s [2000]).setCtx 1 (fun c => { c with stopAt := some 9 })
    ((full 4 1).hcmd.params.drop 4 = [1] ∧ mayRun (full 4 0) 4 = true) ∧ State.reset.bringup < 8 ∧ (commanding 2 []).ctx? 2 = none
    ∧ (let n := new [7, 1, 4096, 16384, 0]
       n.param 1 < 2 ^ 48 ∧ n.param 2 ≤ 4096 ∧ n.param 3 ≤ 16384 ∧ bitList (n.param 1) 48 = [0] ∧ (n.sett 0).withdrawn = false
         ∧ (FMap.get? n.sites 0).isSome = true ∧ (n.allotCounters 4096 [0]).isSome = true ∧ FMap.free n.ctxs 1 65535 ≤ 65535
         ∧ n.placesIn 0 + 16384 ≤ 16384)
    ∧ (State.allotCounters ((new []).setCtx 1 (fun c => { c with cntCount := 1, cntBase := [(0, 0)] })) 4096 [0]).isNone = true
    ∧ ((s []).ctx? 1).isSome = true ∧ State.ctxBusy { s [] with cur := { (s []).cur with ctx := 0 } } 1 (Context.new 0 [0] [] 0 0 0) = false
    ∧ (s []).ctxBusy 1 (Context.new 0 [0] [] 0 0 0) = true
    ∧ ((s [2 ^ 21, 1]).param 0 % 2 ^ 21 = 0 ∧ 0 < (s [2 ^ 21, 1]).param 1 ∧ (s [2 ^ 21, 1]).bound = [])
    ∧ (((s []).ctx? 1).map Context.setts = some [0] ∧ (s [0, 4096]).param 1 % 4096 = 0 ∧ 4096 < Config.dramBytes)
    ∧ ((s [0, 2 ^ 16, 3, 0]).param 3 = 0 ∧ 2 ^ 16 + 3 * 2 ^ 16 ≤ Config.dramBytes)
    ∧ (globalOk 0x500000 = true ∧ 0x500000 % 64 = 0 ∧ (s []).queues = [] ∧ (1023 : Nat) ≤ 1023)
    ∧ (0x300000 % 16 = 0 ∧ 0x300008 % 16 ≠ 0 ∧ globalOk 0x300000 = true)
    ∧ ((s [1999]).param 0 < (s []).gtc + 2000 ∧ (s []).gtc + 2000 ≤ (s [2000]).param 0 ∧ (s []).spansPackages 1 = false)
    ∧ ((s []).ctx? 1).map Context.stopAt = some none ∧ (stopping.ctx? 1).map Context.stopAt = some (some 9)
    ∧ (bitsNat 0x800000 59 54 = (s []).ownPkg ∧ bitsNat 0x800000 53 48 = 0 ∧ (s []).rangeRw0 1 0x800000 0x10000 = true
        ∧ (s []).rangeRw0 1 0x4000000000 0x10000 = false ∧ ((s []).ctx? 1).map Context.regions = some []) := by decide +kernel

/-- A group of two positions in sett 0 at offset 0x400000: allreduce of one chunk of 128 bytes. -/
def groupAt (n : Nat) (s : State) : State :=
  let position (i : Nat) : List (Nat × Nat × Nat) :=
    let b := 0x400040 + 48 * i
    [(b + 2, 2, 4 * i), (b + 4, 2, 1 - i), (b + 8, 8, 0x600000 + 0x1000 * i), (b + 16, 8, 0x610000 + 0x1000 * i), (b + 24, 8, 0x620000 + 8 * i)]
  mem ([(0x400000, 2, n), (0x400004, 1, 1), (0x400008, 4, 1), (0x40000C, 4, 128), (0x400010, 4, 1000), (0x400018, 8, 0x630000)]
    ++ position 0 ++ position 1) s

def readyForGroups (s : State) : State := s.setCtx 1 (fun c => { c with cntCount := 8, cntBase := [(0, 0)] })

/-- The group that a structure holds, where it passes every test. -/
def groupPasses (s : State) : Option Group :=
  match s.anyRead (.host 0) 1 .load 0x400000 64, s.ctx? 1 with
  | .ok hdr, some c =>
    let n := fieldAt hdr 0 2 + fieldAt hdr 2 2
    match s.anyRead (.host 0) 1 .load 0x400000 (64 + 48 * n) with
    | .ok bs =>
      let g := parseGroup 1 0x400000 bs
      if headerOk (parseGroup 1 0 hdr) hdr && (g.positions.zip ((upTo 0 n).map (fun i => (bs.drop (64 + 48 * i)).take 48))).all
        (fun y => s.positionOk 1 c g y.2 y.1) && peersOk g && s.extentOk 1 g.ostatus.toNat 8 .store && (s.extentsUnread 1 g).isNone then some g else none
    | .error _ => none
  | _, _ => none

/-- A descriptor of slot 0 at offset 0x400000, whose image of one word is at 0x700000. -/
def slotAt (dir word : Nat) (s : State) : State :=
  mem [(0x400000, 2, 1), (0x400003, 1, dir), (0x400004, 2, 1), (0x400006, 1, 1), (0x400008, 8, 0x700000), (0x400010, 2, 1), (0x400028, 1, 4),
       (0x40002A, 2, 0xFFFF), (0x700000, 4, word)] s

/-- The descriptor passes; its image is a kernel. -/
def slotPasses (s : State) : Bool × Bool :=
  match s.anyRead (.host 0) 1 .load 0x400000 448 with
  | .ok bs => (!s.slotBad 1 bs && fieldAt bs 6 1 == 1,
      match s.imageWords 1 (fieldAt bs 8 8) (fieldAt bs 16 2) with | .ok ws => kernelOk ws | .error _ => false)
  | .error _ => (false, false)

/-- A timetable image of one phase at offset 0x400000, which the first unit of the window maps to context 1. -/
def tableAt (base dur : Nat) (s : State) : State :=
  { mem [(0x400000, 2, 1), (0x400002, 2, 1), (0x400008, 8, base), (0x400010, 4, 100), (0x400040, 4, dur)] s with bound := [(2, 1)] }

/-- The bytes of that image for base 100000 and a phase of 600 ticks. -/
def tableBytes : List Byte :=
  [1, 0, 1, 0, 0, 0, 0, 0, 0xA0, 0x86, 1, 0, 0, 0, 0, 0, 100, 0, 0, 0, 0, 0, 0, 0, 0, 0, 0, 0, 0, 0, 0, 0, 0, 0, 0, 0, 0, 0, 0, 0, 0, 0, 0, 0, 0, 0, 0, 0, 0, 0, 0, 0, 0, 0, 0, 0, 0, 0, 0, 0, 0, 0, 0, 0, 0x58, 2, 0, 0, 0, 0, 0, 0]
    ++ List.replicate 512 0

theorem dark_none (t : Timetable) (k : Nat) (h : t.phases.all (fun p => p.entries.all (fun e => !e.getLsbD 15)) = true) : t.dark k = none := by
  have : t.ever k = false := by
    simp only [List.all_eq_true, Bool.not_eq_true'] at h
    rw [Timetable.ever, List.any_eq_false]
    intro p hp
    rw [Bool.not_eq_true, List.any_eq_false]
    intro e he
    rw [h p hp e he]
    simp
  simp [Timetable.dark, this]

/-- A timetable that can be loaded, and none (its base is too near). -/
theorem witness_ServiceCommands_table :
    (tableAt 100000 600 (commanding 0 [0x400000])).windowRead 0x400000 (64 + 520 * min 256 (fieldAt tableBytes 2 2)) = some tableBytes := by
  decide +kernel

theorem witness_ServiceCommands_table_ok :
    let s := tableAt 100000 600 (commanding 0 [0x400000])
    s.tableOk tableBytes (parseTimetable tableBytes) = true ∧ s.gtc + 100000 ≤ (parseTimetable tableBytes).base
      ∧ (parseTimetable tableBytes).base < { s with gtc := 1 }.gtc + 100000 := by decide +kernel

theorem witness_ServiceCommands_table_dark (k : Nat) : (parseTimetable tableBytes).dark k = none := dark_none _ _ (by decide +kernel)

/-- A context whose save holds this list. -/
def saved (ts : Option (List Team)) : State :=
  ({ commanding 1 [] with cur := { (commanding 1 []).cur with status := .complete } }).setCtx 1 (fun c =>
    { c with stopAt := some 0, cut := true, saved := ts, regions := [(0, { base := 0x800000, len := 0x100000, areas := [] })] })

def restores (ts : List Team) : Option (List (Nat × Nat) × Bool) :=
  (restoreGangs ts (gangHeads ts) (saved (some ts))).map (fun x => (x.1, (restoreChips ((saved (some ts)).gridsOf 1) x.2).isSome))

theorem witness_ServiceCommands :
    let s (ps : List Nat) : State := commanding 1 (ps.map (BitVec.ofNat 64))
    (mayRun (s [0, 0x500000]) 2 = true ∧ ((s []).ctx? 1).map Context.setts = some [0] ∧ ((s []).hostSpots 1 0x500000 224 .store).isSome = true
        ∧ (s []).hostSpots 1 0x5000000000 224 .store = none)
    ∧ (mayRun (s [47, 0, 1, 2, 3, 4]) 6 = true ∧ (s [47]).param 0 < 48)
    ∧ ((groupPasses (groupAt 2 (readyForGroups (s [0x400000])))).isSome = true ∧ (s []).groups = [])
    ∧ (match (groupAt 1 (s [0x400000])).anyRead (.host 0) 1 .load 0x400000 64 with | .ok h => !headerOk (parseGroup 1 0 h) h | .error _ => false) = true
    ∧ slotPasses (slotAt 1 0x40000000 (s [0x400000])) = (true, true) ∧ slotPasses (slotAt 1 0 (s [0x400000])) = (true, false)
    ∧ slotPasses (slotAt 0 0 (s [0x400000])) = (false, false)
    ∧ ((s []).chips = [] ∧ (FMap.get? ((s []).placeSumac 0).chips 0).isSome = true)
    ∧ (let m (a b d : Nat) : State := { commanding 0 [BitVec.ofNat 64 a, BitVec.ofNat 64 b, BitVec.ofNat 64 d] with bringup := 6, ctxs := [] }
       (m 0 63 (2 ^ 63 + 1)).param 1 < 64 ∧ (nth 0 (m 0 63 (2 ^ 63 + 1)).hcmd.params 2).getLsbD 63 = true
         ∧ (nth 0 (m 0 63 (2 ^ 63 + 1)).hcmd.params 2).getLsbD 0 = true ∧ 64 ≤ (m 64 0 1).param 0 ∧ (m 0 0 1).ctxs = []) := by decide +kernel

theorem witness_ServiceCommands_abort :
    (let g : Group := parseGroup 1 0x400000 []
     let s (st : RunStatus) : State := { commanding 1 [0x400000] with groups := [(0, { g with st := st })] }
     ((s .running).groupAt 1 0x400000).isSome = true ∧ (s .running).groupAt 1 0x400040 = none ∧ RunStatus.live .running = true
       ∧ RunStatus.live .complete = false ∧ g.aborting = false) := by decide +kernel

theorem witness_ServiceCommands_restore :
    ((saved none).ctx? 1).map Context.saved = some none ∧ mayRun (saved none) 0 = true
    ∧ ((saved (some [])).ctx? 1).map Context.stopAt = some (some 0)
    ∧ restores [{ (code []).cur with acctiles := 513 }] = none
    ∧ restores [(code []).cur] = some ([(0, 0)], true) ∧ ((saved (some [])).sett 0).clusterOff = []
    ∧ (restoreChips [{ (wGrid 1 1 0 []) with pkt := { (wGrid 1 1 0 []).pkt with ksppages := 16385 }, kbase := [(0, 0)] }] (saved (some []))).isNone
        = true := by decide +kernel

end Sys2Proof.Tests
end

