-- ==== Sys2Proof/Tests/Package.lean ====
section
/-!
SUPPORT. States that meet the hypotheses of the statements about events of the package, collective runs, links, Sumac,
bring-up and the step.
-/

set_option Elab.async false

namespace Sys2Proof.Tests
open Machine

/-! ### Events of the package -/

/-- An event, and a context that has it to post to a ring at offset 0x500000. -/
def wEvent : Event := { kind := 1, code := 2, count := 0, team := 0, grid := 0, addr := 0, slot := 0, gen := 0, uid := 0 }
def wRing : Ring := { base := 0x500000, log2 := 4, next := 15 }
def posting (es : List Event) : State := (code []).setCtx 1 (fun c => { c with events := es, eventq := some wRing, complq := some wRing })

/-- A byte that the device reads. -/
def devByte (s : State) (a : Nat) : Option Nat := (s.devNat 1 a 1).toOption

theorem witness_ServiceEvents :
    let timed (g : Nat) (s : State) : State := { s with gtc := g }
    let sleepy : State := { (code []).setSett 0 (fun x => { x with clusterOff := [1], clusterIdle := [(2, 5)] }) with gtc := 1000005 }
    let asking : InrushReq := { cluster := 3, priority := 0, at_ := 0, source := 0 }
    let tokened (g : Nat) (rs : List InrushReq) : State := timed g ((code []).setSett 0 (fun x => { x with clusterOff := [1, 3], tokens := [(1, 5)], inrush := rs }))
    let cut : State := (posting []).setCtx 1 (fun c => { c with stopAt := some 9, cut := true })
    let bs : List Byte := bytesOf 2 1 ++ bytesOf 2 3 ++ bytesOf 4 4 ++ bytesOf 2 0 ++ bytesOf 6 7
    let held : State := on (fun t => { t with ctxSlot := 3, gen := 4, wait := some (.host 0x70000) })
    ((code []).gtc % 10000 = 0 ∧ (timed 9999 (code [])).gtc % 10000 ≠ 0 ∧ ((code []).ctx? 1).isSome = true
        ∧ (code []).teams.any (fun t => t.ctx == 1 && t.sett == 0 && t.status == .running) = true)
    ∧ (1 ∈ (sleepy.sett 0).clusterOff ∧ (2 ∉ (sleepy.sett 0).clusterOff ∧ FMap.getD (sleepy.sett 0).clusterIdle 2 0 + 1000000 ≤ sleepy.gtc
        ∧ 2 ∈ clustersOf (sleepy.gridRows 0) ∧ sleepy.teams.all (fun t => !(t.resident && t.sett == 0 && clusterOf t.core == 2)) = true)
        ∧ sleepy.teams.any (fun t => t.resident && t.sett == 0 && clusterOf t.core == 0) = true
        ∧ (timed 1000004 sleepy).gtc < FMap.getD (sleepy.sett 0).clusterIdle 2 0 + 1000000)
    ∧ ((tokened 20004 []).gtc < 5 + 20000 ∧ 5 + 20000 ≤ (tokened 20005 []).gtc ∧ ((tokened 20005 []).sett 0).tokens = [(1, 5)]
        ∧ nextInrush 20005 ((tokened 20005 [asking]).sett 0).inrush = some asking)
    ∧ (((posting []).ctx? 1).map Context.events = some [] ∧ ((posting [wEvent]).ctx? 1).map Context.eventq = some (some wRing)
        ∧ devByte (posting [wEvent]) (0x500000 + 32 * 15) = some 0 ∧ devByte (mem [(0x500000 + 32 * 15, 1, 5)] (posting [wEvent])) (0x500000 + 32 * 15) = some 5)
    ∧ (devByte (posting []) (0x500000 + 16 * 15) = some 0 ∧ devByte (mem [(0x500000 + 16 * 15, 2, 1)] (posting [])) (0x500000 + 16 * 15) = some 1)
    ∧ (fieldAt bs 0 2 = held.cur.ctx ∧ (held.teams.find? (fun t => t.ctx == 1 && t.status == .running && t.ctxSlot == fieldAt bs 2 2)).isSome = true
        ∧ held.cur.gen.toNat = fieldAt bs 4 4 ∧ held.cur.paths = [] ∧ held.cur.userWork = none
        ∧ (0x70000 : Word).toNat / 2 ^ 16 = fieldAt bs 10 6 ∧ fieldAt bs 8 1 % 4 = 0)
    ∧ ((cut.ctx? 1).map Context.stopAt = some (some 9) ∧ cut.drained 1 = true ∧ (cut.ctx? 1).map Context.saved = some none)
    ∧ ((on id).others = [] ∧ (on id).liveOf (on id).cur = none) := by decide +kernel

/-- A team that passed a liveness record at the start of its code, which names s1 and v0. -/
def living : State := (code (bytesOf 4 0xFE000000 ++ bytesOf 4 1 ++ List.replicate 44 0 ++ bytesOf 8 2 ++ List.replicate 4 0)).setCur (fun t =>
  { t with liveRec := some t.spc })

/-! ### Collective runs -/

/-- A group of two positions in sett 0 of this package, in a state of a run; position 2 is a spare in sett 1. -/
def wPos (n : Nat) (st : RunStatus) (applied out : Bool) : Position :=
  { Position.none with sett := n / 2, ctr := 0, peer := 1 - n, st := st, applied := applied, out := out }

def wGroup (st : RunStatus) (phase : Nat) (applied out resilient : Bool) : Group :=
  { parseGroup 1 0x400000 [] with
    n := 2, kind := 1, resilient := resilient, chunks := 2, chunkLen := 128, deadline := 1000, st := st, phase := phase,
    positions := [wPos 0 st applied out, wPos 1 st applied out, wPos 2 .idle applied out] }

/-- The group in a package where sett 1 is there as well. -/
def grouped (g : Group) : State :=
  State.setSett { readyForGroups (code []) with groups := [(4, g)] } 1 (fun x => { x with withdrawn := false })

theorem witness_CollectiveRuns :
    let idle := wGroup .idle 0 false false false
    let run := wGroup .running 1 false true false
    let lost (r : Bool) : Group := { wGroup .running 1 false false r with lost := some 0 }
    let aborting (st : RunStatus) (applied : Bool) : Group := { wGroup st 1 applied false false with aborting := true }
    let told : State := (grouped (aborting .running false)).setSett 0 (fun x =>
      { x with inbox := [{ stamp := 0, msg := { srcPkg := 0, srcSett := 0, cseq := 1, sgtc := 0, body := .abort 1 4 } }] })
    let ready : State := (grouped idle).setSett 0 (fun x => { x with counters := [(0, { value := 1, gen := 0 })] })
    (FMap.get? (grouped idle).groups 4 = some idle ∧ idle.st.live = false ∧ idle.aborting = false ∧ (grouped idle).halted 1 = false)
    ∧ idle.active.all ((grouped idle).positionReady idle) = false ∧ idle.active.all (ready.positionReady idle) = true
    ∧ (run.st = .running ∧ run.phase = 1 ∧ run.lost = none ∧ run.active.all (fun x => x.out) = true ∧ (grouped run).linked 4 = false
        ∧ run.chunk + 1 < run.chunks ∧ { run with chunk := 1 }.chunks ≤ 2)
    ∧ (({ grouped run with gtc := 1000 }).gtc = run.since + run.deadline)
    ∧ ((lost false).st.live = true ∧ (grouped (lost false)).hopeless (lost false) 0 = true
        ∧ (grouped (lost true)).hopeless (lost true) 0 = false ∧ (grouped (lost true)).spareOf (lost true) = some 2)
    ∧ ((aborting .running false).aborting = true ∧ (told.sett 0).inbox.any (fun r => r.msg.body == .abort 1 4) = true
        ∧ ((grouped run).sett 0).inbox = [])
    ∧ ((aborting .aborted true).active.all (fun x => x.applied) = true ∧ (aborting .complete true).active.all (fun x => x.st != .aborted && x.st != .memberLost) = true
        ∧ (aborting .running false).active.any (fun x => !x.applied) = true) := by decide +kernel

theorem witness_ServiceEvents_live : ((living.liveOf living.cur).map (fun v => (bitAt v.smap 1, bitAt v.smap 2, bitAt v.vmap 0, bitAt v.vmap 1)))
    = some (true, false, true, false) := by decide +kernel

/-! ### Links and flits -/

/-- The bytes of a flit of a class with data for context 1: 8 bytes for offset 0x500000 of sett 0 of a package; its CRC is open. -/
def bare (cls pkg seq : Nat) : List Byte :=
  bytesOf 2 cls ++ bytesOf 2 0 ++ bytesOf 2 (pkg * 64) ++ bytesOf 2 0 ++ bytesOf 4 seq ++ bytesOf 4 0 ++ bytesOf 8 (pkg * 2 ^ 54 + 0x500000) ++ bytesOf 2 8
    ++ bytesOf 2 0 ++ bytesOf 2 1 ++ bytesOf 2 0 ++ List.replicate 224 0

def wFlit (cls pkg seq : Nat) : List Byte := sealFlit (bare cls pkg seq)

theorem bare_length (cls pkg seq : Nat) : (bare cls pkg seq).length = 256 := by
  simp only [bare, List.length_append, length_bytesOf, List.length_replicate]

theorem witness_flitGood : flitGood (wFlit 3 0 0) = true ∧ flitSeq (wFlit 3 0 0) = 0 := by
  refine ⟨flitGood_sealFlit _ (bare_length _ _ _), ?_⟩
  rw [flitSeq, wFlit, fieldAt_sealFlit _ (bare_length _ _ _) _ _ (by decide)]
  decide +kernel

def wQFlit (bs : List Byte) : QFlit := { buf := bs, stamp := 9, port := 3, also := [], counts := true, orig := bs }

theorem receive_good (f : List Byte) (h1 : flitGood f = true) (h2 : flitSeq f = 0) : (Link.init.receive f).1 = true := by
  simp [Link.receive, Link.init, h1, h2]

/-- A new link takes this flit. -/
theorem witness_receive : (Link.init.receive (wFlit 3 0 0)).1 = true := receive_good _ witness_flitGood.1 witness_flitGood.2

theorem witness_LinksAndFlits :
    let l (f : Link → Link) : State := (code []).setLink 5 f
    let training (n : Nat) : State := { (code []).setPort 0 2 (fun p => { p with training := some (56, 2 ^ 32 - 1, 0), failed := n }) with gtc := 1 }
    let left (core : Nat) : State := { code [] with reqs := [{ wReq 0 (2 ^ 54) true [] with pkg := 1, core := core }] }
    let full : Chip := { (code []).chip 0 with voqs := [(voqKey (bare 3 0 0), List.replicate 4096 (wQFlit []))] }
    let lit : State := { (code []).setChip 0 (fun c => { c with voqs := [(voqKey (bare 3 1 0), [wQFlit (bare 3 1 0)])] }) with
      domain := 3, timetable := some litTable, gtc := 200 }
    ((code []).link 5).up = true ∧ ((l (fun x => { x with up := false })).link 5).up = false ∧ 8 < ((l (fun x => { x with replays := 9 })).link 5).replays
    ∧ ((code []).link 5).replays ≤ 8 ∧ ((code []).link 5).unacked = [] ∧ (5 % 512 < 384 ∧ 5 < 1024)
    ∧ ((l (fun x => { x with unacked := [wQFlit (bare 3 0 0)] })).link 5).unacked.find? (fun f => f.buf == bare 3 0 0) = some (wQFlit (bare 3 0 0))
    ∧ (flitClass (bare 3 0 0) = 3 ∧ flitClass (bare 0 0 0) ≠ 3 ∧ ((code []).performFlit (bare 3 0 0)).isSome = true ∧ (code []).performFlit (bare 3 1 0) = none)
    ∧ (rateOk 32 = true ∧ rateOk 33 = false ∧ 2 ^ 32 - 1 < 2 ^ 32)
    ∧ (((code []).port 0 2).training = none ∧ ((training 0).port 0 2).training = some (56, 2 ^ 32 - 1, 0) ∧ ((training 0).port 0 2).pending = []
        ∧ (1 - 0) * aggregate ((training 0).port 0 2).rate ((training 0).port 0 2).mask = 2048
        ∧ (0 - 0) * aggregate ((training 0).port 0 2).rate ((training 0).port 0 2).mask < 2048)
    ∧ (trainingFails 32 0xFFFF 1 = false ∧ trainingFails 32 0x7FFF 1 = true ∧ ((training 2).port 0 2).failed = 2)
    ∧ (((left 0).reqs.find? (fun r => r.tag == 3 && r.performed && r.pkg != (left 0).ownPkg)).isSome = true
        ∧ ({ left 0 with gtc := 99999 }).overdue 0 0 = false ∧ ({ left 0 with gtc := 100000 }).overdue 0 0 = true)
    ∧ (full.room (bare 3 0 0) = false ∧ ((code []).chip 1).room (bare 3 0 0) = true ∧ (code []).slotFor 0 (wQFlit (bare 3 0 0)) = none)
    ∧ (((code []).placeSumac 0).slotFor 0 { wQFlit (bare 3 1 0) with stamp := 0 }).isSome = true
    ∧ (lit.servable 0 384 = [(voqKey (bare 3 1 0), wQFlit (bare 3 1 0))] ∧ voqKey (bare 3 1 0) / 4096 < 4 ∧ lit.servable 0 385 = [])
    ∧ (litTable.lit 200 1 = true ∧ litTable.lit 200 2 = false ∧ lit.others = [] ∧ lit.cur.status = .running ∧ lit.halted lit.cur.ctx = false)
    ∧ (UeMode.rod ≠ .uud) ∧ ((code []).ueTarget 1 0x5000000000 8 .store).isNone = true
    ∧ (((code []).ueTarget 1 0x500000 8 .store).isSome = true ∧ ((code []).ueTarget 1 0x500000 8 .load).isSome = true
        ∧ ((code []).ueTarget 1 0x500000 8 .atomic).isSome = true ∧ natOf (readSpots [{ key := Config.dramKey 0 0x500000, n := 8, cmp := false }] (code [])).1 = 0)
    := by decide +kernel

/-- Ports that are dead, trained within 20 us or later; a flit delivered twice; requests of this package; a foreign flit; and
operations of UE connections. -/
theorem witness_LinksAndFlits_more :
    let training (g : Nat) : State := { (code []).setPort 0 2 (fun p => { p with training := some (56, 2 ^ 32 - 1, 0) }) with gtc := g }
    let given : State := (code []).setSett 0 (fun x => x.deliver (bare 3 0 0))
    let dead : State := (code []).setSett 0 (fun x => { x with merged := [{ kind := 5, sett := 0, prow := 0, pcol := 0, index := 2 }] })
    let own (g : Nat) : State := { code [] with reqs := [wReq 0 0x500000 false []], gtc := g }
    let ue : State := { code [] with ue := [(0 * 65536 + 7, .rod)], domain := 3 }
    ((code []).portDead 0 2 = false ∧ dead.portDead 0 2 = true ∧ ¬ 0 + 20000 < (training 20000).gtc ∧ 0 + 20000 < (training 20001).gtc)
    ∧ (given.sett 0).hasDelivered (bare 3 0 0) = true ∧ ((code []).sett 0).hasDelivered (bare 3 0 0) = false
    ∧ ((own 0).reqs.find? (fun r => r.tag == 3 && r.performed == (r.pkg != (own 0).ownPkg))).isSome = true
    ∧ ((own 99999).gtc < 0 + 100000 ∧ 0 + 100000 ≤ (own 100000).gtc ∧ (wReq 0 0x500000 false []).checks = [] ∧ (wReq 0 0x500000 false []).done = [])
    ∧ ((code []).port (portBehind 0 384).1 (portBehind 0 384).2).works = true ∧ ((training 0).port 0 2).works = false
    ∧ (code []).foreign 384 (bare 3 1 0) = true ∧ (code []).foreign 384 (bare 3 0 0) = false ∧ (code []).foreign 3 (bare 3 1 0) = false
    ∧ (({ code [] with timetable := some litTable }).inForce = some litTable ∧ (code []).inForce = none)
    ∧ (FMap.get? ue.ue (0 * 65536 + 7) = some .rod ∧ FMap.get? ue.ue (0 * 65536 + 8) = none ∧ ueSize (.send 1 none [1, 2]) < 2 ^ 32
        ∧ ue.ueAway (2 ^ 54) = true ∧ ue.ueAway 0x500000 = false ∧ (0x500004 : Nat) % 8 ≠ 0) := by decide +kernel

/-! ### The timetable and Sumac -/

/-- A run of a slot of chiplet 0 with one flow that may send to sett 0 of package 0. -/
def running (f : Slot → Slot) (g : Run → Run) : State :=
  (State.setRun ((code []).placeSumac 0x40000000) g).setChip 0 (fun c => { c with slots := c.slots.map (fun y => (y.1, f { y.2 with dest := [1] })) })

theorem witness_SumacRuns :
    let s (x : Nat) : State := running id (fun r => r.xPut 2 (BitVec.ofNat 32 x))
    let held : State := running (fun y => { y with holds := [(0, wQFlit (bare 3 0 0))] }) (fun r => { r with buf := bare 3 0 0 })
    let may (s : State) (pkg sett : Nat) : Option Bool := s.runSlot.map (fun x => x.mayGo s.run.buf pkg sett)
    let goes : Run := { Run.none with pc := 7, rep := some (3, 7, 2) }
    (goes.pc = 7 ∧ 1 < 2 ∧ { goes with pc := 6 }.pc ≠ 7 ∧ Run.none.rep = none)
    ∧ (({ code [] with pendingTable := some litTable }).pendingTable = some litTable ∧ litTable.base ≤ (code []).gtc ∧ (code []).gtc < { litTable with base := 1 }.base)
    ∧ (((s 0).runSlot.map Slot.unloadAt) = some none ∧ (((running (fun y => { y with unloadAt := some 0 }) (fun _ => Run.none)).runSlot.map Slot.unloadAt)) = some (some 0)
        ∧ (running id (fun _ => Run.none)).run.active = false)
    ∧ ((s 0).run.active = true ∧ (s 0).runSlot.map Slot.flows = some 1 ∧ ((s 1).run.xGet 2).toNat = 1 ∧ ((s 0).run.xGet 2).toNat = 0 ∧ (s 0).run.stf = [])
    ∧ ((s 0).runSlot.map Slot.holds = some [] ∧ (held.runSlot.map (fun x => (FMap.get? x.holds 0).isSome)) = some true)
    ∧ ((s 0).runRoom [] = true ∧ held.runRoom [bare 3 0 0] = true
        ∧ (held.setChip 0 (fun c => { c with voqs := [(voqKey (bare 3 0 0), List.replicate 4096 (wQFlit []))] })).runRoom [bare 3 0 0] = false)
    ∧ ((s 0).slotBusy 0 0 = true ∧ (running id (fun _ => Run.none)).slotBusy 0 0 = false)
    ∧ (may held 0 0 = some true ∧ may held 0 1 = some false) ∧ (4095 / 2 ^ 12 = 0 ∧ 4096 / 2 ^ 12 ≠ 0) := by decide +kernel

/-! ### Bring-up and time -/

theorem witness_BringupAndTime :
    let bad : State := State.reset.setSett 3 (fun x => { x with badImages := [0, 1] })
    let up (n : Nat) : State := { State.reset with bringup := n }
    let slave (f : State → State) : State := f { up 7 with grandmaster := 1, gtc := 500 }
    let o (m : PtpMsg) : Int := (((m.t2 : Int) - m.t1) - ((m.t4 : Int) - m.t3)) / 2
    let place : Defect := { kind := 3, sett := 0, prow := 0, pcol := 0, index := 31 * 12 + 11 }
    let weak (n : Nat) : State := (code []).setSett 0 (fun x => { x with corrected := [(((0 * 32 + 31) * 12 + 11) * 512 + 511, n)] })
    (State.reset.bringup = 0 ∧ (upTo 0 48).all (fun n => (State.reset.sett n).imagesOk) = true ∧ (bad.sett 3).imagesOk = false)
    ∧ (max 1 1 ≤ min 2 2 ∧ (up 4).bringup = 4 ∧ FMap.get? (up 4).sites 3 = none ∧ State.reset.bringup < 4)
    ∧ ((up 7).grandmaster = (up 7).ownPkg ∧ 7 ≤ (slave id).bringup ∧ (slave id).grandmaster ≠ (slave id).ownPkg ∧ (slave id).ctxs = [] ∧ (slave id).stepped = false)
    ∧ (o { t1 := 0, t2 := 15, t3 := 20, t4 := 25 } = 5 ∧ o { t1 := 0, t2 := 16, t3 := 20, t4 := 24 } = 6 ∧ o { t1 := 10, t2 := 0, t3 := 0, t4 := 10 } = -10)
    ∧ ((slave (fun s => { s with locked := true })).locked = true ∧ (slave (fun s => { s with gtc := 100000 })).holdover + 100000 = 100000)
    ∧ ((up 7).settFree 3 = true ∧ (code []).settFree 0 = false ∧ 2 ≤ (up 7).bringup)
    ∧ (((weak 3).sett 0).corrected.all (fun y => decide (y.2 < 4)) = true ∧ ((weak 4).sett 0).corrected.any (fun y => y.1 / 512 == (0 * 32 + 31) * 12 + 11 && decide (4 ≤ y.2)) = true
        ∧ ((weak 4).sett 0).delta.contains place = false)
    ∧ (seamOk 0 = true ∧ seamOk 2 = false ∧ seamOk 28 = false ∧ (17 : Nat) < 18 ∧ ((code []).sett 0).seamLosses = [])
    ∧ (31 < (inBlock id).cur.lanes.length + 16 ∧ 15 < (inBlock id).cur.lanes.length ∧ 31 < ((inBlock id).cur.lane 15).regs.length) := by decide +kernel

/-! ### The step -/

theorem witness_EncodingRoundTrip : wf (.sadd 1 2 3) = true ∧ (encodeScalar (.sadd 1 2 3)).isSome = true ∧ wf (.vadd (head .i32 (.v 0) (.v 1) (.v 2) .none) auxA) = true
    ∧ (encodeLane (.vadd (head .i32 (.v 0) (.v 1) (.v 2) .none) auxA)).isSome = true ∧ wf .fwd = true ∧ (encodeSumac .fwd).isSome = true := by decide +kernel

/-- Whether a step answers a next state. -/
def goesOn (s : State) : Bool :=
  match step s with
  | .next _ => true
  | _ => false

theorem witness_StepKeepsMemory : (code []).mem.wf = true ∧ goesOn ((code (bytesOf 4 0x8E000000)).schedule (.scalar 0)) = true := by decide +kernel

/-- What one turn leaves before its agent fetches, for a state whose agenda has it. -/
def before (s : State) : State := State.arriveReady (State.elapse { s with agenda := [] } 0)

/-- A ring of site 0 whose slot 0 holds a GRANDMASTER command that was read valid, and a run of one word. -/
def ringing : State :=
  { State.reset with
    bringup := 6, sites := [(0, { level := 2, rd := 0, db := 1, seen := [0] })], mem := State.reset.mem.setNat (Config.ringKey 0 0) 8 0x111 }

theorem witness_StepRunsDecoded_scalar :
    let s (bs : List Byte) : State := before (code bs)
    let can (u : State) : Bool := (u.team? 0).isSome && u.cur.status == .running && !u.cur.evWait && !u.halted u.cur.ctx && (u.focus 0).cur == u.cur
    can (s []) = true ∧ ((s []).cur.wantsHandler = false ∧ (s []).cur.wait = none ∧ (s []).cur.pendf = [])
    ∧ (let far : State := before { code [] with domain := 3, timetable := some litTable, cur := { (code []).cur with spc := 2 ^ 54 } }
       (match far.fetchWord (2 ^ 54) with | .error c => isAwait c | .ok _ => false) = true)
    ∧ (((s (bytesOf 4 0x8E000000)).ownerCheck 1 0 codeOffset .fetch 0).toOption.isSome = true
        ∧ ((s []).fetchWord (s []).cur.spc.toNat).toOption.isSome = true)
    ∧ ((s (bytesOf 4 0x8E000000)).fetchWord (s []).cur.spc.toNat).toOption = some 0x8E000000
    ∧ (decodeScalar 0x8E000000).toOption = some .shalt ∧ (decodeScalar 0xBC000001).toOption = none
    ∧ (((s []).setCur (fun t => { t with spc := 0x1000000000000000 })).fetchWord 0x1000000000000000).toOption = none
    ∧ (let h := before (on (fun t => { t with hqueue := [wInv true] }))
       can h = true ∧ h.cur.wantsHandler = true ∧ h.cur.sent = [])
    ∧ (let z := before (inHandler id)
       can z = true ∧ z.cur.wantsHandler = false) := by decide +kernel

theorem witness_StepRunsDecoded_lanes :
    let s (bs : List Byte) : State := before ((code bs).setCur (fun t => Team.startBlock { t with blocks := 1 } (t.newBlock 0)))
    let word : Option (BitVec 96) := encodeLane (.vadd (head .i32 (.v 0) (.v 1) (.v 2) .none) auxA)
    let o (bs : List Byte) : State := (s bs).setCur (fun t => t.offer none)
    let spent : State := (o []).setCur (fun t => { t with paths := t.paths.map (fun p => { p with slice := 0, hold := 0 }) })
    (o []).cur.current.isSome = true ∧ (o []).cur.wantsHandler = false ∧ (o []).cur.pendf = [] ∧ (o []).lateFaults.1 = []
    ∧ (((o []).cur.current.map (fun p => decide (0 < p.slice + p.hold) && !(o []).cur.wdogDue p)) = some true ∧ (o []).cur.flagged = false)
    ∧ (spent.cur.current.map (fun p => p.slice + p.hold)) = some 0 ∧ (((o []).setCur (fun t => { t with flagged := true })).cur.flagged = true)
    ∧ (let due : State := (o []).setCur (fun t => { t with wdoglim := 9, paths := t.paths.map (fun p => { p with wdog := 9 }) })
       (due.cur.current.map due.cur.wdogDue) = some true)
    ∧ ((s []).setCur (fun t => t.offer (some 0))).cur.current.isSome = true
    ∧ ((s (bytesOf 12 ((word.getD 0).toNat))).fetchLane 0).toOption = word ∧ ((word.map decodeLane).map Except.isOk) = some true
    ∧ (decodeLane (0 - 1)).isOk = false ∧ ((s []).fetchLane 0x1000).toOption = none := by decide +kernel

theorem witness_StepRunsDecoded_others :
    (((before (running id id)).focusRun 0).run.active = true ∧ ((before (running id id)).focusRun 0).runInstr = some .fwd
        ∧ ((before (running id id)).focusRun 1).run.active = false)
    ∧ (isEvent (.packetStart 0) = true ∧ isTeamEvent (.packetStart 0) = false ∧ isEvent .sliceExpiry = true ∧ isTeamEvent .sliceExpiry = true)
    ∧ ((FMap.get? (before ringing).sites 0).map (fun y => (y.rd, y.seen)) = some (0, [0]) ∧ 6 ≤ (before ringing).bringup
        ∧ hostCommand (bitsNat ((before ringing).mem.getNat (ringSlot 0 0) 8) 7 0) = some .grandmaster
        ∧ commandHeaderOk ((before ringing).mem.getNat (ringSlot 0 0) 8) = true)
    ∧ (State.reset.agenda = [] ∧ State.reset.movers ≠ []) := by decide +kernel

end Sys2Proof.Tests
end

