-- ==== Sys2Proof/Tests/Slice0.lean ====
section
/-!
SUPPORT. Tests: an ill-formed term for each check of `wf`, words that the spec writes out, and results that its tables of
borderline cases give.
-/

set_option Elab.async false

namespace Sys2Proof.Tests
open Machine

/-! ### Ill-formed terms -/

def always : Guard := ⟨false, 7⟩
def noneA : AuxA := ⟨0, 0, false, false, .dyn⟩
def noneC : AuxC := ⟨0, 0, 0, 0, .eq⟩
def noneM : AuxM := ⟨0, .add, .default, .relaxed, .lane, 0⟩
def noneX : AuxX := ⟨0, 0, 0⟩
def noneB : AuxB := ⟨false, 0⟩
def no (t : LType) (d a : Operand) : LaneHead := head t d a .none .none
def memHead (t : LType) (d c : Operand) : LaneHead := head t d (.w 2) .none c
/-- The guard 0b1111, which R112 reserves. -/
def badGuard (h : LaneHead) : LaneHead := { h with g := ⟨true, 7⟩ }
def dab (t : LType) (d a b : Operand) : LaneHead := head t d a b .none

/-- Each check of a scalar or Sumac word broken: the conditions 10 and 6 of R39, a number with no writable row, LOG2N 0
and 9, F 16, an offset of 0, and the counts of REPEAT. -/
def illScalar : List Instr :=
  [.scmp .unord 1 2 3, .scmpi .gtn 1 2 3, .swr 1 0x020, .swr 1 0x030, .swr 1 0x07C, .chdef 1 2 0 3, .chdef 1 2 9 3,
   .ldh 1 16, .brf true 0, .repeatN 0 1, .repeatN 17 1, .repeatN 1 0, .kcvt 0 1 .bf16 .f32 2, .kcvt 0 1 .f32 .f32 0]

/-- Integer, bit and move words: a type, an operand class, an unused operand, a guard, or an AUX field that R116 does not allow. -/
def illIntegers : List Instr :=
  [.vadd (dab .f32 (.v 0) (.v 1) (.v 2)) noneA, .vadd (dab .i32 (.w 0) (.v 1) (.v 2)) noneA, .vadd (three .i32) noneA,
   .vadd (badGuard (dab .i32 (.v 0) (.v 1) (.v 2))) noneA, .vsub (dab .i32 (.v 0) (.v 1) (.v 2)) { noneA with rnd := .rne },
   .vmul (dab .i32 (.v 0) (.v 1) (.v 2)) { noneA with imm12 := 1 }, .vmulh (dab .i8x4 (.v 0) (.v 1) (.v 2)),
   .vmad (three .i16x2) noneA, .vmin (dab .b32 (.v 0) (.v 1) (.v 2)), .vmax (dab .i32 (.v 0) (.v 1) .none),
   .vabs (no .n32 (.v 0) (.v 1)) noneA, .vneg (no .i32 (.v 0) (.v 1)) { noneA with satf := true }]

def illBits : List Instr :=
  [.vand (dab .i32 (.v 0) (.v 1) (.v 2)), .vor (dab .b128 (.q 0) (.s 1) (.q 2)), .vxor (dab .b64 (.w 0) (.v 1) (.w 2)), .vnot (three .b32),
   .vshl (dab .b64 (.w 0) (.w 1) (.w 3)), .vshr (dab .b128 (.q 0) (.q 1) (.v 3)), .vsra (dab .i32 (.v 0) (.v 1) (.v 3)), .vrol (three .b32),
   .vclz (no .i32 (.v 0) (.v 1)), .vpopc (no .b32 (.s 0) (.v 1)), .vbfx (head .i32 (.v 0) (.v 1) (.w 2) (.v 3)),
   .vbfi (head .b64 (.w 0) (.w 1) (.v 2) (.v 3)), .vdot4 (three .i32) noneA]

def illMoves : List Instr :=
  [.vcmp (dab .i32 .none (.v 1) (.v 2)) { noneC with cond := .gtn }, .vcmp (dab .e4m3 .none (.v 1) (.v 2)) noneC,
   .vcmp (dab .i32 .none (.v 1) (.v 2)) { noneC with pa := 1 }, .vsel (dab .b32 (.v 0) (.v 1) (.v 2)) { noneC with cond := .ne },
   .plop (no .i32 (.v 0) .none) noneC, .vmov (no .f32 (.v 0) (.v 1)), .vli always .b128 (.q 0) 1, .vli always .b32 (.s 1) 1]

def illCross : List Instr :=
  [.vshfl (dab .b32 (.v 0) (.v 1) (.v 2)) { noneX with xop := 4 }, .vbcast (dab .b32 (.v 0) (.v 1) (.v 2)) noneX,
   .vreduce (no .i8x4 (.v 0) (.v 1)) noneX, .vreduce (no .f32 (.v 0) (.v 1)) { noneX with xop := 3 },
   .vscan (no .i32 (.s 3) (.v 1)) noneX, .vvote (no .b32 (.v 4) .none) { noneX with xop := 3 }, .vvote (no .b32 (.v 4) (.v 1)) noneX]

def illControl : List Instr :=
  [.bra always 3 (.v 0) noneB, .brx (no .i32 .none (.w 1)) noneB, .skip (no .i32 .none .none) noneB, .skip (no .i32 .none .none) ⟨false, 8⟩,
   .join { no .i32 .none .none with g := ⟨false, 2⟩ }, .lend { no .i32 .none .none with g := ⟨false, 2⟩ }, .yieldl (no .f32 .none .none),
   .ltrap (no .i32 .none .none) ⟨true, 1⟩, .bar (no .i32 .none .none) { noneX with xop := 2 }]

def illFloats : List Instr :=
  [.vfadd (dab .f32 (.v 0) (.v 1) (.v 2)) { noneA with rnd := .sr }, .vfsub (dab .i32 (.v 0) (.v 1) (.v 2)) noneA,
   .vfmul (dab .f32 (.v 0) (.v 1) (.v 2)) { noneA with sat := true }, .vfma (dab .f32 (.v 0) (.v 1) (.v 2)) noneA,
   .vfmin (dab .e4m3 (.v 0) (.v 1) (.v 2)), .vfmax (three .f32), .vfdiv (dab .f16x2 (.v 0) (.v 1) (.v 2)) noneA,
   .vfsqrt (no .bf16x2 (.v 0) (.v 1)) noneA, .vfrcp (no .f16 (.v 0) (.v 1)), .vfrsq (no .f16 (.v 0) (.v 1)), .vfexp2 (no .f16 (.v 0) (.v 1)),
   .vflog2 (no .f16 (.v 0) (.v 1)), .vfsin (no .f16 (.v 0) (.v 1)), .vfcos (no .f16 (.v 0) (.v 1))]

def illConverts : List Instr :=
  [.vfclass (no .f16x2 (.v 0) (.v 1)), .vfrnd (no .i32 (.v 0) (.v 1)) noneA, .vfsgn (dab .f32 (.v 0) (.v 1) (.v 2)) { noneA with imm12 := 3 },
   .vfexpo (no .f16x2 (.v 0) (.v 1)), .vcvt (dab .f32 (.v 0) (.v 1) (.imm 127)) { noneA with stype := 9, rnd := .sr },
   .vcvt (dab .e4m3 (.v 0) (.v 1) (.v 9)) { noneA with stype := 14 }, .vcvt (dab .i32 (.v 0) (.v 1) (.imm 127)) { noneA with stype := 8, sat := true },
   .vcvt (dab .i16x2 (.v 0) (.v 1) (.imm 127)) { noneA with stype := 8 }, .vcvt (dab .f32 (.v 0) (.v 1) (.imm 127)) { noneA with stype := 22 },
   .vpack (dab .i32 (.v 0) (.q 1) (.imm 127)) { noneA with stype := 8 }, .vunpk (dab .e4m3 (.v 0) (.v 1) (.v 2)) { noneA with stype := 8 }]

def illMemory : List Instr :=
  [.vld (memHead .b32 (.v 0) .none) { noneM with ord := .rel }, .vld (memHead .b32 (.v 0) .none) { noneM with narrow := 1 },
   .vld (head .b32 (.v 0) (.v 2) .none .none) noneM, .vst (memHead .b32 .none (.v 1)) { noneM with ord := .acq },
   .vatom (memHead .f32 (.v 0) (.v 1)) { noneM with aop := .and }, .vatom (memHead .i32 (.v 0) (.v 1)) { noneM with cache := .keep },
   .vcas (memHead .b32 (.v 0) (.imm 1)) noneM, .vpref (memHead .i32 .none .none) { noneM with ord := .acq }, .fence (no .i32 .none .none) noneM,
   .fmma (head .f16 (.m 0 0) (.m 1 0) (.m 2 0) (.m 0 0)), .fld (memHead .i32 (.v 0) .none) noneM, .fst (memHead .i32 .none (.v 0)) noneM]

theorem test_ill_formed : (List.flatten [illScalar, illIntegers, illBits, illMoves, illCross, illControl, illFloats, illConverts, illMemory]).all
    (fun i => !wf i) = true := by decide +kernel

/-! ### Words that the spec writes out -/

/-- The words of chapters 1, 2, 3, 14, 15 and 17 (R26, R41, R60, R300, and the programs). -/
def scalarWords : List (Nat × Instr) :=
  [(0x52_91A2B3, .sext 0x91A2B3), (0x4038_1890, .saddi 7 0 0x1890), (0x2610_8282, .scmp .lt 2 4 5), (0x80BF_FFFD, .sbr 2 true 0x1FFFFD),
   (0xA210_2000, .sldd 2 1 0), (0xA218_2008, .sldd 3 1 8), (0x8400_0003, .scall 3), (0xA620_2010, .sstd 4 1 16), (0x8E00_0000, .shalt),
   (0x0020_0000, .sadd 4 0 0), (0x8A06_0003, .sloop 0 3 3), (0x4010_4008, .saddi 2 2 8), (0x0020_8280, .sadd 4 4 5), (0x8607_C000, .sret 62)]

def systemWords : List (Nat × Instr) :=
  [(0xB448_0011, .srd 9 0x011), (0x2609_6207, .scmp .len 1 11 4), (0xE230_0000, .cntset 6 0), (0xE038_0000, .qpost 7 false),
   (0xE048_0001, .qpost 9 true), (0xBE00_6000, .waitt 3), (0xE400_C000, .cntadd 0 6 false false), (0xB800_0001, .trap 1), (0xBA00_0000, .tret),
   (0xE610_6000, .cntwait 2 3), (0xB000_0000, .lgo 0)]

def engineWords : List (Nat × Instr) :=
  [(0xCC30_0420, .tmma 6 false false true 1 0), (0xCC30_0020, .tmma 6 false false false 1 0), (0xC010_6020, .chdef 2 3 1 0), (0xC608_0000, .mvcopy 1 false), (0xD000_0000, .tarrive),
   (0xD238_0001, .twait 7 .matrix), (0xD240_0003, .twait 8 .both), (0xCE38_0012, .taccStore 7 2), (0xCA30_0000, .mvfill 6), (0xC438_0002, .chwaitCnt 7 2)]

def words (n : Nat) (xs : List (Nat × Instr)) : Bool := xs.all (fun x => decodeTableWord n x.1 == some x.2)

theorem test_scalarWords : words 32 scalarWords = true := by decide +kernel
theorem test_systemWords : words 32 systemWords = true := by decide +kernel
theorem test_engineWords : words 32 engineWords = true := by decide +kernel

/-- A lane word of the spec's three columns. -/
def hml (h m l : Nat) : Nat := h * 2 ^ 64 + m * 2 ^ 32 + l

/-- The words of chapters 5, 7 and 8 (R117, R165, R189). -/
def laneWords1 : List (Nat × Instr) :=
  [(hml 0x0000_A005 0x0068_03E0 0, .vadd { dab .i32 (.v 5) (.v 6) (.s 3) with g := ⟨true, 2⟩ } noneA),
   (hml 0x40C8_700A 0x00BD_FD00 0xC000_0002, .vfma (head .f32 (.v 10) (.v 11) (.imm 0x1FD) (.v 12)) { noneA with rnd := .rtz }),
   (hml 0x1113_7007 0x3F80_0000 0, .vli always .b32 (.v 7) 0x3F80_0000),
   (hml 0x3100_7E00 0xE00E_00E0 0, .lend (no .i32 .none .none)),
   (hml 0x1000_7E00 0x001C_05E0 0x32, .vcmp (dab .i32 .none (.v 1) (.imm 5)) { noneC with pd := 3, cond := .lt }),
   (hml 0x3080_3E00 0xE00E_00E0 2, .skip { no .i32 .none .none with g := ⟨false, 3⟩ } ⟨false, 2⟩),
   (hml 0x3000_7E00 0x40 0x0800_0000, .bra always 0x40 .none ⟨true, 0⟩),
   (hml 0x2080_7805 0x002E_00E0 2, .vreduce (no .i32 (.s 5) (.v 2)) { noneX with xop := 2 })]

def laneWords2 : List (Nat × Instr) :=
  [(hml 0x0200_7001 0x001E_00E0 0, .vneg (no .i32 (.v 1) (.v 1)) noneA),
   (hml 0x2113_7806 0xE00E_00E0 0x0001_0002, .vvote (no .b32 (.s 6) .none) { noneX with pa := 1, xop := 2 }),
   (hml 0x800D_7003 0x0010_09E0 0x109, .vcvt (dab .e4m3 (.v 3) (.v 1) (.v 9)) ⟨0, 8, false, true, .rne⟩),
   (hml 0x804D_7006 0x4020_0CE0 0x109, .vpack (dab .e4m3 (.v 6) (.q 2) (.v 12)) ⟨0, 8, false, true, .rne⟩),
   (hml 0x808D_7404 0x0060_0CE0 0x100, .vunpk (dab .e4m3 (.q 4) (.v 6) (.v 12)) ⟨0, 8, false, false, .dyn⟩),
   (hml 0xE008_7600 0x6807_0060 0, .fmma (head .f32 (.m 0 0) (.m 1 0) (.m 2 0) (.m 0 0))),
   (hml 0xE040_7680 0x204E_00E0 0x40, .fld (head .i32 (.m 1 0) (.w 4) .none .none) { noneM with off := 0x40 })]

/-- The words of chapters 11 and 12 (R254, and the programs). -/
def laneWords3 : List (Nat × Instr) :=
  [(hml 0xC014_7205 0x2028_07E0 0x0006_0010, .vld (head .b64 (.w 5) (.w 2) (.s 7) .none) ⟨0, .add, .default, .acq, .sett, 16⟩),
   (hml 0xC040_7E00 0x203E_0000 0x9401_0005, .vst (head .i32 .none (.w 3) .none (.v 9)) ⟨1, .add, .default, .relaxed, .core, 5⟩),
   (hml 0xC080_7003 0x2068_04C0 0x100D_9FF8, .vatom (head .i32 (.v 3) (.w 6) (.s 4) (.imm 1)) ⟨0, .add, .default, .acqrel, .cluster, 0x1FF8⟩),
   (hml 0xC140_7E00 0xE00E_00E0 0x000A_0000, .fence (no .i32 .none .none) ⟨0, .add, .default, .rel, .sett, 0⟩),
   (hml 0xC180_7E00 0xE00E_00E0 1, .bar (no .i32 .none .none) { noneX with xop := 1 }),
   (hml 0xC000_1001 0x202E_00E0 0x0001_1F04,
     .vld { head .i32 (.v 1) (.w 2) .none .none with g := ⟨false, 1⟩ } ⟨0, .add, .default, .relaxed, .core, 0x1F04⟩),
   (hml 0x3140_7E00 0xE00E_00E0 0, .yieldl (no .i32 .none .none))]

theorem test_laneWords1 : words 96 laneWords1 = true := by decide +kernel
theorem test_laneWords2 : words 96 laneWords2 = true := by decide +kernel
theorem test_laneWords3 : words 96 laneWords3 = true := by decide +kernel

/-- The kernel of R411. -/
def sumacWords : List (Nat × Instr) :=
  [(0x1080_0008, .ldh 1 8), (0x1C98_0FFF, .xandImm 1 1 0x0FFF), (0x0064_0001, .ldpH 1 1 1), (0x2A00_0005, .brf true 5), (0x0000_0001, .ldp 0 1),
   (0x3000_4000, .kadd 0 0 1 .f32), (0x0400_0001, .stp 0 1), (0x4204_0000, .fwdC 1), (0x4C04_0000, .hold 1)]

theorem test_sumacWords : sumacWords.all (fun x => (decodeSumac (BitVec.ofNat 32 x.1)).toOption == some x.2) = true := by decide +kernel

/-! ### Results that the spec's tables give -/

/-- The state after an instruction. -/
def after (i : Instr) (s : State) : State :=
  match exec i s with
  | .next t => t
  | _ => s

/-- Scalar registers 4 and 5 given; register 3 after the instruction. -/
def scalar3 (i : Instr) (a b : Word) : Word := (after i (on (fun t => t.setS 4 a |>.setS 5 b))).cur.s 3

/-- R24, R25, R49: division by 0, the most negative dividend by -1, and a shift by 65. -/
theorem test_scalarCorners :
    scalar3 (.sdiv 3 4 0) 7 0 = -1 ∧ scalar3 (.srem 3 4 0) 7 0 = 7 ∧ scalar3 (.sdiv 3 4 5) (2 ^ 63) (-1) = 2 ^ 63 ∧ scalar3 (.srem 3 4 5) (2 ^ 63) (-1) = 0
    ∧ scalar3 (.sdivn 3 4 5) (2 ^ 63) (-1) = 0 ∧ scalar3 (.sremn 3 4 5) (2 ^ 63) (-1) = 2 ^ 63 ∧ scalar3 (.sshl 3 4 5) 3 65 = 6
    ∧ scalar3 (.smulh 3 4 5) (-1) 2 = -1 ∧ scalar3 (.smulhn 3 4 5) (-1) 2 = 1 ∧ scalar3 (.ssub 3 4 5) 0 1 = -1 := by decide +kernel

/-- Lane 0 of the block with v1, v2 and q2 given; v0 and the flags after a word. -/
def lane0 (i : Instr) (a b : Nat) (ftz : Bool) : Nat × Flags5 :=
  let s := inBlock (fun t => { t with block := some { wBlock with snap := { wBlock.snap with fmode := if ftz then 8 else 0 } },
                                      lanes := t.lanes.map (fun x => (x.write [] (.v 1) a).write [] (.v 2) b) })
  let t := after i s
  (((t.cur.lane 0).regs[0]?.getD 0).toNat, t.cur.fstat)

def aRnd (r : Rnd) : AuxA := { noneA with rnd := r }
def dab0 (t : LType) : LaneHead := dab t (.v 0) (.v 1) (.v 2)
def da0 (t : LType) : LaneHead := no t (.v 0) (.v 1)

/-- R143 to R150 (the table of chapter 7). -/
theorem test_laneIntegers :
    (lane0 (.vadd (dab0 .i8x4) { noneA with sat := true }) 0x64000001 0x64000002 false).1 = 0x7F000003
    ∧ (lane0 (.vabs (da0 .i32) noneA) 0x80000000 0 false).1 = 0x80000000
    ∧ (lane0 (.vabs (da0 .i32) { noneA with sat := true }) 0x80000000 0 false).1 = 0x7FFFFFFF
    ∧ (lane0 (.vshl (dab0 .b32)) 5 33 false).1 = 10
    ∧ (lane0 (.vbfx (head .i32 (.v 0) (.v 1) (.imm 28) (.imm 8))) 0xA0000000 0 false).1 = 0xFFFFFFFA := by decide +kernel

/-- R168 to R171 (the table of chapter 8): IV is bit 4, DZ bit 3. -/
theorem test_laneFloats :
    lane0 (.vfadd (dab0 .f32) noneA) 0x7F800000 0xFF800000 false = (0x7FC00000, flagIV)
    ∧ (lane0 (.vfadd (dab0 .f32) (aRnd .rdn)) 0x3F800000 0xBF800000 false).1 = 0x80000000
    ∧ (lane0 (.vfadd (dab0 .f32) (aRnd .rne)) 0x3F800000 0xBF800000 false).1 = 0
    ∧ lane0 (.vfmin (dab0 .f32)) 0x7FC00001 0x40000000 false = (0x40000000, 0) ∧ (lane0 (.vfmin (dab0 .f32)) 0 0x80000000 false).1 = 0x80000000
    ∧ lane0 (.vfdiv (dab0 .f32) noneA) 0x3F800000 0x80000000 false = (0xFF800000, flagDZ)
    ∧ (lane0 (.vfsqrt (da0 .f32) noneA) 0x80000000 0 false).1 = 0x80000000
    ∧ lane0 (.vfsqrt (da0 .f32) noneA) 0xC0800000 0 false = (0x7FC00000, flagIV) := by decide +kernel

/-- R125 to R127, R173, R176, R179 (the tables of chapters 6 and 8). -/
theorem test_laneConversions :
    lane0 (.vfrnd (da0 .f32) (aRnd .rne)) 0x40200000 0 false = (0x40000000, flagNX)
    ∧ lane0 (.vfrnd (da0 .f32) (aRnd .rne)) 0xBECCCCCD 0 false = (0x80000000, flagNX)
    ∧ (lane0 (.vfexpo (da0 .f32)) 1 0 false).1 = 2 ^ 32 - 149 ∧ (lane0 (.vfexpo (da0 .f32)) 1 0 true).1 = 0x80000000
    ∧ lane0 (.vcvt (dab .e4m3 (.v 0) (.v 1) (.imm 127)) ⟨0, 8, false, false, .rne⟩) 0x43E60000 0 false = (0x7E, flagNX)
    ∧ lane0 (.vcvt (dab .e4m3 (.v 0) (.v 1) (.imm 127)) ⟨0, 8, false, false, .rne⟩) 0x43EB0000 0 false = (0x7F, flagOF ||| flagNX)
    ∧ lane0 (.vcvt (dab .e2m1 (.v 0) (.v 1) (.imm 127)) ⟨0, 8, false, false, .rne⟩) 0x40A00000 0 false = (6, flagNX)
    ∧ lane0 (.vcvt (dab .e8m0 (.v 0) (.v 1) (.imm 127)) ⟨0, 8, false, false, .rne⟩) 0x40400000 0 false = (0x80, flagNX)
    ∧ lane0 (.vcvt (dab .i32 (.v 0) (.v 1) (.imm 127)) ⟨0, 8, false, false, .rne⟩) 0x4F32D05E 0 false = (0x7FFFFFFF, flagIV)
    ∧ (lane0 (.vcvt (dab .n32 (.v 0) (.v 1) (.imm 127)) ⟨0, 0, true, false, .dyn⟩) 0xFFFFFFFF 0 false).1 = 0 := by decide +kernel

/-- R166 to R168: an FMA is rounded once; 0 times infinity sets IV though c is NaN. -/
theorem test_laneFma :
    lane0 (.vfma (head .f32 (.v 0) (.v 1) (.v 2) (.v 3)) noneA) 0 0x7F800000 false = (0x7FC00000, flagIV) := by decide +kernel

/-- R180, VPACK and VUNPK: the worked example of chapter 8. -/
theorem test_pack :
    let s := inBlock (fun t => { t with lanes := t.lanes.map (fun x => ((((x.write [] (.v 8) 0x43960000).write [] (.v 9) 0xBF400000).write [] (.v 10) 0x447A0000).write []
      (.v 11) 0x3B000000).write [] (.v 12) 0x80) })
    let t := after (.vpack (dab .e4m3 (.v 6) (.q 2) (.v 12)) ⟨0, 8, false, true, .rne⟩) s
    (t.cur.lane 0).regs[6]? = some 0x007EAC71 ∧ t.cur.fstat = 7 := by decide +kernel

/-- R410, the sums of R411: elements 0 to 3, and FLAGS 0x05 of all. -/
theorem test_sumacSums :
    reduceElem 0 (kTypeFmt .f32) 0x3F800000 0x40000000 = (0x40400000, 0) ∧ reduceElem 0 (kTypeFmt .f32) 0x40200000 0xC0200000 = (0, 0)
    ∧ reduceElem 0 (kTypeFmt .f32) 0x3F800001 0x33800000 = (0x3F800002, flagNX) ∧ reduceElem 0 (kTypeFmt .f32) 0x7F7FFFFF 0x7F7FFFFF = (0x7F800000, flagOF ||| flagNX)
    ∧ reduceElem 0 (kTypeFmt .f32) 0 0x80000000 = (0, 0) ∧ reduceElem 0 (kTypeFmt .f32) 0x80000000 0x80000000 = (0x80000000, 0) := by decide +kernel

end Sys2Proof.Tests
end

section
/-!
SUPPORT. The rules of the scalar stream's control flow: an instruction whose registers are not pending, a transfer whose
target passes or fails its checks (R48, R53), and what the ARMED bits say of a loop level (R26).
-/

namespace Sys2Proof.Machine

/-! ### Operands and targets -/

/-- R48: an instruction none of whose registers is pending takes effect. -/
theorem State.whenReady_of_ready {s : State} {rs : List Reg} (h : s.ready rs = true) (f : State → State) :
    s.whenReady rs f = f s := by
  have hnone : rs.any s.cur.pending = false := by simpa [State.ready] using h
  simp [State.whenReady, hnone]

/-- R53: a transfer to a target that passes its checks goes there, bits [1:0] zero (R13). -/
theorem State.jump_of_canJump {s : State} {target : Word} {reg : Bool} (h : s.canJump target reg = true)
    (f : Team → Team) : s.jump target reg f = State.goTo { s with cur := f s.cur } target := by
  have hnone : s.fetchCheck target.toNat reg = none := by simpa [State.canJump] using h
  simp only [State.jump, hnone]
  rfl

/-- R33, R53: a transfer to a target that fails a check is trapped with that check's code, whatever it was to change. -/
theorem State.jump_of_fetchCheck {s : State} {target : Word} {reg : Bool} {code : Nat}
    (h : s.fetchCheck target.toNat reg = some code) (hcode : isAwait code = false) (f : Team → Team) :
    s.jump target reg f = s.trap code target := by
  simp [State.jump, h, hcode]

/-! ### Armed loop levels -/

/-- No bit from a level up is set where the shifted mask is zero (R26: `level` above the innermost armed one). -/
theorem armed_shiftRight_eq_zero_iff (armed : BitVec 4) (l : BitVec 2) :
    armed >>> l.toNat = 0 ↔ ∀ k : BitVec 2, l ≤ k → armed.getLsbD k.toNat = false := by
  constructor
  · intro h k hk
    have hbit : (armed >>> l.toNat).getLsbD (k.toNat - l.toNat) = false := by simp [h]
    rwa [BitVec.getLsbD_ushiftRight, Nat.add_sub_cancel' (BitVec.le_def.1 hk)] at hbit
  · intro h
    refine BitVec.eq_of_getLsbD_eq fun i hi => ?_
    rw [BitVec.getLsbD_ushiftRight, BitVec.ofNat_eq_ofNat, BitVec.getLsbD_zero]
    by_cases hlt : l.toNat + i < 4
    · have hk : (BitVec.ofNat 2 (l.toNat + i)).toNat = l.toNat + i := Nat.mod_eq_of_lt hlt
      rw [← hk]
      exact h _ (BitVec.le_def.2 (by omega))
    · exact BitVec.getLsbD_of_ge _ _ (by omega)

/-- With no level armed there is no innermost one (R26: k is −1). -/
theorem innermost_zero : innermost 0 = none := by decide

/-- The highest level whose bit is set is the innermost armed one (R26). -/
theorem innermost_eq_some {armed : BitVec 4} {k : BitVec 2} (hk : armed.getLsbD k.toNat = true)
    (habove : ∀ j : BitVec 2, k < j → armed.getLsbD j.toNat = false) : innermost armed = some k := by
  revert armed k
  decide

/-- An offset in words is four times as many bytes (R26). -/
theorem shiftLeft_two_eq_four_mul (x : Word) : x <<< 2 = 4 * x := by
  rw [BitVec.shiftLeft_eq_mul_twoPow, BitVec.mul_comm]
  rfl

/-! ### SLOOP and SLEAVE -/

section
variable {s : State} {l : BitVec 2} {c : Reg} {o : BitVec 17}

/-- SLOOP of a level not above the innermost armed one, or with a zero offset (R26). -/
theorem exec_sloop_of_refused (hr : s.ready [c] = true) (h : s.cur.armed >>> l.toNat ≠ 0 ∨ o = 0) :
    exec (.sloop l c o) s = .next s.illegal := by
  show execSloop l c o s = _
  rw [execSloop, State.whenReady_of_ready hr]
  exact congrArg _ (if_pos h)

/-- SLOOP of a level it may take, with a zero count: the body is skipped (R26). -/
theorem exec_sloop_of_count_zero (hr : s.ready [c] = true) (hl : s.cur.armed >>> l.toNat = 0) (ho : o ≠ 0)
    (hc : s.cur.s c = 0) :
    exec (.sloop l c o) s = .next (s.jump (s.cur.spc + 4 * o.setWidth 64 + 4) false id) := by
  show execSloop l c o s = _
  rw [execSloop, State.whenReady_of_ready hr]
  simp only [hl, ho, hc, shiftLeft_two_eq_four_mul, ne_eq, not_true_eq_false, or_self, if_false, if_true]

/-- SLOOP of a level it may take, with a count: the level is armed and the body entered (R26). -/
theorem exec_sloop_of_count_ne_zero (hr : s.ready [c] = true) (hl : s.cur.armed >>> l.toNat = 0) (ho : o ≠ 0)
    (hc : s.cur.s c ≠ 0) :
    exec (.sloop l c o) s = .next (State.advance { s with cur := { s.cur with
      ls := s.cur.ls.set l.toNat (s.cur.spc + 4), le := s.cur.le.set l.toNat (s.cur.spc + 4 * o.setWidth 64),
      lc := s.cur.lc.set l.toNat (s.cur.s c), armed := s.cur.armed ||| (1#4 <<< l.toNat) } } 1) := by
  show execSloop l c o s = _
  rw [execSloop, State.whenReady_of_ready hr]
  simp only [hl, ho, hc, shiftLeft_two_eq_four_mul, ne_eq, not_true_eq_false, or_self, if_false]

end

/-- SLEAVE with no level armed (R29). -/
theorem exec_sleave_of_armed_eq_zero {s : State} (h : s.cur.armed = 0) : exec .sleave s = .next s.illegal := by
  show execSleave s = _
  rw [execSleave, h, innermost_zero]

/-- SLEAVE with k the innermost armed level (R29). -/
theorem exec_sleave_of_innermost {s : State} {k : BitVec 2} (h : innermost s.cur.armed = some k) :
    exec .sleave s = .next (s.jump (s.cur.le[k.toNat] + 4) false
      (fun t => { t with armed := t.armed &&& ~~~(1#4 <<< k.toNat) })) := by
  show execSleave s = _
  rw [execSleave, h]

end Sys2Proof.Machine
end

section
/-!
SUPPORT. The numbers of a team's system registers (R15 to R18).
-/

namespace Sys2Proof.Machine

/-- A register narrower than 64 bits reads zero above its field (R17, R18). -/
theorem State.sysReg_of_field {s : State} {n w : Nat} {x : BitVec w} (h : s.sysReg n = some (BitVec.ofNat 64 x.toNat)) :
    s.sysReg n = some (x.setWidth 64) := by
  rw [h, BitVec.ofNat_toNat]

/-- COREID: the core below the sett (R18). -/
theorem State.sysReg_coreId (s : State) : s.sysReg 0x006 = some (BitVec.ofNat 64 (s.cur.core + 256 * s.cur.sett)) := by
  rw [Nat.mul_comm]
  rfl

/-- The loop registers under their numbers (R16). -/
theorem State.sysReg_loop (s : State) (k : Fin 4) : s.sysReg (0x070 + k) = some s.cur.ls[k]
    ∧ s.sysReg (0x074 + k) = some s.cur.le[k] ∧ s.sysReg (0x078 + k) = some s.cur.lc[k] :=
  match k with
  | 0 | 1 | 2 | 3 => ⟨rfl, rfl, rfl⟩

end Sys2Proof.Machine
end

section
open Sys2Proof Sys2Proof.Machine

/-- Settles O5: SLOOP by the cases of R26, SLEAVE by its innermost armed level, each transfer by the check of its target. -/
theorem hardwareLoops : Obligations.HardwareLoops := by
  intro s l c o t e free
  have hfree : t.armed >>> l.toNat = 0 ↔ free := armed_shiftRight_eq_zero_iff t.armed l
  refine ⟨fun hr hbad => exec_sloop_of_refused hr (hbad.imp_left (mt hfree.1)),
    fun hr hf ho hc => exec_sloop_of_count_ne_zero hr (hfree.2 hf) ho hc,
    fun hr hf ho hc hgood => ?skipped, fun code hr hf ho hc hbad hcode => ?skipTrapped,
    exec_sleave_of_armed_eq_zero, fun k hk habove => ⟨fun hgood => ?left, fun code hbad hcode => ?leaveTrapped⟩⟩
  case skipped =>
    exact (exec_sloop_of_count_zero hr (hfree.2 hf) ho hc).trans (congrArg _ (State.jump_of_canJump hgood id))
  case skipTrapped =>
    exact (exec_sloop_of_count_zero hr (hfree.2 hf) ho hc).trans (congrArg _ (State.jump_of_fetchCheck hbad hcode id))
  case left =>
    exact (exec_sleave_of_innermost (innermost_eq_some hk habove)).trans (congrArg _ (State.jump_of_canJump hgood _))
  case leaveTrapped =>
    exact (exec_sleave_of_innermost (innermost_eq_some hk habove)).trans
      (congrArg _ (State.jump_of_fetchCheck hbad hcode _))

/-- Settles O6, number by number: a register of 64 bits by its row of `State.sysReg`, a narrower one as its field. -/
theorem systemRegisterLayout : Obligations.SystemRegisterLayout := by
  intro s _ _
  refine ⟨?teamid, rfl, ?gangid, s.sysReg_coreId, rfl, rfl, ?fstat, ?ftrapen, ?fmode, ?srseed, rfl, rfl, rfl, rfl, rfl,
    rfl, rfl, rfl, rfl, s.sysReg_loop, ?lstat⟩
  case teamid | gangid | fstat | ftrapen | fmode | srseed | lstat => exact State.sysReg_of_field rfl
end

section
/-!
SUPPORT. The values of the scalar arithmetic instructions in the words of the spec's tables: products, quotients and
remainders, minima and maxima, conditions, and the two bit counts (R24, R25, R39, R49, R50).
-/

namespace Sys2Proof

/-! ### Bits of a number, leading zeros and set bits -/

/-- A bit of a word's number is that bit of the word. -/
theorem bitAt_toNat {n : Nat} (x : BitVec n) (i : Nat) : bitAt x.toNat i = x.getLsbD i := by
  rw [← BitVec.testBit_toNat, Nat.testBit_eq_decide_div_mod_eq]
  rfl

/-- The leading zeros of a number are counted down from the top to its highest set bit. -/
theorem clz_eq_of_highest {x n k : Nat} (hkn : k < n) (hk : bitAt x k = true)
    (habove : ∀ m, k < m → m < n → bitAt x m = false) : clz x n = n - 1 - k := by
  induction n with
  | zero => exact absurd hkn (Nat.not_lt_zero k)
  | succ n ih =>
    rcases Nat.lt_succ_iff_lt_or_eq.1 hkn with hlt | rfl
    · have htop : bitAt x n = false := habove n hlt n.lt_succ_self
      have hrest : clz x n = n - 1 - k := ih hlt fun m hm hmn => habove m hm (Nat.lt_succ_of_lt hmn)
      simp only [clz, htop, hrest, Bool.false_eq_true, if_false]
      omega
    · simp [clz, hk]

/-- The set bits of a number are counted place by place. -/
theorem popcount_eq_countP (x n : Nat) : popcount x n = (List.range n).countP (bitAt x) := by
  induction n with
  | zero => rfl
  | succ n ih =>
    rw [popcount, ih, b2n, List.range_succ, List.countP_append, List.countP_singleton, Nat.add_comm]

/-- The places of an `n`-bit word as numbers: a list of `Fin n` read where natural numbers are asked for. -/
theorem finRange_bind_val (n : Nat) : (do let i ← List.finRange n; pure i.val) = List.range n :=
  (List.flatMap_pure_eq_map _ _).trans List.map_coe_finRange_eq_range

namespace Machine

/-- The highest set bit fixes the count of SCLZ (R50). -/
theorem clzWord_eq_of_highest {x : Word} {j : Fin 64} (hj : x.getLsbD j = true)
    (habove : ∀ m : Fin 64, j < m → x.getLsbD m = false) : clzWord x = BitVec.ofNat 64 (63 - j) := by
  have hclz : clz x.toNat 64 = 64 - 1 - j :=
    clz_eq_of_highest j.isLt ((bitAt_toNat x j).trans hj) fun m hm hlt => (bitAt_toNat x m).trans (habove ⟨m, hlt⟩ hm)
  rw [clzWord, hclz]

/-- A zero word has 64 leading zeros (R50). -/
theorem clzWord_zero : clzWord 0 = 64 := by decide

/-- SPOPC counts the set bits of a word (R50). -/
theorem popWord_eq_countP (x : Word) : popWord x = BitVec.ofNat 64 ((List.range 64).countP x.getLsbD) := by
  have hbits : bitAt x.toNat = x.getLsbD := funext (bitAt_toNat x)
  rw [popWord, popcount_eq_countP, hbits]

/-- A zero word has no set bit (R50). -/
theorem popWord_zero : popWord 0 = 0 := by decide

/-! ### Products (R24) -/

/-- Bits [127:64] of a number are its quotient by 2⁶⁴, rounded down. -/
theorem extractLsb'_ofInt_eq_ofInt_div (z : Int) :
    (BitVec.ofInt 128 z).extractLsb' 64 64 = BitVec.ofInt 64 (z / 2 ^ 64) := by
  apply BitVec.eq_of_toNat_eq
  simp only [BitVec.extractLsb'_toNat, BitVec.toNat_ofInt, Nat.shiftRight_eq_div_pow]
  omega

/-- SMULH gives bits [127:64] of the signed product (R24). -/
theorem mulhS_eq (x y : Word) : BitVec.ofInt 64 (x.toInt * y.toInt / 2 ^ 64)
    = (x.signExtend 128 * y.signExtend 128).extractLsb' 64 64 := by
  rw [← extractLsb'_ofInt_eq_ofInt_div, BitVec.ofInt_mul]
  rfl

/-- SMULHN gives bits [127:64] of the natural product (R24). -/
theorem mulhN_eq (x y : Word) : BitVec.ofNat 64 (x.toNat * y.toNat / 2 ^ 64)
    = (x.setWidth 128 * y.setWidth 128).extractLsb' 64 64 := by
  rw [← BitVec.ofInt_natCast, Int.natCast_ediv, Nat.cast_pow, Nat.cast_ofNat, ← extractLsb'_ofInt_eq_ofInt_div,
    BitVec.ofInt_natCast, BitVec.ofNat_mul, BitVec.ofNat_toNat, BitVec.ofNat_toNat]

/-! ### Quotients and remainders (R25) -/

/-- The truncated quotient of the signed values, -2⁶³ by -1 included, which wraps (R24, R25). -/
theorem ofInt_tdiv_eq_sdiv (x y : Word) : BitVec.ofInt 64 (x.toInt.tdiv y.toInt) = x.sdiv y :=
  BitVec.eq_of_toInt_eq (by rw [BitVec.toInt_ofInt, BitVec.toInt_sdiv])

/-- The remainder has the sign of the dividend (R25). -/
theorem ofInt_tmod_eq_srem (x y : Word) : BitVec.ofInt 64 (x.toInt.tmod y.toInt) = x.srem y := by
  rw [← BitVec.toInt_srem, BitVec.ofInt_toInt]

/-- The quotient of SDIV, a zero divisor included (R25). -/
theorem divS_eq (x y : Word) : divS x y = if y = 0 then BitVec.allOnes 64 else x.sdiv y := by
  rw [divS, ofInt_tdiv_eq_sdiv]
  rfl

/-- The quotient of SDIVN, a zero divisor included (R25). -/
theorem divN_eq (x y : Word) : divN x y = if y = 0 then BitVec.allOnes 64 else x / y := by
  rw [divN, ← BitVec.toNat_udiv, BitVec.ofNat_toNat, BitVec.setWidth_eq]
  rfl

/-- Dividend minus quotient times divisor is the signed remainder, and the dividend where the divisor is zero (R25). -/
theorem remS_eq (x y : Word) : x - divS x y * y = if y = 0 then x else x.srem y := by
  by_cases hy : y = 0
  · simp [hy]
  · have hsum : x = x.srem y + x.sdiv y * y :=
      calc x = BitVec.ofInt 64 (x.toInt.tmod y.toInt + x.toInt.tdiv y.toInt * y.toInt) := by
            rw [Int.tmod_add_tdiv_mul, BitVec.ofInt_toInt]
        _ = x.srem y + x.sdiv y * y := by
            rw [BitVec.ofInt_add, BitVec.ofInt_mul, ofInt_tmod_eq_srem, ofInt_tdiv_eq_sdiv, BitVec.ofInt_toInt]
    rw [divS_eq, if_neg hy, if_neg hy, BitVec.sub_eq_iff_eq_add, ← hsum]

/-- The natural remainder, and the dividend where the divisor is zero (R25). -/
theorem remN_eq (x y : Word) : x - divN x y * y = if y = 0 then x else x % y := by
  by_cases hy : y = 0
  · simp [hy]
  · have hsum : x = x % y + x / y * y := by
      apply BitVec.eq_of_toNat_eq
      rw [BitVec.toNat_add, BitVec.toNat_mul, BitVec.toNat_umod, BitVec.toNat_udiv, Nat.add_mod_mod, Nat.mod_add_div',
        BitVec.toNat_mod_cancel]
    rw [divN_eq, if_neg hy, if_neg hy, BitVec.sub_eq_iff_eq_add, ← hsum]

/-! ### Minima, maxima and conditions (R39, R49) -/

/-- Where two words read as one value they are one word, so a choice by `<` is the choice by `≤`. -/
theorem ite_lt_eq_ite_le {α : Type} [LinearOrder α] {f : Word → α} (hf : f.Injective)
    (g : Word → Word → Word) (x y : Word) : (if f x < f y then g x y else g y x) = if f x ≤ f y then g x y else g y x := by
  rcases lt_trichotomy (f x) (f y) with hlt | heq | hgt
  · rw [if_pos hlt, if_pos hlt.le]
  · obtain rfl : x = y := hf heq
    rw [ite_self, ite_self]
  · rw [if_neg hgt.not_gt, if_neg hgt.not_ge]

/-- SMIN and SMAX choose by the signed values (R49). -/
theorem ite_slt_eq_ite_toInt_le (g : Word → Word → Word) (x y : Word) :
    (if x.slt y then g x y else g y x) = if x.toInt ≤ y.toInt then g x y else g y x := by
  simp only [BitVec.slt_iff_toInt_lt, ite_lt_eq_ite_le (fun _ _ => BitVec.eq_of_toInt_eq) g]

/-- SMINN and SMAXN choose by the natural values (R49). -/
theorem ite_ult_eq_ite_toNat_le (g : Word → Word → Word) (x y : Word) :
    (if x.ult y then g x y else g y x) = if x.toNat ≤ y.toNat then g x y else g y x := by
  simp only [BitVec.ult_iff_toNat_lt, ite_lt_eq_ite_le (fun _ _ => BitVec.eq_of_toNat_eq) g]

/-- SCMP and SCMPI test what their condition says (R39). -/
theorem condWord_iff (k : Cond) (x y : Word) : condWord k x y = true ↔ condHolds k x y := by
  cases k <;> simp [condWord, condInt, condHolds, BitVec.toNat_inj]

end Machine
end Sys2Proof
end

section
/-!
SUPPORT. What a scalar register instruction answers where none of its registers is pending (R47, R48).
-/

namespace Sys2Proof.Machine

/-- Where no register of a list is pending, none of a part of it is (R48). -/
theorem State.ready_of_subset {s : State} {rs rs' : List Reg} (h : s.ready rs = true) (hsub : rs' ⊆ rs) :
    s.ready rs' = true :=
  List.all_eq_true.2 fun r hr => List.all_eq_true.1 h r (hsub hr)

variable {s : State} {i : Instr} {d a b : Reg} {v : Word}

/-- An instruction of the form `MNEM sd, sa, sb` writes the value of its operation (R49). -/
theorem gives_of_aluRR {f : Word → Word → Word} (h : s.ready [d, a, b] = true) (hi : exec i s = .next (aluRR f d a b s))
    (hv : f (s.cur.s a) (s.cur.s b) = v) : Gives i s (s.result 1 d v) := by
  rw [Gives, hi, aluRR, State.whenReady_of_ready h, hv]

/-- An instruction on one register and an immediate, or on one register alone, writes the value of its operation (R50, R51). -/
theorem gives_of_aluR {f : Word → Word} (h : s.ready [d, a] = true) (hi : exec i s = .next (aluR f d a 1 s))
    (hv : f (s.cur.s a) = v) : Gives i s (s.result 1 d v) := by
  rw [Gives, hi, aluR, State.whenReady_of_ready h, hv]

/-- A compare writes whether its condition holds (R39, R50, R51). -/
theorem gives_of_compare {rs : List Reg} {k : Cond} {c : Bit3} {y : State → Word} (h : s.ready rs = true)
    (hi : exec i s = .next (s.whenReady rs (compare k c a y 1))) :
    ∃ r, Gives i s (s.resultC 1 c r) ∧ (r = true ↔ condHolds k (s.cur.s a) (y s)) := by
  refine ⟨condWord k (s.cur.s a) (y s), ?_, condWord_iff k (s.cur.s a) (y s)⟩
  rw [Gives, hi, State.whenReady_of_ready h, compare]

end Sys2Proof.Machine
end

section
open Sys2Proof Sys2Proof.Machine

/-- Settles O1: each instruction by its operation, and the operation by the value lemma of its row in the table of R49. -/
theorem scalarArithmetic : Obligations.ScalarArithmetic := by
  intro s d a b h x y out n
  refine ⟨?sadd, ?ssub, ?smul, ?smulh, ?smulhn, ?sdiv, ?sdivn, ?srem, ?sremn, ?sand, ?sor, ?sxor, ?sshl, ?sshr, ?ssra,
    ?smin, ?smax, ?sminn, ?smaxn⟩
  case smulh => exact gives_of_aluRR h rfl (mulhS_eq x y)
  case smulhn => exact gives_of_aluRR h rfl (mulhN_eq x y)
  case sdiv => exact gives_of_aluRR h rfl (divS_eq x y)
  case sdivn => exact gives_of_aluRR h rfl (divN_eq x y)
  case srem => exact gives_of_aluRR h rfl (remS_eq x y)
  case sremn => exact gives_of_aluRR h rfl (remN_eq x y)
  case smin => exact gives_of_aluRR h rfl (ite_slt_eq_ite_toInt_le (fun p _ => p) x y)
  case smax => exact gives_of_aluRR h rfl (ite_slt_eq_ite_toInt_le (fun _ q => q) x y)
  case sminn => exact gives_of_aluRR h rfl (ite_ult_eq_ite_toNat_le (fun p _ => p) x y)
  case smaxn => exact gives_of_aluRR h rfl (ite_ult_eq_ite_toNat_le (fun _ q => q) x y)
  case sadd | ssub | smul | sand | sor | sxor | sshl | sshr | ssra => exact gives_of_aluRR h rfl rfl

/-- Settles O2: an immediate instruction by its operation on one register, a compare by its condition, SCLZ and SPOPC by
the bits of the register. -/
theorem scalarImmediates : Obligations.ScalarImmediates := by
  intro s d a b c k x n y h v i out
  have hda : s.ready [d, a] = true := State.ready_of_subset h (by simp)
  have hab : s.ready [a, b] = true := State.ready_of_subset h (by simp)
  have hd : s.ready [d] = true := State.ready_of_subset h (by simp)
  have ha : s.ready [a] = true := State.ready_of_subset h (by simp)
  refine ⟨?saddi, ?sandi, ?sori, ?sxori, ?sshli, ?sshri, ?ssrai, ?sli, ?ssel, ?scmp, ?scmpi, fun hv => ?sclzZero,
    fun hv => ?spopcZero, fun j hj habove => ?sclz, ?spopc⟩
  case sli => exact congrArg _ (State.whenReady_of_ready hd _)
  case ssel => exact congrArg _ (State.whenReady_of_ready h _)
  case scmp => exact gives_of_compare (y := fun s => s.cur.s b) hab rfl
  case scmpi => exact gives_of_compare (y := fun _ => i) ha rfl
  case sclzZero => exact gives_of_aluR hda rfl ((congrArg clzWord hv).trans clzWord_zero)
  case spopcZero => exact gives_of_aluR hda rfl ((congrArg popWord hv).trans popWord_zero)
  case sclz => exact gives_of_aluR hda rfl (clzWord_eq_of_highest hj habove)
  case spopc =>
    rw [finRange_bind_val]
    exact gives_of_aluR hda rfl (popWord_eq_countP v)
  case saddi | sandi | sori | sxori | sshli | sshri | ssrai => exact gives_of_aluR hda rfl rfl
end

section
/-!
SUPPORT. What a lane word leaves that works in each lane on its own registers, stated for the words of chapter 7 (R142 to
R154): the run of a word that is ready, and the result it writes.
-/

namespace Sys2Proof.Machine

variable {s t : State} {p : Path} {b : Block} {i : Instr}

/-- The run of a word on its path: what its lanes read, and its active lanes (R79, R142). -/
def State.laneRun (s : State) (i : Instr) (p : Path) (b : Block) : LaneRun := ⟨i, p, b, s.env b p, s.lanesOn p i⟩

/-- A word that is ready runs on its path, its block and its active lanes (R80, R117, R142). -/
theorem LaneReady.laneParts_eq {ok : Team → Bool} (h : LaneReady s i p b) (hok : ok s.cur = true)
    (f : LaneRun → State → State) : s.laneParts i ok f = f (s.laneRun i p b) s := by
  rw [State.laneParts, h.path, h.block]
  simp only [h.indices, hok, h.free, Bool.and_self, Bool.not_true, Bool.false_eq_true, if_false]
  rfl

/-- What a sweep leaves depends on what it gives the active lanes only. -/
theorem Swept.congr {act : List Nat} {f g : Nat → Lane × Flags5} (h : Swept s t p act f) (hfg : ∀ l ∈ act, f l = g l) :
    Swept s t p act g where
  lanes l := by
    rw [h.lanes l]
    exact ite_congr rfl (fun hl => congrArg Prod.fst (hfg l hl)) fun _ => rfl
  flags := h.flags.trans (List.foldl_ext _ _ _ fun acc l hl => by rw [hfg l hl])
  path := h.path
  others := h.others
  team := h.team
  rest := h.rest

/-- A word that gives each lane a record and flags, which may depend on the run, leaves them in its active lanes. -/
theorem LaneReady.swept (h : LaneReady s i p b) {cls n : Nat} {eff : LaneRun → LaneEff}
    (hi : exec i s = .next (s.laneParts i (fun _ => true) (fun r s => s.laneEach r cls n (eff r)))) :
    ∃ t, Gives i s t ∧ Swept s t p (s.lanesOn p i) (eff (s.laneRun i p b) (s.env b p)) := by
  have hrun := (h.laneParts_eq (ok := fun _ => true) rfl fun r u => u.laneEach r cls n (eff r)).trans
    (h.laneParts_eq (ok := fun _ => true) rfl fun r u => u.laneEach r cls n (eff (s.laneRun i p b))).symm
  refine ⟨_, ?_, s.laneEach_spec i p b cls n (eff (s.laneRun i p b)) (fun _ => true) h rfl⟩
  rw [Gives, hi, hrun]

/-- A word that writes one result in each lane without flags leaves it there; what the result would be in other lanes
does not matter. -/
theorem LaneReady.laneWrites (h : LaneReady s i p b) {cls n : Nat} {d : Operand} {f : LaneEnv → Nat → Nat × Flags5}
    {v : Nat → Nat} (hi : exec i s = .next (s.laneResult i cls n d f))
    (hv : ∀ l ∈ s.lanesOn p i, f (s.env b p) l = (v l, 0)) : LaneWrites s i p d v := by
  obtain ⟨t, hgives, hswept⟩ := h.swept (eff := fun _ e l => (e.put d l (f e l).1, (f e l).2)) hi
  exact ⟨t, hgives, hswept.congr fun l hl => by rw [hv l hl]; rfl⟩

end Sys2Proof.Machine
end

section
/-!
SUPPORT. Numbers of the lane words: elements and their packing, narrowing, and the fields and counts of R147 to R150 as
operations on bit vectors.
-/

namespace Sys2Proof

/-- The signed reading of `n` bits is that of the word of these bits (R11). -/
theorem sextNat_eq_toInt {n : Nat} (hn : 0 < n) (x : Nat) : sextNat x n = (BitVec.ofNat n x).toInt := by
  have hpow : 2 ^ n = 2 * 2 ^ (n - 1) := by rw [← Nat.pow_succ', Nat.succ_eq_add_one, Nat.sub_add_cancel hn]
  rw [sextNat, BitVec.toInt_eq_toNat_cond, BitVec.toNat_ofNat]
  refine ite_congr (propext ?_) (fun _ => rfl) fun _ => by push_cast; rfl
  omega

/-- The leading zeros of a number are at most its bits. -/
theorem clz_le (x n : Nat) : clz x n ≤ n := by
  induction n with
  | zero => exact Nat.le_refl 0
  | succ n ih =>
    rw [clz]
    split <;> omega

/-- The places that are counted hold zeros. -/
theorem bitAt_of_clz {x n j : Nat} (hj : n - clz x n ≤ j) (hjn : j < n) : bitAt x j = false := by
  induction n with
  | zero => exact absurd hjn (Nat.not_lt_zero j)
  | succ n ih =>
    rw [clz] at hj
    have hle := clz_le x n
    split at hj
    · omega
    · rename_i htop
      rcases Nat.lt_succ_iff_lt_or_eq.1 hjn with hlt | rfl
      · exact ih (by omega) hlt
      · exact Bool.eq_false_of_not_eq_true htop

/-- Below the places that are counted stands a one. -/
theorem bitAt_below_clz {x n : Nat} (h : clz x n < n) : bitAt x (n - 1 - clz x n) = true := by
  induction n with
  | zero => exact absurd h (Nat.not_lt_zero _)
  | succ n ih =>
    rw [clz] at h ⊢
    by_cases htop : bitAt x n = true
    · rw [if_pos htop]
      exact htop
    · rw [if_neg htop] at h ⊢
      have hplace : n + 1 - 1 - (1 + clz x n) = n - 1 - clz x n := by omega
      rw [hplace]
      exact ih (by omega)

/-- The set bits of a number are at most its bits. -/
theorem popcount_le (x n : Nat) : popcount x n ≤ n := by
  rw [popcount_eq_countP]
  exact List.countP_le_length.trans_eq List.length_range

namespace Machine

/-! ### Elements (R143, R145) -/

/-- The elements of every type have bits. -/
theorem elemOf_bits_pos (t : LType) : 0 < (elemOf t).1 := by cases t <;> decide

/-- An element as a word. -/
theorem ofNat_elemAt (n x m : Nat) : BitVec.ofNat n (elemAt n x m) = BitVec.ofNat n (x / 2 ^ (n * m)) := by
  apply BitVec.eq_of_toNat_eq
  rw [BitVec.toNat_ofNat, BitVec.toNat_ofNat, elemAt, Nat.mod_mod]

/-- An element as a natural number is its word's. -/
theorem elemAt_eq_toNat (n x m : Nat) : elemAt n x m = (BitVec.ofNat n (x / 2 ^ (n * m))).toNat := rfl

/-- An element as a number is its word's, signed or natural (R145). -/
theorem elemInt_eq {n : Nat} (hn : 0 < n) (sg : Bool) (x m : Nat) : elemInt sg n x m
    = if sg then (BitVec.ofNat n (x / 2 ^ (n * m))).toInt else (BitVec.ofNat n (x / 2 ^ (n * m))).toNat := by
  rw [elemInt, sextNat_eq_toInt hn, ofNat_elemAt, elemAt_eq_toNat]

/-- Packed elements fill their bits and no more. -/
theorem packElems_lt (n : Nat) (xs : List Nat) : packElems n xs < 2 ^ (n * xs.length) := by
  induction xs with
  | nil => exact Nat.one_pos
  | cons x xs ih =>
    have hx : x % 2 ^ n < 2 ^ n := Nat.mod_lt _ (Nat.two_pow_pos n)
    calc packElems n (x :: xs) < 2 ^ n + 2 ^ n * packElems n xs := Nat.add_lt_add_right hx _
      _ = 2 ^ n * (packElems n xs + 1) := by ring
      _ ≤ 2 ^ n * 2 ^ (n * xs.length) := Nat.mul_le_mul_left _ ih
      _ = 2 ^ (n * (x :: xs).length) := by rw [← Nat.pow_add, List.length_cons]; ring_nf

/-- An element of a packed list is the list's, in its bits. -/
theorem elemAt_packElems (n : Nat) {xs : List Nat} {m : Nat} (hm : m < xs.length) :
    elemAt n (packElems n xs) m = xs[m] % 2 ^ n := by
  induction xs generalizing m with
  | nil => exact absurd hm (Nat.not_lt_zero m)
  | cons x xs ih =>
    have hx : x % 2 ^ n < 2 ^ n := Nat.mod_lt _ (Nat.two_pow_pos n)
    cases m with
    | zero => simp [elemAt, packElems]
    | succ m =>
      have hrest : packElems n (x :: xs) / 2 ^ n = packElems n xs := by
        rw [packElems, Nat.add_mul_div_left _ _ (Nat.two_pow_pos n), Nat.div_eq_of_lt hx, Nat.zero_add]
      rw [elemAt, Nat.mul_succ, Nat.add_comm, Nat.pow_add, ← Nat.div_div_eq_div_mul, hrest]
      exact ih (Nat.lt_of_succ_lt_succ hm)

/-! ### Narrowing (R145, R146) -/

/-- A narrowed number fits its bits. -/
theorem narrowInt_lt (sg sat : Bool) (n : Nat) (r : Int) : narrowInt sg sat n r < 2 ^ n := by
  rw [narrowInt, Int.toNat_lt' (Nat.two_pow_pos n), Nat.cast_pow]
  exact Int.emod_lt_of_pos _ (by positivity)

/-- Narrowing takes the low bits of the exact number, clamped first under .SAT. -/
theorem ofNat_narrowInt (sg sat : Bool) (n : Nat) (r : Int) : BitVec.ofNat n (narrowInt sg sat n r)
    = BitVec.ofInt n (if sat then min (max r (if sg then -(2 ^ (n - 1)) else 0))
        (if sg then 2 ^ (n - 1) - 1 else 2 ^ n - 1) else r) := by
  apply BitVec.eq_of_toNat_eq
  rw [BitVec.toNat_ofNat, Nat.mod_eq_of_lt (narrowInt_lt sg sat n r), BitVec.toNat_ofInt, Nat.cast_pow]
  rfl

end Machine
end Sys2Proof
end

section
/-!
SUPPORT. The integer lane words (R145, R146): each element of the result is its exact value narrowed.
-/

namespace Sys2Proof.Machine

/-- A place of the numbers from `a` on. -/
theorem getElem_upTo (a : Nat) {n m : Nat} (hm : m < (upTo a n).length) : (upTo a n)[m] = a + m := by
  induction n generalizing a m with
  | zero => exact absurd hm (Nat.not_lt_zero m)
  | succ n ih =>
    cases m with
    | zero => rfl
    | succ m => exact (ih (a + 1) (Nat.lt_of_succ_lt_succ hm)).trans (by omega)

/-- An integer result fills the bits of its elements (R145). -/
theorem intResult_lt {h : LaneHead} {n k : Nat} {sg : Bool} (hty : elemOf h.ty = (n, k, sg)) (e : LaneEnv) (sat : Bool)
    (f : Nat → Int → Int → Int → Int) (l : Nat) : (intResult e h sat f l).1 < 2 ^ (n * k) := by
  simp only [intResult, hty]
  exact (packElems_lt ..).trans_eq (by rw [List.length_map, length_upTo])

/-- The elements of an integer result are their exact values narrowed (R145). -/
theorem elemAt_intResult {h : LaneHead} {n k : Nat} {sg : Bool} (hty : elemOf h.ty = (n, k, sg)) (e : LaneEnv) (sat : Bool)
    (f : Nat → Int → Int → Int → Int) (l : Nat) {m : Nat} (hm : m < k) :
    elemAt n (intResult e h sat f l).1 m = narrowInt sg sat n (f n (elemInt sg n (e.val h.ty h.a l) m)
      (elemInt sg n (e.val h.ty h.b l) m) (elemInt sg n (e.val h.ty h.c l) m)) := by
  simp only [intResult, hty]
  rw [elemAt_packElems n (by rwa [List.length_map, length_upTo]), List.getElem_map, Nat.mod_eq_of_lt (narrowInt_lt ..),
    getElem_upTo, Nat.zero_add]

/-- An integer word that is ready writes its result (R145). -/
theorem LaneReady.laneInt_writes {s : State} {i : Instr} {p : Path} {b : Block} (hr : LaneReady s i p b) {h : LaneHead} {sat : Bool}
    {f : Nat → Int → Int → Int → Int} (hi : exec i s = .next (laneInt i h sat f s)) :
    LaneWrites s i p h.d (fun l => (intResult (s.env b p) h sat f l).1) :=
  hr.laneWrites hi fun _ _ => rfl

/-- A VDOT4 that is ready writes the sum of C and the four products, narrowed (R146). -/
theorem LaneReady.vdot4_writes {s : State} {p : Path} {b : Block} {h : LaneHead} {x : AuxA} (hr : LaneReady s (.vdot4 h x) p b)
    {sg : Bool} (hty : h.ty = if sg then .i8x4 else .n8x4) :
    let e := s.env b p
    let num (o : Operand) (l m : Nat) : Int := elemInt sg 8 (e.val h.ty o l) m
    LaneWrites s (.vdot4 h x) p h.d (fun l => narrowInt sg x.sat 32
      (elemInt sg 32 (e.val (if sg then .i32 else .n32) h.c l) 0 + num h.a l 0 * num h.b l 0 + num h.a l 1 * num h.b l 1
        + num h.a l 2 * num h.b l 2 + num h.a l 3 * num h.b l 3)) := by
  have hsg : (h.ty == .i8x4) = sg := by cases sg <;> rw [hty] <;> rfl
  subst hsg
  exact hr.laneWrites rfl fun _ _ => rfl

end Sys2Proof.Machine
end

section
open Sys2Proof Sys2Proof.Machine

/-- Settles O36: each word by its function of exact values, whose results the model narrows element by element. -/
theorem laneInteger : Obligations.LaneInteger := by
  intro s p b h x e
  split
  next n k sg hty =>
    intro lo hi num gives
    have hn : 0 < n := by simpa [hty] using elemOf_bits_pos h.ty
    have hnum (o : Operand) (l m : Nat) : elemInt sg n ((s.env b p).val h.ty o l) m = num o l m := elemInt_eq hn sg _ m
    have gives_of_laneInt {i : Instr} {sat : Bool} {f : Nat → Int → Int → Int → Int} {g : Int → Int → Int → Int}
        (hi : exec i s = .next (laneInt i h sat f s)) (hfg : ∀ a b c, f n a b c = g a b c) : gives i sat g := by
      refine fun hr => ⟨_, hr.laneInt_writes hi, fun l => ⟨intResult_lt hty _ sat f l, fun m hm => ?_⟩⟩
      rw [← ofNat_elemAt, elemAt_intResult hty _ sat f l hm, ofNat_narrowInt, hfg, hnum, hnum, hnum]
    clear_value gives
    refine ⟨?vadd, ?vsub, ?vmul, ?vmulh, ?vmad, ?vmin, ?vmax, ?vabs, ?vneg, fun s8 hs8 hr => ?vdot4⟩
    case vabs => exact gives_of_laneInt rfl fun a _ _ => Int.natCast_natAbs a
    case vadd | vsub | vmul | vmulh | vmad | vmin | vmax | vneg => exact gives_of_laneInt rfl fun _ _ _ => rfl
    case vdot4 =>
      obtain ⟨rfl, rfl, rfl⟩ : n = 8 ∧ k = 4 ∧ sg = s8 := by
        rw [hs8] at hty
        cases s8 <;> simpa [elemOf, eq_comm] using hty
      refine ⟨_, hr.vdot4_writes hs8, fun l => ⟨narrowInt_lt .., ?_⟩⟩
      rw [ofNat_narrowInt, elemInt_eq (by decide)]
      simp only [hnum, Nat.mul_zero, Nat.pow_zero, Nat.div_one]
      rfl
end

section
/-!
SUPPORT. The bitwise words, shifts, counts and fields (R147 to R150) as operations on bit vectors of the type's width.
-/

namespace Sys2Proof.Machine

variable {n : Nat}

/-! ### Shifts (R147, R148) -/

/-- VSHL keeps the low bits of the product (R148). -/
theorem toNat_shiftLeft_eq (x : BitVec n) (k : Nat) : x.toNat * 2 ^ k % 2 ^ n = (x <<< k).toNat := by
  rw [BitVec.toNat_shiftLeft, Nat.shiftLeft_eq]

/-- VSHR rounds the natural quotient down (R148). -/
theorem toNat_ushiftRight_eq (x : BitVec n) (k : Nat) : x.toNat / 2 ^ k = (x >>> k).toNat := by
  rw [BitVec.toNat_ushiftRight, Nat.shiftRight_eq_div_pow]

/-- VSRA rounds the signed quotient down (R148). -/
theorem toNat_sshiftRight_eq (hn : 0 < n) (x : BitVec n) (k : Nat) :
    (sextNat x.toNat n / 2 ^ k % 2 ^ n).toNat = (x.sshiftRight k).toNat := by
  rw [BitVec.sshiftRight, BitVec.toNat_ofInt, Int.shiftRight_eq_div_pow, sextNat_eq_toInt hn, BitVec.ofNat_toNat,
    BitVec.setWidth_eq, Nat.cast_pow, Nat.cast_pow]
  rfl

/-- VROL puts the low bits above the high bits (R148). -/
theorem toNat_rotateLeft_eq (x : BitVec n) {k : Nat} (hk : k < n) :
    x.toNat * 2 ^ k % 2 ^ n + x.toNat / 2 ^ (n - k) = (x.rotateLeft k).toNat := by
  have hpow : 2 ^ n = 2 ^ k * 2 ^ (n - k) := by rw [← Nat.pow_add, Nat.add_sub_cancel' hk.le]
  have hhigh : x.toNat / 2 ^ (n - k) < 2 ^ k :=
    Nat.div_lt_of_lt_mul (by rw [Nat.mul_comm, ← hpow]; exact x.isLt)
  have hlow : x.toNat * 2 ^ k % 2 ^ n = 2 ^ k * (x.toNat % 2 ^ (n - k)) := by
    rw [hpow, Nat.mul_comm, Nat.mul_mod_mul_left]
  rw [BitVec.toNat_rotateLeft, Nat.mod_eq_of_lt hk, Nat.shiftLeft_eq, Nat.shiftRight_eq_div_pow, hlow,
    Nat.two_pow_add_eq_or_of_lt hhigh]

/-! ### Counts (R149) -/

/-- The word of a count of bits holds the count. -/
theorem toNat_ofNat_count {c : Nat} (hc : c ≤ n) : c = (BitVec.ofNat n c).toNat := by
  rw [BitVec.toNat_ofNat, Nat.mod_eq_of_lt (hc.trans_lt Nat.lt_two_pow_self)]

/-- The places that VCLZ counts hold zeros (R149). -/
theorem getLsbD_of_clz {x : BitVec n} {j : Nat} (hj : n - clz x.toNat n ≤ j) : x.getLsbD j = false := by
  by_cases hjn : j < n
  · rw [← bitAt_toNat, bitAt_of_clz hj hjn]
  · exact BitVec.getLsbD_of_ge x j (Nat.le_of_not_lt hjn)

/-- Below the places that VCLZ counts stands a one (R149). -/
theorem getLsbD_below_clz {x : BitVec n} (h : clz x.toNat n < n) : x.getLsbD (n - 1 - clz x.toNat n) = true := by
  rw [← bitAt_toNat, bitAt_below_clz h]

/-- VPOPC counts the set bits (R149). -/
theorem popcount_toNat (x : BitVec n) : popcount x.toNat n = (List.range n).countP (fun j => x.getLsbD j) := by
  rw [popcount_eq_countP]
  exact List.countP_congr fun j _ => by rw [bitAt_toNat]

/-! ### Fields (R150) -/

/-- The field of VBFX: `w` bits from a place on, extended to the width. -/
def fieldOf (sg : Bool) (x : BitVec n) (pos w : Nat) : BitVec n :=
  if sg then (x.extractLsb' pos w).signExtend n else (x.extractLsb' pos w).setWidth n

/-- VBFX of a field in the word: what of it lies in the word, extended (R150). -/
theorem bitField_eq_toNat {wid pos : Nat} (hw : wid ≠ 0) (hpos : pos < n) (sg : Bool) (x : BitVec n) :
    bitField sg n x.toNat pos wid = (fieldOf sg x pos (min wid (n - pos))).toNat := by
  have hle : min wid (n - pos) ≤ n := by omega
  have hfield : x.toNat / 2 ^ pos % 2 ^ min wid (n - pos) = (x.extractLsb' pos (min wid (n - pos))).toNat := by
    rw [BitVec.extractLsb'_toNat, Nat.shiftRight_eq_div_pow]
  rw [bitField, if_neg (by omega), fieldOf]
  simp only [hfield]
  cases sg with
  | false => exact (BitVec.toNat_setWidth_of_le hle).symm
  | true =>
    rw [if_pos rfl, if_pos rfl, sextNat_eq_toInt (by omega), BitVec.ofNat_toNat, BitVec.setWidth_eq, BitVec.signExtend,
      BitVec.toNat_ofInt, Nat.cast_pow]
    rfl

/-- The bits of an extended field: its own below its width, its top bit or zeros above. -/
theorem getLsbD_fieldOf (sg : Bool) (x : BitVec n) {pos w j : Nat} (hw : 0 < w) (hj : j < n) :
    (fieldOf sg x pos w).getLsbD j = if j < w then x.getLsbD (pos + j) else sg && x.getLsbD (pos + w - 1) := by
  have htop : (x.extractLsb' pos w).msb = x.getLsbD (pos + w - 1) := by
    rw [BitVec.msb_eq_getLsbD_last, BitVec.getLsbD_extractLsb', Nat.add_sub_assoc hw]
    simp [hw]
  cases sg with
  | false => by_cases hjw : j < w <;> simp [fieldOf, hj, hjw]
  | true =>
    rw [fieldOf, if_pos rfl, BitVec.getLsbD_signExtend, htop, BitVec.getLsbD_extractLsb']
    by_cases hjw : j < w <;> simp [hj, hjw]

/-- The word that VBFX gives, bit by bit (R150). -/
theorem exists_toNat_eq_bitField (sg : Bool) (x : BitVec n) (pos wid : Nat) :
    ∃ v : BitVec n, bitField sg n x.toNat pos wid = v.toNat ∧ ∀ j, j < n → v.getLsbD j = (
      if wid = 0 ∨ n ≤ pos then false
      else if j < wid ∧ pos + j < n then x.getLsbD (pos + j) else sg && x.getLsbD (pos + min wid (n - pos) - 1)) := by
  by_cases hout : wid = 0 ∨ n ≤ pos
  · exact ⟨0, by rw [bitField, if_pos hout]; rfl, fun j _ => by rw [if_pos hout]; exact BitVec.getLsbD_zero⟩
  · obtain ⟨hw, hpos⟩ := not_or.1 hout
    refine ⟨_, bitField_eq_toNat hw (Nat.lt_of_not_le hpos) sg x, fun j hj => ?_⟩
    have hiff : j < min wid (n - pos) ↔ j < wid ∧ pos + j < n := by omega
    rw [if_neg hout, getLsbD_fieldOf sg x (by omega) hj]
    exact ite_congr (propext hiff) (fun _ => rfl) fun _ => rfl

/-- The bits of a number with a field replaced (R150). -/
theorem testBit_bitInsert (n a b pos wid j : Nat) : (bitInsert n a b pos wid).testBit j
    = if pos ≤ j ∧ j < pos + min wid (n - pos) then b.testBit (j - pos) else a.testBit j := by
  by_cases hout : wid = 0 ∨ n ≤ pos
  · rw [bitInsert, if_pos hout, if_neg (by omega)]
  · generalize hw : min wid (n - pos) = w
    have hparts : bitInsert n a b pos wid = 2 ^ pos * (2 ^ w * (a / 2 ^ (pos + w)) + b % 2 ^ w) + a % 2 ^ pos := by
      rw [bitInsert, if_neg hout]
      simp only [hw]
      ring
    have hlow : a % 2 ^ pos < 2 ^ pos := Nat.mod_lt _ (Nat.two_pow_pos pos)
    have hfield : b % 2 ^ w < 2 ^ w := Nat.mod_lt _ (Nat.two_pow_pos w)
    rw [hparts, Nat.testBit_two_pow_mul_add _ hlow, Nat.testBit_two_pow_mul_add _ hfield, Nat.testBit_mod_two_pow,
      Nat.testBit_mod_two_pow, Nat.testBit_div_two_pow]
    rcases Nat.lt_or_ge j pos with hj | hj
    · simp [hj, hj.not_ge]
    · rcases Nat.lt_or_ge j (pos + w) with hjw | hjw
      · have hjp : j - pos < w := by omega
        simp [hj, hj.not_gt, hjw, hjp]
      · have hjp : ¬ j - pos < w := by omega
        have hplace : j - pos - w + (pos + w) = j := by omega
        simp [hj.not_gt, hjw.not_gt, hjp, hplace]

/-- VBFI of words is a word (R150). -/
theorem bitInsert_lt (x y : BitVec n) (pos wid : Nat) : bitInsert n x.toNat y.toNat pos wid < 2 ^ n := by
  refine Nat.lt_pow_two_of_testBit _ fun j hj => ?_
  rw [testBit_bitInsert, if_neg (by omega)]
  exact BitVec.testBit_toNat x ▸ BitVec.getLsbD_of_ge x j hj

/-- The word that VBFI gives, bit by bit (R150). -/
theorem exists_toNat_eq_bitInsert (x y : BitVec n) (pos wid : Nat) :
    ∃ v : BitVec n, bitInsert n x.toNat y.toNat pos wid = v.toNat ∧ ∀ j, j < n →
      v.getLsbD j = if pos ≤ j ∧ j < pos + wid then y.getLsbD (j - pos) else x.getLsbD j := by
  refine ⟨BitVec.ofNatLT _ (bitInsert_lt x y pos wid), rfl, fun j hj => ?_⟩
  have hiff : pos ≤ j ∧ j < pos + min wid (n - pos) ↔ pos ≤ j ∧ j < pos + wid := by omega
  rw [← BitVec.testBit_toNat, BitVec.toNat_ofNatLT, testBit_bitInsert, BitVec.testBit_toNat, BitVec.testBit_toNat]
  exact ite_congr (propext hiff) (fun _ => rfl) fun _ => rfl

/-! ### What a word leaves -/

/-- A word that is ready whose result in each active lane is the number of some word of `n` bits leaves these words. -/
theorem LaneReady.exists_words {s : State} {i : Instr} {p : Path} {b : Block} (hr : LaneReady s i p b) {cls k : Nat} {d : Operand}
    {f : LaneEnv → Nat → Nat × Flags5} (hi : exec i s = .next (s.laneResult i cls k d f)) {P : Nat → BitVec n → Prop}
    (hP : ∀ l ∈ s.lanesOn p i, ∃ v : BitVec n, f (s.env b p) l = (v.toNat, 0) ∧ P l v) :
    ∃ v : Nat → BitVec n, LaneWrites s i p d (fun l => (v l).toNat) ∧ ∀ l ∈ s.lanesOn p i, P l (v l) := by
  choose! v hv using hP
  exact ⟨v, hr.laneWrites hi fun l hl => (hv l hl).1, fun l hl => (hv l hl).2⟩

end Sys2Proof.Machine
end

section
open Sys2Proof Sys2Proof.Machine

/-- Settles O37: the sources are the numbers of words, and each result is that of the operation on words its clause names. -/
theorem laneBits : Obligations.LaneBits := by
  intro s p b h e n x y cb cc gives
  have hn : 0 < n := elemOf_bits_pos h.ty
  have gives_of_word {i : Instr} {f : LaneEnv → Nat → Nat} {P : (l : Nat) → BitVec n → Prop}
      (hi : exec i s = .next (s.laneResult i 8 1 h.d fun e l => (f e l, 0)))
      (hP : ∀ l, (s.env b p).val h.ty h.a l = (x l).toNat → (s.env b p).val h.ty h.b l = (y l).toNat →
        ∃ v : BitVec n, f (s.env b p) l = v.toNat ∧ P l v) : gives i P := by
    refine fun hr hab => hr.exists_words hi fun l hl => ?_
    obtain ⟨ha, hb⟩ := hab l hl
    obtain ⟨v, hv, hPv⟩ := hP l (Nat.mod_eq_of_lt ha).symm (Nat.mod_eq_of_lt hb).symm
    exact ⟨v, congrArg (·, 0) hv, hPv⟩
  clear_value gives
  refine ⟨?vand, ?vor, ?vxor, ?vnot, ?vshl, ?vshr, ?vsra, ?vrol, ?vclz, ?vpopc, ?vbfx, ?vbfi⟩
  case vand => exact gives_of_word rfl fun l ha hb => ⟨_, by rw [ha, hb, BitVec.toNat_and], rfl⟩
  case vor => exact gives_of_word rfl fun l ha hb => ⟨_, by rw [ha, hb, BitVec.toNat_or], rfl⟩
  case vxor => exact gives_of_word rfl fun l ha hb => ⟨_, by rw [ha, hb, BitVec.toNat_xor], rfl⟩
  case vnot => exact gives_of_word rfl fun l ha _ => ⟨_, by rw [ha, BitVec.toNat_not], rfl⟩
  case vshl => exact gives_of_word rfl fun l ha _ => ⟨_, by rw [ha]; exact toNat_shiftLeft_eq _ _, rfl⟩
  case vshr => exact gives_of_word rfl fun l ha _ => ⟨_, by rw [ha]; exact toNat_ushiftRight_eq _ _, rfl⟩
  case vsra => exact gives_of_word rfl fun l ha _ => ⟨_, by rw [ha]; exact toNat_sshiftRight_eq hn _ _, rfl⟩
  case vrol => exact gives_of_word rfl fun l ha _ => ⟨_, by rw [ha]; exact toNat_rotateLeft_eq _ (Nat.mod_lt _ hn), rfl⟩
  case vclz =>
    refine gives_of_word rfl fun l ha _ => ⟨BitVec.ofNat n (clz (x l).toNat n), ?_, ?_⟩
    · rw [ha]
      exact toNat_ofNat_count (clz_le _ n)
    · rw [← toNat_ofNat_count (clz_le _ n)]
      exact ⟨clz_le _ n, fun j => getLsbD_of_clz, getLsbD_below_clz⟩
  case vpopc =>
    refine gives_of_word rfl fun l ha _ => ⟨BitVec.ofNat n (popcount (x l).toNat n), ?_, ?_⟩
    · rw [ha]
      exact toNat_ofNat_count (popcount_le _ n)
    · rw [← toNat_ofNat_count (popcount_le _ n)]
      exact popcount_toNat (x l)
  case vbfx =>
    refine gives_of_word rfl fun l ha _ => ?_
    obtain ⟨v, hv, hbits⟩ := exists_toNat_eq_bitField (elemOf h.ty).2.2 (x l) (cb l) (cc l)
    exact ⟨v, by rw [ha]; exact hv, hbits⟩
  case vbfi =>
    refine gives_of_word rfl fun l ha hb => ?_
    obtain ⟨v, hv, hbits⟩ := exists_toNat_eq_bitInsert (x l) (y l) (cc l % 256) (cc l / 256 % 256)
    exact ⟨v, by rw [ha, hb]; exact hv, hbits⟩
end

section
/-!
SUPPORT. Comparison, selection, predicates and moves (R151 to R154).
-/

namespace Sys2Proof.Machine

/-! ### Predicates (R102) -/

/-- Every predicate has a bit of its own among the stored ones (R102). -/
theorem getLsbD_bit (k m : Bit3) : (BitVec.ofNat 8 (2 ^ k.toNat)).getLsbD m.toNat = decide (m = k) := by
  have hk : k.toNat < 8 := Nat.lt_of_lt_of_le k.isLt (by decide)
  have hpow : BitVec.ofNat 8 (2 ^ k.toNat) = BitVec.twoPow 8 k.toNat :=
    BitVec.eq_of_toNat_eq (by rw [BitVec.toNat_ofNat, BitVec.toNat_twoPow])
  rw [hpow, BitVec.getLsbD_twoPow, decide_eq_true hk, Bool.true_and]
  exact decide_eq_decide.2 (BitVec.toNat_inj.trans eq_comm)

/-- What a predicate reads after a write to one (R102). -/
theorem Lane.pred_setPred (y : Lane) (k m : Bit3) (v : Bool) :
    (y.setPred k v).pred m = if m = 7 then true else if m = k then v else y.pred m := by
  by_cases hm : m = 7
  · simp [Lane.pred, hm]
  · rw [if_neg hm, Lane.pred, Lane.pred, beq_eq_false_iff_ne.2 hm, Bool.false_or, Bool.false_or, Lane.setPred]
    by_cases hk : k = 7
    · rw [if_pos hk, if_neg (fun hmk => hm (hmk.trans hk))]
    · have hm8 : m.toNat < 8 := Nat.lt_of_lt_of_le m.isLt (by decide)
      have hnew : (if v then BitVec.ofNat 8 (2 ^ k.toNat) else 0).getLsbD m.toNat = (v && decide (m = k)) := by
        cases v with
        | false => exact BitVec.getLsbD_zero
        | true => exact getLsbD_bit k m
      rw [if_neg hk, BitVec.getLsbD_or, BitVec.getLsbD_and, BitVec.getLsbD_not, getLsbD_bit, hnew]
      by_cases hmk : m = k <;> simp [hmk, hm8]

/-- A write to a predicate changes nothing but the predicates (R102). -/
theorem Lane.setPred_frame (y : Lane) (k : Bit3) (v : Bool) : { y.setPred k v with preds := y.preds } = y := by
  rw [Lane.setPred]
  split <;> rfl

/-- A predicate as a number. -/
theorem b2n_eq_toNat : b2n = Bool.toNat := funext fun v => by cases v <;> rfl

/-! ### Comparison (R151) -/

/-- A condition on two words is tested by their readings (R39, R151). -/
theorem condInt_iff {n : Nat} (k : Cond) (x y : BitVec n) :
    condInt k x.toInt y.toInt x.toNat y.toNat = true ↔ condHolds k x y := by
  cases k <;> simp [condInt, condHolds, BitVec.toNat_inj]

/-- A condition on two floating values is tested by their order, if they have one (R151). -/
theorem condFloat_iff (k : Cond) (x y : FV) : condFloat k x y = true ↔
    match FV.cmp x y with
    | none => k = .ne ∨ k = .unord
    | some o => (k = .eq ∧ o = 1) ∨ (k = .ne ∧ o ≠ 1) ∨ (k = .lt ∧ o = 0) ∨ (k = .le ∧ o ≠ 2)
        ∨ (k = .gt ∧ o = 2) ∨ (k = .ge ∧ o ≠ 0) ∨ k = .ord := by
  rw [condFloat]
  cases FV.cmp x y with
  | none => simp
  | some o => cases k <;> simp

variable {t : LType} {n c : Nat} {sg : Bool}

/-- A comparison on an integer type holds where it holds of every element (R151). -/
theorem compareOf_int_iff (hty : elemOf t = (n, c, sg)) (hfmt : fmtOf t = none) (k : Cond) (ftz : Bool) (a b : Nat) :
    compareOf t k ftz a b = true ↔
      ∀ m, m < c → condHolds k (BitVec.ofNat n (a / 2 ^ (n * m))) (BitVec.ofNat n (b / 2 ^ (n * m))) := by
  have hn : 0 < n := by simpa [hty] using elemOf_bits_pos t
  simp only [compareOf, hty, hfmt, List.all_eq_true, mem_upTo, Nat.zero_le, true_and, Nat.zero_add, elemInt_eq hn, if_true,
    elemAt_eq_toNat, condInt_iff]

/-- A comparison on a floating type holds where it holds of the values of every element, as FTZ reads them (R151). -/
theorem compareOf_float_iff (hty : elemOf t = (n, c, sg)) {f : Fmt} (hfmt : fmtOf t = some f) (k : Cond) (ftz : Bool)
    (a b : Nat) : compareOf t k ftz a b = true ↔
      ∀ m, m < c → condFloat k (f.ftzIn ftz (f.value (elemAt n a m))) (f.ftzIn ftz (f.value (elemAt n b m))) = true := by
  simp only [compareOf, hty, hfmt, List.all_eq_true, mem_upTo, Nat.zero_le, true_and, Nat.zero_add]

end Sys2Proof.Machine
end

section
open Sys2Proof Sys2Proof.Machine

/-- Settles O38: VCMP by the comparison of its elements, the other words by what they write in each lane. -/
theorem laneMoves : Obligations.LaneMoves := by
  intro s p b h x g t d w e lane A B preds
  refine ⟨fun hr => ⟨_, hr.swept rfl, fun l => ?vcmp⟩, fun hr => ?plop, fun hr => ?vsel, fun hr => ?vmov, fun hr => ?vli,
    fun y k m v => ⟨y.pred_setPred k m v, y.setPred_frame k v⟩⟩
  case vcmp =>
    split
    next n k sg hty =>
      refine ⟨fun hfmt => compareOf_int_iff hty hfmt _ _ _ _, fun f hfmt => ?_⟩
      refine (compareOf_float_iff hty hfmt _ _ _ _).trans (forall₂_congr fun m hm => ?_)
      exact condFloat_iff _ _ _
  case plop =>
    have hswept := hr.swept rfl
    rw [b2n_eq_toNat] at hswept
    exact hswept
  case vsel =>
    refine hr.laneWrites rfl fun l _ => ?_
    exact congrArg (·, 0) (apply_ite (fun o => (s.env b p).val h.ty o l) _ h.a h.b)
  case vmov => exact hr.laneWrites rfl fun _ _ => rfl
  case vli => exact hr.laneWrites rfl fun _ _ => rfl
end

section
/-!
SUPPORT. Decoding an encoding gives the instruction back: scalar words (R36 to R42, R300), lane words (R111 to R117) and
Sumac words (R399, R407).
-/

namespace Sys2Proof

/-! ### Scalar words -/

/-- A field that spans the two lowest parts of a concatenation. -/
theorem extractLsb'_append_pair {n m p : Nat} (a : BitVec n) (b : BitVec m) (c : BitVec p) :
    ((a ++ b) ++ c).extractLsb' 0 (m + p) = b ++ c := by
  apply BitVec.eq_of_getLsbD_eq
  intro i hi
  simp only [BitVec.getLsbD_extractLsb', BitVec.getLsbD_append, Nat.zero_add, hi, decide_true, Bool.true_and]
  split
  · rfl
  · rw [if_pos (by omega)]

theorem LoopReg.ofNumber_number (r : LoopReg) : LoopReg.ofNumber r.number = r := by
  cases r with
  | ls n | le n | lc n => revert n; decide
  | lstat => rfl

/-- A register with a row of its own is written by that row (R62). -/
theorem swrForm_number (a : Reg) (r : LoopReg) : swrForm a r.number = .loopRegisterWrite a r := by
  have hrow : swrForm a r.number = .loopRegisterWrite a (LoopReg.ofNumber r.number) := by
    have hcond : r.number ≠ 0x020 ∧ r.number ≠ 0x022 ∧ r.number ≠ 0x023 ∧ r.number ≠ 0x030 ∧ 0x070 ≤ r.number.toNat
        ∧ r.number.toNat ≤ 0x07C := by
      cases r with
      | ls n | le n | lc n => revert n; decide
      | lstat => decide
    obtain ⟨h1, h2, h3, h4, h5⟩ := hcond
    simp only [swrForm, h1, h2, h3, h4, h5, and_self, if_false, if_true]
  rw [hrow, LoopReg.ofNumber_number]

/-- A register without a row of its own is written by SWR (R62). -/
theorem swrForm_of_wf {a : Reg} {n : BitVec 12} (h : wf (.swr a n) = true) : swrForm a n = .swr a n := by
  simp only [wf, Bool.not_eq_true', Bool.or_eq_false_iff, Bool.and_eq_false_imp, decide_eq_true_eq, beq_eq_false_iff_ne, bne_eq_false_iff_eq, decide_eq_false_iff_not] at h
  obtain ⟨⟨h1, h2⟩, h3⟩ := h
  have hne : n ≠ 0x020 ∧ n ≠ 0x022 ∧ n ≠ 0x023 := by
    refine ⟨?_, ?_, ?_⟩ <;> rintro rfl <;> simp at h1
  obtain ⟨h4, h5, h6⟩ := hne
  simp only [swrForm, h4, h5, h6, h2, if_false]
  rw [if_neg fun hn => h3 hn.1 hn.2]

/-- WHICH of TWAIT (R300). -/
def WaitSel.toBits : WaitSel → BitVec 2 | .matrix => 1 | .mover => 2 | .both => 3
/-- SCOPE of BARX (R300). -/
def BarScope.toBits : BarScope → BitVec 3 | .sett => 4 | .package => 5 | .domain => 6
/-- SIZE of PGMAP (R68). -/
def PageSize.toBits : PageSize → BitVec 2 | .k64 => 0 | .m2 => 1 | .g1 => 2

theorem encodeScalar_twait (d : Reg) (sel : WaitSel) :
    encodeScalar (.twait d sel) = some (0x69#7 ++ d ++ 0#6 ++ 0#11 ++ WaitSel.toBits sel) := by cases sel <;> rfl

theorem encodeScalar_barx (a : Reg) (scope : BarScope) :
    encodeScalar (.barx a scope) = some (0x74#7 ++ a ++ 0#6 ++ 0#10 ++ BarScope.toBits scope) := by cases scope <;> rfl

theorem encodeScalar_pgmap (a b : Reg) (x w r : Bool) (key : BitVec 5) (size : PageSize) :
    encodeScalar (.pgmap a b x w r key size)
      = some (0x7D#7 ++ a ++ b ++ 0#3 ++ bit1 x ++ bit1 w ++ bit1 r ++ key ++ PageSize.toBits size) := by cases size <;> rfl

/-- A scalar word reads back, its static checks apart (R36 to R42): the opcode picks its row, and the row finds each operand in
the field that the encoder put it in. -/
theorem decodeScalarRaw_encodeScalar {i : Instr} {w : BitVec 32} (hwf : wf i = true) (h : encodeScalar i = some w) :
    decodeScalarRaw w = .ok i := by
  rw [decodeScalarRaw]
  generalize hop : (w.extractLsb' 25 7).toNat = op
  cases i
  case' twait d sel => rw [encodeScalar_twait] at h
  case' barx a scope => rw [encodeScalar_barx] at h
  case' pgmap a b x w r key size => rw [encodeScalar_pgmap] at h
  all_goals cases h
  all_goals
    simp (disch := decide) only [encSr, encSi, encSu, extractLsb'_append_high, Nat.sub_self, Nat.reduceSub,
      extractLsb'_whole, BitVec.reduceToNat] at hop
    subst hop
  case cntwait | cntwaitNowait | enres | enresNowait =>
    refine (?_ : (if (BitVec.extractLsb' 0 1 _ == (1 : BitVec 1)) = true then _ else _ : Except DecodeError Instr) = _)
    simp (disch := decide) only [encSi, extractLsb'_append_high, extractLsb'_append_low, Nat.sub_self, Nat.reduceSub,
      extractLsb'_whole]
    rfl
  all_goals
    refine (?_ : (id _ : Except DecodeError Instr) = _)
    simp (disch := decide) only [encSr, encSi, encSu, extractLsb'_append_high, extractLsb'_append_low, Nat.sub_self, Nat.reduceSub,
      extractLsb'_whole, bit1_eq_one, AtomOp.ofCode_toBits, Ordering4.ofBits_toBits, id]
  case scmp k c a b =>
    have hcode : (0x13#7 ++ 0#3 ++ c ++ a ++ b ++ 0#3 ++ k.toBits4).extractLsb' 0 7 = 0#3 ++ k.toBits4 :=
      extractLsb'_append_pair _ _ _
    rw [hcode]
    cases k <;> rfl
  case scmpi k c a imm =>
    have hk : k.code ≤ 7 := of_decide_eq_true hwf
    cases k with
    | unord | ord | gtn | gen => exact absurd hk (by decide)
    | _ => rfl
  case swr a n => exact congrArg _ (swrForm_of_wf hwf)
  case loopRegisterWrite a r => exact congrArg _ (swrForm_number a r)
  case twait => cases sel <;> rfl
  case barx => cases scope <;> rfl
  case pgmap => cases size <;> rfl
  all_goals rfl

/-! ### Lane words -/

section
variable {op : BitVec 10} {h : LaneHead}

theorem decodeLaneRaw_of_form_bare {f : LaneHead → Instr} (hform : laneForm op.toNat = some (.bare f)) (hg : h.g.ok = true) :
    decodeLaneRaw (encLane op h 0) = .ok (f h) := by
  obtain ⟨hop, hty, hgd, hd, ha, hb, hc, haux⟩ := encLane_fields op h 0
  simp only [decodeLaneRaw, hop, hty, hgd, hd, ha, hb, hc, haux, hform, LType.ofCode_toBits, Guard.ofBits_toBits,
    Operand.ofBits_toBits, hg, if_true, auxZero]

theorem decodeLaneRaw_of_form_a {f : LaneHead → AuxA → Instr} (x : AuxA) (hform : laneForm op.toNat = some (.a f))
    (hg : h.g.ok = true) : decodeLaneRaw (encLane op h x.toBits) = .ok (f h x) := by
  obtain ⟨hop, hty, hgd, hd, ha, hb, hc, haux⟩ := encLane_fields op h x.toBits
  simp only [decodeLaneRaw, hop, hty, hgd, hd, ha, hb, hc, haux, hform, LType.ofCode_toBits, Guard.ofBits_toBits,
    Operand.ofBits_toBits, hg, if_true, withAux, AuxA.ofBits_toBits]

theorem decodeLaneRaw_of_form_c {f : LaneHead → AuxC → Instr} (x : AuxC) (hform : laneForm op.toNat = some (.c f))
    (hg : h.g.ok = true) : decodeLaneRaw (encLane op h x.toBits) = .ok (f h x) := by
  obtain ⟨hop, hty, hgd, hd, ha, hb, hc, haux⟩ := encLane_fields op h x.toBits
  simp only [decodeLaneRaw, hop, hty, hgd, hd, ha, hb, hc, haux, hform, LType.ofCode_toBits, Guard.ofBits_toBits,
    Operand.ofBits_toBits, hg, if_true, withAux, AuxC.ofBits_toBits]

theorem decodeLaneRaw_of_form_m {f : LaneHead → AuxM → Instr} (x : AuxM) (hform : laneForm op.toNat = some (.m f))
    (hg : h.g.ok = true) (hn : x.narrow ≠ 3) : decodeLaneRaw (encLane op h x.toBits) = .ok (f h x) := by
  obtain ⟨hop, hty, hgd, hd, ha, hb, hc, haux⟩ := encLane_fields op h x.toBits
  simp only [decodeLaneRaw, hop, hty, hgd, hd, ha, hb, hc, haux, hform, LType.ofCode_toBits, Guard.ofBits_toBits,
    Operand.ofBits_toBits, hg, if_true, withAux, AuxM.ofBits_toBits x hn]

theorem decodeLaneRaw_of_form_x {f : LaneHead → AuxX → Instr} (x : AuxX) (hform : laneForm op.toNat = some (.x f))
    (hg : h.g.ok = true) : decodeLaneRaw (encLane op h x.toBits) = .ok (f h x) := by
  obtain ⟨hop, hty, hgd, hd, ha, hb, hc, haux⟩ := encLane_fields op h x.toBits
  simp only [decodeLaneRaw, hop, hty, hgd, hd, ha, hb, hc, haux, hform, LType.ofCode_toBits, Guard.ofBits_toBits,
    Operand.ofBits_toBits, hg, if_true, withAux, AuxX.ofBits_toBits]

theorem decodeLaneRaw_of_form_b {f : LaneHead → AuxB → Instr} (x : AuxB) (hform : laneForm op.toNat = some (.b f))
    (hg : h.g.ok = true) : decodeLaneRaw (encLane op h x.toBits) = .ok (f h x) := by
  obtain ⟨hop, hty, hgd, hd, ha, hb, hc, haux⟩ := encLane_fields op h x.toBits
  simp only [decodeLaneRaw, hop, hty, hgd, hd, ha, hb, hc, haux, hform, LType.ofCode_toBits, Guard.ofBits_toBits,
    Operand.ofBits_toBits, hg, if_true, withAux, AuxB.ofBits_toBits]

end

theorem decodeLaneRaw_vli {g : Guard} (t : LType) (d : Operand) (imm : BitVec 32) (hg : g.ok = true) :
    decodeLaneRaw (encLong 0x044 t g d imm 0) = .ok (.vli g t d imm) := by
  obtain ⟨hop, hty, hgd, hd, himm, hz, haux⟩ := encLong_fields 0x044 t g d imm 0
  have hform : laneForm (BitVec.toNat (0x044 : BitVec 10)) = some .vli := rfl
  simp only [decodeLaneRaw, hop, hty, hgd, hd, himm, hz, haux, hform, LType.ofCode_toBits, Guard.ofBits_toBits,
    Operand.ofBits_toBits, hg, if_true, auxZero]
  rfl

theorem decodeLaneRaw_bra {g : Guard} (target : BitVec 32) (d : Operand) (x : AuxB) (hg : g.ok = true) :
    decodeLaneRaw (encLong 0x0C0 .i32 g d target x.toBits) = .ok (.bra g target d x) := by
  obtain ⟨hop, hty, hgd, hd, himm, hz, haux⟩ := encLong_fields 0x0C0 .i32 g d target x.toBits
  have hform : laneForm (BitVec.toNat (0x0C0 : BitVec 10)) = some .bra := rfl
  simp only [decodeLaneRaw, hop, hty, hgd, hd, himm, hz, haux, hform, LType.ofCode_toBits, Guard.ofBits_toBits,
    Operand.ofBits_toBits, hg, if_true, withAux, AuxB.ofBits_toBits]
  rfl

theorem guard_ok_of_wf {i : Instr} {h : LaneHead} (hwf : wf i = true) (hh : Machine.laneHead i = some h) : h.g.ok = true := by
  cases i <;> cases hh
  case vcvt x =>
    simp only [wf, cvtOk] at hwf
    split at hwf
    · cases hwf
    · simp only [Bool.and_eq_true] at hwf; simp only [hwf]
  case vpack x | vunpk x =>
    simp only [wf, packOk] at hwf
    split at hwf
    · cases hwf
    · split at hwf
      · cases hwf
      · simp only [Bool.and_eq_true] at hwf; simp only [hwf]
  all_goals
    simp only [wf, ops, bare, Bool.and_eq_true] at hwf
    simp only [hwf]

theorem narrow_ne_three_of_only {x : AuxM} {aop cache ord scope off : Bool} (h : x.only false aop cache ord scope off = true) :
    x.narrow ≠ 3 := by
  simp only [AuxM.only, Bool.and_eq_true, Bool.false_or, beq_iff_eq] at h
  obtain ⟨⟨⟨⟨⟨hz, _⟩, _⟩, _⟩, _⟩, _⟩ := h
  rw [hz]
  decide

theorem narrow_ne_three_of_narrowOk {t : LType} {n : BitVec 2} (h : narrowOk t n = true) : n ≠ 3 := by
  rintro rfl
  cases t <;> cases h

theorem decodeLaneRaw_encodeLane {i : Instr} {w : BitVec 96} (hwf : wf i = true) (h : encodeLane i = some w) :
    decodeLaneRaw w = .ok i := by
  have hg := fun h => guard_ok_of_wf (h := h) hwf
  cases i <;> cases h
  case vli g t d imm => exact decodeLaneRaw_vli t d imm (hg _ rfl)
  case bra g target d x => exact decodeLaneRaw_bra target d x (hg _ rfl)
  case vadd h x | vsub h x | vmul h x | vmad h x | vabs h x | vneg h x | vdot4 h x | vfadd h x | vfsub h x | vfmul h x
    | vfma h x | vfdiv h x | vfsqrt h x | vfrnd h x | vfsgn h x | vcvt h x | vpack h x | vunpk h x =>
    exact decodeLaneRaw_of_form_a x rfl (hg h rfl)
  case vcmp h x | vsel h x | plop h x => exact decodeLaneRaw_of_form_c x rfl (hg h rfl)
  case vshfl h x | vbcast h x | vreduce h x | vscan h x | vvote h x | bar h x =>
    exact decodeLaneRaw_of_form_x x rfl (hg h rfl)
  case brx h x | skip h x | ltrap h x => exact decodeLaneRaw_of_form_b x rfl (hg h rfl)
  case vld h x | vst h x =>
    refine decodeLaneRaw_of_form_m x rfl (hg h rfl) (narrow_ne_three_of_narrowOk (t := h.ty) ?_)
    simp only [wf, Bool.and_eq_true] at hwf
    simp only [hwf]
  case vatom h x | fence h x =>
    simp only [wf, Bool.and_eq_true] at hwf
    obtain ⟨⟨_, honly⟩, _⟩ := hwf
    exact decodeLaneRaw_of_form_m x rfl (hg h rfl) (narrow_ne_three_of_only honly)
  case vcas h x | vpref h x | fld h x | fst h x =>
    simp only [wf, Bool.and_eq_true] at hwf
    obtain ⟨_, honly⟩ := hwf
    exact decodeLaneRaw_of_form_m x rfl (hg h rfl) (narrow_ne_three_of_only honly)
  all_goals exact decodeLaneRaw_of_form_bare rfl (hg _ rfl)

/-! ### Sumac words -/

theorem decodeSumacRaw_encodeSumac {i : Instr} {w : BitVec 32} (hwf : wf i = true) (h : encodeSumac i = some w) :
    decodeSumacRaw w = .ok i := by
  rw [decodeSumacRaw]
  generalize hop : (w.extractLsb' 26 6).toNat = op
  cases i
  all_goals cases h
  all_goals
    simp (disch := decide) only [encXr, encXi, encK, extractLsb'_append_high, Nat.sub_self, Nat.reduceSub,
      extractLsb'_whole, BitVec.reduceToNat] at hop
    subst hop
    simp (disch := decide) only [sumacAlu, sumacK, encXr, encXi, encK, extractLsb'_append_high, extractLsb'_append_low, Nat.sub_self, Nat.reduceSub,
      extractLsb'_whole, bit1_eq_one, KType.ofCode_toBits, KFmt.ofCode_toBits, XCond.ofCode_toBits]
  all_goals rfl
/-! ### Bytes in memory order (R9) -/

/-- The little-endian bytes of a word give the word back. -/
theorem ofNat_natOf_bytesOf {n k : Nat} (w : BitVec n) (hn : n = 8 * k) : BitVec.ofNat n (natOf (bytesOf k w.toNat)) = w := by
  subst hn
  have hpow : (256 : Nat) ^ k = 2 ^ (8 * k) := by rw [Nat.pow_mul]
  rw [Machine.natOf_bytesOf, hpow, Nat.mod_eq_of_lt w.isLt, BitVec.ofNat_toNat, BitVec.setWidth_eq]

/-- A scalar instruction reads back from the bytes of its word. -/
theorem decodeTableWord_of_decodeScalar {i : Instr} {w : BitVec 32} (h : decodeScalar w = .ok i) :
    decodeTableWord 32 w.toNat = some i := by
  show decodeBytes (bytesOf 4 w.toNat) = some i
  simp only [decodeBytes, Machine.length_bytesOf, ofNat_natOf_bytesOf w (k := 4) rfl, h]

/-- A lane instruction reads back from the bytes of its word. -/
theorem decodeTableWord_of_decodeLane {i : Instr} {w : BitVec 96} (h : decodeLane w = .ok i) :
    decodeTableWord 96 w.toNat = some i := by
  show decodeBytes (bytesOf 12 w.toNat) = some i
  simp only [decodeBytes, Machine.length_bytesOf, ofNat_natOf_bytesOf w (k := 12) rfl, h]
  rfl

/-- An instruction that passes the static checks is what its decoder answers. -/
theorem checked_ok {i : Instr} (h : wf i = true) : checked (.ok i) = .ok i := if_pos h

end Sys2Proof
end

section
open Sys2Proof

/-- Settles O56, set by set: each field is read back, and a well-formed instruction passes the static checks. -/
theorem encodingRoundTrip : Obligations.EncodingRoundTrip := by
  intro i hwf
  refine ⟨fun w h => ?scalar, fun w h => ?lane, fun w h => ?sumac⟩
  case scalar =>
    have hdec : decodeScalar w = .ok i := by rw [decodeScalar, decodeScalarRaw_encodeScalar hwf h, checked_ok hwf]
    exact ⟨hdec, decodeTableWord_of_decodeScalar hdec⟩
  case lane =>
    have hdec : decodeLane w = .ok i := by rw [decodeLane, decodeLaneRaw_encodeLane hwf h, checked_ok hwf]
    exact ⟨hdec, decodeTableWord_of_decodeLane hdec⟩
  case sumac => rw [decodeSumac, decodeSumacRaw_encodeSumac hwf h, checked_ok hwf]

/-- Settles O57: each word is decoded. -/
theorem decodeWords : Obligations.DecodeWords := by
  unfold Obligations.DecodeWords
  decide +kernel
end

section
/-!
SUPPORT. What the completion of a scalar instruction leaves: the registers after a write to one, and the end check of
the loop levels (R13, R14, R28).
-/

namespace Sys2Proof.Machine

/-! ### Registers after a write (R13) -/

/-- The register written reads the value, s0 zero. -/
theorem Team.s_setS_same (t : Team) (d : Reg) (x : Word) : (t.setS d x).s d = if d = 0 then 0 else x := by
  unfold Team.s Team.setS
  split
  · rfl
  · exact Vector.getElem_set_self _

/-- Another register reads as before. -/
theorem Team.s_setS_other (t : Team) {d r : Reg} (x : Word) (h : r ≠ d) : (t.setS d x).s r = t.s r := by
  have hne : d.toNat ≠ r.toNat := fun he => h (BitVec.eq_of_toNat_eq he.symm)
  unfold Team.s Team.setS
  by_cases hd : d = 0
  · rw [if_pos hd]
  · rw [if_neg hd, Vector.getElem_set_ne _ _ hne]

/-- A write to a register changes nothing but the registers. -/
theorem Team.setS_eq (t : Team) (d : Reg) (x : Word) : ∃ sregs, t.setS d x = { t with sregs := sregs } := by
  rw [Team.setS]
  split
  · exact ⟨t.sregs, rfl⟩
  · exact ⟨_, rfl⟩

/-- Completion reads no register. -/
@[simp] theorem Team.s_advance (t : Team) (n : Nat) (r : Reg) : (t.advance n).s r = t.s r := by
  rw [Team.s, Team.s, Team.advance_sregs]

/-! ### The end check (R28) -/

/-- The level ends at an address: it is armed, and its end stands there. -/
def Team.endsAt (t : Team) (a : Word) (k : BitVec 2) : Prop := t.armed.getLsbD k.toNat = true ∧ t.le[k.toNat] = a

/-- The levels from the highest on: those above one, itself, and those below it. -/
theorem levels_eq (k : BitVec 2) :
    ([3, 2, 1, 0] : List (BitVec 2)) = [3, 2, 1, 0].filter (k < ·) ++ k :: [3, 2, 1, 0].filter (· < k) := by
  revert k
  decide

/-- A level that does not end there hands the check on. -/
theorem endLevels_cons_of_not_ends {t : Team} {a : Word} {k : BitVec 2} (h : ¬ t.endsAt a k) (ks : List (BitVec 2)) :
    endLevels a (k :: ks) t = endLevels a ks t := by
  rw [endLevels, if_neg]
  simpa [Team.endsAt] using h

/-- A level that ends there is done at a count of at most 1 and otherwise loops back. -/
theorem endLevels_cons_of_ends {t : Team} {a : Word} {k : BitVec 2} (h : t.endsAt a k) (ks : List (BitVec 2)) :
    endLevels a (k :: ks) t = if t.lc[k.toNat].toNat ≤ 1 then
        endLevels a ks { t with lc := t.lc.set k.toNat 0, armed := t.armed &&& ~~~(1#4 <<< k.toNat) }
      else { t with lc := t.lc.set k.toNat (t.lc[k.toNat] - 1), spc := t.ls[k.toNat] &&& ~~~3#64 } := by
  obtain ⟨harmed, hend⟩ := h
  rw [endLevels, if_pos (by simp [harmed, hend])]
  rfl

/-- Levels that do not end there change nothing. -/
theorem endLevels_append_of_not_ends {t : Team} {a : Word} {hi : List (BitVec 2)} (h : ∀ j ∈ hi, ¬ t.endsAt a j)
    (lo : List (BitVec 2)) : endLevels a (hi ++ lo) t = endLevels a lo t := by
  induction hi with
  | nil => rfl
  | cons j hi ih =>
    rw [List.cons_append, endLevels_cons_of_not_ends (h j List.mem_cons_self)]
    exact ih fun i hi => h i (List.mem_cons_of_mem _ hi)

/-- Where no armed level ends, the end check changes nothing. -/
theorem Team.endCheck_of_noLoopEnd {t : Team} {a : Word} (h : t.noLoopEnd a = true) : t.endCheck a = t := by
  have hall : ∀ j ∈ ([3, 2, 1, 0] : List (BitVec 2)), ¬ t.endsAt a j := by
    simp only [Team.noLoopEnd, List.all_cons, List.all_nil, Bool.and_true, Bool.and_eq_true] at h
    simp only [Team.endsAt]
    grind
  exact endLevels_append_of_not_ends hall []

/-- The end check is the check of the levels from the highest one on that ends there. -/
theorem Team.endCheck_eq {t : Team} {a : Word} {k : BitVec 2} (habove : ∀ j : BitVec 2, k < j → ¬ t.endsAt a j) :
    t.endCheck a = endLevels a (k :: [3, 2, 1, 0].filter (· < k)) t := by
  refine (congrArg (endLevels a · t) (levels_eq k)).trans ?_
  exact endLevels_append_of_not_ends (fun j hj => habove j (of_decide_eq_true (List.mem_filter.1 hj).2)) _

variable {t : Team} {a : Word} {k : BitVec 2}

/-- The highest level that ends there loops back while its count exceeds 1. -/
theorem Team.endCheck_loops_back (hk : t.endsAt a k) (habove : ∀ j : BitVec 2, k < j → ¬ t.endsAt a j)
    (hcount : 1 < t.lc[k.toNat].toNat) :
    t.endCheck a = { t with lc := t.lc.set k.toNat (t.lc[k.toNat] - 1), spc := t.ls[k.toNat] &&& ~~~3#64 } := by
  rw [Team.endCheck_eq habove, endLevels_cons_of_ends hk, if_neg (Nat.not_le_of_lt hcount)]

/-- A level that was disarmed does not end anywhere; another one ends where it did. -/
theorem Team.endsAt_disarm {lc : Vector Word 4} (j : BitVec 2) :
    Team.endsAt { t with lc := lc, armed := t.armed &&& ~~~(1#4 <<< k.toNat) } a j ↔ j ≠ k ∧ t.endsAt a j := by
  have hbit : ∀ (armed : BitVec 4) (k j : BitVec 2),
      (armed &&& ~~~(1#4 <<< k.toNat)).getLsbD j.toNat = (decide (j ≠ k) && armed.getLsbD j.toNat) := by decide
  simp only [Team.endsAt, hbit, Bool.and_eq_true, decide_eq_true_eq, and_assoc]

/-- The highest level that ends there is done at a count of at most 1 and hands the check on. -/
theorem Team.endCheck_hands_on (hk : t.endsAt a k) (habove : ∀ j : BitVec 2, k < j → ¬ t.endsAt a j)
    (hcount : t.lc[k.toNat].toNat ≤ 1) :
    t.endCheck a = ({ t with lc := t.lc.set k.toNat 0, armed := t.armed &&& ~~~(1#4 <<< k.toNat) } : Team).endCheck a := by
  rw [Team.endCheck_eq habove, endLevels_cons_of_ends hk, if_pos hcount,
    Team.endCheck_eq fun j hj hends => habove j hj ((Team.endsAt_disarm j).1 hends).2,
    endLevels_cons_of_not_ends fun hself => ((Team.endsAt_disarm k).1 hself).1 rfl]

/-- The end check arms no level. -/
theorem endLevels_armed (ks : List (BitVec 2)) : ∀ t : Team, (endLevels a ks t).armed &&& ~~~t.armed = 0 := by
  induction ks with
  | nil => exact fun t => BitVec.and_not_self t.armed
  | cons k ks ih =>
    intro t
    rw [endLevels]
    split
    · split
      · have hsub : ∀ (x y m : BitVec 4), x &&& ~~~(y &&& m) = 0 → x &&& ~~~y = 0 := by decide
        exact hsub _ _ _ (ih _)
      · exact BitVec.and_not_self t.armed
    · exact ih t

end Sys2Proof.Machine
end

section
open Sys2Proof Sys2Proof.Machine

/-- Settles O3: the write by the rules of the register file, the end check by the highest level that ends there. -/
theorem scalarCompletion : Obligations.ScalarCompletion := by
  refine ⟨fun s n d v => ⟨?same, ?zero, fun r hr => ?other, ?frame, ?armed⟩, fun t a => ⟨Team.endCheck_of_noLoopEnd,
    fun k harmed hend habove => ⟨Team.endCheck_loops_back ⟨harmed, hend⟩ habove,
      Team.endCheck_hands_on ⟨harmed, hend⟩ habove⟩⟩⟩
  case same => exact (Team.s_advance _ n d).trans (s.cur.s_setS_same d v)
  case zero => rfl
  case other => exact (Team.s_advance _ n r).trans (s.cur.s_setS_other v hr)
  case frame =>
    obtain ⟨sregs, hset⟩ := s.cur.setS_eq d v
    obtain ⟨lc, armed, spc, hadv⟩ := (s.cur.setS d v).advance_eq n
    exact congrArg (fun t : Team => { s with cur := { t with
      sregs := s.cur.sregs, spc := s.cur.spc, lc := s.cur.lc, armed := s.cur.armed } })
      (hadv.trans (congrArg (fun t : Team => { t with lc := lc, armed := armed, spc := spc }) hset))
  case armed => exact Team.setS_armed s.cur d v ▸ endLevels_armed _ _
end

section
/-!
SUPPORT. The transfers of control (R53, R54): the target of an offset field, and each instruction as a checked jump.
-/

namespace Sys2Proof.Machine

/-- The target of an offset field lies as many words from SPC (R54). -/
theorem relTarget_eq (s : State) (o : BitVec 21) : relTarget s o = s.cur.spc + 4 * o.signExtend 64 := by
  rw [relTarget, shiftLeft_two_eq_four_mul]

section
variable {s : State} {d a : Reg} {c : Bit3} {neg : Bool} {o : BitVec 21}

/-- SBR whose condition register holds the value named does not branch (R54). -/
theorem exec_sbr_of_eq (h : s.cur.c c = neg) : exec (.sbr c neg o) s = .next (s.advance 1) := by
  show execSbr c neg o s = _
  simp [execSbr, h]

/-- SBR whose condition register holds the other value jumps (R54). -/
theorem exec_sbr_of_ne (h : s.cur.c c ≠ neg) :
    exec (.sbr c neg o) s = .next (s.jump (s.cur.spc + 4 * o.signExtend 64) false id) := by
  show execSbr c neg o s = _
  simp [execSbr, h, relTarget_eq]

/-- SJMP is a jump by its offset. -/
theorem exec_sjmp : exec (.sjmp o) s = .next (s.jump (s.cur.spc + 4 * o.signExtend 64) false id) := by
  show execSjmp o s = _
  rw [execSjmp, relTarget_eq]

/-- SCALL is a jump by its offset that links s62. -/
theorem exec_scall (hr : s.ready [62] = true) : exec (.scall o) s
    = .next (s.jump (s.cur.spc + 4 * o.signExtend 64) false (fun t => t.setS 62 (s.cur.spc + 4))) := by
  show execScall o s = _
  rw [execScall, State.whenReady_of_ready hr, relTarget_eq]

/-- SRET is a jump through a register. -/
theorem exec_sret (hr : s.ready [a] = true) : exec (.sret a) s = .next (s.jump (s.cur.s a) true id) := by
  show execSret a s = _
  rw [execSret, State.whenReady_of_ready hr]

/-- SJMPR is a jump through a register that links another. -/
theorem exec_sjmpr (hr : s.ready [d, a] = true) :
    exec (.sjmpr d a) s = .next (s.jump (s.cur.s a) true (fun t => t.setS d (s.cur.spc + 4))) := by
  show execSjmpr d a s = _
  rw [execSjmpr, State.whenReady_of_ready hr]

end

end Sys2Proof.Machine
end

section
open Sys2Proof Sys2Proof.Machine

/-- Settles O4: every transfer is one checked jump, which goes to its target or traps with it. -/
theorem transfers : Obligations.Transfers := by
  refine ⟨fun s d a c neg o => ⟨exec_sbr_of_eq, fun hc hj => ?sbr, fun hj => ?sjmp, fun hr hj => ?scall,
    fun hr hj => ?sret, fun hr hj => ?sjmpr⟩, ?_⟩
  on_goal 6 =>
    intro s d a c neg o code rel hcode
    refine ⟨fun hbad => ⟨fun hc => ?sbrTrap, ?sjmpTrap, fun hr => ?scallTrap⟩,
      fun hbad => ⟨fun hr => ?sretTrap, fun hr => ?sjmprTrap⟩⟩
  case sbr => exact (exec_sbr_of_ne hc).trans (congrArg _ (State.jump_of_canJump hj _))
  case sjmp => exact exec_sjmp.trans (congrArg _ (State.jump_of_canJump hj _))
  case scall => exact (exec_scall hr).trans (congrArg _ (State.jump_of_canJump hj _))
  case sret => exact (exec_sret hr).trans (congrArg _ (State.jump_of_canJump hj _))
  case sjmpr => exact (exec_sjmpr hr).trans (congrArg _ (State.jump_of_canJump hj _))
  case sbrTrap => exact (exec_sbr_of_ne hc).trans (congrArg _ (State.jump_of_fetchCheck hbad hcode _))
  case sjmpTrap => exact exec_sjmp.trans (congrArg _ (State.jump_of_fetchCheck hbad hcode _))
  case scallTrap => exact (exec_scall hr).trans (congrArg _ (State.jump_of_fetchCheck hbad hcode _))
  case sretTrap => exact (exec_sret hr).trans (congrArg _ (State.jump_of_fetchCheck hbad hcode _))
  case sjmprTrap => exact (exec_sjmpr hr).trans (congrArg _ (State.jump_of_fetchCheck hbad hcode _))
end

section
/-!
SUPPORT. Reads and writes of the system registers (R10, R62), and what a write of FMODE keeps (R132).
-/

namespace Sys2Proof.Machine

/-- The five registers with an SO field (R10). -/
theorem isSo_iff (n : BitVec 12) :
    isSo n.toNat = true ↔ n = 0x031 ∨ n = 0x050 ∨ n = 0x051 ∨ n = 0x052 ∨ n = 0x053 := by
  have hnum (k : BitVec 12) : n = k ↔ n.toNat = k.toNat := BitVec.toNat_inj.symm
  simp only [isSo, hnum, Bool.or_eq_true, beq_iff_eq, Bool.and_eq_true, decide_eq_true_eq,
    BitVec.reduceToNat]
  omega

section
variable {s : State} {a d : Reg} {n : BitVec 12} {x : Word} {len : Nat}

/-- The access is allowed (R10): the register has no SO field, or the team is in supervisor mode. -/
theorem priv_eq_false (h : isSo n.toNat = true → s.cur.mode = .supervisor) :
    (isSo n.toNat && s.cur.mode == .user) = false := by
  cases hso : isSo n.toNat with
  | false => rfl
  | true => rw [h hso]; rfl

/-- SRD of a number no chapter assigns (R62). -/
theorem sysRead_of_none (h : s.sysReg n.toNat = none) : sysRead d n len s = s.illegal := by
  rw [sysRead, h]

/-- SWR of a number no chapter assigns (R62). -/
theorem sysWrite_of_none (h : s.sysReg n.toNat = none) : sysWrite a n len s = s.illegal := by
  rw [sysWrite, h]

/-- SRD of a register with an SO field in user mode (R62). -/
theorem sysRead_of_user (h : s.sysReg n.toNat = some x) (hso : isSo n.toNat = true) (hmode : s.cur.mode = .user) :
    sysRead d n len s = s.trap codePriv 0 := by
  simp [sysRead, h, hso, hmode]

/-- SWR of a register with an SO field in user mode (R62). -/
theorem sysWrite_of_user (h : s.sysReg n.toNat = some x) (hso : isSo n.toNat = true) (hmode : s.cur.mode = .user) :
    sysWrite a n len s = s.trap codePriv 0 := by
  simp [sysWrite, h, hso, hmode]

/-- SRD gives the register's value (R62). -/
theorem sysRead_of_some (h : s.sysReg n.toNat = some x) (hso : isSo n.toNat = true → s.cur.mode = .supervisor)
    (hr : s.ready [d] = true) : sysRead d n len s = s.result len d x := by
  simp only [sysRead, h, priv_eq_false hso, State.whenReady_of_ready hr, Bool.false_eq_true, if_false]

/-- SWR writes the writable fields (R62). -/
theorem sysWrite_of_some (h : s.sysReg n.toNat = some x) (hso : isSo n.toNat = true → s.cur.mode = .supervisor)
    (hr : s.ready [a] = true) :
    sysWrite a n len s = State.advance { s with cur := s.cur.setSys n.toNat (s.cur.s a) } len := by
  simp only [sysWrite, h, priv_eq_false hso, State.whenReady_of_ready hr, Bool.false_eq_true, if_false]

end

/-- Every register with an SO field has a value (R10). -/
theorem State.sysReg_of_isSo (s : State) {n : BitVec 12} (h : isSo n.toNat = true) : ∃ x, s.sysReg n.toNat = some x := by
  rcases (isSo_iff n).1 h with rfl | rfl | rfl | rfl | rfl <;> exact ⟨_, rfl⟩

/-- A register without a writable field stays (R10, R62). -/
theorem Team.setSys_of_read_only (t : Team) (x : Word) {n : Nat}
    (h : n ≤ 0x01F ∨ (0x040 ≤ n ∧ n ≤ 0x04F) ∨ n = 0x060) : t.setSys n x = t := by
  unfold Team.setSys
  split
  case h_11 => rw [if_neg (by omega)]
  all_goals omega

/-- FMODE takes the four bits written where RM is a rounding mode (R132). -/
theorem Team.setFmode_of_le {y : Word} (h : y.toNat % 8 ≤ 4) (t : Team) :
    t.setFmode y = { t with fmode := y.setWidth 4 } := by
  have hrm : y.extractLsb' 0 3 ≤ (4 : BitVec 3) := by simpa [BitVec.le_def] using h
  have hbits : y.extractLsb' 3 1 ++ y.extractLsb' 0 3 = y.setWidth 4 := by
    apply BitVec.eq_of_getLsbD_eq
    intro i hi
    simp only [BitVec.getLsbD_append, BitVec.getLsbD_extractLsb', BitVec.getLsbD_setWidth, hi, decide_true, Bool.true_and,
      Nat.zero_add]
    by_cases h3 : i < 3
    · simp [h3]
    · obtain rfl : i = 3 := by omega
      simp
  rw [Team.setFmode, if_pos hrm, hbits]

/-- FMODE keeps RM where 5 to 7 is written to it (R132). -/
theorem Team.setFmode_of_gt {y : Word} (h : 4 < y.toNat % 8) (t : Team) :
    t.setFmode y = { t with fmode := (t.fmode &&& 7) ||| (y.setWidth 4 &&& 8) } := by
  have hrm : ¬ y.extractLsb' 0 3 ≤ (4 : BitVec 3) := by simpa [BitVec.le_def] using h
  have hparts : ∀ z f : BitVec 4, z.extractLsb' 3 1 ++ f.setWidth 3 = (f &&& 7) ||| (z &&& 8) := by decide
  have hsat : y.extractLsb' 3 1 = (y.setWidth 4).extractLsb' 3 1 := by
    rw [BitVec.extractLsb'_setWidth_of_le (by decide)]
  have hbits : y.extractLsb' 3 1 ++ t.fmode.setWidth 3 = (t.fmode &&& 7) ||| (y.setWidth 4 &&& 8) := by
    rw [hsat, hparts]
  rw [Team.setFmode, if_neg hrm, hbits]

/-- An SWR with a row of its own writes its register (R62). -/
theorem userWrite_of_ready {s : State} {a : Reg} (hr : s.ready [a] = true) (f : Team → Word → Team) :
    userWrite a f 1 s = s.done1 (fun t => f t (s.cur.s a)) :=
  State.whenReady_of_ready hr _

end Sys2Proof.Machine
end

section
open Sys2Proof Sys2Proof.Machine

/-- Settles O7: each number by whether it is assigned, privileged and writable, each SWR row by its write. -/
theorem systemRegisterAccess : Obligations.SystemRegisterAccess := by
  refine ⟨?numbers, ?rows⟩
  case numbers =>
    intro s a d n so y
    refine ⟨fun hnone => ⟨congrArg _ (sysRead_of_none hnone), congrArg _ (sysWrite_of_none hnone)⟩, fun hso hmode => ?user,
      fun x hx hso hr => congrArg _ (sysRead_of_some hx (fun h => hso ((isSo_iff n).1 h)) hr), fun hr => ?ftrapen,
      fun hr hmode => ⟨?wdoglim, ?hcause, ?hva, ?hmask, ?hrec⟩, fun hr hn hsome => ?readOnly⟩
    case user =>
      obtain ⟨x, hx⟩ := s.sysReg_of_isSo ((isSo_iff n).2 hso)
      exact ⟨congrArg _ (sysRead_of_user hx ((isSo_iff n).2 hso) hmode),
        congrArg _ (sysWrite_of_user hx ((isSo_iff n).2 hso) hmode)⟩
    case ftrapen => exact congrArg _ (sysWrite_of_some rfl (fun h => absurd h (by decide)) hr)
    case wdoglim | hcause | hva | hmask | hrec => exact congrArg _ (sysWrite_of_some rfl (fun _ => hmode) hr)
    case readOnly =>
      obtain ⟨x, hx⟩ := Option.isSome_iff_exists.1 hsome
      have hnot : isSo n.toNat = false := by
        simp only [isSo, Bool.or_eq_false_iff, beq_eq_false_iff_ne, Bool.and_eq_false_iff, decide_eq_false_iff_not]
        omega
      exact congrArg _ ((sysWrite_of_some hx (by simp [hnot]) hr).trans
        (congrArg (fun t => State.advance { s with cur := t } 1) (Team.setSys_of_read_only _ _ hn)))
  case rows =>
    intro s a n hr y
    have row (f : Team → Word → Team) : userWrite a f 1 s = s.done1 (fun t => f t y) := userWrite_of_ready hr f
    refine ⟨congrArg _ (row _), congrArg _ (row _), congrArg _ (row _), fun hrm => ?kept, fun hrm => ?refused,
      congrArg _ (row _), congrArg _ (row _), congrArg _ (row _), congrArg _ (row _)⟩
    case kept => exact (congrArg _ (row _)).trans (congrArg (fun f => (.next (s.done1 f) : Out)) (funext (Team.setFmode_of_le hrm)))
    case refused => exact (congrArg _ (row _)).trans (congrArg (fun f => (.next (s.done1 f) : Out)) (funext (Team.setFmode_of_gt hrm)))
end

section
/-!
SUPPORT. Scalar loads and stores by what their access answers (R56), and the SEXT pair (R31, R43).
-/

namespace Sys2Proof.Machine

/-! ### Loads and stores (R56) -/

section
variable {s s' : State} {w len : Nat} {d a : Reg} {x : Word} {bs : List Byte} {code : Nat}

/-- A load whose access answers bytes writes them, zero-extended. -/
theorem load_of_ok (hr : s.ready [d, a] = true) (h : s.scalarLoad (s.cur.s a + x).toNat w = .ok bs s') :
    load w d a x len s = s'.result len d (BitVec.ofNat 64 (natOf bs)) := by
  rw [load, State.whenReady_of_ready hr]
  simp only [h]

/-- A load whose access fails is trapped with its address. -/
theorem load_of_trap (hr : s.ready [d, a] = true) (h : s.scalarLoad (s.cur.s a + x).toNat w = .trap code s') :
    load w d a x len s = s'.takeTrap { FaultInfo.plain code (s.cur.s a + x) with opnd := [], width := w, kind := 0 } := by
  rw [load, State.whenReady_of_ready hr]
  simp only [h]
  rfl

/-- A store whose access succeeds completes. -/
theorem store_of_ok (hr : s.ready [d, a] = true)
    (h : s.scalarStore (s.cur.s a + x).toNat (bytesOf w (s.cur.s d).toNat) = .ok bs s') :
    store w d a x len s = s'.advance len := by
  rw [store, State.whenReady_of_ready hr]
  simp only [h]

/-- A store whose access fails is trapped with its address and its bytes. -/
theorem store_of_trap (hr : s.ready [d, a] = true)
    (h : s.scalarStore (s.cur.s a + x).toNat (bytesOf w (s.cur.s d).toNat) = .trap code s') :
    store w d a x len s = s'.takeTrap { FaultInfo.plain code (s.cur.s a + x) with
      opnd := bytesOf w (s.cur.s d).toNat, width := w, kind := 1 } := by
  rw [store, State.whenReady_of_ready hr]
  simp only [h]

end

/-! ### The pair (R31) -/

/-- The loop check of R28 at the SEXT is that of the model. -/
theorem endsLoop_eq_not (t : Team) (a : Word) : endsLoop t a = !t.noLoopEnd a := by
  simp [endsLoop, Team.noLoopEnd]

/-- What follows a SEXT has a meaning of its own only where it is an SI instruction. -/
theorem prefixed_eq_none {i : Instr} (h : isSi i = false) (hi : BitVec 25) : prefixed hi i = none := by
  unfold prefixed
  split
  case h_20 => rfl
  all_goals exact absurd h (by simp [isSi])

section
variable {s : State} {hi : BitVec 25} {w : Word32} {i : Instr} {code : Nat}

/-- An armed level that ends at the SEXT (R31). -/
theorem exec_sext_of_loopEnd (h : s.cur.noLoopEnd s.cur.spc = false) : exec (.sext hi) s = .next s.illegal := by
  show execSext hi s = _
  simp [execSext, endsLoop_eq_not, h]

/-- A second word that cannot be fetched (R31). -/
theorem exec_sext_of_error (h : s.cur.noLoopEnd s.cur.spc = true)
    (hw : s.fetchWord (s.cur.spc + 4).toNat = .error code) (hcode : isAwait code = false) :
    exec (.sext hi) s = .next (s.trap code (s.cur.spc + 4)) := by
  show execSext hi s = _
  simp only [execSext, endsLoop_eq_not, h, hw, hcode, Bool.not_true, Bool.false_eq_true, if_false]

/-- A second word that is none (R31). -/
theorem exec_sext_of_undecoded {e : DecodeError} (h : s.cur.noLoopEnd s.cur.spc = true)
    (hw : s.fetchWord (s.cur.spc + 4).toNat = .ok w) (hd : decodeScalar w = .error e) :
    exec (.sext hi) s = .next s.illegal := by
  show execSext hi s = _
  simp only [execSext, endsLoop_eq_not, h, hw, hd, Bool.not_true, Bool.false_eq_true, if_false]

/-- A second word that is an instruction: what it does after a SEXT (R31). -/
theorem exec_sext_of_decoded (h : s.cur.noLoopEnd s.cur.spc = true)
    (hw : s.fetchWord (s.cur.spc + 4).toNat = .ok w) (hd : decodeScalar w = .ok i) :
    exec (.sext hi) s = .next ((prefixed hi i).getD State.illegal s) := by
  show execSext hi s = _
  simp only [execSext, endsLoop_eq_not, h, hw, hd, Bool.not_true, Bool.false_eq_true, if_false]
  cases prefixed hi i <;> rfl

end

end Sys2Proof.Machine
end

section
open Sys2Proof Sys2Proof.Machine

/-- Settles O8: the SEXT by its checks, the pair by what the SI instruction does with the 38-bit immediate. -/
theorem sextPair : Obligations.SextPair := by
  intro s s' hi w i d a x n k c num lr y bs code e at_ pair imm v addr low fault so writes
  refine ⟨exec_sext_of_loopEnd, fun hloop => ⟨exec_sext_of_error hloop, fun hw hd => exec_sext_of_undecoded hloop hw hd,
    fun hw hd => ?_⟩⟩
  have gives {f : State → State} {t : State} (hf : prefixed hi i = some f) (ht : f s = t) : pair t := by
    refine (exec_sext_of_decoded hloop hw hd).trans ?_
    rw [hf]
    exact congrArg _ ht
  have illegal (h : hi ≠ 0) {f : State → State} (hf : prefixed hi i = some (if hi = 0 then f else State.illegal)) :
      pair s.illegal := gives hf (by rw [if_neg h])
  have plain (h : hi = 0) {f : State → State} {t : State}
      (hf : prefixed hi i = some (if hi = 0 then f else State.illegal)) (ht : f s = t) : pair t :=
    gives hf (by rw [if_pos h, ht])
  have row (f : Team → Word → Team) (hf : prefixed hi i = some (if hi = 0 then userWrite a f 2 else State.illegal)) :
      writes (fun t => f t v) := ⟨fun h => illegal h hf, fun h hr => plain h hf (State.whenReady_of_ready hr _)⟩
  have hso (h : so → s.cur.mode = .supervisor) : isSo num.toNat = true → s.cur.mode = .supervisor :=
    fun hn => h ((isSo_iff num).1 hn)
  have other (h : isSi i = false) : pair s.illegal := by
    refine (exec_sext_of_decoded hloop hw hd).trans ?_
    rw [prefixed_eq_none h]
    rfl
  clear_value pair
  refine ⟨fun hsi => ?other, fun hr => ?alu, fun h hs => ?shiftIllegal, fun hr hs => ?scmpi, fun h hs => ?sysIllegal,
    fun h hy hmode => ⟨fun hs hr => ?srd, fun hs hr => ?swr⟩, fun h hs => ⟨fun hnone => ?unassigned, fun hy hn hm => ?user⟩,
    ?fstat, ?fmode, ?srseed, ?pkr, ?loop⟩
  case other => exact other hsi
  case alu =>
    have ready {f : State → State} : s.whenReady [d, a] f = f s := State.whenReady_of_ready hr f
    refine ⟨?_, ?_, ?_, ?_, fun h => ⟨?_, ?_, ?_⟩, fun hs => ⟨fun hok => ?_, fun htrap => ?_⟩,
      fun hs => ⟨fun hok => ?_, fun htrap => ?_⟩, fun hs => ⟨fun hok => ?_, fun htrap => ?_⟩,
      fun hs => ⟨fun hok => ?_, fun htrap => ?_⟩⟩
    · rintro rfl; exact gives rfl ready
    · rintro rfl; exact gives rfl ready
    · rintro rfl; exact gives rfl ready
    · rintro rfl; exact gives rfl ready
    · rintro rfl; exact plain h rfl ready
    · rintro rfl; exact plain h rfl ready
    · rintro rfl; exact plain h rfl ready
    · subst hs; exact gives rfl (load_of_ok hr hok)
    · subst hs; exact gives rfl (load_of_trap hr htrap)
    · subst hs; exact gives rfl (load_of_ok hr hok)
    · subst hs; exact gives rfl (load_of_trap hr htrap)
    · subst hs; exact gives rfl (store_of_ok hr hok)
    · subst hs; exact gives rfl (store_of_trap hr htrap)
    · subst hs; exact gives rfl (store_of_ok hr hok)
    · subst hs; exact gives rfl (store_of_trap hr htrap)
  case shiftIllegal => rcases hs with rfl | rfl | rfl <;> exact illegal h rfl
  case scmpi =>
    subst hs
    exact ⟨condWord k v imm, gives rfl (State.whenReady_of_ready hr _), condWord_iff k v imm⟩
  case sysIllegal => rcases hs with rfl | rfl <;> exact illegal h rfl
  case srd => subst hs; exact plain h rfl (sysRead_of_some hy (hso hmode) hr)
  case swr => subst hs; exact plain h rfl (sysWrite_of_some hy (hso hmode) hr)
  case unassigned =>
    rcases hs with rfl | rfl
    · exact plain h rfl (sysRead_of_none hnone)
    · exact plain h rfl (sysWrite_of_none hnone)
  case user =>
    rcases hs with rfl | rfl
    · exact plain h rfl (sysRead_of_user hy ((isSo_iff num).2 hn) hm)
    · exact plain h rfl (sysWrite_of_user hy ((isSo_iff num).2 hn) hm)
  case fstat => rintro rfl; exact row Team.setFstat rfl
  case fmode => rintro rfl; exact row Team.setFmode rfl
  case srseed => rintro rfl; exact row Team.setSrseed rfl
  case pkr => rintro rfl; exact row Team.setPkr rfl
  case loop => rintro rfl; exact row (fun t y => t.setLoop lr y) rfl
end

section
/-!
SUPPORT. The checks of a scalar access in their order (R22, R191), and the places in S, C and K where an access that
passes them stands (R190, R194, R204, R205).
-/

namespace Sys2Proof.Machine

variable {t : Team} {who : Who} {a w : Nat} {wr : Bool}

/-! ### The order of the checks -/

/-- An address of no window comes first (R22). -/
theorem checkAccess_of_gvaBad (h : gvaBad who a = true) (aligned : Bool) :
    checkAccess t who a w aligned wr = some codeGvaFormat := by
  rw [checkAccess, if_pos h]

/-- Alignment comes next. -/
theorem checkAccess_of_misaligned (h : gvaBad who a = false) : checkAccess t who a w false wr = some codeAlign := by
  simp [checkAccess, h]

/-- The window's range comes third. -/
theorem checkAccess_of_rangeBad {c : Nat} (h : gvaBad who a = false) (hr : rangeBad t who a w = some c) :
    checkAccess t who a w true wr = some c := by
  simp [checkAccess, h, hr]

/-- In S the right of the page comes last (R194). -/
theorem checkAccess_of_sttBad (h : gvaBad who a = false) (hr : rangeBad t who a w = none) :
    checkAccess t who a w true wr = sttBad t who a wr := by
  simp [checkAccess, h, hr]

/-- Beside S only the first three checks are made (R194). -/
theorem sttBad_of_window (h8 : a / 2 ^ 60 ≠ 8) (hB : a / 2 ^ 60 ≠ 11) : sttBad t who a wr = none :=
  if_neg (by omega)

/-! ### Windows (R190, R191) -/

/-- The windows 1 to 7 are none. -/
theorem gvaBad_of_low (h1 : 1 ≤ a / 2 ^ 60) (h7 : a / 2 ^ 60 ≤ 7) : gvaBad who a = true := by
  unfold gvaBad
  split
  case h_6 => rfl
  all_goals omega

/-- Window 0xB is none of the scalar stream's, and those above are none at all. -/
theorem gvaBad_of_high (h : 0xB ≤ a / 2 ^ 60) : gvaBad .scalar a = true := by
  unfold gvaBad
  split
  case h_5 | h_6 => rfl
  all_goals omega

/-- An offset within the address bits of its window is its offset in the window. -/
theorem window_fields {m : Nat} (h : a % 2 ^ 60 < 2 ^ m) (hm : m ≤ 60) (hm0 : 0 < m) :
    bitsNat a (m - 1) 0 = a % 2 ^ 60 ∧ bitsNat a 59 m = 0 := by
  have hpow : 2 ^ 60 = 2 ^ m * 2 ^ (60 - m) := by rw [← Nat.pow_add, Nat.add_sub_cancel' hm]
  constructor
  · rw [bitsNat, Nat.pow_zero, Nat.div_one, Nat.sub_zero, Nat.sub_add_cancel hm0, ← Nat.mod_eq_of_lt h, hpow, Nat.mod_mul_right_mod]
  · rw [bitsNat, ← Nat.mod_mul_right_div_self, ← hpow]
    exact Nat.div_eq_of_lt h

/-- An address of C (R204). -/
theorem window_cluster (h : a / 2 ^ 60 = 9) (ho : a % 2 ^ 60 < 2 ^ 21) :
    gvaBad who a = false ∧ winOff a = a % 2 ^ 60 := by
  obtain ⟨hoff, hhigh⟩ := window_fields ho (by decide) (by decide)
  simp only [gvaBad, winOff, h]
  exact ⟨by rw [hhigh]; rfl, hoff⟩

/-- An address of K (R205). -/
theorem window_chip (h : a / 2 ^ 60 = 10) (ho : a % 2 ^ 60 < 2 ^ 26) :
    gvaBad who a = false ∧ winOff a = a % 2 ^ 60 := by
  obtain ⟨hoff, hhigh⟩ := window_fields ho (by decide) (by decide)
  simp only [gvaBad, winOff, h]
  exact ⟨by rw [hhigh]; rfl, hoff⟩

/-- An address of S (R194). -/
theorem window_scratch (h : a / 2 ^ 60 = 8) (ho : a % 2 ^ 60 < 2 ^ 22) :
    gvaBad who a = false ∧ winOff a = a % 2 ^ 60 := by
  obtain ⟨hoff, hhigh⟩ := window_fields ho (by decide) (by decide)
  simp only [gvaBad, winOff, h]
  exact ⟨by rw [hhigh]; rfl, hoff⟩

/-- The range check in C. -/
theorem rangeBad_cluster (h : a / 2 ^ 60 = 9) :
    rangeBad t who a w = if t.cmsize < winOff a + w then some codeClusterRange else none := by
  simp only [rangeBad, h]

/-- The range check in K. -/
theorem rangeBad_chip (h : a / 2 ^ 60 = 10) :
    rangeBad t who a w = if t.kspsize < winOff a + w then some codeChipspRange else none := by
  simp only [rangeBad, h]

/-- The range check in S. -/
theorem rangeBad_scratch (h : a / 2 ^ 60 = 8) :
    rangeBad t who a w = if t.kern.scratch < winOff a + w then some codeSpRange else none := by
  simp only [rangeBad, h]

/-- A failed check fails the access. -/
theorem State.locate_of_bad {s : State} {aligned : Bool} {c : Nat} (h : checkAccess s.cur who a w aligned wr = some c) :
    s.locate who a w aligned wr = (s, .bad c) := by
  rw [State.locate, h]

/-- A failed check traps a load. -/
theorem State.scalarLoad_of_bad {s : State} {c : Nat} (h : checkAccess s.cur .scalar a w (a % w == 0) false = some c) :
    s.scalarLoad a w = .trap c s := by
  rw [State.scalarLoad, State.locate_of_bad h]

end Sys2Proof.Machine
end

section
open Sys2Proof Sys2Proof.Machine

/-- Settles O9: loads and stores by what their access answers, the checks in the order of `checkAccess`. -/
theorem scalarLoadStore : Obligations.ScalarLoadStore := by
  refine ⟨?accesses, ?checks⟩
  case accesses =>
    intro s s' d a i bs code hr addr info low
    exact ⟨fun h => congrArg _ (load_of_ok hr h), fun h => congrArg _ (load_of_ok hr h),
      fun h => congrArg _ (store_of_ok hr h), fun h => congrArg _ (store_of_ok hr h),
      fun h => congrArg _ (load_of_trap hr h), fun h => congrArg _ (load_of_trap hr h),
      fun h => congrArg _ (store_of_trap hr h), fun h => congrArg _ (store_of_trap hr h)⟩
  case checks =>
    intro s a w _ _ bad
    refine ⟨fun h1 h7 => ?low, fun hB => ?high, fun hc ho hal => ?align, fun hc hal ho hfit => ?cluster,
      fun hc hal ho hfit => ?chip⟩
    case low => exact State.scalarLoad_of_bad (checkAccess_of_gvaBad (gvaBad_of_low h1 h7) _)
    case high => exact State.scalarLoad_of_bad (checkAccess_of_gvaBad (gvaBad_of_high hB) _)
    case align =>
      refine State.scalarLoad_of_bad ?_
      rw [beq_eq_false_iff_ne.2 hal]
      exact checkAccess_of_misaligned (window_cluster hc ho).1
    case cluster =>
      obtain ⟨hgva, hoff⟩ := window_cluster (who := .scalar) hc ho
      refine State.scalarLoad_of_bad ?_
      rw [beq_iff_eq.2 hal]
      exact checkAccess_of_rangeBad hgva (by rw [rangeBad_cluster hc, hoff, if_pos hfit])
    case chip =>
      obtain ⟨hgva, hoff⟩ := window_chip (who := .scalar) hc ho
      refine State.scalarLoad_of_bad ?_
      rw [beq_iff_eq.2 hal]
      exact checkAccess_of_rangeBad hgva (by rw [rangeBad_chip hc, hoff, if_pos hfit])
end

section
/-!
SUPPORT. The places in S, C and K where a scalar access stands (R194, R204, R205), and what a write that disturbs no
engine leaves (R236).
-/

namespace Sys2Proof.Machine

/-! ### A write that meets no operand (R236) -/

/-- No operand of another team that is running meets a calm write. -/
theorem State.not_meets_of_calm {s : State} {own : Option Nat} {k n : Nat} (h : s.calm own k n = true) {r : Nat × Nat}
    (hr : r ∈ s.hotRanges own) : meets r.1 r.2 (s.logKey k) n = false := by
  simp only [State.calm, Bool.not_eq_true', List.any_eq_false, Bool.not_eq_true] at h
  exact h r hr

/-- A team none of whose running operations meets the write is not raced. -/
theorem Team.race_none_eq {t : Team} {k n : Nat} (h : ∀ r ∈ t.fired.flatMap Fired.ranges, meets r.1 r.2 k n = false) :
    t.race none k n = t := by
  have hfired : t.fired.map (fun f => if f.hot none && f.ranges.any (fun r => meets r.1 r.2 k n) then { f with raced := true } else f)
      = t.fired := by
    refine (List.map_congr_left fun f hf => ?_).trans (List.map_id _)
    have hnone : f.ranges.any (fun r => meets r.1 r.2 k n) = false :=
      List.any_eq_false.2 fun r hr => by simp [h r (List.mem_flatMap_of_mem hf hr)]
    rw [hnone, Bool.and_false]
    rfl
  rw [Team.race]
  simp only [hfired]

/-- No tile of a finished operation is broken by a calm write. -/
theorem brokenTiles_of_calm {s : State} {k n : Nat} (h : s.calm (some s.cur.arrives) k n = true) :
    brokenTiles s.cur s.cur.arrives (s.logKey k) n = [] := by
  rw [brokenTiles, List.map_eq_nil_iff, List.filter_eq_nil_iff]
  intro u hu hmeets
  obtain ⟨hhot, hany⟩ := Bool.and_eq_true_iff.1 hmeets
  obtain ⟨r, hr, hrk⟩ := List.any_eq_true.1 hany
  have hmem : r ∈ s.hotRanges (some s.cur.arrives) :=
    List.mem_append_right _ (List.mem_flatMap_of_mem (List.mem_filter.2 ⟨hu, hhot⟩) hr)
  rw [State.not_meets_of_calm h hmem] at hrk
  exact Bool.false_ne_true hrk

/-- A calm write of the team leaves its bytes, the mark of a race on the team's own operations and the log of the write. -/
theorem State.poke_of_calm {s : State} {k : Nat} {bs : List Byte}
    (h : s.calm (some s.cur.arrives) k bs.length = true) :
    s.poke (some s.cur.arrives) k bs = { s with
      mem := s.mem.setBytes k bs, cur := s.cur.race (some s.cur.arrives) (s.logKey k) bs.length } := by
  have hothers : s.others.map (fun t => t.race none (s.logKey k) bs.length) = s.others := by
    refine (List.map_congr_left fun t ht => Team.race_none_eq fun r hr => ?_).trans (List.map_id _)
    exact State.not_meets_of_calm h
      (List.mem_append_left _ (List.mem_append_right _ (List.mem_flatMap_of_mem ht hr)))
  simp only [State.poke, h, if_true, brokenTiles_of_calm h, List.isEmpty_nil, hothers]

/-! ### Places -/

section
variable {s : State} {a w : Nat} {wr : Bool}

/-- A present line of C (R204). -/
theorem State.locate_cluster (hwin : a / 2 ^ 60 = 9) (hoff : a % 2 ^ 60 < 2 ^ 21) (hfit : a % 2 ^ 60 + w ≤ s.cur.cmsize)
    (hpres : s.present (s.clusterFrame s.cur (a % 2 ^ 60)) ((s.cur.cbase + a % 2 ^ 60) % 4096 / 128) = true) :
    s.locate .scalar a w true wr
      = (s, .key (Config.frameKey (s.clusterFrame s.cur (a % 2 ^ 60)) ((s.cur.cbase + a % 2 ^ 60) % 4096))) := by
  obtain ⟨hgva, heq⟩ := window_cluster (who := .scalar) hwin hoff
  have hcheck : checkAccess s.cur .scalar a w true wr = none := by
    rw [checkAccess_of_sttBad hgva (by rw [rangeBad_cluster hwin, heq, if_neg (Nat.not_lt.2 hfit)]),
      sttBad_of_window (by rw [hwin]; decide) (by rw [hwin]; decide)]
  simp only [State.locate, hcheck, hwin, heq, hpres, if_true]

/-- A place in K (R205). -/
theorem State.locate_chip (hwin : a / 2 ^ 60 = 10) (hoff : a % 2 ^ 60 < 2 ^ 26) (hfit : a % 2 ^ 60 + w ≤ s.cur.kspsize) :
    s.locate .scalar a w true wr = (s, .key (Config.chipKey s.cur.sett (s.chipBase s.cur + a % 2 ^ 60))) := by
  obtain ⟨hgva, heq⟩ := window_chip (who := .scalar) hwin hoff
  have hcheck : checkAccess s.cur .scalar a w true wr = none := by
    rw [checkAccess_of_sttBad hgva (by rw [rangeBad_chip hwin, heq, if_neg (Nat.not_lt.2 hfit)]),
      sttBad_of_window (by rw [hwin]; decide) (by rw [hwin]; decide)]
  simp only [State.locate, hcheck, hwin, heq]

variable {e : Stt}

/-- The byte of S that a scalar access names is its offset (R194). -/
theorem spByte_scratch (t : Team) (hwin : a / 2 ^ 60 = 8) (hoff : a % 2 ^ 60 < 2 ^ 22) : spByte t .scalar a = a % 2 ^ 60 :=
  (if_pos hwin).trans (window_scratch (who := .scalar) hwin hoff).2

/-- The last check in S: the right of the page (R194). -/
theorem checkAccess_scratch (hwin : a / 2 ^ 60 = 8) (hoff : a % 2 ^ 60 < 2 ^ 22)
    (hfit : a % 2 ^ 60 + w ≤ s.cur.kern.scratch) (hpage : FMap.get? s.cur.stt (a % 2 ^ 60 / 4096) = some e) :
    checkAccess s.cur .scalar a w true wr = if wr && !e.we then some codePerm else none := by
  obtain ⟨hgva, heq⟩ := window_scratch (who := .scalar) hwin hoff
  rw [checkAccess_of_sttBad hgva (by rw [rangeBad_scratch hwin, heq, if_neg (Nat.not_lt.2 hfit)]), sttBad,
    if_pos (Or.inl hwin), spByte_scratch _ hwin hoff, hpage]

/-- A page of S that is not writable traps a store (R194). -/
theorem State.locate_scratch_perm (hwin : a / 2 ^ 60 = 8) (hoff : a % 2 ^ 60 < 2 ^ 22)
    (hfit : a % 2 ^ 60 + w ≤ s.cur.kern.scratch) (hpage : FMap.get? s.cur.stt (a % 2 ^ 60 / 4096) = some e)
    (hwe : e.we = false) : s.locate .scalar a w true true = (s, .bad codePerm) :=
  State.locate_of_bad (by rw [checkAccess_scratch hwin hoff hfit hpage, hwe]; rfl)

/-- A present line of a page of S (R194): the page is marked used, and DIRTY by a store (R195, R199). -/
theorem State.locate_scratch (hwin : a / 2 ^ 60 = 8) (hoff : a % 2 ^ 60 < 2 ^ 22)
    (hfit : a % 2 ^ 60 + w ≤ s.cur.kern.scratch) (hpage : FMap.get? s.cur.stt (a % 2 ^ 60 / 4096) = some e)
    (hst : e.st = 0) (hwe : wr = true → e.we = true)
    (hpres : s.present (Config.frameNo s.cur.sett s.cur.core e.frame) (a % 2 ^ 60 % 4096 / 128) = true) :
    s.locate .scalar a w true wr
      = (s.touch (Config.frameNo s.cur.sett s.cur.core e.frame) (a % 2 ^ 60 / 4096) wr,
          .key (Config.frameKey (Config.frameNo s.cur.sett s.cur.core e.frame) (a % 2 ^ 60 % 4096))) := by
  have hcheck : checkAccess s.cur .scalar a w true wr = none := by
    rw [checkAccess_scratch hwin hoff hfit hpage]
    cases wr with
    | false => rfl
    | true => rw [hwe rfl]; rfl
  simp only [State.locate, hcheck, hwin, spByte_scratch _ hwin hoff, hpage, hst, hpres, if_true]

end

/-! ### The mark of use (R195, R199) -/

/-- What a scalar access changes before its bytes move: the marks of use and DIRTY of its page. -/
def State.marks (s u : State) : Prop :=
  ∃ frames tick stt, u = { s with frames := frames, tick := tick, cur := { s.cur with stt := stt } }
    ∧ ∀ k, u.logKey k = s.logKey k

/-- An access that changes nothing. -/
theorem State.marks_self (s : State) : s.marks s := ⟨s.frames, s.tick, s.cur.stt, rfl, fun _ => rfl⟩

/-- The mark of use leaves the owner of every frame. -/
theorem State.marks_touch (s : State) (fr page : Nat) (wr : Bool) : s.marks (s.touch fr page wr) := by
  have hkey (k : Nat) : (s.touch fr page wr).logKey k = s.logKey k := by
    have howner : ((s.touch fr page wr).frame? ((k - 2 ^ 48) / 4096)).bind FrameInfo.owner
        = (s.frame? ((k - 2 ^ 48) / 4096)).bind FrameInfo.owner := by
      have hframes : (s.touch fr page wr).frames = FMap.modify s.frames fr (fun f => { f with used := s.tick }) := rfl
      rw [State.frame?, State.frame?, hframes, FMap.get?_modify]
      split
      · cases FMap.get? s.frames ((k - 2 ^ 48) / 4096) <;> rfl
      · rfl
    simp only [State.logKey, howner]
  cases wr with
  | false => exact ⟨_, _, s.cur.stt, rfl, hkey⟩
  | true => exact ⟨_, _, _, rfl, hkey⟩

/-- The mark of use disturbs no engine. -/
theorem State.calm_of_marks {s u : State} (h : s.marks u) (own : Option Nat) (k n : Nat) : u.calm own k n = s.calm own k n := by
  obtain ⟨frames, tick, stt, rfl, hkey⟩ := h
  rw [State.calm, State.calm, hkey]
  rfl

/-! ### Loads and stores at a place -/

section
variable {s u : State} {a k : Nat} {bs : List Byte}

/-- What a scalar access to S, C or K keeps. -/
def State.keepsScalar (s t : State) : Prop :=
  t.cur.sameScalar s.cur ∧ t.others = s.others ∧ t.ctxs = s.ctxs ∧ t.setts = s.setts

/-- The marks of an access keep the registers, the other teams, the contexts and the setts. -/
theorem State.keepsScalar_of_marks (h : s.marks u) : s.keepsScalar u := by
  obtain ⟨frames, tick, stt, rfl, -⟩ := h
  exact ⟨⟨rfl, rfl, rfl, rfl, rfl, rfl, rfl, rfl, rfl, rfl, rfl, rfl, rfl, rfl, rfl, rfl, rfl, rfl⟩, rfl, rfl, rfl⟩

/-- The marks of an access change no byte. -/
theorem State.mem_of_marks (h : s.marks u) : u.mem = s.mem := by
  obtain ⟨frames, tick, stt, rfl, -⟩ := h
  rfl

/-- A load at a place returns the bytes there. -/
theorem State.scalarLoad_at {n : Nat} (hal : a % n = 0) (hloc : s.locate .scalar a n true false = (u, .key k))
    (hu : s.marks u) : ∃ t, s.scalarLoad a n = .ok (s.mem.getBytes k n) t ∧ t.mem = s.mem ∧ s.keepsScalar t := by
  refine ⟨u, ?_, State.mem_of_marks hu, State.keepsScalar_of_marks hu⟩
  rw [State.scalarLoad, beq_iff_eq.2 hal, hloc, ← State.mem_of_marks hu]

/-- A write that disturbs no engine, after the marks of its access. -/
theorem State.poke_after_marks (hu : s.marks u) (h : s.undisturbed k bs.length = true) :
    (u.poke (some u.cur.arrives) k bs).mem = s.mem.setBytes k bs ∧ s.keepsScalar (u.poke (some u.cur.arrives) k bs) := by
  have harr : u.cur.arrives = s.cur.arrives := by
    obtain ⟨frames, tick, stt, rfl, -⟩ := hu
    rfl
  have hcalm : u.calm (some u.cur.arrives) k bs.length = true := by
    rw [State.calm_of_marks hu, harr]
    exact h
  obtain ⟨⟨h1, h2, h3, h4, h5, h6, h7, h8, h9, h10, h11, h12, h13, h14, h15, h16, h17, h18⟩, hothers, hctxs, hsetts⟩ :=
    State.keepsScalar_of_marks hu
  rw [State.poke_of_calm hcalm, State.mem_of_marks hu]
  exact ⟨rfl, ⟨h1, h2, h3, h4, h5, h6, h7, h8, h9, h10, h11, h12, h13, h14, h15, h16, h17, h18⟩, hothers, hctxs, hsetts⟩

/-- A store at a place replaces the bytes there. -/
theorem State.scalarStore_at (hal : a % bs.length = 0) (hloc : s.locate .scalar a bs.length true true = (u, .key k))
    (hu : s.marks u) (h : s.undisturbed k bs.length = true) :
    ∃ t, s.scalarStore a bs = .ok [] t ∧ t.mem = s.mem.setBytes k bs ∧ s.keepsScalar t := by
  refine ⟨u.poke (some u.cur.arrives) k bs, ?_, State.poke_after_marks hu h⟩
  rw [State.scalarStore, beq_iff_eq.2 hal, hloc]

/-- A store whose check fails traps. -/
theorem State.scalarStore_of_bad {c : Nat} (hal : a % bs.length = 0)
    (hloc : s.locate .scalar a bs.length true true = (s, .bad c)) : s.scalarStore a bs = .trap c s := by
  rw [State.scalarStore, beq_iff_eq.2 hal, hloc]

end

/-- The parts of an address of a window. -/
theorem window_address (win : Nat) {o : Nat} (h : o < 2 ^ 60) :
    (win * 2 ^ 60 + o) / 2 ^ 60 = win ∧ (win * 2 ^ 60 + o) % 2 ^ 60 = o := by
  omega

end Sys2Proof.Machine
end

section
open Sys2Proof Sys2Proof.Machine

/-- Settles O10: each window by the place of its address, then the load or the store there. -/
theorem windowAccess : Obligations.WindowAccess := by
  intro s o bs e hlen hal n stores loads place cframe sframe
  have hwin (win : Nat) (ho : o < 2 ^ 60) : (win * 2 ^ 60 + o) % n = 0 := by
    have hn : n = 4 ∨ n = 8 := hlen
    have ho' : o % n = 0 := hal
    rcases hn with hn | hn <;> rw [hn] at ho' ⊢ <;> omega
  refine ⟨fun _ ho hfit hpres => ?cluster, fun ho hfit => ?chip, fun ho hfit hpage hst hpres => ?scratch⟩
  case cluster =>
    have ho60 : o < 2 ^ 60 := ho.trans (by decide)
    obtain ⟨hw, hoff⟩ := window_address 9 ho60
    have hloc (wr : Bool) : s.locate .scalar (9 * 2 ^ 60 + o) n true wr = (s, .key (Config.frameKey cframe place)) := by
      have h := State.locate_cluster (s := s) (w := n) (wr := wr) hw (by rwa [hoff]) (by rwa [hoff]) (by rwa [hoff])
      rwa [hoff] at h
    exact ⟨State.scalarLoad_at (hwin 9 ho60) (hloc false) s.marks_self,
      State.scalarStore_at (hwin 9 ho60) (hloc true) s.marks_self⟩
  case chip =>
    have ho60 : o < 2 ^ 60 := ho.trans (by decide)
    obtain ⟨hw, hoff⟩ := window_address 10 ho60
    have hloc (wr : Bool) : s.locate .scalar (10 * 2 ^ 60 + o) n true wr
        = (s, .key (Config.chipKey s.cur.sett (s.chipBase s.cur + o))) := by
      have h := State.locate_chip (s := s) (w := n) (wr := wr) hw (by rwa [hoff]) (by rwa [hoff])
      rwa [hoff] at h
    exact ⟨State.scalarLoad_at (hwin 10 ho60) (hloc false) s.marks_self,
      State.scalarStore_at (hwin 10 ho60) (hloc true) s.marks_self⟩
  case scratch =>
    have ho60 : o < 2 ^ 60 := ho.trans (by decide)
    obtain ⟨hw, hoff⟩ := window_address 8 ho60
    have hloc (wr : Bool) (hwe : wr = true → e.we = true) : s.locate .scalar (8 * 2 ^ 60 + o) n true wr
        = (s.touch sframe (o / 4096) wr, .key (Config.frameKey sframe (o % 4096))) := by
      have h := State.locate_scratch (s := s) (w := n) (wr := wr) hw (by rwa [hoff]) (by rwa [hoff]) (by rwa [hoff]) hst hwe
        (by rwa [hoff])
      rwa [hoff] at h
    refine ⟨State.scalarLoad_at (hwin 8 ho60) (hloc false nofun) (s.marks_touch ..),
      fun hwe => State.scalarStore_at (hwin 8 ho60) (hloc true fun _ => hwe) (s.marks_touch ..),
      fun hwe => State.scalarStore_of_bad (hwin 8 ho60) ?_⟩
    exact State.locate_scratch_perm hw (by rwa [hoff]) (by rwa [hoff]) (by rwa [hoff]) hwe
end

section
/-!
SUPPORT. SATOM by what its access answers (R57, R58), and the access at a place of its own sett or in global memory of
this package.
-/

namespace Sys2Proof.Machine

/-! ### The access (R57) -/

/-- The memory after an atomic: the new value at its place, or nothing written. -/
def atomMem (m : Memory) (k w : Nat) : Option Nat → Memory
  | some v => m.setBytes k (bytesOf w v)
  | none => m

/-- What a scalar atomic at a key answers: the old bytes, and a state with the new value written and the scalar stream as it
was. -/
def State.AtomDone (s : State) (k w : Nat) (f : Nat → Option Nat) (r : Acc (List Byte)) : Prop :=
  ∃ t, r = .ok (s.mem.getBytes k w) t ∧ t.mem = atomMem s.mem k w (f (natOf (s.mem.getBytes k w))) ∧ s.keepsScalar t

section
variable {s u : State} {a w k : Nat} {acq : Bool} {sent : List Byte} {f : Nat → Option Nat}

/-- An atomic at a place of the team's sett. -/
theorem State.scalarAtomic_at (hal : a % w = 0) (hloc : s.locate .scalar a w true true = (u, .key k)) (hu : s.marks u)
    (h : s.undisturbed k w = true) : s.AtomDone k w f (s.scalarAtomic acq a w sent f) := by
  rw [State.scalarAtomic, beq_iff_eq.2 hal, hloc]
  simp only [State.mem_of_marks hu]
  cases hf : f (natOf (s.mem.getBytes k w)) with
  | none => exact ⟨u, rfl, by rw [hf]; exact State.mem_of_marks hu, State.keepsScalar_of_marks hu⟩
  | some v =>
    rw [← length_bytesOf w v] at h
    obtain ⟨hmem, hkeeps⟩ := State.poke_after_marks hu h
    exact ⟨_, rfl, by rw [hf]; exact hmem, hkeeps⟩

/-- A write to a line of DRAM is its bytes and the state of the line (R202). -/
theorem State.writeLine_eq (s : State) (own : Option Nat) (cmp : Bool) (k : Nat) (bs : List Byte) :
    ∃ packed, s.writeLine own cmp k bs = { s.poke own k bs with packed := packed } := by
  simp only [State.writeLine]
  split
  · split <;> exact ⟨_, rfl⟩
  · split
    · exact ⟨_, rfl⟩
    · split <;> exact ⟨_, rfl⟩

/-- A global address of a sett that exists passes the checks before its translation (R206, R207). -/
theorem State.locate_global (hwin : a / 2 ^ 60 = 0) (hsett : bitsNat a 53 48 < 48) (wr : Bool) :
    s.locate .scalar a w true wr = (s, .glob (bitsNat a 59 54) (bitsNat a 53 48) (bitsNat a 47 0)) := by
  have hgva : gvaBad .scalar a = false := by simp only [gvaBad, hwin, decide_eq_false (Nat.not_le.2 hsett)]
  have hcheck : checkAccess s.cur .scalar a w true wr = none := by
    rw [checkAccess_of_sttBad hgva (by simp only [rangeBad, hwin]),
      sttBad_of_window (by rw [hwin]; decide) (by rw [hwin]; decide)]
  simp only [State.locate, hcheck, hwin]

/-- An atomic in global memory of this package whose translation passes (R212). -/
theorem State.scalarAtomic_global {l : Leaf} (hal : a % w = 0) (hwin : a / 2 ^ 60 = 0) (hsett : bitsNat a 53 48 < 48)
    (hpkg : bitsNat a 59 54 = s.ownPkg) (hdom : s.inDomain s.ownPkg = true) (hsent : s.cur.sent = [])
    (hpend : s.pendingStore (coreNo s.cur.sett s.cur.core) a w = false)
    (hleaf : s.ownerCheck s.cur.ctx (bitsNat a 53 48) (bitsNat a 47 0) .atomic s.cur.pkr = .ok l)
    (hpack : s.packState l.key = 0) (h : s.undisturbed l.key w = true) :
    s.AtomDone l.key w f (s.scalarAtomic acq a w sent f) := by
  have hreach : s.reach s.ownPkg = .own := if_pos rfl
  have hread : s.readLine l.cmp l.key w = (s.mem.getBytes l.key w, s) := if_pos (Or.inl hpack)
  rw [State.scalarAtomic, beq_iff_eq.2 hal, State.locate_global hwin hsett]
  simp only [State.scalarGlobal, hsent, List.any_nil, Bool.false_eq_true, if_false, hpkg, hdom, hpend, Bool.and_false,
    Bool.not_true, hreach, hleaf, hread]
  cases hf : f (natOf (s.mem.getBytes l.key w)) with
  | none => exact ⟨_, rfl, by rw [hf]; rfl, (State.keepsScalar_of_marks s.marks_self :)⟩
  | some v =>
    rw [← length_bytesOf w v] at h
    obtain ⟨hmem, hkeeps⟩ := State.poke_after_marks s.marks_self h
    obtain ⟨packed, hwrite⟩ := s.writeLine_eq (some s.cur.arrives) l.cmp l.key (bytesOf w v)
    simp only [hwrite]
    exact ⟨_, rfl, by rw [hf]; exact hmem, hkeeps⟩

end

/-! ### The instruction (R57, R58) -/

/-- A discard of L1 lines changes L1 and what replies may still put into it (R231). -/
theorem State.discardCores_eq (s : State) : ∃ l1 reqs, s.discardCores = { s with l1 := l1, reqs := reqs } := by
  simp only [State.discardCores]
  split
  · exact ⟨_, _, rfl⟩
  · exact ⟨_, _, rfl⟩

/-- An acquire changes nothing else. -/
theorem State.scalarAcquire_eq (s : State) (ord : Ordering4) (a : Nat) :
    ∃ l1 reqs, s.scalarAcquire ord a = { s with l1 := l1, reqs := reqs } := by
  rw [State.scalarAcquire]
  split
  · exact s.discardCores_eq
  · exact ⟨s.l1, s.reqs, rfl⟩

/-- The access of SATOM: its width, its operand cut to it, and the value expected by CAS (R57). -/
def State.satomAccess (s : State) (d a b : Reg) (ord : Ordering4) (w : Nat) (op : AtomOp) : Acc (List Byte) :=
  let x := (s.cur.s b).toNat % 2 ^ (8 * w)
  let e := (s.cur.s d).toNat % 2 ^ (8 * w)
  s.scalarAtomic (decide (ord = .acq ∨ ord = .acqrel)) (s.cur.s a).toNat w (satomData op w x e)
    (fun old => atomNew op (8 * w) old x e)

section
variable {s s' : State} {d a b : Reg} {ord : Ordering4} {word : Bool} {op : AtomOp} {bs : List Byte} {code : Nat}

/-- An acquire is one of the two orders that acquire. -/
theorem acquires_eq (ord : Ordering4) : (ord == .acq || ord == .acqrel) = decide (ord = .acq ∨ ord = .acqrel) := by
  cases ord <;> rfl

/-- An order that need not wait (R58). -/
theorem releases_eq_false (hq : ord = .rel ∨ ord = .acqrel → s.quiet = true) :
    ((ord == .rel || ord == .acqrel) && !s.quiet) = false := by
  cases ord with
  | rel => rw [hq (Or.inl rfl)]; rfl
  | acqrel => rw [hq (Or.inr rfl)]; rfl
  | relaxed | acq => rfl

/-- A release waits for the accesses of the team's lanes (R58). -/
theorem exec_satom_waits (hr : s.ready [d, a, b] = true) (hrel : ord = .rel ∨ ord = .acqrel) (hq : s.quiet = false) :
    exec (.satom d a b ord word op) s = .next s := by
  show execSatom d a b ord word op s = _
  have hcond : ((ord == .rel || ord == .acqrel) && !s.quiet) = true := by
    rw [hq]
    rcases hrel with rfl | rfl <;> rfl
  rw [execSatom, State.whenReady_of_ready hr]
  simp only [hcond, if_true]

/-- SATOM whose access answers bytes writes them to its register, after its acquire (R57, R231). -/
theorem exec_satom_of_ok {w : Nat} (hw : (if word then 4 else 8) = w) (hr : s.ready [d, a, b] = true)
    (hq : ord = .rel ∨ ord = .acqrel → s.quiet = true) (hok : s.satomAccess d a b ord w op = .ok bs s') :
    exec (.satom d a b ord word op) s
      = .next ((s'.scalarAcquire ord (s.cur.s a).toNat).result 1 d (BitVec.ofNat 64 (natOf bs))) := by
  show execSatom d a b ord word op s = _
  rw [State.satomAccess, ← acquires_eq] at hok
  rw [execSatom, State.whenReady_of_ready hr]
  simp only [hw, releases_eq_false hq, hok, Bool.false_eq_true, if_false]

/-- SATOM whose access fails is trapped with its operands (R34, R57, R334). -/
theorem exec_satom_of_trap {w : Nat} (hw : (if word then 4 else 8) = w) (hr : s.ready [d, a, b] = true)
    (hq : ord = .rel ∨ ord = .acqrel → s.quiet = true) (htrap : s.satomAccess d a b ord w op = .trap code s') :
    exec (.satom d a b ord word op) s = .next (s'.takeTrap { FaultInfo.plain code (s.cur.s a) with
      opnd := bytesOf w ((s.cur.s b).toNat % 2 ^ (8 * w)),
      exp := if op = .cas then bytesOf w ((s.cur.s d).toNat % 2 ^ (8 * w)) else [], width := w, kind := 2 }) := by
  show execSatom d a b ord word op s = _
  rw [State.satomAccess, ← acquires_eq] at htrap
  rw [execSatom, State.whenReady_of_ready hr]
  simp only [hw, releases_eq_false hq, htrap, Bool.false_eq_true, if_false]

/-- An atomic that completes leaves the old value in its register and the new one in memory. -/
theorem exec_satom_of_done {k w : Nat} (hw : (if word then 4 else 8) = w) (hr : s.ready [d, a, b] = true)
    (hq : ord = .rel ∨ ord = .acqrel → s.quiet = true) {f : Nat → Option Nat}
    (h : s.AtomDone k w f (s.satomAccess d a b ord w op)) :
    ∃ t, exec (.satom d a b ord word op) s = .next t
      ∧ t.cur.s d = (if d = 0 then 0 else BitVec.ofNat 64 (natOf (s.mem.getBytes k w)))
      ∧ (∀ r : Reg, r ≠ d → t.cur.s r = s.cur.s r) ∧ t.mem = atomMem s.mem k w (f (natOf (s.mem.getBytes k w)))
      ∧ t.cur.creg = s.cur.creg ∧ t.cur.fstat = s.cur.fstat ∧ t.others = s.others ∧ t.setts = s.setts ∧ t.ctxs = s.ctxs := by
  obtain ⟨u, hok, hmem, ⟨hsregs, hcreg, -, -, -, -, -, -, hfstat, -⟩, hothers, hctxs, hsetts⟩ := h
  obtain ⟨l1, reqs, hacq⟩ := u.scalarAcquire_eq ord (s.cur.s a).toNat
  have hexec : exec (.satom d a b ord word op) s = .next (State.result { u with l1 := l1, reqs := reqs } 1 d
      (BitVec.ofNat 64 (natOf (s.mem.getBytes k w)))) := by
    rw [exec_satom_of_ok hw hr hq hok, hacq]
  refine ⟨_, hexec, ?_, fun r hne => ?_, hmem, ?_, ?_, hothers, hsetts, hctxs⟩
  · exact (Team.s_advance _ 1 d).trans (u.cur.s_setS_same d _)
  · refine ((Team.s_advance _ 1 r).trans (u.cur.s_setS_other _ hne)).trans ?_
    rw [Team.s, Team.s, hsregs]
  · exact (Team.advance_creg _ 1).trans ((Team.setS_creg _ d _).trans hcreg)
  · exact (Team.advance_fstat _ 1).trans ((Team.setS_fstat _ d _).trans hfstat)

end

end Sys2Proof.Machine
end

section
open Sys2Proof Sys2Proof.Machine

/-- Settles O11: SATOM by its access, the access by the place of its address. -/
theorem scalarAtomics : Obligations.ScalarAtomics := by
  intro s s' d a b ord word op bs code pg l hr i w addr x e new expect acq rel access done completes o place cframe sframe sett
  have hnew : new = fun old => atomNew op (8 * w) old x e := by
    funext old
    cases op <;> rfl
  have haccess : access = s.satomAccess d a b ord w op := by
    show s.scalarAtomic (decide acq) addr.toNat w (satomData op w x e) new = _
    rw [hnew]
    rfl
  have haligned (h : o % w = 0) : addr.toNat % w = 0 := by
    have ho : o = addr.toNat % 2 ^ 60 := rfl
    have hw : w = 4 ∨ w = 8 := by cases word <;> simp [w]
    rcases hw with hw | hw <;> rw [hw] at h ⊢ <;> omega
  refine ⟨fun hrel hq => exec_satom_waits hr hrel hq, fun hq => ?_⟩
  have completes_of {k : Nat} (h : s.undisturbed k w = true → s.AtomDone k w new access) : completes k := by
    intro hcalm old
    rw [haccess] at h
    obtain ⟨t, ht, hd, hregs, hmem, hrest⟩ := exec_satom_of_done rfl hr hq (h hcalm)
    refine ⟨t, ht, hd, hregs, hmem.trans ?_, hrest⟩
    cases new old <;> rfl
  clear_value completes
  refine ⟨fun hok => ?ok, fun htrap => ?trap, fun hal hwin _ ho hfit hpres => ?cluster, fun hal hwin ho hfit => ?chip,
    fun hal hwin ho hfit hpage hst hwe hpres => ?scratch,
    fun hal hwin hsett hpkg hdom hsent hpend hleaf hpack => ?global⟩
  case ok =>
    have hdone : s'.scalarAcquire ord addr.toNat = done := by
      show (if _ then _ else _) = if _ then _ else _
      refine if_congr ?_ rfl rfl
      cases ord <;> simp [acq]
    rw [haccess] at hok
    exact hdone ▸ exec_satom_of_ok rfl hr hq hok
  case trap =>
    rw [haccess] at htrap
    exact exec_satom_of_trap rfl hr hq htrap
  case cluster =>
    exact completes_of (State.scalarAtomic_at (haligned hal) (State.locate_cluster hwin ho hfit hpres) s.marks_self)
  case chip => exact completes_of (State.scalarAtomic_at (haligned hal) (State.locate_chip hwin ho hfit) s.marks_self)
  case scratch =>
    exact completes_of (State.scalarAtomic_at (haligned hal)
      (State.locate_scratch hwin ho hfit hpage hst (fun _ => hwe) hpres) (s.marks_touch ..))
  case global =>
    exact completes_of (State.scalarAtomic_global (haligned hal) hwin hsett hpkg hdom hsent hpend hleaf hpack)
end

section
/-!
SUPPORT. What LGO enqueues, and what `State.settle` makes of it: nothing while a block runs, and the start of the block
where the lane stream is idle (R59, R78).
-/

namespace Sys2Proof.Machine

/-- With no split record there is none at rest (R84). -/
theorem Team.resolveRecs_of_recs_nil {t : Team} (h : t.recs = []) (fuel : Nat) : t.resolveRecs fuel = t := by
  have hnone : t.nextRec = none := by simp [Team.nextRec, h]
  cases fuel with
  | zero => rfl
  | succ fuel => rw [Team.resolveRecs, hnone]

/-- With no complete barrier none is released (R254). -/
theorem Team.releaseBars_of_releases_nil {t : Team} (h : t.releases = []) : t.releaseBars = t := by
  rw [Team.releaseBars, h]

/-- A path that has the turn keeps it (R87). -/
theorem Team.pickNext_of_curPath {t : Team} (h : t.curPath.isSome = true) : t.pickNext = t := by
  obtain ⟨i, hi⟩ := Option.isSome_iff_exists.1 h
  rw [Team.pickNext, hi]

/-- A block that runs and is not done keeps the lane stream (R78). -/
theorem Team.nextBlock_of_running {t : Team} (hb : t.block.isSome = true) (hd : t.blockDone = false) (fuel : Nat) :
    t.nextBlock fuel = t := by
  have hnone : t.block.isNone = false := by simpa using hb
  cases fuel with
  | zero => rfl
  | succ fuel => simp only [Team.nextBlock, hnone, hd, Bool.or_self, Bool.false_eq_true, if_false]

/-- A block that runs and is not done is not turned (R78). -/
theorem State.turnBlocks_of_running {s : State} (hb : s.cur.block.isSome = true) (hd : s.cur.blockDone = false) :
    s.turnBlocks = s := by
  rw [State.turnBlocks]
  split
  · rw [Team.nextBlock_of_running hb hd]
    simp
  · rfl

/-- Where no record is at rest, no barrier is complete and no path is ready at a .PACK, the path table stays, and only the
turn and the blocks move on. -/
theorem State.settle_of_quiet {s : State} (hpack : s.cur.packReady = none) (hrecs : s.cur.recs = [])
    (hrel : s.cur.releases = []) : s.settle = State.turnBlocks { s with cur := s.cur.pickNext } := by
  simp only [State.settle, hpack, Team.resolveRecs_of_recs_nil hrecs, hrel, List.isEmpty_nil, Bool.not_true,
    Bool.false_and, Bool.false_eq_true, if_false, Team.releaseBars_of_releases_nil hrel]

/-- The state with a block enqueued (R59). -/
def State.enqueued (s : State) (y : BitVec 19) : State :=
  { s with cur := { s.cur with queue := s.cur.queue ++ [s.cur.newBlock y.toNat], blocks := s.cur.blocks + 1, seedSet := false } }

section
variable {s : State} {y : BitVec 19}

/-- LGO waits for room in the queue and for the pending registers (R59). -/
theorem exec_lgo_of_full (h : 8 ≤ s.cur.queue.length ∨ s.cur.anyPending = true) : exec (.lgo y) s = .next s := by
  show execLgo y s = _
  rw [execLgo]
  exact congrArg _ (if_pos h)

/-- LGO that need not wait enqueues its block and completes (R59). -/
theorem exec_lgo_of_room (hq : s.cur.queue.length < 8) (hp : s.cur.anyPending = false) :
    exec (.lgo y) s = .next ((s.enqueued y).settle.advance 1) := by
  show execLgo y s = _
  rw [execLgo]
  refine congrArg _ (if_neg ?_)
  rw [hp]
  simpa using hq

/-- Where no path waits at a .PACK or a barrier, no barrier is complete. -/
theorem Team.releases_of_paths_nil {t : Team} (h : t.paths = []) : t.releases = [] := by
  simp [Team.releases, h]

/-- On an idle lane stream a block that has lanes starts at once: one path at its entry with every lane that is not retired
(R78, R129). -/
theorem Team.startBlock_of_idle {t : Team} {b : Block} (hpaths : t.paths = []) (hready : t.ready = [])
    (hcur : t.curPath = none) (hlanes : b.lanes.filter (fun l => !(t.lane l).retired) ≠ []) :
    ∃ p ls ready flagged, t.startBlock b = { t with
        lanes := ls, block := some { b with lanes := b.lanes.filter (fun l => !(t.lane l).retired) }, paths := [p],
        curPath := some p.idx, ready := ready, flagged := flagged }
      ∧ p.ip = b.entry ∧ p.lanes = b.lanes.filter (fun l => !(t.lane l).retired) ∧ p.state = .current ∧ p.wdog = 0 := by
  have hne : (b.lanes.filter (fun l => !(t.lane l).retired)).isEmpty = false := by
    simpa [List.isEmpty_eq_false_iff] using hlanes
  cases hseed : b.snap.seed with
  | none =>
    simp only [Team.startBlock, hseed, hne, Bool.false_eq_true, if_false, Team.pickNext, hpaths, hready, hcur, insertPath,
      List.nil_append, Team.makeCurrent, Team.setPath, List.map_cons, List.map_nil, Path.make, beq_self_eq_true, if_true]
    exact ⟨_, _, _, _, rfl, rfl, rfl, rfl, rfl⟩
  | some seed =>
    simp only [Team.startBlock, hseed, hne, Bool.false_eq_true, if_false, Team.pickNext, hpaths, hready, hcur, insertPath,
      List.nil_append, Team.makeCurrent, Team.setPath, List.map_cons, List.map_nil, Path.make, beq_self_eq_true, if_true]
    exact ⟨_, _, _, _, rfl, rfl, rfl, rfl, rfl⟩

end

/-- With no path ready none takes the turn (R87). -/
theorem Team.pickNext_of_ready_nil {t : Team} (hcur : t.curPath = none) (hready : t.ready = []) : t.pickNext = t := by
  rw [Team.pickNext, hcur, hready]

/-- Where no block runs the first one queued starts (R78). -/
theorem Team.nextBlock_of_idle {t : Team} {b : Block} {bs : List Block} (hb : t.block = none) (hq : t.queue = b :: bs)
    (fuel : Nat) : t.nextBlock (fuel + 1) = (Team.startBlock { t with queue := bs } b).nextBlock fuel := by
  rw [Team.nextBlock]
  simp only [hb, Option.isNone_none, Bool.true_or, if_true, Option.isSome_none, Bool.false_eq_true, if_false, hq]

/-- The only block queued starts on an idle lane stream (R78, R227). -/
theorem State.turnBlocks_of_idle {s : State} {b : Block} (hb : s.cur.block = none) (hq : s.cur.queue = [b])
    (hpaths : s.cur.paths = []) (hready : s.cur.ready = []) (hcur : s.cur.curPath = none)
    (hlanes : b.lanes.filter (fun l => !(s.cur.lane l).retired) ≠ []) :
    ∃ p ls ready flagged l1 reqs, s.turnBlocks = { s with l1 := l1, reqs := reqs, cur := { s.cur with
        queue := [], lanes := ls, block := some { b with lanes := b.lanes.filter (fun l => !(s.cur.lane l).retired) },
        paths := [p], curPath := some p.idx, ready := ready, flagged := flagged } }
      ∧ p.ip = b.entry ∧ p.lanes = b.lanes.filter (fun l => !(s.cur.lane l).retired) ∧ p.state = .current ∧ p.wdog = 0 := by
  obtain ⟨p, ls, ready, flagged, hstart, hip, hpl, hstate, hwdog⟩ :=
    Team.startBlock_of_idle (t := { s.cur with queue := [] }) (b := b) hpaths hready hcur hlanes
  have hnext : s.cur.nextBlock (s.cur.queue.length + 2) = Team.startBlock { s.cur with queue := [] } b := by
    rw [Team.nextBlock_of_idle hb hq, hstart, Team.nextBlock_of_running rfl]
    simp [Team.blockDone, hstate]
  have hquiet : s.blockQuiet = true := by rw [State.blockQuiet, hb]
  simp only [State.turnBlocks, hquiet, if_true, hnext, hstart]
  split
  · obtain ⟨l1, reqs, hdiscard⟩ := State.discardCores_eq { s with cur := { s.cur with
        queue := [], lanes := ls, block := some { b with lanes := b.lanes.filter (fun l => !(s.cur.lane l).retired) },
        paths := [p], curPath := some p.idx, ready := ready, flagged := flagged } }
    exact ⟨p, ls, ready, flagged, l1, reqs, hdiscard, hip, hpl, hstate, hwdog⟩
  · exact ⟨p, ls, ready, flagged, s.l1, s.reqs, rfl, hip, hpl, hstate, hwdog⟩

end Sys2Proof.Machine
end

section
open Sys2Proof Sys2Proof.Machine

/-- Settles O12: LGO enqueues its block; `State.settle` then starts it where none is queued or runs. -/
theorem laneDispatch : Obligations.LaneDispatch := by
  intro s y lanes made
  have hmade (ls : List Nat) : made { s.cur.newBlock y.toNat with lanes := ls } := ⟨rfl, rfl, rfl, rfl, rfl, rfl, rfl⟩
  refine ⟨exec_lgo_of_full, fun hq hp hb hd hpack hrecs hrel hcur => ?queued,
    fun hidle hpaths hrecs hready hcur hwork hinv hlanes => ?started⟩
  case queued =>
    refine ⟨s.cur.newBlock y.toNat, hmade s.cur.startLanes, fun hinv => ⟨?_, ?_⟩, ?_⟩
    · show s.cur.startLanes = _
      rw [Team.startLanes, hinv]
    · show s.cur.inv.isSome = false
      rw [hinv]
      rfl
    · rw [Gives, exec_lgo_of_room hq hp, State.settle_of_quiet (s := s.enqueued y) hpack hrecs hrel,
        Team.pickNext_of_curPath (t := (s.enqueued y).cur) hcur, State.turnBlocks_of_running (s := s.enqueued y) hb hd]
      rfl
  case started =>
    obtain ⟨hqueue, hblock⟩ : s.cur.queue = [] ∧ s.cur.block = none := by
      simpa [Team.lanesIdle] using hidle
    have hstart : s.cur.startLanes = upTo 0 s.cur.kern.lanesN := by rw [Team.startLanes, hinv]
    have hlanes' : (s.cur.newBlock y.toNat).lanes.filter (fun l => !(s.cur.lane l).retired) = lanes := by
      show s.cur.startLanes.filter _ = _
      rw [hstart]
    obtain ⟨p, ls, ready, flagged, l1, reqs, hturn, hip, hpl, hstate, hwdog⟩ :=
      State.turnBlocks_of_idle (s := s.enqueued y) (b := s.cur.newBlock y.toNat) hblock
        (by rw [State.enqueued, hqueue]; rfl) hpaths hready hcur (by rw [← hlanes'] at hlanes; exact hlanes)
    have hgives := exec_lgo_of_room (y := y) (s := s) (by rw [hqueue]; decide)
      (by simp [Team.anyPending, hqueue, hblock])
    rw [State.settle_of_quiet (s := s.enqueued y) (by simp [Team.packReady, State.enqueued, hpaths]) hrecs
        (Team.releases_of_paths_nil hpaths), Team.pickNext_of_ready_nil (t := (s.enqueued y).cur) hcur hready] at hgives
    refine ⟨_, _, p, hgives.trans (congrArg (fun t => (.next (State.advance t 1) : Out)) hturn), Team.advance_block _ 1, hmade _,
      hlanes', Team.advance_queue _ 1, Team.advance_paths _ 1, Team.advance_curPath _ 1, hip, hpl.trans hlanes', hstate,
      hwdog, Team.advance_sregs _ 1, Team.advance_creg _ 1, Team.advance_fstat _ 1, rfl⟩
end

section
/-!
SUPPORT. The waits of the scalar stream by their conditions (R60, R61, R66, R67), and what the end of a team leaves
(R55, R69).
-/

namespace Sys2Proof.Machine

/-! ### Waits -/

section
variable {s : State} {a : Reg} {y : BitVec 19}

/-- The condition of LWAIT (R60). -/
theorem Team.lanesDone_iff (t : Team) : t.lanesDone = true ↔ t.lanesIdle = true ∧ t.anyPending = false := by
  simp [Team.lanesDone]

/-- LWAIT goes on where the lanes are idle (R60). -/
theorem exec_lwait_of_done (h : s.cur.lanesDone = true) : exec .lwait s = .next (s.advance 1) := by
  show execLwait s = _
  rw [execLwait, if_pos h]

/-- LWAIT waits for the lanes (R60). -/
theorem exec_lwait_of_busy (h : ¬ s.cur.lanesDone = true) : exec .lwait s = .next s := by
  show execLwait s = _
  rw [execLwait, if_neg h]

/-- TFENCE goes on where the lanes are idle and no enabled flag is set (R66). -/
theorem exec_tfence_of_done (h : s.cur.lanesDone = true) (hf : s.cur.fstat &&& s.cur.ftrapen = 0) :
    exec .tfence s = .next (s.advance 1) := by
  show execTfence s = _
  simp [execTfence, h, Team.arith, hf]

/-- TFENCE traps an enabled flag (R66). -/
theorem exec_tfence_of_arith (h : s.cur.lanesDone = true) (hf : s.cur.fstat &&& s.cur.ftrapen ≠ 0) :
    exec .tfence s = .next (s.trap codeArith 0) := by
  show execTfence s = _
  rw [execTfence, if_pos h, if_pos]
  simpa [Team.arith] using hf

/-- TFENCE waits for the lanes (R66). -/
theorem exec_tfence_of_busy (h : ¬ s.cur.lanesDone = true) : exec .tfence s = .next s := by
  show execTfence s = _
  rw [execTfence, if_neg h]

/-- WAITT goes on once its time has come (R61). -/
theorem exec_waitt_of_le (hr : s.ready [a] = true) (h : (s.cur.s a).toNat ≤ s.gtc) :
    exec (.waitt a) s = .next (s.done1 (fun t => { t with wait := none })) := by
  show execWaitt a s = _
  rw [execWaitt, State.whenReady_of_ready hr]
  exact congrArg _ (if_pos h)

/-- WAITT waits for its time (R61). -/
theorem exec_waitt_of_lt (hr : s.ready [a] = true) (h : s.gtc < (s.cur.s a).toNat) :
    exec (.waitt a) s = .next { s with cur := { s.cur with wait := some (.waitt (s.cur.s a)) } } := by
  show execWaitt a s = _
  rw [execWaitt, State.whenReady_of_ready hr]
  exact congrArg _ (if_neg (Nat.not_le.2 h))

/-- A team that waits for a time goes on once it has come, and only then (R61). -/
theorem exec_waittGtcReached {x : Word} (hw : s.cur.wait = some (.waitt x)) (hs : s.cur.status = .running)
    (hh : s.halted s.cur.ctx = false) :
    exec .waittGtcReached s = .next (if x.toNat ≤ s.gtc then s.done1 (fun t => { t with wait := none }) else s) := by
  show execWaittGtcReached s = _
  rw [execWaittGtcReached]
  simp only [hw, hs, hh, beq_self_eq_true, Bool.and_true, Bool.not_false, decide_eq_true_eq]
  rfl

end

/-! ### The end of a team (R55, R69, R266) -/

/-- One team's entry of a page changed, where the team is the one named. -/
def Team.setSttOf (uid page : Nat) (f : Stt → Stt) (t : Team) : Team :=
  if t.uid == uid && t.status != .absent then { t with stt := FMap.modify t.stt page f } else t

/-- A change of one team's entry of a page leaves everything but the tables of pages. -/
theorem State.setStt_eq (s : State) (uid page : Nat) (f : Stt → Stt) :
    ∃ others stt, s.setStt uid page f = { s with others := others, cur := { s.cur with stt := stt } } := by
  obtain ⟨stt, hcur⟩ : ∃ stt, s.cur.setSttOf uid page f = { s.cur with stt := stt } := by
    rw [Team.setSttOf]
    split
    · exact ⟨_, rfl⟩
    · exact ⟨s.cur.stt, rfl⟩
  exact ⟨_, stt, congrArg (fun t => { s with cur := t, others := s.others.map (Team.setSttOf uid page f) }) hcur⟩

/-- Memory changed on a condition. -/
theorem State.ite_mem (s : State) (c : Prop) [Decidable c] (m : Memory) :
    (if c then { s with mem := m } else s) = { s with mem := if c then m else s.mem } := by
  split <;> rfl

/-- A page that leaves its frame changes bytes, the entry of the page and the table of frames. -/
theorem State.evict_eq (s : State) (fr : Nat) : ∃ mem frames others stt,
    s.evict fr = { s with mem := mem, frames := frames, others := others, cur := { s.cur with stt := stt } } := by
  rw [State.evict]
  split
  · exact ⟨s.mem, s.frames, s.others, s.cur.stt, rfl⟩
  · split
    · exact ⟨s.mem, _, s.others, s.cur.stt, rfl⟩
    · next uid page _ =>
      simp only [State.ite_mem]
      obtain ⟨others, stt, h⟩ := State.setStt_eq { s with mem := _ } uid page _
      exact ⟨_, _, others, stt, congrArg (fun u : State => { u with frames := FMap.erase u.frames fr }) h⟩

/-- The frames of a team given back: bytes, entries of pages and the table of frames change. -/
theorem State.freeFrames_eq (s : State) (uid : Nat) : ∃ mem frames others stt,
    s.freeFrames uid = { s with mem := mem, frames := frames, others := others, cur := { s.cur with stt := stt } } := by
  rw [State.freeFrames]
  generalize s.frames.filter _ = xs
  induction xs generalizing s with
  | nil => exact ⟨s.mem, s.frames, s.others, s.cur.stt, rfl⟩
  | cons x xs ih =>
    obtain ⟨mem, frames, others, stt, hx⟩ := s.evict_eq x.1
    obtain ⟨mem', frames', others', stt', hxs⟩ := ih (s.evict x.1)
    refine ⟨mem', frames', others', stt', hxs.trans ?_⟩
    rw [hx]

/-- A gang whose teams have all ended gives its cluster memory back: the sett's allocation changes. -/
theorem State.freeGang_eq (s : State) : ∃ setts, s.freeGang = { s with setts := setts } := by
  rw [State.freeGang]
  split
  · exact ⟨s.setts, rfl⟩
  · exact ⟨_, rfl⟩

/-- The context of a team that ends: its reservation goes back to the account, and the end is dated (R55, R69). -/
def Context.teamEnded (c : Context) (t : Team) (now : Nat) : Context :=
  { c with accounts := FMap.modify c.accounts t.sett (fun a => { a with balance := a.balance + t.reserve }), endedAt := now }

/-- A team stopped, before its gang's memory and its frames go back: its status, no command and no wait, its reservation
returned, the end counted in its grid (R55, R69, R266). -/
def State.stopped (s : State) (st : Status) : State :=
  let rounds := s.cur.fired.any (fun f => match f.cmd.op with | .spanMma _ _ _ _ _ => true | _ => false)
  { s with
    ctxs := FMap.modify s.ctxs s.cur.ctx (fun c => c.teamEnded s.cur s.gtc),
    grids := FMap.modify s.grids s.cur.gridId.toNat (fun g => { g with ended := g.ended + 1, faulted := g.faulted || st == .faulted }),
    setts := (s.setSett s.cur.sett (fun x => { x with
      clusterIdle := FMap.set x.clusterIdle (clusterOf s.cur.core) s.gtc })).setts,
    far := (s.far.filter (fun x => x.who != .code s.cur.uid)).filter (fun x => x.who != .faults s.cur.uid),
    cur := { s.cur with
      status := st, reserve := 0, mvq := [], mxq := [], wait := none, span := if rounds then s.cur.span else none } }

/-- The end of a team: it stops, its gang gives back its memory, and its frames go where no command of it runs. -/
theorem State.endTeam_eq_stopped (s : State) (st : Status) : s.endTeam st
    = if s.cur.fired.isEmpty then (s.stopped st).freeGang.freeFrames s.cur.uid else (s.stopped st).freeGang := rfl

/-- A team without a running command leaves its span when it stops (R280). -/
theorem State.stopped_span {s : State} (h : s.cur.fired = []) (st : Status) : (s.stopped st).cur.span = none := by
  simp [State.stopped, h]

/-- What the end of a team leaves (R55, R69, R266). -/
theorem State.endTeam_eq (s : State) (st : Status) : ∃ mem frames others stt setts grids far span,
    s.endTeam st = { s with
        mem := mem, frames := frames, others := others, setts := setts, grids := grids, far := far,
        ctxs := FMap.modify s.ctxs s.cur.ctx (fun c => c.teamEnded s.cur s.gtc),
        cur := { s.cur with status := st, reserve := 0, mvq := [], mxq := [], wait := none, span := span, stt := stt } }
      ∧ (s.cur.fired = [] → span = none) := by
  obtain ⟨setts, hgang⟩ := (s.stopped st).freeGang_eq
  rw [State.endTeam_eq_stopped, hgang]
  split
  · obtain ⟨mem, frames, others, stt, hfree⟩ := State.freeFrames_eq { s.stopped st with setts := setts } s.cur.uid
    exact ⟨mem, frames, others, stt, setts, _, _, _, hfree, fun h => State.stopped_span h st⟩
  · exact ⟨s.mem, s.frames, s.others, s.cur.stt, setts, _, _, _, rfl, fun h => State.stopped_span h st⟩

/-- The waits of SHALT (R55). -/
theorem State.haltReady_iff (s : State) : s.haltReady = true ↔ s.cur.lanesIdle = true ∧ s.cur.anyPending = false
    ∧ s.cur.mvq = [] ∧ s.cur.mxq = [] ∧ s.cur.fired = [] ∧ s.cur.sent = [] ∧ ∀ r ∈ s.reqs, r.uid ≠ s.cur.uid := by
  simp only [State.haltReady, Bool.and_eq_true, Team.lanesDone_iff, List.isEmpty_iff, Bool.not_eq_true', List.any_eq_false,
    beq_iff_eq, and_assoc, ne_eq]

/-- SHALT ends the team where nothing holds it, and waits otherwise (R55). -/
theorem exec_shalt (s : State) : exec .shalt s = .next (if s.haltReady = true then s.endTeam .complete else s) := rfl

end Sys2Proof.Machine
end

section
open Sys2Proof Sys2Proof.Machine

/-- Settles O13: every wait by its condition, the end of a team by what `State.endTeam` leaves. -/
theorem waitsAndHalt : Obligations.WaitsAndHalt := by
  refine ⟨?waits, ?halt⟩
  case waits =>
    intro s a y idle
    have hidle : s.cur.lanesDone = true ↔ idle := s.cur.lanesDone_iff
    refine ⟨fun h => exec_lwait_of_done (hidle.2 h), fun h => exec_lwait_of_busy (mt hidle.1 h),
      fun h hf => exec_tfence_of_done (hidle.2 h) hf, fun h hf => exec_tfence_of_arith (hidle.2 h) hf,
      fun h => exec_tfence_of_busy (mt hidle.1 h), exec_waitt_of_le, exec_waitt_of_lt,
      fun x hw hs hh => ⟨fun hle => ?reached, fun hlt => ?early⟩, ?phint⟩
    case reached => rw [Gives, exec_waittGtcReached hw hs hh, if_pos hle]
    case early => rw [Gives, exec_waittGtcReached hw hs hh, if_neg (Nat.not_le.2 hlt)]
    case phint =>
      show execPhint y s = _
      rw [execPhint, shiftLeft_two_eq_four_mul]
      rfl
  case halt =>
    intro s c idle
    have hidle : s.haltReady = true ↔ idle := s.haltReady_iff
    refine ⟨fun h => ?busy, fun h => ?ends⟩
    case busy => rw [Gives, exec_shalt, if_neg (mt hidle.1 h)]
    case ends =>
      have hgives : Gives .shalt s (s.endTeam .complete) := by rw [Gives, exec_shalt, if_pos (hidle.2 h)]
      obtain ⟨-, -, -, -, hfired, -⟩ := h
      obtain ⟨mem, frames, others, stt, setts, grids, far, span, hend, hspan⟩ := s.endTeam_eq .complete
      rw [hend] at hgives
      refine ⟨_, hgives, rfl, rfl, rfl, rfl, hspan hfired, rfl,
        fun hc a ha => ⟨c.teamEnded s.cur s.gtc, ?_, ?_⟩⟩
      · rw [State.ctx?, FMap.get?_modify, if_pos rfl]
        exact congrArg (Option.map _) hc
      · rw [Context.teamEnded, FMap.get?_modify, if_pos rfl, ha]
        rfl
end

section
/-!
SUPPORT. TRET of a scalar invocation (R342), and what a scalar trap leaves (R33, R34, R334, R344, R345).
-/

namespace Sys2Proof.Machine

/-! ### TRAP and TRET (R64, R65, R342) -/

/-- The user's lane work taken up again changes only the lane work. -/
theorem Team.unparkWork_eq (t : Team) : ∃ userWork queue block paths recs ready curPath, t.unparkWork = { t with
    userWork := userWork, queue := queue, block := block, paths := paths, recs := recs, ready := ready, curPath := curPath } := by
  rw [Team.unparkWork]
  split
  · exact ⟨t.userWork, t.queue, t.block, t.paths, t.recs, t.ready, t.curPath, rfl⟩
  · exact ⟨_, _, _, _, _, _, _, rfl⟩

section
variable {s : State}

/-- TRET in user mode (R65). -/
theorem exec_tret_of_user (h : s.cur.mode = .user) : exec .tret s = .next (s.trap codePriv 0) := by
  show execTret s = _
  rw [execTret, State.supervisorOnly, if_pos h]

/-- TRET of a scalar invocation takes the user's lane work up again and goes by the disposition of slot 0 (R342). -/
theorem exec_tret_of_scalar {v : Invocation} (hmode : s.cur.mode = .supervisor) (hdone : s.cur.lanesDone = true)
    (hinv : s.cur.inv = some v) (hscalar : v.scalar = true) :
    exec .tret s = .next (
      let u : State := { s with cur := s.cur.unparkWork }
      let d := u.slotAt 0 58 1
      if d = 0 then u.leaveHandler
      else if d = 1 then u.completeScalar
      else if d = 3 ∧ v.code = codeNotPresent then
        let page := u.slotAt 0 8 8 / 2 ^ 16
        let w := u.teamEvent 6 codeNotPresent 0 (BitVec.ofNat 64 (page * 2 ^ 16))
        let fs := w.cur.frame.map (fun (f : Frame) => { f with wait := some (Wait.host (BitVec.ofNat 64 (page * 2 ^ 16))) })
        State.leaveHandler { w with cur := { w.cur with frame := fs } }
      else u.stopTeam (u.slotAt 0 0 1) 0) := by
  show execTret s = _
  have hnot : ¬ s.cur.mode = .user := by rw [hmode]; decide
  rw [execTret, State.supervisorOnly, if_neg hnot, if_pos hdone, State.trapReturn, hinv]
  exact congrArg _ (if_pos hscalar)

/-- What a read of a line of DRAM returns (R202). -/
theorem State.readLine_fst (s : State) (cmp : Bool) (k n : Nat) : (s.readLine cmp k n).1
    = if s.packState k = 0 ∨ (s.packState k = 1 ∧ cmp) then s.mem.getBytes k n else (s.drawBytes n).1 := by
  rw [State.readLine]
  split <;> rfl

/-- A read of device memory depends on no team. -/
theorem State.devRead_cur (s : State) (t : Team) (ctx a n : Nat) :
    State.devRead { s with cur := t } ctx a n = s.devRead ctx a n := by
  induction n generalizing a with
  | zero => rfl
  | succ n ih =>
    have hleaf : State.devLeaf { s with cur := t } ctx a .load = s.devLeaf ctx a .load := rfl
    rw [State.devRead, State.devRead, hleaf]
    simp only [ih, State.readLine_fst]
    rfl

/-- The disposition of slot 0 does not depend on the lane work. -/
theorem State.slotAt_unparkWork (s : State) :
    State.slotAt { s with cur := s.cur.unparkWork } 0 58 1 = s.slotAt 0 58 1 := by
  obtain ⟨userWork, queue, block, paths, recs, ready, curPath, hwork⟩ := s.cur.unparkWork_eq
  rw [hwork]
  simp only [State.slotAt, State.devNat, State.devRead_cur]

/-- A team that stops keeps its user frame and is FAULTED (R344). -/
theorem State.stopTeam_cur (s : State) (code count : Nat) : (s.stopTeam code count).cur = (s.endTeam .faulted).cur := rfl

end

end Sys2Proof.Machine
end

section
open Sys2Proof Sys2Proof.Machine

/-- Settles O14: TRET by its mode and by the disposition of slot 0. -/
theorem trapAndReturn : Obligations.TrapAndReturn := by
  refine ⟨fun s n => ⟨rfl, exec_tret_of_user⟩, fun s v f hmode hidle hpend hinv hscalar hframe hqueue => ?_⟩
  have htret := exec_tret_of_scalar hmode ((s.cur.lanesDone_iff).2 ⟨hidle, hpend⟩) hinv hscalar
  simp only [State.slotAt_unparkWork] at htret
  obtain ⟨userWork, queue, block, paths, recs, ready, curPath, hwork⟩ := s.cur.unparkWork_eq
  refine ⟨fun hreplay => ?replay, fun hretire => ?retire⟩
  case replay =>
    rw [if_pos hreplay, State.leaveHandler] at htret
    rw [hwork] at htret
    simp only [hqueue, hframe, List.isEmpty_nil, if_true] at htret
    exact ⟨_, htret, rfl, rfl, rfl, rfl, rfl, rfl, rfl, rfl, rfl, rfl, rfl, rfl, rfl, rfl, rfl, rfl⟩
  case retire =>
    rw [if_neg (by omega), if_neg (by omega), if_neg (by omega)] at htret
    refine ⟨_, htret, ?_⟩
    obtain ⟨mem, frames, others, stt, setts, grids, far, span, hend, -⟩ :=
      State.endTeam_eq { s with cur := s.cur.unparkWork } .faulted
    rw [State.stopTeam_cur, hend]
    refine ⟨rfl, ?_⟩
    rw [hwork]
    exact hframe
end

section
/-!
SUPPORT. What a write of the device to memory changes and what it does not depend on (R202, R236, R334), and the scalar
trap (R33, R34, R344, R345).
-/

namespace Sys2Proof.Machine

/-! ### Writes of the device -/

/-- Bytes broken by a race draw on the undefined values only (R236). -/
theorem breakBytes_eq (s : State) (ranges : List (Nat × Nat)) (k : Nat) (bs : List Byte) :
    ∃ free, (breakBytes s ranges k bs).2 = { s with free := free } := by
  induction bs generalizing s k with
  | nil => exact ⟨s.free, rfl⟩
  | cons b bs ih =>
    simp only [breakBytes]
    split
    · obtain ⟨free, h⟩ := ih { s with free := s.free + 1 } (k + 1)
      exact ⟨free, h⟩
    · exact ih s (k + 1)

/-- A write of the device changes bytes, the undefined values and the marks of races (R236). -/
theorem State.poke_none_eq (s : State) (k : Nat) (bs : List Byte) : ∃ mem free,
    s.poke none k bs = { s with
      mem := mem, free := free, cur := s.cur.race none (s.logKey k) bs.length,
      others := s.others.map (fun t => t.race none (s.logKey k) bs.length) } := by
  obtain ⟨free, hbreak⟩ := breakBytes_eq s (s.hotRanges none) (s.logKey k) bs
  by_cases hc : s.calm none k bs.length = true
  · simp only [State.poke, hc, if_true, List.isEmpty_nil]
    exact ⟨_, s.free, rfl⟩
  · simp only [State.poke, hc, Bool.false_eq_true, if_false, hbreak, List.isEmpty_nil, if_true]
    exact ⟨_, free, rfl⟩

/-- A write of the device to lines of DRAM changes bytes, states of lines, undefined values and the marks of races. -/
theorem State.writeLine_none_eq (s : State) (cmp : Bool) (k : Nat) (bs : List Byte) : ∃ mem packed free others fired wlog,
    s.writeLine none cmp k bs = { s with
      mem := mem, packed := packed, free := free, others := others, cur := { s.cur with fired := fired, wlog := wlog } } := by
  obtain ⟨packed, hline⟩ := s.writeLine_eq none cmp k bs
  obtain ⟨mem, free, hpoke⟩ := s.poke_none_eq k bs
  rw [hline, hpoke]
  exact ⟨_, _, _, _, _, _, rfl⟩

/-- A write of the device to a range changes nothing else. -/
theorem State.writeSpan_none_eq (s : State) (cmp : Bool) (k : Nat) (bs : List Byte) : ∃ mem packed free others fired wlog,
    s.writeSpan none cmp k bs = { s with
      mem := mem, packed := packed, free := free, others := others, cur := { s.cur with fired := fired, wlog := wlog } } := by
  rw [State.writeSpan]
  generalize linePieces _ k bs = xs
  induction xs generalizing s with
  | nil => exact ⟨s.mem, s.packed, s.free, s.others, s.cur.fired, s.cur.wlog, rfl⟩
  | cons x xs ih =>
    obtain ⟨_, _, _, _, _, _, hx⟩ := s.writeLine_none_eq cmp x.1 x.2
    obtain ⟨mem, packed, free, others, fired, wlog, hxs⟩ := ih (s.writeLine none cmp x.1 x.2)
    refine ⟨mem, packed, free, others, fired, wlog, hxs.trans ?_⟩
    rw [hx]

/-- A write of the device to a context's memory changes nothing else. -/
theorem State.devWrite_eq (s : State) (ctx a : Nat) (bs : List Byte) : ∃ mem packed free others fired wlog,
    s.devWrite ctx a bs = { s with
      mem := mem, packed := packed, free := free, others := others, cur := { s.cur with fired := fired, wlog := wlog } } := by
  rw [State.devWrite]
  split
  · exact ⟨s.mem, s.packed, s.free, s.others, s.cur.fired, s.cur.wlog, rfl⟩
  · exact s.writeSpan_none_eq _ _ bs

/-! ### What such a write does not depend on -/

/-- The state with other words asked of other packages and another record of a trap. -/
def State.noted (s : State) (far : List FarLine) (record : List Byte) : State :=
  { s with far := far, cur := { s.cur with record := record } }

section
variable (s : State) (far : List FarLine) (r : List Byte)

/-- Bytes broken by a race do not depend on these. -/
theorem breakBytes_noted (ranges : List (Nat × Nat)) (k : Nat) (bs : List Byte) :
    breakBytes (s.noted far r) ranges k bs = ((breakBytes s ranges k bs).1, (breakBytes s ranges k bs).2.noted far r) := by
  induction bs generalizing s k with
  | nil => rfl
  | cons b bs ih =>
    simp only [breakBytes]
    split
    · have hdraw : (s.noted far r).drawBytes 1 = ((s.drawBytes 1).1, (s.drawBytes 1).2.noted far r) := rfl
      rw [hdraw]
      simp only [ih]
    · simp only [ih]

/-- Nor does a write of the device. -/
theorem State.poke_none_noted (k : Nat) (bs : List Byte) :
    (s.noted far r).poke none k bs = (s.poke none k bs).noted far r := by
  have hcalm : (s.noted far r).calm none k bs.length = s.calm none k bs.length := rfl
  have hranges : (s.noted far r).hotRanges none = s.hotRanges none := rfl
  have hkey : (s.noted far r).logKey k = s.logKey k := rfl
  simp only [State.poke, hcalm, hranges, hkey]
  by_cases hc : s.calm none k bs.length = true
  · simp only [hc, if_true]
    rfl
  · simp only [hc, Bool.false_eq_true, if_false, breakBytes_noted]
    rfl

/-- Nor does a write of the device to a line. -/
theorem State.writeLine_none_noted (cmp : Bool) (k : Nat) (bs : List Byte) :
    (s.noted far r).writeLine none cmp k bs = (s.writeLine none cmp k bs).noted far r := by
  have hpack : (s.noted far r).packState k = s.packState k := rfl
  have hset (u : State) (v : Nat) : (u.noted far r).setPack k v = (u.setPack k v).noted far r := rfl
  simp only [State.writeLine, State.poke_none_noted, hpack, hset]
  split
  · split <;> rfl
  · split
    · rfl
    · split <;> rfl

/-- Nor does a write of the device to a range. -/
theorem State.writeSpan_none_noted (cmp : Bool) (k : Nat) (bs : List Byte) :
    (s.noted far r).writeSpan none cmp k bs = (s.writeSpan none cmp k bs).noted far r := by
  rw [State.writeSpan, State.writeSpan]
  generalize linePieces _ _ bs = xs
  induction xs generalizing s with
  | nil => rfl
  | cons x xs ih => rw [List.foldl_cons, List.foldl_cons, State.writeLine_none_noted, ih]

/-- Nor does a write of the device to a context's memory. -/
theorem State.devWrite_noted (ctx a : Nat) (bs : List Byte) :
    (s.noted far r).devWrite ctx a bs = (s.devWrite ctx a bs).noted far r := by
  have hleaf : (s.noted far r).devLeaf ctx a .store = s.devLeaf ctx a .store := rfl
  rw [State.devWrite, State.devWrite, hleaf]
  split
  · rfl
  · exact s.writeSpan_none_noted far r _ _ bs

end

/-! ### The scalar trap (R33, R344) -/

section
variable {s : State} {f : FaultInfo}

/-- A scalar trap outside a handler whose resolution is known: its record, and the handler queued or the team stopped. -/
theorem State.takeTrap_of_lookup {r : Resolution} (hh : s.halted s.cur.ctx = false) (hinv : s.cur.inv = none)
    (hl : s.lookup f.code = .ok r) : ∃ far, s.takeTrap f = (
      let u := s.noted far (scalarRecord s.cur f)
      match r with
      | .handler k => (u.writeSlot 0 (slotBytes f (scalarRecord s.cur f) 0)).setCur (fun t => { t with
          hqueue := t.hqueue ++ [{ scalar := true, group := 0, code := f.code, paths := [], lanes := [], addr := f.addr, kern := k }] })
      | .action _ => (u.writeSlot 0 (slotBytes f (scalarRecord s.cur f) 4)).stopTeam f.code 0) := by
  have hunread : s.unread [f.code] = none := by simp [State.unread, hl]
  have hhow : s.resolution f.code = r := by simp [State.resolution, hl]
  have huser : ¬ s.cur.inv.isSome = true := by rw [hinv]; decide
  refine ⟨s.faultsRead.far, ?_⟩
  rw [State.takeTrap, hh, if_neg Bool.false_ne_true, if_neg huser, hunread, hhow]
  refine (if_neg huser).trans ?_
  cases r <;> rfl

end

end Sys2Proof.Machine
end

section
open Sys2Proof Sys2Proof.Machine

/-- Settles O15: the trap's record and slot, then the stop of the team or the invocation queued. -/
theorem trapTaken : Obligations.TrapTaken := by
  refine ⟨fun s f act c hh hinv hl hc => ?stops, fun s f k hh hinv hl => ?handled⟩
  case stops =>
    intro t
    obtain ⟨far, htrap⟩ := State.takeTrap_of_lookup hh hinv hl
    obtain ⟨mem, packed, free, others, fired, wlog, hslot⟩ :=
      (s.noted far (scalarRecord s.cur f)).devWrite_eq s.cur.ctx (s.cur.area.toNat + 64 * 0) (slotBytes f (scalarRecord s.cur f) 4)
    have ht : t = ((s.noted far (scalarRecord s.cur f)).writeSlot 0 (slotBytes f (scalarRecord s.cur f) 4)).stopTeam f.code 0 := htrap
    obtain ⟨mem', frames, others', stt, setts, grids, far', span, hend, -⟩ :=
      State.endTeam_eq ((s.noted far (scalarRecord s.cur f)).writeSlot 0 (slotBytes f (scalarRecord s.cur f) 4)) .faulted
    have hwrite : (s.noted far (scalarRecord s.cur f)).writeSlot 0 (slotBytes f (scalarRecord s.cur f) 4) = _ := hslot
    rw [hwrite] at hend ht
    rw [State.stopTeam, hend] at ht
    clear_value t
    subst ht
    refine ⟨rfl, rfl, ⟨rfl, rfl, rfl, rfl, rfl, rfl, rfl, rfl, rfl, rfl, rfl, rfl, rfl, rfl, rfl, rfl, rfl, rfl⟩, rfl, rfl, ?_⟩
    have hctx : FMap.get? s.ctxs s.cur.ctx = some c := hc
    simp only [State.eventsOf, State.ctx?, State.teamEvent, State.event, State.setCtx, FMap.get?_modify, if_true,
      State.noted, hctx]
    rfl
  case handled =>
    intro record t
    obtain ⟨far, htrap⟩ := State.takeTrap_of_lookup hh hinv hl
    have hslot := s.devWrite_noted far (scalarRecord s.cur f) s.cur.ctx s.cur.area.toNat (slotBytes f (scalarRecord s.cur f) 0)
    obtain ⟨mem, packed, free, others, fired, wlog, hwrite⟩ :=
      s.devWrite_eq s.cur.ctx s.cur.area.toNat (slotBytes f (scalarRecord s.cur f) 0)
    have ht : t = ((s.noted far (scalarRecord s.cur f)).devWrite s.cur.ctx s.cur.area.toNat
        (slotBytes f (scalarRecord s.cur f) 0)).setCur (fun t => { t with
          hqueue := t.hqueue ++ [{ scalar := true, group := 0, code := f.code, paths := [], lanes := [], addr := f.addr, kern := k }] }) := htrap
    refine ⟨?_, ?_, ?_, ?_, ?_⟩
    case refine_5 =>
      rw [ht, hslot]
      rfl
    all_goals rw [ht, hslot, hwrite]
    · exact ⟨rfl, rfl, rfl, rfl, rfl, rfl, rfl, rfl, rfl, rfl, rfl, rfl, rfl, rfl, rfl, rfl, rfl, rfl⟩
    all_goals rfl
end

section
/-!
SUPPORT. The state a handler starts in (R338, R339).
-/

namespace Sys2Proof.Machine

/-- A path that takes the turn changes only the paths and their order (R87). -/
theorem Team.pickNext_eq (t : Team) : ∃ paths ready curPath flagged, t.pickNext = { t with
    paths := paths, ready := ready, curPath := curPath, flagged := flagged } := by
  rw [Team.pickNext]
  split
  · exact ⟨t.paths, t.ready, t.curPath, t.flagged, rfl⟩
  · split
    · exact ⟨t.paths, t.ready, t.curPath, t.flagged, rfl⟩
    · exact ⟨_, _, _, _, rfl⟩

/-- A path that goes to the tail changes only the paths and their order (R87). -/
theorem Team.toTail_eq (t : Team) : ∃ paths ready curPath flagged, t.toTail = { t with
    paths := paths, ready := ready, curPath := curPath, flagged := flagged } := by
  rw [Team.toTail]
  split
  · exact ⟨t.paths, t.ready, t.curPath, t.flagged, rfl⟩
  · split
    · exact ⟨_, _, _, _, rfl⟩
    · exact Team.pickNext_eq _

/-- The user's lane work put aside changes only the lane work (R338). -/
theorem Team.parkWork_eq (t : Team) : ∃ flagged userWork, t.parkWork = { t with
    flagged := flagged, userWork := userWork, queue := [], block := none, paths := [], recs := [], ready := [],
    curPath := none } := by
  obtain ⟨paths, ready, curPath, flagged, htail⟩ := t.toTail_eq
  rw [Team.parkWork]
  split
  · rw [htail]
    exact ⟨_, _, rfl⟩
  · exact ⟨_, _, rfl⟩

/-- The state a handler starts in, for the first invocation queued (R338, R339). -/
theorem Team.enter_of_cons {t : Team} {v : Invocation} {vs : List Invocation} (hq : t.hqueue = v :: vs) (hf : t.frame = none) :
    ∃ flagged userWork, t.enter = { t with
      flagged := flagged, userWork := userWork, queue := [], block := none, paths := [], recs := [], ready := [],
      curPath := none, frame := some t.toFrame, mode := .supervisor, sregs := (Vector.replicate 64 0).set 1 t.area,
      creg := Vector.replicate 8 false, ls := Vector.replicate 4 0, le := Vector.replicate 4 0, lc := Vector.replicate 4 0,
      armed := 0, fmode := 0, ftrapen := 0, pkr := 0, hcause := causeWord v, hva := v.addr,
      hmask := maskWord t.kern.gwidth v, hrec := t.area, spc := v.kern.sbase + BitVec.ofNat 64 v.kern.sentry, hqueue := vs,
      inv := some v, hkern := some v.kern, wait := none } := by
  obtain ⟨flagged, userWork, hpark⟩ := t.parkWork_eq
  refine ⟨flagged, userWork, ?_⟩
  simp only [Team.enter, hq, hf, hpark, Option.getD_none]

/-- HCAUSE holds the code of the invocation in its low byte (R339). -/
theorem causeWord_code {v : Invocation} (h : v.code < 256) : (causeWord v).toNat % 256 = v.code := by
  have hlow (x y z : Nat) (hx : x = 0 ∨ x = 2 ^ 8) (hz : z = 0 ∨ ∃ i, z = i * 2 ^ 32) :
      (BitVec.ofNat 64 (v.code + x + y * 2 ^ 16 + z)).toNat % 256 = v.code := by
    rw [BitVec.toNat_ofNat]
    rcases hx with rfl | rfl <;> rcases hz with rfl | ⟨i, rfl⟩ <;> omega
  refine hlow _ _ _ ?_ ?_
  · split
    · exact Or.inr rfl
    · exact Or.inl rfl
  · split
    · exact Or.inr ⟨_, rfl⟩
    · exact Or.inl rfl

/-- HANDLER_ENTRY of a team that waits for one (R338). -/
theorem exec_handlerEntry {s : State} {v : Invocation} {vs : List Invocation} (hrun : s.cur.status = .running)
    (hq : s.cur.hqueue = v :: vs) (hinv : s.cur.inv = none) (hsent : s.cur.sent = []) (hh : s.halted s.cur.ctx = false) :
    exec .handlerEntry s = .next { s with cur := s.cur.enter } := by
  show execHandlerEntry s = _
  rw [execHandlerEntry, if_pos]
  simp [Team.wantsHandler, hrun, hq, hinv, hsent, hh]

end Sys2Proof.Machine
end

section
open Sys2Proof Sys2Proof.Machine

/-- Settles O16: the state a handler starts in, read field by field. -/
theorem handlerEntered : Obligations.HandlerEntered := by
  intro s v vs hrun hq hinv hframe hsent hh
  obtain ⟨flagged, userWork, henter⟩ := Team.enter_of_cons hq hframe
  have hgives := exec_handlerEntry hrun hq hinv hsent hh
  rw [henter] at hgives
  refine ⟨_, hgives, rfl, rfl, rfl, fun r hr => ?other, fun k => ?cond, rfl, rfl, rfl, rfl, fun k => ?loops, rfl, rfl, rfl,
    rfl, causeWord_code, rfl, rfl, ⟨s.cur.toFrame, rfl, rfl, rfl, rfl, rfl, rfl, rfl, rfl, rfl, rfl, rfl⟩, rfl, rfl⟩
  case other =>
    have hne : 1 ≠ r.toNat := fun h => hr (BitVec.eq_of_toNat_eq h.symm)
    rw [Team.s]
    split
    · rfl
    · rw [Vector.getElem_set_ne _ _ hne, Vector.getElem_replicate]
  case cond => exact Vector.getElem_replicate _
  case loops => exact ⟨Vector.getElem_replicate _, Vector.getElem_replicate _, Vector.getElem_replicate _⟩
end

section
/-!
SUPPORT. PGMAP of a page of this package by its status (R68, R214), and the reservations of ENRES (R69).
-/

namespace Sys2Proof.Machine

/-! ### Mapping (R68) -/

/-- Nothing changed but bytes, states of lines and what the contexts hold. -/
def State.mapsOnly (s u : State) : Prop := ∃ mem packed ctxs, u = { s with mem := mem, packed := packed, ctxs := ctxs }

theorem State.mapsOnly_refl (s : State) : s.mapsOnly s := ⟨s.mem, s.packed, s.ctxs, rfl⟩

theorem State.mapsOnly_trans {s u v : State} (h : s.mapsOnly u) (h' : u.mapsOnly v) : s.mapsOnly v := by
  obtain ⟨_, _, _, rfl⟩ := h
  obtain ⟨mem, packed, ctxs, rfl⟩ := h'
  exact ⟨mem, packed, ctxs, rfl⟩

/-- What a mapping answers and leaves (R68): a status up to 3, with 1 to 3 nothing changed, and else nothing but bytes, states of
lines and pools. -/
def State.mapped (s : State) (u : Nat × State) : Prop := u.1 ≤ 3 ∧ (u.1 ≠ 0 → u.2 = s) ∧ s.mapsOnly u.2

section
variable (s : State) (ctx sett off : Nat) (size : PageSize) (key : BitVec 5) (x w r : Bool)

/-- A mapping that is refused. -/
theorem State.mapped_of_refused {n : Nat} (hn : n ≤ 3) : s.mapped (n, s) := ⟨hn, fun _ => rfl, s.mapsOnly_refl⟩

/-- A mapping that is made. -/
theorem State.mapped_of_made {u : State} (h : s.mapsOnly u) : s.mapped (0, u) := ⟨Nat.zero_le 3, fun h => absurd rfl h, h⟩

/-- What a mapping leaves at the owning sett (R68). -/
theorem State.mapped_mapPage : s.mapped (s.mapPage ctx sett off size key x w r) := by
  simp only [State.mapPage]
  split
  · exact s.mapped_of_refused (by decide)
  · split
    · exact s.mapped_of_refused (by decide)
    · split
      · exact s.mapped_of_refused (by decide)
      · split
        · exact s.mapped_of_refused (by decide)
        · exact s.mapped_of_refused (by decide)
        · split
          · exact s.mapped_of_refused (by decide)
          · exact s.mapped_of_made ⟨_, _, _, rfl⟩

/-- Pages mapped one after another. -/
theorem State.mapsOnly_mapAll (ps : List Nat) : s.mapsOnly (mapAll ctx sett key x w r ps s) := by
  induction ps generalizing s with
  | nil => exact s.mapsOnly_refl
  | cons p ps ih => exact State.mapsOnly_trans (s.mapped_mapPage ctx sett p .k64 key x w r).2.2 (ih _)

/-- The widening (R214). -/
theorem State.mapsOnly_widen (page : Nat) (bs : List Nat) : s.mapsOnly (widen ctx sett page key x w r bs s) := by
  induction bs generalizing s with
  | nil => exact s.mapsOnly_refl
  | cons b bs ih =>
    exact iteInduction (motive := s.mapsOnly) (fun _ => s.mapsOnly_refl)
      fun _ => State.mapsOnly_trans (s.mapsOnly_mapAll ctx sett key x w r _) (ih _)

/-- PGMAP of a page of this package (R68, R214). -/
theorem State.mapped_pgmapHere : s.mapped (s.pgmapHere sett off size key x w r) := by
  have hmap := s.mapped_mapPage s.cur.ctx sett off size key x w r
  simp only [State.pgmapHere]
  split
  · exact s.mapped_of_made (State.mapsOnly_trans hmap.2.2 (State.mapsOnly_widen _ _ sett key x w r _ _))
  · exact hmap

end

/-- A refusal of a mapping reaches PGMAP (R68). -/
theorem State.pgmapHere_of_refused {s : State} {sett off n : Nat} {size : PageSize} {key : BitVec 5} {x w r : Bool}
    (h : s.mapPage s.cur.ctx sett off size key x w r = (n + 1, s)) : s.pgmapHere sett off size key x w r = (n + 1, s) := by
  simp only [State.pgmapHere, h]
  exact if_neg fun h => absurd h.1 (Nat.succ_ne_zero n)

section
variable {s : State} {a b : Reg} {x w r : Bool} {key : BitVec 5} {size : PageSize}

/-- PGMAP in user mode (R68). -/
theorem exec_pgmap_of_user (h : s.cur.mode = .user) : exec (.pgmap a b x w r key size) s = .next (s.trap codePriv 0) := by
  show execPgmap a b x w r key size s = _
  rw [execPgmap, State.supervisorOnly, if_pos h]

variable (hmode : s.cur.mode = .supervisor) (hr : s.ready [a, b] = true)
include hmode hr

/-- PGMAP of an address outside window 0 or of a sett that is none (R68). -/
theorem exec_pgmap_of_format (h : bitsNat (s.cur.s a).toNat 63 60 ≠ 0 ∨ 48 ≤ bitsNat (s.cur.s a).toNat 53 48) :
    exec (.pgmap a b x w r key size) s = .next (s.trap codeGvaFormat (s.cur.s a)) := by
  show execPgmap a b x w r key size s = _
  rw [execPgmap, State.supervisorOnly, if_neg (by rw [hmode]; decide), State.whenReady_of_ready hr]
  exact congrArg _ (if_pos h)

variable (h0 : bitsNat (s.cur.s a).toNat 63 60 = 0) (hsett : bitsNat (s.cur.s a).toNat 53 48 < 48)
include h0 hsett

/-- PGMAP of a package outside the domain (R68). -/
theorem exec_pgmap_of_domain (h : s.inDomain (bitsNat (s.cur.s a).toNat 59 54) = false) :
    exec (.pgmap a b x w r key size) s = .next (s.trap codeRemoteUnreach (s.cur.s a)) := by
  show execPgmap a b x w r key size s = _
  rw [execPgmap, State.supervisorOnly, if_neg (by rw [hmode]; decide), State.whenReady_of_ready hr]
  simp only [h0, Nat.not_le.2 hsett, h, ne_eq, not_true_eq_false, or_self, if_false, Bool.not_false, if_true]

/-- PGMAP of a page of this package (R68). -/
theorem exec_pgmap_here (hd : s.inDomain (bitsNat (s.cur.s a).toNat 59 54) = true)
    (hown : bitsNat (s.cur.s a).toNat 59 54 = s.ownPkg) : exec (.pgmap a b x w r key size) s = .next (
      let u := s.pgmapHere (bitsNat (s.cur.s a).toNat 53 48) (bitsNat (s.cur.s a).toNat 47 0) size key x w r
      u.2.result 1 b (BitVec.ofNat 64 u.1)) := by
  have hreach : s.reach (bitsNat (s.cur.s a).toNat 59 54) = .own := if_pos hown
  show execPgmap a b x w r key size s = _
  rw [execPgmap, State.supervisorOnly, if_neg (by rw [hmode]; decide), State.whenReady_of_ready hr]
  simp only [h0, Nat.not_le.2 hsett, hd, hreach, ne_eq, not_true_eq_false, or_self, if_false, Bool.not_true,
    Bool.false_eq_true]

end

/-! ### Reservations (R69) -/

/-- The state with the account of the team's context in its sett and the team's reservation changed. -/
def State.reserved (s : State) (f : Account → Account) (reserve : Nat) : State :=
  { s.setAccount f with cur := { s.cur with reserve := reserve } }

/-- The account of the team's context in its sett after a change of it. -/
theorem State.balance_reserved {s : State} (h : s.curCtx.isSome = true) (f : Account → Account) (reserve : Nat) :
    ∃ a : Account, a.balance = s.balance ∧ (s.reserved f reserve).balance = (f a).balance := by
  obtain ⟨c, hc⟩ := Option.isSome_iff_exists.1 h
  have hget : FMap.get? s.ctxs s.cur.ctx = some c := hc
  refine ⟨FMap.getD c.accounts s.cur.sett { balance := 0, rem := 0 }, by rw [State.balance, hc], ?_⟩
  have hnew : (s.reserved f reserve).curCtx = some { c with
      accounts := FMap.set c.accounts s.cur.sett (f (FMap.getD c.accounts s.cur.sett { balance := 0, rem := 0 })) } := by
    show FMap.get? (FMap.modify s.ctxs s.cur.ctx (fun c => { c with
      accounts := FMap.set c.accounts s.cur.sett (f (FMap.getD c.accounts s.cur.sett { balance := 0, rem := 0 })) })) s.cur.ctx = _
    rw [FMap.get?_modify, if_pos rfl, hget]
    rfl
  rw [State.balance, hnew]
  exact congrArg Account.balance ((FMap.getD_set _ _ _ _ _).trans (if_pos rfl))

/-- A context that is none has no balance. -/
theorem State.curCtx_of_balance_pos {s : State} (h : 0 < s.balance) : s.curCtx.isSome = true := by
  rw [State.balance] at h
  split at h
  · next hc => rw [hc]; rfl
  · exact absurd h (Nat.lt_irrefl 0)

section
variable {s : State} {a : Reg} {k : Bit3} (hr : s.ready [a] = true)
include hr

/-- ENRES of an amount that the account does not cover (R69). -/
theorem exec_enres_of_lt (h : s.balance < (s.cur.s a).toNat) : exec (.enres a) s = .next s
    ∧ exec (.enresNowait a k) s = .next (s.resultC 1 k false) := by
  have hnone : s.reserveEnergy (s.cur.s a).toNat = none := by
    rw [State.reserveEnergy, if_neg (by omega), if_neg (by omega)]
  constructor
  · show execEnres a s = _
    rw [execEnres, State.whenReady_of_ready hr, hnone]
  · show execEnresNowait a k s = _
    rw [execEnresNowait, State.whenReady_of_ready hr]
    simp only [hnone]

/-- ENRES of an amount that the account covers (R69). -/
theorem exec_enres_of_le (h0 : 0 < (s.cur.s a).toNat) (h : (s.cur.s a).toNat ≤ s.balance) :
    let u := s.reserved (fun x => { x with balance := x.balance - (s.cur.s a).toNat }) (s.cur.reserve + (s.cur.s a).toNat)
    exec (.enres a) s = .next (u.advance 1) ∧ exec (.enresNowait a k) s = .next (u.resultC 1 k true) := by
  have hne : ¬ (s.cur.s a).toNat = 0 := Nat.pos_iff_ne_zero.1 h0
  have hsome : s.reserveEnergy (s.cur.s a).toNat = some (s.reserved
      (fun x => { x with balance := x.balance - (s.cur.s a).toNat }) (s.cur.reserve + (s.cur.s a).toNat)) := by
    rw [State.reserveEnergy, if_neg hne, if_pos h]
    rfl
  constructor
  · show execEnres a s = _
    rw [execEnres, State.whenReady_of_ready hr, hsome]
  · show execEnresNowait a k s = _
    rw [execEnresNowait, State.whenReady_of_ready hr]
    simp only [hsome, hne, if_false]

/-- ENRES of 0 returns what the team holds (R69). -/
theorem exec_enres_of_zero (h0 : (s.cur.s a).toNat = 0) :
    let u := s.reserved (fun x => { x with balance := x.balance + s.cur.reserve }) 0
    exec (.enres a) s = .next (u.advance 1) ∧ exec (.enresNowait a k) s = .next (u.advance 1) := by
  have hsome : s.reserveEnergy (s.cur.s a).toNat
      = some (s.reserved (fun x => { x with balance := x.balance + s.cur.reserve }) 0) := by
    rw [State.reserveEnergy, if_pos h0]
    rfl
  constructor
  · show execEnres a s = _
    rw [execEnres, State.whenReady_of_ready hr, hsome]
  · show execEnresNowait a k s = _
    rw [execEnresNowait, State.whenReady_of_ready hr]
    simp only [hsome]
    exact congrArg _ (if_pos h0)

end

/-- The balance does not change when an instruction completes. -/
theorem State.balance_advance (s : State) (n : Nat) : (s.advance n).balance = s.balance := by
  have hctx : (s.advance n).cur.ctx = s.cur.ctx := Team.advance_ctx s.cur n
  have hsett : (s.advance n).cur.sett = s.cur.sett := Team.advance_sett s.cur n
  simp only [State.balance, State.curCtx, State.ctx?, State.advance_ctxs, hctx, hsett]

/-- Nor when it writes a condition register. -/
theorem State.balance_resultC (s : State) (n : Nat) (k : Bit3) (v : Bool) : (s.resultC n k v).balance = s.balance :=
  State.balance_advance { s with cur := s.cur.setC k v } n

end Sys2Proof.Machine
end

section
open Sys2Proof Sys2Proof.Machine

/-- Settles O17: PGMAP by the checks of its address and the status of the mapping, ENRES by what the account covers. -/
theorem mappingAndEnergy : Obligations.MappingAndEnergy := by
  refine ⟨?mapping, ?energy⟩
  case mapping =>
    intro s a b x w r key size va i
    refine ⟨exec_pgmap_of_user, fun hmode hr => ⟨exec_pgmap_of_format hmode hr, fun h0 hsett =>
      ⟨exec_pgmap_of_domain hmode hr h0 hsett, fun hd hown => ?_⟩⟩⟩
    have hgives := exec_pgmap_here (x := x) (w := w) (r := r) (key := key) (size := size) hmode hr h0 hsett hd hown
    obtain ⟨hle, hsame, mem, packed, ctxs, hmaps⟩ :=
      s.mapped_pgmapHere (bitsNat va.toNat 53 48) (bitsNat va.toNat 47 0) size key x w r
    have status : (State.result (s.pgmapHere (bitsNat va.toNat 53 48) (bitsNat va.toNat 47 0) size key x w r).2 1 b
        (BitVec.ofNat 64 (s.pgmapHere (bitsNat va.toNat 53 48) (bitsNat va.toNat 47 0) size key x w r).1)).cur.s b ≤ 3 := by
      refine le_of_eq_of_le ((Team.s_advance _ 1 b).trans (Team.s_setS_same _ b _)) ?_
      split
      · exact BitVec.le_def.2 (Nat.zero_le 3)
      · rw [BitVec.le_def, BitVec.toNat_ofNat]
        exact (Nat.mod_le _ _).trans hle
    have hcur : (s.pgmapHere (bitsNat va.toNat 53 48) (bitsNat va.toNat 47 0) size key x w r).2.cur = s.cur := by rw [hmaps]
    refine ⟨fun hwd => ?withdrawn, fun hwd hnone => ?noContext, _, hgives, ?status, fun q hq => ?others, ?creg, ?fstat,
      fun hb hne => ?refused⟩
    case withdrawn =>
      refine hgives.trans ?_
      rw [State.pgmapHere_of_refused (n := 1)]
      · rfl
      · rw [State.mapPage, if_pos hwd]
    case noContext =>
      refine hgives.trans ?_
      rw [State.pgmapHere_of_refused (n := 2)]
      · rfl
      · rw [State.mapPage, if_neg (by rw [hwd]; decide), hnone]
        rfl
    case status => exact status
    case others =>
      exact (Team.s_advance _ 1 q).trans ((Team.s_setS_other _ _ hq).trans (congrArg (Team.s · q) hcur))
    case creg => exact (Team.advance_creg _ 1).trans ((Team.setS_creg _ b _).trans (congrArg Team.creg hcur))
    case fstat =>
      exact (Team.advance_fstat _ 1).trans ((Team.setS_fstat _ b _).trans (congrArg Team.fstat hcur))
    case refused =>
      have hst : (s.pgmapHere (bitsNat va.toNat 53 48) (bitsNat va.toNat 47 0) size key x w r).1 ≠ 0 := by
        intro hzero
        refine hne (((Team.s_advance _ 1 b).trans (Team.s_setS_same _ b _)).trans ?_)
        rw [hzero]
        exact ite_self _
      exact ⟨(congrArg State.mem (hsame hst) :), (congrArg State.ctxs (hsame hst) :)⟩
  case energy =>
    intro s a k hr amt held
    refine ⟨exec_enres_of_lt hr, fun h0 hle => ?covered, fun h0 hctx => ?released⟩
    case covered =>
      obtain ⟨hwait, hnowait⟩ := exec_enres_of_le (k := k) hr h0 hle
      obtain ⟨x, hx, hnew⟩ := State.balance_reserved (State.curCtx_of_balance_pos (h0.trans_le hle))
        (fun x => { x with balance := x.balance - amt }) (s.cur.reserve + amt)
      have hheld : (s.reserved (fun x => { x with balance := x.balance - amt }) (s.cur.reserve + amt)).balance = s.balance - amt :=
        hnew.trans (congrArg (· - amt) hx)
      refine ⟨⟨_, hwait, (State.balance_advance _ 1).trans hheld, Team.advance_reserve _ 1, Team.advance_creg _ 1,
          Team.advance_sregs _ 1, rfl, rfl⟩,
        ⟨_, hnowait, (State.balance_resultC _ 1 k true).trans hheld, Team.advance_reserve _ 1, ?_, Team.advance_sregs _ 1, rfl, rfl⟩⟩
      exact (congrArg (·[k.toNat]) (Team.advance_creg _ 1)).trans (Vector.getElem_set_self _)
    case released =>
      obtain ⟨hwait, hnowait⟩ := exec_enres_of_zero (k := k) hr h0
      obtain ⟨x, hx, hnew⟩ := State.balance_reserved hctx (fun x => { x with balance := x.balance + s.cur.reserve }) 0
      exact ⟨_, hwait, (State.balance_advance _ 1).trans (hnew.trans (congrArg (· + s.cur.reserve) hx)),
        Team.advance_reserve _ 1, Team.advance_sregs _ 1, Team.advance_creg _ 1, rfl, hnowait⟩
end

section
/-!
SUPPORT. CHDEF by its checks (R301).
-/

namespace Sys2Proof.Machine

/-- What CHDEF refuses at once: a base outside S and C or off a 128-byte boundary, an entry size out of range, a slot in use. -/
def chdefBad (t : Team) (base e h : Nat) : Bool :=
  (base / 2 ^ 60 != 8 && base / 2 ^ 60 != 9) || base % 128 != 0 || e == 0 || decide (512 < e)
    || t.inFlight.any (fun c => c.op.slots.contains h)

/-- The same as the conditions of R301. -/
theorem chdefBad_eq_false_iff (t : Team) (base e h : Nat) : chdefBad t base e h = false ↔
    (base / 2 ^ 60 = 8 ∨ base / 2 ^ 60 = 9) ∧ base % 128 = 0 ∧ 1 ≤ e ∧ e ≤ 512
      ∧ t.inFlight.all (fun c => !c.op.slots.contains h) = true := by
  simp only [chdefBad, Bool.or_eq_false_iff, Bool.and_eq_false_iff, bne_eq_false_iff_eq, beq_eq_false_iff_ne,
    decide_eq_false_iff_not, Nat.not_lt, Nat.one_le_iff_ne_zero, and_assoc, ← List.not_any_eq_all_not, Bool.not_eq_true']

section
variable {s u : State} {a b : Reg} {l : BitVec 4} {h : BitVec 5} {x : Nat} (hr : s.ready [a, b] = true)
include hr

/-- CHDEF with a field out of range or a slot in use (R301). -/
theorem exec_chdef_of_bad (hbad : chdefBad s.cur (s.cur.s a).toNat (s.cur.s b).toNat h.toNat = true) :
    exec (.chdef a b l h) s = .next (s.reject 0) := by
  show execChdef a b l h s = _
  rw [execChdef, State.whenReady_of_ready hr]
  exact congrArg _ (if_pos hbad)

variable (hgood : chdefBad s.cur (s.cur.s a).toNat (s.cur.s b).toNat h.toNat = false)
include hgood

/-- CHDEF whose extent fails (R271, R301). -/
theorem exec_chdef_of_extent_bad
    (hx : extentCheck false false 0x2000 (s.cur.s a).toNat (2 ^ l.toNat * (s.cur.s b).toNat * 128) s = .bad x u) :
    exec (.chdef a b l h) s = .next (u.reject x) := by
  show execChdef a b l h s = _
  rw [execChdef, State.whenReady_of_ready hr]
  refine congrArg _ ((if_neg (ne_true_of_eq_false hgood)).trans ?_)
  rw [hx]

/-- CHDEF that passes its checks defines its slot (R301). -/
theorem exec_chdef_of_good
    (hx : extentCheck false false 0x2000 (s.cur.s a).toNat (2 ^ l.toNat * (s.cur.s b).toNat * 128) s = .good u) :
    exec (.chdef a b l h) s = .next (State.advance { u with cur := { u.cur with chans := FMap.set u.cur.chans h.toNat {
      defd := true, base := s.cur.s a, esize := (s.cur.s b).toNat, log2n := l.toNat, p := 0, q := 0, pc := 0, qc := 0,
      outs := [], ins := [], arrive := [] } } } 1) := by
  show execChdef a b l h s = _
  rw [execChdef, State.whenReady_of_ready hr]
  refine congrArg _ ((if_neg (ne_true_of_eq_false hgood)).trans ?_)
  rw [hx]

end

end Sys2Proof.Machine
end

section
open Sys2Proof Sys2Proof.Machine

/-- Settles O18: CHDEF by the checks of its fields, then of its extent. -/
theorem channelDefined : Obligations.ChannelDefined := by
  intro s u a b l h x hr base e i good extent
  have hgood : chdefBad s.cur base e h.toNat = false ↔ good := chdefBad_eq_false_iff s.cur base e h.toNat
  refine ⟨fun hbad => exec_chdef_of_bad hr (eq_true_of_ne_false (mt hgood.1 hbad)),
    fun hg hx => exec_chdef_of_extent_bad hr (hgood.2 hg) hx,
    fun hg hx => ⟨_, exec_chdef_of_good hr (hgood.2 hg) hx, ?slot, fun k hk => ?others, rfl, Team.advance_sregs _ 1⟩⟩
  case slot => exact (congrArg (FMap.get? · h.toNat) (Team.advance_chans _ 1)).trans (FMap.get?_set_same _ _ _)
  case others => exact (congrArg (FMap.get? · k) (Team.advance_chans _ 1)).trans (FMap.get?_set_other _ _ hk)
end

section
/-!
SUPPORT. CHADV and CHWAIT by their requirements, and the order in which claims are published (R269, R302, R303).
-/

namespace Sys2Proof.Machine

/-! ### CHADV and CHWAIT (R302, R303) -/

section
variable {s : State} {a : Reg} {h : BitVec 5} {c : Chan} (hr : s.ready [a] = true)
include hr

/-- CHADV of a slot that is not defined. -/
theorem exec_chadv_of_none (hc : s.cur.chan h.toNat = none) :
    exec (.chadvP a h) s = .next (s.reject 0) ∧ exec (.chadvC a h) s = .next (s.reject 0) := by
  constructor
  · show execChadvP a h s = _
    rw [execChadvP, State.whenReady_of_ready hr]
    simp only [hc]
  · show execChadvC a h s = _
    rw [execChadvC, State.whenReady_of_ready hr]
    simp only [hc]

/-- CHWAIT of a slot that is not defined. -/
theorem chwait_of_none (hc : s.cur.chan h.toNat = none) (quantity : Chan → Nat) : chwait quantity a h s = s.reject 0 := by
  rw [chwait, State.whenReady_of_ready hr]
  simp only [hc]

/-- CHWAIT of a defined slot: rejected for a count above the ring, on where the quantity is there, else waiting. -/
theorem chwait_of_some (hc : s.cur.chan h.toNat = some c) (quantity : Chan → Nat) : chwait quantity a h s
    = if c.n < (s.cur.s a).toNat then s.reject 0 else if (s.cur.s a).toNat ≤ quantity c then s.advance 1 else s := by
  rw [chwait, State.whenReady_of_ready hr]
  simp only [hc]

/-- CHADV.P of a defined slot. -/
theorem exec_chadvP_of_some (hc : s.cur.chan h.toNat = some c) : exec (.chadvP a h) s = .next (
    if (s.cur.s a).toNat = 0 then s.advance 1
    else if c.n < (s.cur.s a).toNat ∨ c.room < (s.cur.s a).toNat then s.reject 0
    else s.done1 (fun t => t.setChan h.toNat (fun x => { x with
      pc := x.pc + BitVec.ofNat 32 (s.cur.s a).toNat, p := x.p + BitVec.ofNat 32 (s.cur.s a).toNat,
      arrive := x.arrive ++ [(x.p, (s.cur.s a).toNat, s.cur.blocks)] }))) := by
  show execChadvP a h s = _
  rw [execChadvP, State.whenReady_of_ready hr]
  simp only [hc, State.done1]

/-- CHADV.C of a defined slot. -/
theorem exec_chadvC_of_some (hc : s.cur.chan h.toNat = some c) : exec (.chadvC a h) s = .next (
    if (s.cur.s a).toNat = 0 then s.advance 1
    else if c.n < (s.cur.s a).toNat ∨ c.ready < (s.cur.s a).toNat then s.reject 0
    else s.done1 (fun t => t.setChan h.toNat (fun x => { x with
      qc := x.qc + BitVec.ofNat 32 (s.cur.s a).toNat, q := x.q + BitVec.ofNat 32 (s.cur.s a).toNat }))) := by
  show execChadvC a h s = _
  rw [execChadvC, State.whenReady_of_ready hr]
  simp only [hc, State.done1]

end

/-! ### Claims (R269) -/

/-- A table whose values are mapped. -/
theorem FMap.get?_map {α : Type} (m : FMap α) (g : α → α) (k : Nat) :
    FMap.get? (m.map (fun x => (x.1, g x.2)) : List (Nat × α)) k = (FMap.get? m k).map g := by
  induction m with
  | nil => rfl
  | cons x m ih =>
    rw [List.map_cons, FMap.get?, FMap.get?, ih]
    split <;> rfl

/-- The claims of one operation marked done. -/
def markDone (op : Nat) (cs : List Claim) : List Claim := cs.map (fun (c : Claim) => if c.op = op then { c with done := true } else c)

/-- A channel when an operation completes: the done claims at the front of either side are published (R269). -/
def Chan.completed (op : Nat) (c : Chan) : Chan :=
  { c with
    q := c.q + BitVec.ofNat 32 (popClaims (markDone op c.ins)).1, p := c.p + BitVec.ofNat 32 (popClaims (markDone op c.outs)).1,
    ins := (popClaims (markDone op c.ins)).2, outs := (popClaims (markDone op c.outs)).2 }

/-- The completion of an operation reaches every channel. -/
theorem Team.get?_completeClaims (t : Team) (op h : Nat) :
    FMap.get? (t.completeClaims op).chans h = (FMap.get? t.chans h).map (Chan.completed op) :=
  FMap.get?_map t.chans (Chan.completed op) h

/-- A claim of one entry of an output side (R269). -/
theorem get?_claimAll_out (op : Nat) {t : Team} {h : Nat} {c : Chan} (hc : FMap.get? t.chans h = some c) :
    FMap.get? (claimAll op [(h, true, 1)] t).1.chans h
      = some { c with pc := c.pc + 1, outs := c.outs ++ [{ op := op, count := 1, done := false }] } := by
  simp only [claimAll, Team.setChan, FMap.get?_modify, if_true, hc, Option.map_some]
  rfl

/-- A done claim at the front is published with the done ones behind it. -/
theorem popClaims_cons_done {c : Claim} (h : c.done = true) (cs : List Claim) :
    popClaims (c :: cs) = ((popClaims cs).1 + c.count, (popClaims cs).2) := by
  rw [popClaims, if_pos h]

/-- A claim at the front that is not done holds the others back. -/
theorem popClaims_cons_open {c : Claim} (h : c.done = false) (cs : List Claim) : popClaims (c :: cs) = (0, c :: cs) := by
  rw [popClaims, if_neg (ne_true_of_eq_false h)]

end Sys2Proof.Machine
end

section
open Sys2Proof Sys2Proof.Machine

/-- Settles O19: CHADV and CHWAIT by their requirements, the two claims by what `popClaims` publishes of them. -/
theorem channelMotion : Obligations.ChannelMotion := by
  refine ⟨?moves, ?claims⟩
  case moves =>
    intro s a h c hr k kk moved ready room
    refine ⟨fun hc => ?undefined, fun hc => ?defined⟩
    case undefined =>
      obtain ⟨hp, hq⟩ := exec_chadv_of_none hr hc
      exact ⟨hp, hq, congrArg _ (chwait_of_none hr hc _), congrArg _ (chwait_of_none hr hc _)⟩
    case defined =>
      have hp := exec_chadvP_of_some hr hc
      have hq := exec_chadvC_of_some hr hc
      have wait (quantity : Chan → Nat) := chwait_of_some hr hc quantity
      refine ⟨fun h0 => ⟨?_, ?_⟩, fun h1 hring hroom => ?_, fun h1 hring hready => ?_, fun h1 hbad => ?_, fun h1 hbad => ?_,
        fun hbad => ⟨?_, ?_⟩, fun hring => ⟨fun hle => ?_, fun hlt => ?_, fun hle => ?_, fun hlt => ?_⟩⟩
      · exact hp.trans (congrArg _ (if_pos h0))
      · exact hq.trans (congrArg _ (if_pos h0))
      · exact hp.trans (congrArg _ ((if_neg (Nat.pos_iff_ne_zero.1 h1)).trans
          (if_neg (not_or.2 ⟨Nat.not_lt.2 hring, Nat.not_lt.2 hroom⟩))))
      · exact hq.trans (congrArg _ ((if_neg (Nat.pos_iff_ne_zero.1 h1)).trans
          (if_neg (not_or.2 ⟨Nat.not_lt.2 hring, Nat.not_lt.2 hready⟩))))
      · exact hp.trans (congrArg _ ((if_neg (Nat.pos_iff_ne_zero.1 h1)).trans (if_pos hbad)))
      · exact hq.trans (congrArg _ ((if_neg (Nat.pos_iff_ne_zero.1 h1)).trans (if_pos hbad)))
      · exact congrArg _ ((wait _).trans (if_pos hbad))
      · exact congrArg _ ((wait _).trans (if_pos hbad))
      · exact congrArg _ ((wait _).trans ((if_neg (Nat.not_lt.2 hring)).trans (if_pos hle)))
      · exact congrArg _ ((wait _).trans ((if_neg (Nat.not_lt.2 hring)).trans (if_neg (Nat.not_le.2 hlt))))
      · exact congrArg _ ((wait _).trans ((if_neg (Nat.not_lt.2 hring)).trans (if_pos hle)))
      · exact congrArg _ ((wait _).trans ((if_neg (Nat.not_lt.2 hring)).trans (if_neg (Nat.not_le.2 hlt))))
  case claims =>
    intro t h a b c hc houts hdef hab t1 t2 p
    have h1 : FMap.get? t1.chans h = _ := get?_claimAll_out a hc
    have h2 : FMap.get? t2.chans h = _ := get?_claimAll_out b h1
    rw [houts] at h2
    have hb : markDone b [⟨a, 1, false⟩, ⟨b, 1, false⟩] = [⟨a, 1, false⟩, ⟨b, 1, true⟩] := by
      simp [markDone, hab]
    have ha : markDone a [⟨a, 1, false⟩, ⟨b, 1, true⟩] = [⟨a, 1, true⟩, ⟨b, 1, true⟩] := by
      simp [markDone, hab.symm]
    simp only [p, Team.get?_completeClaims, h2, Option.map_some, Chan.completed, List.nil_append, List.cons_append, hb, ha,
      popClaims_cons_open, popClaims_cons_done, popClaims]
    refine ⟨trivial, ?_, ?_, ?_⟩
    · rw [BitVec.add_assoc]; rfl
    · exact congrArg some (BitVec.add_zero c.p)
    · rw [BitVec.add_assoc]; rfl
end

section
/-!
SUPPORT. The command queues (R264), and the issue of a mover instruction whose descriptor passes (R298, R299, R304 to R307).
-/

namespace Sys2Proof.Machine

/-! ### Queues (R264) -/

/-- A team that waits for nothing issues its engine instruction (R264). -/
theorem State.issue_of_ready {s : State} {rs : List Reg} (hw : s.cur.wait = none) (hr : s.ready rs = true) (f : State → State) :
    s.issue rs f = f s := by
  rw [State.issue, hw]
  exact State.whenReady_of_ready hr f

/-- The matrix queue or the mover queue of a team with a command at its tail. -/
def Team.queued (t : Team) (matrix : Bool) (c : EngCmd) : Team :=
  if matrix then { t with mxq := t.mxq ++ [c] } else { t with mvq := t.mvq ++ [c] }

/-- A command enters a queue that has room, and its instruction completes. -/
theorem State.enqueueCmd_of_room {s : State} {matrix : Bool} (c : EngCmd)
    (h : (if matrix then s.cur.mxq else s.cur.mvq).length < 16) : s.enqueueCmd matrix c = State.advance { s with
      cur := { s.cur.queued matrix c with wait := none, sent := [], replies := [] }, tick := s.tick + 1 } 1 := by
  rw [State.enqueueCmd]
  exact if_neg (Nat.not_le.2 h)

/-- A command waits for room in its queue. -/
theorem State.enqueueCmd_of_full {s : State} {matrix : Bool} (c : EngCmd)
    (h : 16 ≤ (if matrix then s.cur.mxq else s.cur.mvq).length) : s.enqueueCmd matrix c = { s with
      cur := { s.cur with wait := some (.queue matrix c), sent := [], replies := [] },
      tick := match s.cur.wait with | some (.queue _ _) => s.tick | _ => s.tick + 1 } := by
  rw [State.enqueueCmd]
  exact if_pos h

/-! ### The descriptor (R298, R304) -/

/-- A mover instruction whose descriptor is read, parsed and within its offsets goes on with it. -/
theorem State.moverInstr_of_parsed {s r : State} {a : Reg} {bs : List Byte} {d : MvDesc} {ok : List Byte → MvDesc → Bool}
    (run : MvDesc → Nat → State → State) (hw : s.cur.wait = none) (hr : s.ready [a] = true)
    (hat : structOk (s.cur.s a).toNat 64 = true) (hread : s.readWords (s.cur.s a).toNat 8 = .ok bs r)
    (hparse : parseMover (r.holdStruct bs).cur bs = some d) (hok : ok bs d = true)
    (hsrc : sideOk (r.holdStruct bs).cur d.inch d.incnt d.src d.sstride d.rowlen d.rows = true)
    (hdst : sideOk (r.holdStruct bs).cur d.outch d.outcnt d.dst d.dstride d.rowlen d.rows = true) :
    s.moverInstr a ok run = run d (s.cur.s a).toNat (r.holdStruct bs) := by
  rw [State.moverInstr, State.issue_of_ready hw hr]
  simp only [State.withStruct, hw, hat, hread, hparse, hok, hsrc, hdst, Bool.and_self, Bool.not_true, Bool.false_eq_true,
    if_false, if_true]

/-- A command whose extents and pages pass goes to the mover queue (R271, R299). -/
theorem State.issueMover_of_passes {w u v : State} {k : MvKind} {d : MvDesc}
    (hsrc : extentsCheck false (k == .dec) (moverExtents k d).1 none w = .good u)
    (hdst : extentsCheck true false (moverExtents k d).2 none u = .good v)
    (hpages : (moverPages v.cur k d).length + sidePages v.cur d.inch d.incnt + sidePages v.cur d.outch d.outcnt ≤ 64) :
    w.issueMover k d = v.enqueueCmd false (v.command (.mover k d)) := by
  simp only [State.issueMover, hsrc, hdst, Nat.not_lt.2 hpages, if_false]

/-- What a mover instruction leaves that reaches its queue: its command at the tail, or the wait for room. -/
theorem State.enqueueCmd_mover (v : State) (c : EngCmd) :
    (v.cur.mvq.length < 16 → (v.enqueueCmd false c).cur.mvq = v.cur.mvq ++ [c] ∧ (v.enqueueCmd false c).cur.wait = none
      ∧ (v.enqueueCmd false c).cur.mxq = v.cur.mxq ∧ (v.enqueueCmd false c).cur.sregs = v.cur.sregs
      ∧ (v.enqueueCmd false c).cur.chans = v.cur.chans ∧ (v.enqueueCmd false c).mem = v.mem)
    ∧ (16 ≤ v.cur.mvq.length → (v.enqueueCmd false c).cur.wait = some (.queue false c)
      ∧ (v.enqueueCmd false c).cur.mvq = v.cur.mvq ∧ (v.enqueueCmd false c).cur.spc = v.cur.spc) := by
  refine ⟨fun h => ?_, fun h => ?_⟩
  · rw [State.enqueueCmd_of_room (matrix := false) c h]
    exact ⟨Team.advance_mvq _ 1, Team.advance_wait _ 1, Team.advance_mxq _ 1, Team.advance_sregs _ 1,
      Team.advance_chans _ 1, rfl⟩
  · rw [State.enqueueCmd_of_full (matrix := false) c h]
    exact ⟨rfl, rfl, rfl⟩

/-- A field of a structure behind another one of 64 bytes. -/
theorem fieldAt_append {bs : List Byte} (h : bs.length = 64) (list : List Byte) (i n : Nat) :
    fieldAt (bs ++ list) (64 + i) n = fieldAt list i n := by
  rw [fieldAt, fieldAt, ← h, List.drop_length_add_append]

end Sys2Proof.Machine
end

section
open Sys2Proof Sys2Proof.Machine

/-- Settles O20: the descriptor is read and parsed, then the extents and the pages pass, then the command is queued. -/
theorem moverIssued : Obligations.MoverIssued := by
  intro s r g u v w a bs list d k dec hwait hr hat hread hlen q hparse hsrc hdst passes issued
  have issued_of {i : Instr} {x : State} (hi : exec i s = .next (x.issueMover k d)) (hx : passes x) : issued i := by
    obtain ⟨hs, hd, hpages⟩ := hx
    rw [State.issueMover_of_passes hs hd hpages] at hi
    obtain ⟨hroom, hfull⟩ := v.enqueueCmd_mover (v.command (.mover k d))
    exact ⟨fun h => ⟨_, hi, hroom h⟩, fun h => ⟨_, hi, hfull h⟩⟩
  clear_value issued
  refine ⟨fun hk haux hdec hp => issued_of ?copy hp, fun hk hsrc0 hstride hin hp => issued_of ?fill hp,
    fun hsrc0 hstride hin haux hextent hlist hk hp => issued_of ?gath hp⟩
  case copy =>
    show execMvcopy a dec s = _
    rw [execMvcopy, State.moverInstr_of_parsed _ hwait hr hat hread hparse _ hsrc hdst, hk]
    rw [haux]
    cases dec with
    | false => rfl
    | true =>
      obtain ⟨hin, hwin, halign, hs, hl⟩ := hdec rfl
      have hzero : d.src.toNat / 2 ^ 60 = 0 := hwin
      simp only [hin, hzero, halign, hs, hl]
      rfl
  case fill =>
    show execMvfill a s = _
    rw [execMvfill, State.moverInstr_of_parsed _ hwait hr hat hread hparse _ hsrc hdst, hk]
    simp [hsrc0, hstride, hin]
  case gath =>
    have hlist' : (upTo 0 d.rows).map (fun i => BitVec.ofNat 64 (fieldAt (bs ++ list) (64 + 8 * i) 8))
        = (upTo 0 d.rows).map (fun i => BitVec.ofNat 64 (fieldAt list (8 * i) 8)) :=
      List.map_congr_left fun i _ => by rw [fieldAt_append hlen]
    have hextent' : extentCheck false false (d.rows + 3) d.aux.toNat (8 * d.rows) (r.holdStruct bs) = .good g := hextent
    have hheld : (r.holdStruct bs).cur.wait = some (.struct bs) := rfl
    show execMvgath a s = _
    rw [execMvgath, State.moverInstr_of_parsed _ hwait hr hat hread hparse _ hsrc hdst, hk]
    · simp only [hheld, hlen, Nat.lt_irrefl, if_false, hextent', hlist, hlist']
    · simp [hsrc0, hstride, hin, haux]
end

section
/-!
SUPPORT. The shape word and the tile word (R308, R310), and the issue of a matrix instruction (R264, R309, R310).
-/

namespace Sys2Proof.Machine

/-! ### Shape and tile words (R308, R310) -/

/-- The type codes of R308 are those with a family. -/
theorem formatFamily_ne_zero_iff (c : Nat) :
    (formatFamily c != 0) = true ↔ c = 6 ∨ c = 7 ∨ c = 9 ∨ c = 10 ∨ (13 ≤ c ∧ c ≤ 17) := by
  rw [bne_iff_ne, formatFamily]
  by_cases h1 : c = 9 ∨ c = 10
  · rw [if_pos h1]; omega
  rw [if_neg h1]
  by_cases h2 : 13 ≤ c ∧ c ≤ 16
  · rw [if_pos h2]; omega
  rw [if_neg h2]
  by_cases h3 : c = 17
  · rw [if_pos h3]; omega
  rw [if_neg h3]
  by_cases h4 : c = 6 ∨ c = 7
  · rw [if_pos h4]; omega
  rw [if_neg h4]; omega

/-- The low bits of a number. -/
theorem bitsNat_low (x hi : Nat) : bitsNat x hi 0 = x % 2 ^ (hi + 1) := by
  rw [bitsNat, Nat.pow_zero, Nat.div_one, Nat.sub_zero]

/-- The top bits of a word are zero where the word is small. -/
theorem bitsNat_high_eq_zero_iff (w : Word) {lo : Nat} (hlo : lo ≤ 64) : bitsNat w.toNat 63 lo = 0 ↔ w.toNat < 2 ^ lo := by
  have hpow : (2 : Nat) ^ 64 = 2 ^ (64 - lo) * 2 ^ lo := by rw [← Nat.pow_add, Nat.sub_add_cancel hlo]
  have hdiv : w.toNat / 2 ^ lo < 2 ^ (64 - lo) := Nat.div_lt_of_lt_mul (by rw [Nat.mul_comm, ← hpow]; exact w.isLt)
  rw [bitsNat, Nat.mod_eq_of_lt hdiv, Nat.div_eq_zero_iff_lt (Nat.two_pow_pos lo)]

/-- The shape word as it is parsed holds the fields of R308. -/
theorem shapeOf_eq (w : Word) : shapeOf w = {
    m8 := bitsNat w.toNat 9 0, n16 := bitsNat w.toNat 19 10,
    k64 := bitsNat w.toNat 35 20, afmt := bitsNat w.toNat 40 36, bfmt := bitsNat w.toNat 45 41, t := bitsNat w.toNat 55 46,
    mx := bitAt w.toNat 56 } := by
  have hmx : w.getLsbD 56 = bitAt w.toNat 56 := by
    rw [BitVec.getLsbD, Nat.testBit_eq_decide_div_mod_eq, bitAt, beq_eq_decide]
  rw [shapeOf, bitsNat_low, hmx]
  rfl

/-- The tile word as it is parsed holds the fields of R310. -/
theorem tileWord_eq (w : Word) : tileWord w = {
    t := bitsNat w.toNat 9 0, nt := bitsNat w.toNat 19 10,
    c16 := bitsNat w.toNat 29 20, x := bitsNat w.toNat 37 30 } := by
  rw [tileWord, bitsNat_low]
  rfl

/-- The limits of the shape word, as the parse tests them. -/
theorem shapeFits_iff (w : Word) (acctiles : Nat) (tail : Bool) : shapeFits w acctiles tail ↔
    (bitsNat w.toNat 63 57 = 0 ∧ 1 ≤ (shapeOf w).m8 ∧ (shapeOf w).m8 ≤ 512 ∧ 1 ≤ (shapeOf w).n16 ∧ (shapeOf w).n16 ≤ 512
      ∧ 1 ≤ (shapeOf w).k64 ∧ (formatFamily (shapeOf w).afmt != 0) = true ∧ (formatFamily (shapeOf w).bfmt != 0) = true
      ∧ ((shapeOf w).mx = true → 13 ≤ (shapeOf w).afmt ∧ (shapeOf w).afmt ≤ 17 ∧ 13 ≤ (shapeOf w).bfmt ∧ (shapeOf w).bfmt ≤ 17)
      ∧ (shapeOf w).t < 512 ∧ (tail = true → (shapeOf w).t + (shapeOf w).m8 * (shapeOf w).n16 ≤ acctiles)) := by
  rw [shapeFits, formatFamily_ne_zero_iff, formatFamily_ne_zero_iff, bitsNat_high_eq_zero_iff w (by decide)]
  refine and_congr_right fun _ => and_congr_right fun _ => and_congr_right fun _ => and_congr_right fun _ =>
    and_congr_right fun _ => and_congr_right fun _ => and_congr_right fun ha => and_congr_right fun hb =>
    and_congr_left fun _ => forall_congr' fun _ => ?_
  omega

/-- A shape word within its limits is parsed. -/
theorem parseShape_of_fits {w : Word} {acctiles : Nat} {tail : Bool} (h : shapeFits w acctiles tail) :
    parseShape w acctiles tail = some (shapeOf w) := by
  rw [shapeFits_iff, shapeOf_eq] at h
  rw [shapeOf_eq]
  exact if_pos h

/-- A shape word outside its limits is none. -/
theorem parseShape_of_not_fits {w : Word} {acctiles : Nat} {tail : Bool} (h : ¬ shapeFits w acctiles tail) :
    parseShape w acctiles tail = none := by
  rw [shapeFits_iff, shapeOf_eq] at h
  exact if_neg h

/-- The limits of the tile word, as the parse tests them. -/
theorem tileFits_iff (w : Word) (acctiles : Nat) (scaled : Bool) : tileFits w acctiles scaled ↔
    (bitsNat w.toNat 63 38 = 0 ∧ 1 ≤ (tileWord w).nt ∧ (tileWord w).nt ≤ 512 ∧ 1 ≤ (tileWord w).c16 ∧ (tileWord w).c16 ≤ 512
      ∧ (tileWord w).nt % (tileWord w).c16 = 0 ∧ (tileWord w).t + (tileWord w).nt ≤ acctiles
      ∧ (scaled = true ∨ (tileWord w).x = 0)) := by
  rw [tileFits, bitsNat_high_eq_zero_iff w (by decide)]
  cases scaled <;> simp

/-- A tile word within its limits is parsed. -/
theorem parseTile_of_fits {w : Word} {acctiles : Nat} {scaled : Bool} (h : tileFits w acctiles scaled) :
    parseTile w acctiles scaled = some (tileWord w) := by
  rw [tileFits_iff, tileWord_eq] at h
  rw [tileWord_eq]
  exact if_pos h

/-- A tile word outside its limits is none. -/
theorem parseTile_of_not_fits {w : Word} {acctiles : Nat} {scaled : Bool} (h : ¬ tileFits w acctiles scaled) :
    parseTile w acctiles scaled = none := by
  rw [tileFits_iff, tileWord_eq] at h
  exact if_neg h

/-! ### Issue (R264, R309, R310) -/

section
variable {s : State} {a : Reg} (hw : s.cur.wait = none) (hr : s.ready [a] = true)
include hw hr

/-- What TMMA asks of its operands: the shape word within its limits, formats of one family, order bits with 16-bit formats only,
and both panels within the entries of their channels. -/
def TmmaFits (t : Team) (w : Word) (bord aord : Bool) (hb ha : Nat) : Prop :=
  shapeFits w t.acctiles true ∧ formatFamily (shapeOf w).afmt = formatFamily (shapeOf w).bfmt
    ∧ (aord = true → formatFamily (shapeOf w).afmt = 1) ∧ (bord = true → formatFamily (shapeOf w).bfmt = 1)
    ∧ (∃ c, t.chan ha = some c ∧
      panelBytes (8 * (shapeOf w).m8) (64 * (shapeOf w).k64) (shapeOf w).afmt (shapeOf w).mx ≤ c.esize * 128)
    ∧ ∃ c, t.chan hb = some c ∧
      panelBytes (16 * (shapeOf w).n16) (64 * (shapeOf w).k64) (shapeOf w).bfmt (shapeOf w).mx ≤ c.esize * 128

theorem exec_tmma_of_fits {bord aord z : Bool} {hb ha : BitVec 5} (h : TmmaFits s.cur (s.cur.s a) bord aord hb.toNat ha.toNat) :
    exec (.tmma a bord aord z hb ha) s
      = .next (s.enqueueCmd true (s.command (.tmma (shapeOf (s.cur.s a)) z aord bord ha.toNat hb.toNat))) := by
  obtain ⟨hshape, hfam, hao, hbo, ⟨ca, hca, hpa⟩, cb, hcb, hpb⟩ := h
  show execTmma a bord aord z hb ha s = _
  rw [execTmma, State.issue_of_ready hw hr]
  simp only [parseShape_of_fits hshape, hca, hcb]
  rw [if_pos ⟨hfam, hao, hbo, hpa, hpb⟩]

theorem exec_tmma_of_not_fits {bord aord z : Bool} {hb ha : BitVec 5}
    (h : ¬ TmmaFits s.cur (s.cur.s a) bord aord hb.toNat ha.toNat) :
    exec (.tmma a bord aord z hb ha) s = .next (s.reject 0) := by
  show execTmma a bord aord z hb ha s = _
  rw [execTmma, State.issue_of_ready hw hr]
  by_cases hshape : shapeFits (s.cur.s a) s.cur.acctiles true
  · cases hca : s.cur.chan ha.toNat with
    | none => simp only [parseShape_of_fits hshape, hca]
    | some ca =>
      cases hcb : s.cur.chan hb.toNat with
      | none => simp only [parseShape_of_fits hshape, hca, hcb]
      | some cb =>
        simp only [parseShape_of_fits hshape, hca, hcb]
        rw [if_neg fun ⟨hfam, hao, hbo, hpa, hpb⟩ => h ⟨hshape, hfam, hao, hbo, ⟨ca, hca, hpa⟩, cb, hcb, hpb⟩]
  · simp only [parseShape_of_not_fits hshape]

/-- What a TACC operation that needs `need` bytes for each tile asks: the tile word within its limits, and an entry that holds
them. -/
def TaccFits (t : Team) (w : Word) (scaled : Bool) (need h : Nat) : Prop :=
  tileFits w t.acctiles scaled ∧ (need = 0 ∨ ∃ c, t.chan h = some c ∧ need * (tileWord w).nt ≤ c.esize * 128)

/-- A TACC operation needs a number of bytes for each of its tiles, and none only where it is ZERO. -/
def TaccOp.needs (op : TaccOp) (need : Nat) : Prop := (∀ nt, op.bytes nt = need * nt) ∧ (need = 0 ↔ op = .zero)

theorem taccInstr_of_fits {op : TaccOp} {need : Nat} (hop : op.needs need) {scaled : Bool} {h : Nat}
    (hfits : TaccFits s.cur (s.cur.s a) scaled need h) :
    taccInstr op scaled a h s = s.enqueueCmd true (s.command (.tacc op (tileWord (s.cur.s a)) h)) := by
  obtain ⟨htile, hroom⟩ := hfits
  rw [taccInstr, State.issue_of_ready hw hr]
  simp only [parseTile_of_fits htile]
  rcases hroom with h0 | ⟨c, hc, hle⟩
  · rw [hop.2.1 h0]; rfl
  · have hbytes : decide (op.bytes (tileWord (s.cur.s a)).nt ≤ c.bytes) = true := by
      rw [hop.1, Chan.bytes]; exact decide_eq_true hle
    rw [hc]
    simp only [hbytes, Bool.or_true, if_true]

theorem taccInstr_of_not_fits {op : TaccOp} {need : Nat} (hop : op.needs need) {scaled : Bool} {h : Nat}
    (hfits : ¬ TaccFits s.cur (s.cur.s a) scaled need h) : taccInstr op scaled a h s = s.reject 0 := by
  rw [taccInstr, State.issue_of_ready hw hr]
  by_cases htile : tileFits (s.cur.s a) s.cur.acctiles scaled
  · have hnot : (op == .zero) = false := beq_false_of_ne fun h0 => hfits ⟨htile, .inl (hop.2.2 h0)⟩
    simp only [parseTile_of_fits htile, hnot, Bool.false_or]
    cases hc : s.cur.chan h with
    | none => rfl
    | some c =>
      have hbytes : decide (op.bytes (tileWord (s.cur.s a)).nt ≤ c.bytes) = false := by
        rw [hop.1, Chan.bytes]; exact decide_eq_false fun hle => hfits ⟨htile, .inr ⟨c, hc, hle⟩⟩
      simp only [hbytes, Bool.false_eq_true, if_false]
  · simp only [parseTile_of_not_fits htile]

end

end Sys2Proof.Machine
end

section
open Sys2Proof Sys2Proof.Machine

/-- Settles O21: the words are parsed where they are within their limits, and what passes enters the matrix queue. -/
theorem matrixIssued : Obligations.MatrixIssued := by
  intro s a z am bn satf ha hb hwait hr t w issued sh tw good tacc
  have issued_of {i : Instr} {op : EngOp} (hi : exec i s = .next (s.enqueueCmd true (s.command op))) : issued i op :=
    ⟨fun h => by rw [State.enqueueCmd_of_room (matrix := true) _ h] at hi; exact hi,
      fun h => by rw [State.enqueueCmd_of_full (matrix := true) _ h, hwait] at hi; exact hi⟩
  have tacc_of {i : Instr} {op : TaccOp} {need : Nat} {scaled : Bool} {h : Nat} (hop : op.needs need)
      (hi : exec i s = .next (taccInstr op scaled a h s)) : tacc i op need scaled h :=
    ⟨fun hfits => issued_of (hi.trans (congrArg _ (taccInstr_of_fits hwait hr hop hfits))),
      fun hfits => hi.trans (congrArg _ (taccInstr_of_not_fits hwait hr hop hfits))⟩
  refine ⟨fun h => issued_of (exec_tmma_of_fits hwait hr h), fun h => exec_tmma_of_not_fits hwait hr h,
    tacc_of ?_ rfl, tacc_of ?_ rfl, tacc_of ?_ rfl, tacc_of ?_ rfl, tacc_of ?_ rfl⟩
  · exact ⟨fun nt => (Nat.zero_mul nt).symm, by simp⟩
  all_goals exact ⟨fun _ => rfl, by simp⟩
end

section
/-!
SUPPORT. TARRIVE and TWAIT (R311, R312).
-/

namespace Sys2Proof.Machine

/-- A queue whose head is a command of its own keeps everything (R265). -/
theorem dropMarks_of_head {cs : List EngCmd} (hne : cs ≠ []) (h : ∀ c ∈ cs.head?, ∀ n, c.op ≠ .marker n) (c : EngCmd) :
    dropMarks (cs ++ [c]) = cs ++ [c] := by
  cases cs with
  | nil => exact absurd rfl hne
  | cons d ds =>
    have hd : ∀ n, d.op ≠ .marker n := h d rfl
    rw [List.cons_append, dropMarks]
    split
    · next hop => exact absurd hop (hd _)
    · rfl

/-- A marker in an empty queue leaves at once (R265). -/
theorem dropMarks_of_nil {cs : List EngCmd} (h : cs = []) {c : EngCmd} {n : Nat} (hc : c.op = .marker n) :
    dropMarks (cs ++ [c]) = [] := by
  rw [h, List.nil_append, dropMarks, hc, dropMarks]

section
variable {s : State} {d : Reg} {w : WaitSel} (hr : s.ready [d] = true)
include hr

/-- TWAIT waits while something of a selected queue is outstanding. -/
theorem exec_twait_of_open (h : (w ≠ .mover ∧ s.cur.matrixDone = false) ∨ (w ≠ .matrix ∧ s.cur.moverDone = false)) :
    exec (.twait d w) s = .next s := by
  show execTwait d w s = _
  rw [execTwait, State.whenReady_of_ready hr]
  refine congrArg Host.Outcome.next (if_pos ?_)
  cases w <;> simpa using h

/-- TWAIT delivers the span status and clears it; the operations of the matrix queue are waited for. -/
theorem exec_twait_of_done (h : ¬ ((w ≠ .mover ∧ s.cur.matrixDone = false) ∨ (w ≠ .matrix ∧ s.cur.moverDone = false))) :
    exec (.twait d w) s = .next (State.result { s with
      cur := { s.cur with spanStatus := 0, unwaited := if w = .mover then s.cur.unwaited else [] } } 1 d
        (s.cur.spanStatus.setWidth 64)) := by
  show execTwait d w s = _
  rw [execTwait, State.whenReady_of_ready hr]
  refine congrArg Host.Outcome.next ((if_neg ?_).trans ?_)
  · cases w <;> simpa using h
  · cases w <;> rfl

end

end Sys2Proof.Machine
end

section
open Sys2Proof Sys2Proof.Machine

/-- Settles O22: TARRIVE by what its markers leave of the queues, TWAIT by what is outstanding. -/
theorem arriveAndWait : Obligations.ArriveAndWait := by
  intro s d w t mark open_
  refine ⟨fun h => ?_, fun hv hx => ?_, fun hr => exec_twait_of_open hr, fun hr h => ?_⟩
  · show execTarrive s = _
    exact congrArg Host.Outcome.next (if_pos h)
  · have hroom : ¬ (16 ≤ s.cur.mvq.length ∨ 16 ≤ s.cur.mxq.length) :=
      fun h => h.elim (Nat.not_le.2 hv) (Nat.not_le.2 hx)
    refine ⟨_, congrArg Host.Outcome.next (if_neg hroom), Team.advance_arrives _ 1, Team.advance_need _ 1,
      fun _ hne hhead => (Team.advance_mvq _ 1).trans (dropMarks_of_head hne hhead mark),
      fun hnil => (Team.advance_mvq _ 1).trans (dropMarks_of_nil hnil rfl),
      fun hnil => (Team.advance_mxq _ 1).trans (dropMarks_of_nil hnil rfl),
      Team.advance_sregs _ 1, Team.advance_fired _ 1, rfl⟩
  · refine ⟨_, exec_twait_of_done hr h, (Team.s_advance _ 1 d).trans (Team.s_setS_same _ d _), ?_,
      fun r hne => (Team.s_advance _ 1 r).trans (Team.s_setS_other _ _ hne), ?_, rfl, fun hw => ?_, fun hw => ?_⟩
    · exact (Team.advance_spanStatus _ 1).trans (Team.setS_spanStatus _ d _)
    · exact (Team.advance_fstat _ 1).trans (Team.setS_fstat _ d _)
    · exact ((Team.advance_unwaited _ 1).trans (Team.setS_unwaited _ d _)).trans (if_neg hw)
    · exact ((Team.advance_unwaited _ 1).trans (Team.setS_unwaited _ d _)).trans (if_pos hw)
end

section
/-!
SUPPORT. Opening a span, its rendezvous, and the commands of an open span (R278, R280, R313 to R315).
-/

namespace Sys2Proof.Machine

/-! ### SPANOPEN (R313) -/

/-- The span that the operand of SPANOPEN names, not yet open. -/
def Team.newSpan (t : Team) (x : Nat) : SpanMember :=
  { number := x % 64, g0 := x / 64 % 128, len := x / 2 ^ 13 % 256, row := t.sett / 8, bench := t.core / 16, opened := false,
    broken := false }

theorem Team.newSpan_eq (t : Team) (x : Nat) : t.newSpan x = {
    number := bitsNat x 5 0, g0 := bitsNat x 12 6, len := bitsNat x 20 13, row := t.sett / 8, bench := t.core / 16,
    opened := false, broken := false } := by
  rw [Team.newSpan, bitsNat_low]
  rfl

/-- No running team of the span stands in a column of this one's. -/
def State.spanFree (s : State) (m : SpanMember) : Bool :=
  s.others.all (fun u => !(u.status == .running && sameSpan s.cur u m && u.columns.any (fun g => s.cur.columns.contains g)))

/-- What SPANOPEN asks of its operand and of the team. -/
def State.SpanGood (s : State) (x : Nat) : Prop :=
  x < 2 ^ 21 ∧ 1 ≤ (s.cur.newSpan x).len ∧ (s.cur.newSpan x).g0 + (s.cur.newSpan x).len ≤ 128
    ∧ (∃ g ∈ s.cur.columns, (s.cur.newSpan x).g0 ≤ g ∧ g < (s.cur.newSpan x).g0 + (s.cur.newSpan x).len)
    ∧ (s.cur.newSpan x).bench < s.benchOf s.cur.sett ∧ s.spanFree (s.cur.newSpan x) = true ∧ s.cur.span = none

/-- The tests of SPANOPEN, as the instruction makes them. -/
def State.spanBad (s : State) (w : Word) (m : SpanMember) : Prop :=
  bitsNat w.toNat 63 21 ≠ 0 ∨ m.len = 0 ∨ 128 < m.g0 + m.len
    ∨ (!s.cur.columns.any (fun g => decide (m.g0 ≤ g) && decide (g < m.g0 + m.len))) = true ∨ s.benchOf s.cur.sett ≤ m.bench
    ∨ s.others.any (fun u => u.status == .running && sameSpan s.cur u m && u.columns.any (fun g => s.cur.columns.contains g)) = true
    ∨ s.cur.span.isSome = true

theorem State.spanBad_iff (s : State) (w : Word) : s.spanBad w (s.cur.newSpan w.toNat) ↔ ¬ s.SpanGood w.toNat := by
  have hfree : s.others.any (fun u => u.status == .running && sameSpan s.cur u (s.cur.newSpan w.toNat)
      && u.columns.any (fun g => s.cur.columns.contains g)) = true ↔ ¬ s.spanFree (s.cur.newSpan w.toNat) = true := by
    rw [State.spanFree, ← List.not_any_eq_all_not, Bool.not_eq_true', Bool.not_eq_false]
  have hcol : (!s.cur.columns.any (fun g => decide ((s.cur.newSpan w.toNat).g0 ≤ g)
      && decide (g < (s.cur.newSpan w.toNat).g0 + (s.cur.newSpan w.toNat).len))) = true ↔
      ¬ ∃ g ∈ s.cur.columns, (s.cur.newSpan w.toNat).g0 ≤ g ∧ g < (s.cur.newSpan w.toNat).g0 + (s.cur.newSpan w.toNat).len := by
    rw [Bool.not_eq_true', ← Bool.not_eq_true, List.any_eq_true]
    simp only [Bool.and_eq_true, decide_eq_true_eq]
  rw [State.spanBad, State.SpanGood, hfree, hcol, Ne, bitsNat_high_eq_zero_iff w (by decide)]
  simp only [not_and_or, Nat.not_le, Nat.not_lt, Option.isSome_iff_ne_none, Nat.lt_one_iff, Ne]

section
variable {s : State} {a : Reg} (hw : s.cur.wait = none) (hr : s.ready [a] = true)
include hw hr

theorem exec_spanopen_of_bad (h : ¬ s.SpanGood (s.cur.s a).toNat) : exec (.spanopen a) s = .next (s.reject 0) := by
  rw [← State.spanBad_iff, Team.newSpan_eq] at h
  show execSpanopen a s = _
  rw [execSpanopen, hw]
  exact congrArg Host.Outcome.next ((State.whenReady_of_ready hr _).trans (if_pos h))

theorem exec_spanopen_of_good (h : s.SpanGood (s.cur.s a).toNat) : exec (.spanopen a) s = .next { s with
    cur := { s.cur with span := some (s.cur.newSpan (s.cur.s a).toNat), wait := some .span } } := by
  have hbad := fun hb => (s.spanBad_iff (s.cur.s a)).1 hb h
  rw [Team.newSpan_eq] at hbad ⊢
  show execSpanopen a s = _
  rw [execSpanopen, hw]
  exact congrArg Host.Outcome.next ((State.whenReady_of_ready hr _).trans (if_neg hbad))

end

/-- A team that waits for its span goes on once it is open. -/
theorem exec_spanopen_of_waiting {s : State} {m : SpanMember} (a : Reg) (hw : s.cur.wait = some .span) (hm : s.cur.span = some m) :
    exec (.spanopen a) s = .next (if m.opened then s.endWait else s) := by
  show execSpanopen a s = _
  rw [execSpanopen, hw, hm]

/-! ### The rendezvous (R278) -/

/-- The teams that wait for a span, column after column. -/
def State.spanWaiting (s : State) (m : SpanMember) : List Team :=
  (upTo m.g0 m.len).filterMap (fun g => s.teams.find? (fun u =>
    u.columns.contains g && u.span.any (fun y => !y.opened) && sameSpan s.cur u m))

/-- An open span holds a core of the range. -/
def State.spanClash (s : State) (m : SpanMember) : Prop :=
  ∃ u ∈ s.teams, ∃ y, u.span = some y ∧ y.opened = true ∧ y.row = m.row ∧ y.bench = m.bench ∧ y.g0 < m.g0 + m.len
    ∧ m.g0 < y.g0 + y.len

/-- A team whose span is open. -/
def Team.spanOpened (t : Team) : Team := { t with span := t.span.map (fun y => { y with opened := true }) }

/-- A team of the waiting ones has its span opened, another one stays. -/
def openWaiting (us : List Team) (t : Team) : Team :=
  if (us.map Team.uid).contains t.uid && t.status != .absent then t.spanOpened else t

theorem spanClash_iff (s : State) (m : SpanMember) :
    s.teams.any (fun u => u.span.any (fun x => x.opened && x.row == m.row && x.bench == m.bench
      && decide (x.g0 < m.g0 + m.len) && decide (m.g0 < x.g0 + x.len))) = true ↔ s.spanClash m := by
  simp only [List.any_eq_true, Option.any_eq_true, Bool.and_eq_true, decide_eq_true_eq, beq_iff_eq, and_assoc, State.spanClash]

section
variable {s : State} {m : SpanMember} (hm : s.cur.span = some m)
include hm

theorem exec_spanRendezvous_of_not (h : (s.spanWaiting m).length < m.len ∨ s.spanClash m) :
    exec .spanRendezvous s = .next s := by
  show execSpanRendezvous s = _
  rw [execSpanRendezvous, hm]
  refine congrArg Host.Outcome.next (if_pos ?_)
  simp only [Bool.or_eq_true, decide_eq_true_eq]
  obtain hlt | hcl := h
  · exact .inl (.inl (.inl (.inr (Nat.ne_of_lt hlt))))
  · exact .inl (.inr ((spanClash_iff s m).2 hcl))

theorem exec_spanRendezvous_of_all (hopen : m.opened = false) (hall : (s.spanWaiting m).length = m.len) (hrun : ∀ u ∈ s.spanWaiting m, u.status = .running)
    (hclash : ¬ s.spanClash m) (hhalt : s.halted s.cur.ctx = false) :
    exec .spanRendezvous s = .next (s.mapTeams (openWaiting (s.spanWaiting m))) := by
  show execSpanRendezvous s = _
  rw [execSpanRendezvous, hm]
  refine congrArg Host.Outcome.next (if_neg ?_)
  simp only [Bool.or_eq_true, decide_eq_true_eq, hopen, hhalt, Bool.false_eq_true, or_false, false_or]
  rintro ((hlen | hstat) | hcl)
  · exact hlen hall
  · obtain ⟨u, hu, hne⟩ := List.any_eq_true.1 hstat
    exact bne_iff_ne.1 hne (hrun u hu)
  · exact hclash ((spanClash_iff s m).1 hcl)
end

/-- The status of a team stays. -/
theorem openWaiting_status (us : List Team) (t : Team) : (openWaiting us t).status = t.status := by
  rw [openWaiting, apply_ite Team.status]
  exact ite_self _

/-- The teams of the machine, each changed by a function that keeps its status. -/
theorem State.teams_mapTeams (s : State) {f : Team → Team} (hf : ∀ t, (f t).status = t.status) :
    (s.mapTeams f).teams = s.teams.map f := by
  rw [State.teams, State.teams]
  by_cases h : s.cur.status = .absent
  · rw [if_pos h]
    exact if_pos ((hf _).trans h)
  · rw [if_neg h]
    exact if_neg fun h' => h ((hf _).symm.trans h')

/-- A waiting team is a team. -/
theorem State.mem_teams_of_spanWaiting {s : State} {m : SpanMember} {u : Team} (h : u ∈ s.spanWaiting m) : u ∈ s.teams := by
  obtain ⟨g, _, hg⟩ := List.mem_filterMap.1 h
  exact List.mem_of_find?_eq_some hg

/-- Every waiting team that runs has its span opened. -/
theorem State.spanOpened_mem {s : State} {m : SpanMember} {u : Team} (h : u ∈ s.spanWaiting m) (hrun : u.status = .running) :
    u.spanOpened ∈ (s.mapTeams (openWaiting (s.spanWaiting m))).teams := by
  rw [State.teams_mapTeams s (openWaiting_status _)]
  refine List.mem_map.2 ⟨u, State.mem_teams_of_spanWaiting h, if_pos ?_⟩
  rw [hrun, List.contains_eq_mem, decide_eq_true (List.mem_map_of_mem h)]
  rfl

/-- A team that is none of the waiting ones stays. -/
theorem State.mem_teams_of_not_waiting {s : State} {us : List Team} {u : Team} (h : u ∈ s.teams) (hu : ∀ w ∈ us, w.uid ≠ u.uid) :
    u ∈ (s.mapTeams (openWaiting us)).teams := by
  rw [State.teams_mapTeams s (openWaiting_status _)]
  refine List.mem_map.2 ⟨u, h, if_neg ?_⟩
  have hnot : u.uid ∉ us.map Team.uid := fun hmem => by
    obtain ⟨w, hw, heq⟩ := List.mem_map.1 hmem
    exact hu w hw heq
  rw [List.contains_eq_mem, decide_eq_false hnot, Bool.false_and]
  exact Bool.false_ne_true

/-! ### The commands of a span (R314, R315) -/

section
variable {s : State} (hw : s.cur.wait = none)
include hw

theorem exec_spanclose_of_open {m : SpanMember} (hm : s.cur.span = some m) (ho : m.opened = true) :
    exec .spanclose s = .next (s.enqueueCmd true (s.command .spanClose)) := by
  show execSpanclose s = _
  rw [execSpanclose, State.issue_of_ready hw rfl, hm]
  exact congrArg Host.Outcome.next (if_pos ho)

theorem exec_spanclose_of_not_open (h : s.cur.span = none ∨ ∃ m, s.cur.span = some m ∧ m.opened = false) :
    exec .spanclose s = .next (s.reject 0) := by
  show execSpanclose s = _
  rw [execSpanclose, State.issue_of_ready hw rfl]
  obtain hm | ⟨m, hm, ho⟩ := h
  · rw [hm]
  · rw [hm]
    exact congrArg Host.Outcome.next (if_neg (Bool.eq_false_iff.1 ho))

variable {a : Reg} (hr : s.ready [a] = true) {keep z : Bool} {ha hb : BitVec 5}
include hr

theorem exec_spanmma_of_not_open (h : s.cur.span = none ∨ ∃ m, s.cur.span = some m ∧ m.opened = false) :
    exec (.spanmma a keep z ha hb) s = .next (s.reject 0) := by
  show execSpanmma a keep z ha hb s = _
  rw [execSpanmma, State.issue_of_ready hw hr]
  obtain hm | ⟨m, hm, ho⟩ := h
  · simp only [hm]
  · simp only [hm]
    cases parseShape (s.cur.s a) s.cur.acctiles ((some m).any fun m => s.cur.columns.contains (m.g0 + m.len - 1)) with
    | none => rfl
    | some sh =>
      cases s.cur.chan hb.toNat with
      | none => rfl
      | some cb => simp only [ho, Bool.false_and, Bool.false_eq_true, if_false]

end

/-- What SPANMMA asks of its operand and channels: the tail has the tiles, the head has a channel for the one operand, and every
member an entry that holds its panel of the other. -/
def Team.SpanFits (t : Team) (m : SpanMember) (w : Word) (ha hb : Nat) : Prop :=
  shapeFits w t.acctiles (t.columns.contains (m.g0 + m.len - 1)) ∧ (t.columns.contains m.g0 = true → t.chan ha ≠ none)
    ∧ ∃ c, t.chan hb = some c ∧
      panelBytes (16 * (shapeOf w).n16) (64 * (shapeOf w).k64) (shapeOf w).bfmt (shapeOf w).mx ≤ c.esize * 128

section
variable {s : State} {a : Reg} {m : SpanMember} {keep z : Bool} {ha hb : BitVec 5} (hw : s.cur.wait = none)
  (hr : s.ready [a] = true) (hm : s.cur.span = some m) (ho : m.opened = true)
include hw hr hm ho

theorem exec_spanmma_of_fits (h : s.cur.SpanFits m (s.cur.s a) ha.toNat hb.toNat) : exec (.spanmma a keep z ha hb) s
    = .next (s.enqueueCmd true (s.command (.spanMma (shapeOf (s.cur.s a)) z keep ha.toNat hb.toNat))) := by
  obtain ⟨hshape, hhead, cb, hcb, hpanel⟩ := h
  have hhead' : (!s.cur.columns.contains m.g0 || (s.cur.chan ha.toNat).isSome) = true := by
    cases hc : s.cur.columns.contains m.g0 with
    | false => rfl
    | true => exact Option.isSome_iff_ne_none.2 (hhead hc)
  show execSpanmma a keep z ha hb s = _
  rw [execSpanmma, State.issue_of_ready hw hr]
  simp only [hm, Option.any_some, parseShape_of_fits hshape, hcb, ho, hhead', Bool.true_and]
  exact congrArg Host.Outcome.next (if_pos (decide_eq_true hpanel))

theorem exec_spanmma_of_not_fits (h : ¬ s.cur.SpanFits m (s.cur.s a) ha.toNat hb.toNat) :
    exec (.spanmma a keep z ha hb) s = .next (s.reject 0) := by
  show execSpanmma a keep z ha hb s = _
  rw [execSpanmma, State.issue_of_ready hw hr]
  by_cases hshape : shapeFits (s.cur.s a) s.cur.acctiles (s.cur.columns.contains (m.g0 + m.len - 1))
  · cases hcb : s.cur.chan hb.toNat with
    | none => simp only [hm, Option.any_some, parseShape_of_fits hshape, hcb]
    | some cb =>
      simp only [hm, Option.any_some, parseShape_of_fits hshape, hcb]
      refine congrArg Host.Outcome.next (if_neg fun htests => h ⟨hshape, fun hc => ?_, cb, hcb, ?_⟩)
      · simp only [ho, hc, Bool.and_eq_true, Bool.not_true, Bool.false_or] at htests
        exact Option.isSome_iff_ne_none.1 htests.1.2
      · exact of_decide_eq_true (Bool.and_eq_true_iff.1 htests).2
  · simp only [hm, Option.any_some, parseShape_of_not_fits hshape]

end

end Sys2Proof.Machine
end

section
open Sys2Proof Sys2Proof.Machine

/-- Settles O23: each instruction by the tests its rule makes; the rendezvous by what it opens. -/
theorem spanLife : Obligations.SpanLife := by
  intro s a keep z ha hb m t x new free good waiting clash enters sh fits
  have enters_of {i : Instr} {op : EngOp} (hroom : t.mxq.length < 16)
      (hi : exec i s = .next (s.enqueueCmd true (s.command op))) : enters i op := by
    rw [State.enqueueCmd_of_room (matrix := true) _ hroom] at hi
    exact hi
  refine ⟨fun hw hr => ⟨exec_spanopen_of_good hw hr, exec_spanopen_of_bad hw hr⟩, fun hw hm => ?_, fun hm ho => ⟨?_, ?_⟩,
    fun hw hm ho => ⟨fun hroom => enters_of hroom (exec_spanclose_of_open hw hm ho),
      fun hr hroom h => enters_of hroom (exec_spanmma_of_fits hw hr hm ho h), fun hr h => exec_spanmma_of_not_fits hw hr hm ho h⟩,
    fun hw hno => ⟨exec_spanclose_of_not_open hw hno, fun hr => exec_spanmma_of_not_open hw hr hno⟩⟩
  · have hexec := exec_spanopen_of_waiting a hw hm
    exact ⟨fun ho => hexec.trans (congrArg Host.Outcome.next (if_pos ho)),
      fun ho => hexec.trans (congrArg Host.Outcome.next (if_neg (Bool.eq_false_iff.1 ho)))⟩
  · exact exec_spanRendezvous_of_not hm
  · intro hall hrun hclash hhalt
    exact ⟨_, exec_spanRendezvous_of_all hm ho hall hrun hclash hhalt, rfl, List.length_map ..,
      fun u hu => State.spanOpened_mem hu (hrun u hu), fun u hu => State.mem_teams_of_not_waiting hu⟩
end

section
/-!
SUPPORT. What the head of an engine queue leaves when it fires (R264 to R266, R269, R280).
-/

namespace Sys2Proof.Machine

/-! ### Claims and firing (R265, R269) -/

/-- Claims change the channels of a team and nothing else. -/
theorem claimAll_eq (op : Nat) (cs : List (Nat × Bool × Nat)) (t : Team) :
    (claimAll op cs t).1 = { t with chans := (claimAll op cs t).1.chans } := by
  induction cs generalizing t with
  | nil => rfl
  | cons c cs ih =>
    obtain ⟨h, out, k⟩ := c
    exact ih (t.setChan h _)

/-- The operations whose firing leaves no undefined bytes: transfers, and products of a team without logged writes (R236). -/
def EngOp.firesPlain (t : Team) (op : EngOp) : Prop :=
  (∃ k d, op = .mover k d) ∨ (∃ o w h, op = .tacc o w h) ∨ ((∃ sh z x y ha hb, op = .tmma sh z x y ha hb) ∧ t.wlog = [])

/-- Firing makes the claims and the pins, and the command leaves its queue and runs. -/
theorem State.fire_of_plain {s : State} {c : EngCmd} (hop : c.op.firesPlain s.cur) (matrix : Bool) (pins : List Nat) :
    ∃ f stt frames, f.id = c.id ∧ f.cmd = c ∧ f.raced = false ∧ f.pins = pins ∧ s.fire matrix c pins = { s with
      cur := { (claimAll c.id c.op.claims s.cur).1.popHead matrix with stt := stt, fired := s.cur.fired ++ [f] },
      frames := frames } := by
  have hclaims := claimAll_eq c.id c.op.claims s.cur
  have hfired : ((claimAll c.id c.op.claims s.cur).1.popHead matrix).fired = s.cur.fired := by
    rw [hclaims]; cases matrix <;> rfl
  have hwlog : ((claimAll c.id c.op.claims s.cur).1.popHead matrix).wlog = s.cur.wlog := by
    rw [hclaims]; cases matrix <;> rfl
  rw [← hfired]
  obtain ⟨k, d, h⟩ | ⟨o, w, h', h⟩ | ⟨⟨sh, z, x, y, ha, hb, h⟩, hempty⟩ := hop
  · rw [State.fire, h]
    exact ⟨_, _, _, rfl, rfl, rfl, rfl, rfl⟩
  · rw [State.fire, h]
    exact ⟨_, _, _, rfl, rfl, rfl, rfl, rfl⟩
  · rw [h] at hwlog
    rw [State.fire, h]
    simp only [State.pin, hwlog, hempty, List.filter_nil, breakLogged]
    exact ⟨_, _, _, rfl, rfl, rfl, rfl, rfl⟩

/-- An operation that fires plainly is neither a marker nor a command of a span. -/
theorem EngOp.not_span_of_firesPlain {t : Team} {op : EngOp} (h : op.firesPlain t) :
    (∀ n, op ≠ .marker n) ∧ (∀ sh z k ha hb, op ≠ .spanMma sh z k ha hb) ∧ op ≠ .spanClose := by
  obtain ⟨k, d, rfl⟩ | ⟨o, w, h', rfl⟩ | ⟨⟨sh, z, x, y, ha, hb, rfl⟩, -⟩ := h <;> simp

/-! ### The head of a queue (R265) -/

/-- The head is ready and it is its turn (R264, R265). -/
def State.headGoes (s : State) (matrix : Bool) (c : EngCmd) : Bool :=
  s.headReady s.cur matrix && s.capacity s.cur.sett s.cur.core matrix && s.firstInLine s.cur matrix c

/-- A team that does not run fires nothing. -/
theorem exec_engineCommandFire_of_stopped {s : State} (h : s.cur.status ≠ .running) (matrix : Bool) :
    exec (.engineCommandFire matrix) s = .next s := by
  show execEngineCommandFire matrix s = _
  rw [execEngineCommandFire]
  cases hs : s.cur.status with
  | running => exact absurd hs h
  | _ => rfl

/-- A marker at the head of a queue leaves with those behind it. -/
theorem dropMarks_cons_marker {c : EngCmd} {n : Nat} (h : c.op = .marker n) (rest : List EngCmd) :
    dropMarks (c :: rest) = dropMarks rest := by
  rw [dropMarks, h]

/-- A round of a span. -/
def EngOp.isRound : EngOp → Bool
  | .spanMma _ _ _ _ _ => true
  | _ => false

theorem EngOp.isRound_eq_false_iff (op : EngOp) : op.isRound = false ↔ ∀ sh z k ha hb, op ≠ .spanMma sh z k ha hb := by
  cases op with
  | spanMma sh z k ha hb => exact ⟨fun h => by simp [EngOp.isRound] at h, fun h => absurd rfl (h sh z k ha hb)⟩
  | _ => simp [EngOp.isRound]

section
variable {s : State} {matrix : Bool} {c : EngCmd} (hhead : s.cur.head matrix = some c)

include hhead

/-- SPANCLOSE is ready once its blocks are done and no round of its span runs. -/
theorem State.headGoes_spanClose_iff (hgo : s.halted s.cur.ctx = false) (hop : c.op = .spanClose) :
    s.headGoes matrix c = true ↔ s.cur.blocksDone c.need = true
      ∧ (∀ f ∈ s.cur.fired, ∀ sh z k ha hb, f.cmd.op ≠ .spanMma sh z k ha hb)
      ∧ s.capacity s.cur.sett s.cur.core matrix = true ∧ s.firstInLine s.cur matrix c = true := by
  simp only [State.headGoes, State.headReady, hhead, hgo, hop, Bool.not_false, Bool.true_and, Bool.and_eq_true, Bool.not_eq_true',
    List.any_eq_false, Bool.not_eq_true, and_assoc]
  exact and_congr_right fun _ => and_congr_left fun _ => forall₂_congr fun f _ => f.cmd.op.isRound_eq_false_iff

/-- A transfer or a product is ready once its blocks are done, its claims are possible and its pages can be pinned. -/
theorem State.headGoes_plain_iff (hgo : s.halted s.cur.ctx = false) {t : Team} (hop : c.op.firesPlain t) :
    s.headGoes matrix c = true ↔ s.cur.blocksDone c.need = true ∧ claimsOk c.op.claims s.cur = true
      ∧ s.couldPin s.cur (s.cur.commandPages c.op) = true
      ∧ s.capacity s.cur.sett s.cur.core matrix = true ∧ s.firstInLine s.cur matrix c = true := by
  obtain ⟨k, d, h⟩ | ⟨o, w, h', h⟩ | ⟨⟨sh, z, x, y, ha, hb, h⟩, -⟩ := hop <;>
  simp only [State.headGoes, State.headReady, hhead, hgo, h, Bool.not_false, Bool.true_and, Bool.and_eq_true, and_assoc]

theorem exec_engineCommandFire_of_marker (hrun : s.cur.status = .running) (hgo : s.halted s.cur.ctx = false) {n : Nat}
    (hop : c.op = .marker n) : exec (.engineCommandFire matrix) s = .next { s with
      cur := if matrix then { s.cur with mxq := dropMarks s.cur.mxq } else { s.cur with mvq := dropMarks s.cur.mvq } } := by
  show execEngineCommandFire matrix s = _
  simp only [execEngineCommandFire, hrun, hhead, hgo, hop]

theorem exec_engineCommandFire_of_spanClose (hrun : s.cur.status = .running) (hgo : s.halted s.cur.ctx = false)
    (hop : c.op = .spanClose) (h : s.headGoes matrix c = true) : exec (.engineCommandFire matrix) s = .next s.closeSpan := by
  rw [State.headGoes] at h
  show execEngineCommandFire matrix s = _
  simp only [execEngineCommandFire, hrun, hhead, hgo, hop, h, Bool.not_true, Bool.false_eq_true, if_false, BEq.rfl, if_true]

theorem exec_engineCommandFire_of_not_ready (hrun : s.cur.status = .running) (hgo : s.halted s.cur.ctx = false)
    (hmark : ∀ n, c.op ≠ .marker n) (hspan : ∀ sh z k ha hb, c.op ≠ .spanMma sh z k ha hb) (h : s.headGoes matrix c = false) :
    exec (.engineCommandFire matrix) s = .next s := by
  rw [State.headGoes] at h
  show execEngineCommandFire matrix s = _
  simp only [execEngineCommandFire, hrun, hhead, hgo, h, Bool.not_false, if_true]

theorem exec_engineCommandFire_of_ready {u : State} (hrun : s.cur.status = .running) (hgo : s.halted s.cur.ctx = false)
    (hmark : ∀ n, c.op ≠ .marker n) (hspan : ∀ sh z k ha hb, c.op ≠ .spanMma sh z k ha hb) (hclose : c.op ≠ .spanClose)
    (h : s.headGoes matrix c = true) (hbring : s.bringPages (s.cur.commandPages c.op) = (u, true))
    (hpins : u.pinsOk (u.framesOf (s.cur.commandPages c.op)) = true) :
    exec (.engineCommandFire matrix) s = .next (u.fire matrix c (u.framesOf (s.cur.commandPages c.op))) := by
  rw [State.headGoes] at h
  show execEngineCommandFire matrix s = _
  simp only [execEngineCommandFire, hrun, hhead, hgo, h, Bool.not_true, beq_eq_false_iff_ne.2 hclose, hbring, hpins]
  rfl

end

end Sys2Proof.Machine
end

section
open Sys2Proof Sys2Proof.Machine

/-- Settles O24: by the operation at the head of the queue. -/
theorem engineFires : Obligations.EngineFires := by
  intro s u matrix c rest t i turn hqueue
  have hhead : s.cur.head matrix = some c := congrArg List.head? hqueue
  refine ⟨fun hstop => ?_, fun hrun hgo => ⟨fun ⟨n, hop⟩ => ?_, fun hop hm => ?_, fun hop => ?_⟩⟩
  case refine_1 => exact exec_engineCommandFire_of_stopped hstop matrix
  case refine_2 =>
    refine ⟨_, exec_engineCommandFire_of_marker hhead hrun hgo hop, ?_, ?_⟩
    · cases matrix
      · exact congrArg dropMarks hqueue |>.trans (dropMarks_cons_marker hop rest)
      · exact congrArg dropMarks hqueue |>.trans (dropMarks_cons_marker hop rest)
    · cases matrix <;> rfl
  case refine_3 =>
    subst hm
    intro ready
    have hgoes : s.headGoes true c = true ↔ ready := State.headGoes_spanClose_iff hhead hgo hop
    refine ⟨fun h => ⟨_, exec_engineCommandFire_of_spanClose hhead hrun hgo hop (hgoes.2 h), rfl, ?_, rfl⟩,
      fun h => exec_engineCommandFire_of_not_ready hhead hrun hgo (by simp [hop]) (by simp [hop])
        (Bool.eq_false_iff.2 fun hg => h (hgoes.1 hg))⟩
    exact congrArg (fun q => dropMarks (q.drop 1)) hqueue
  case refine_4 =>
    have hplain : c.op.firesPlain u.cur := hop
    obtain ⟨hmark, hround, hclose⟩ := EngOp.not_span_of_firesPlain hplain
    intro ready
    have hgoes : s.headGoes matrix c = true ↔ ready := State.headGoes_plain_iff hhead hgo hplain
    refine ⟨fun h => exec_engineCommandFire_of_not_ready hhead hrun hgo hmark hround
      (Bool.eq_false_iff.2 fun hg => h (hgoes.1 hg)), fun h hbring hpins hmx hmv => ?_⟩
    obtain ⟨f, stt, frames, hid, hcmd, hraced, hpin, hfire⟩ := State.fire_of_plain hplain matrix (u.framesOf (t.commandPages c.op))
    have hexec := exec_engineCommandFire_of_ready hhead hrun hgo hmark hround hclose (hgoes.2 h) hbring hpins
    have hclaims := claimAll_eq c.id c.op.claims u.cur
    rw [hfire, hclaims] at hexec
    have hpop : dropMarks ((if matrix then u.cur.mxq else u.cur.mvq).drop 1) = dropMarks rest := by
      rw [hmx, hmv, hqueue, List.drop_one, List.tail_cons]
    cases matrix with
    | false => exact ⟨_, f, hexec, rfl, hid, hcmd, hraced, hpin, rfl, hpop, rfl, rfl⟩
    | true => exact ⟨_, f, hexec, rfl, hid, hcmd, hraced, hpin, rfl, hpop, rfl, rfl⟩
end

section
/-!
SUPPORT. A state in which no team is focused, an operation of the unfocused record is to complete, and another team waits for a
page: what wakes that team leaves it focused (R266).
-/

namespace Sys2Proof.Machine

/-- A fired TACC.ZERO of no tiles. -/
def idleZero : Fired :=
  { id := 7, cmd := { id := 7, op := .tacc .zero { t := 0, nt := 0, c16 := 1, x := 0 } 0, pkr := 0, arr := 0, need := 0 },
    inStart := 0, in2Start := 0, outStart := 0, pins := [], ranges := [], raced := false }

/-- No team is focused; the one beside waits for a page that it does not map, and its register s1 holds 1. -/
def unfocused : State := { State.reset with
  cur := { State.reset.cur with fired := [idleZero] },
  others := [State.reset.cur.setS 1 1 |> fun t => { t with uid := 1, status := .running, want := [0] }] }

end Sys2Proof.Machine
end
section
open Sys2Proof Sys2Proof.Machine

/-- Refutes O25: in `unfocused` the completion of TACC.ZERO wakes the team that waits for a page, and focuses it. -/
theorem not_engineCompletes : ¬ Obligations.EngineCompletes := by
  intro ⟨hmatrix, _⟩
  obtain ⟨hzero, _⟩ := hmatrix unfocused idleZero (by decide)
  obtain ⟨v, hv, _, _, _, hregs, _⟩ := hzero _ _ rfl (by decide) (by decide)
  have hcur : v.cur.s 1 = 1 := by
    rw [← show (unfocused.completeTacc idleZero .zero { t := 0, nt := 0, c16 := 1, x := 0 } 0) = v from Host.Outcome.next.inj hv]
    decide
  have hold : v.cur.s 1 = unfocused.cur.s 1 := congrArg (fun regs => { v.cur with sregs := regs }.s 1) hregs
  exact absurd (hcur.symm.trans hold) (by decide)
end

section
/-!
SUPPORT. The firing of a round of a span and its completion (R279, R280).
-/

namespace Sys2Proof.Machine

/-- The teams of an open span of the focused team. -/
def State.spanUnits (s : State) (m : SpanMember) : List Team := (s.memberIds s.cur m).filterMap s.team?

/-- A member of the span has gone. -/
def State.spanGone (s : State) (m : SpanMember) : Prop :=
  (s.members s.cur m).length < m.len ∨ (s.spanUnits m).any (fun u => u.status != .running) = true

/-- The bytes of the head's A entry. -/
def roundBytes (us : List Team) : Nat :=
  match us with
  | u :: _ => (match u.spanHead with | some (_, _, _, _, ha, _) => (match u.chan ha with | some c => c.bytes | none => 0) | none => 0)
  | [] => 0

theorem roundBytes_eq (us : List Team) : roundBytes us
    = (us.head?.bind (fun u => u.spanHead.bind (fun y => (u.chan y.2.2.2.2.1).map Chan.bytes))).getD 0 := by
  cases us with
  | nil => rfl
  | cons u us =>
    simp only [roundBytes, List.head?_cons, Option.bind_some]
    cases u.spanHead with
    | none => rfl
    | some y =>
      simp only [Option.bind_some]
      cases u.chan y.2.2.2.2.1 <;> rfl

/-- The members agree, now and before. -/
def State.spanAgrees (s : State) (m : SpanMember) : Prop :=
  m.broken = false ∧ roundAgrees ((s.spanUnits m).filterMap Team.spanHead) (roundBytes (s.spanUnits m)) = true

theorem State.spanAgrees_iff (s : State) (m : SpanMember) :
    s.spanAgrees m ↔ (m.broken || !roundAgrees ((s.spanUnits m).filterMap Team.spanHead) (roundBytes (s.spanUnits m))) = false := by
  rw [State.spanAgrees, Bool.or_eq_false_iff, Bool.not_eq_false']

/-- Every member's head is first in line on its engine. -/
def State.spanFirst (s : State) (m : SpanMember) : Bool :=
  (s.spanUnits m).all (fun u => match u.head true with | some c => s.firstInLine u true c | none => false)

/-- Every member is ready for the round. -/
def State.spanReady (s : State) (m : SpanMember) : Bool :=
  (s.spanUnits m).all (fun u => s.roundReady u (some u.uid == (s.memberIds s.cur m).head?) && s.capacity u.sett u.core true)

section
variable {s : State} {m : SpanMember} (hopen : m.opened = true)
include hopen

/-- The round of a whole span fires where its members are ready. -/
theorem State.roundFires_eq (hspan : s.cur.span = some m) (hall : (s.members s.cur m).length = m.len) : s.roundFires s.cur = s.spanReady m := by
  simp only [State.roundFires, hspan, hopen, hall, BEq.rfl, Bool.true_and]
  rfl

/-- An open span that is not halted is looked at. -/
theorem State.span_looked_at (hgo : s.halted s.cur.ctx = false) : ¬ (!m.opened || s.halted s.cur.ctx) = true := by
  rw [hopen, hgo]
  exact Bool.false_ne_true

end

theorem State.spanGone_iff (s : State) (m : SpanMember) :
    (decide ((s.members s.cur m).length < m.len) || (s.spanUnits m).any (fun u => u.status != .running)) = true ↔ s.spanGone m := by
  rw [Bool.or_eq_true, decide_eq_true_eq, State.spanGone]

/-- The command of every member leaves its queue with the MISMATCH bit, and the span is broken (R280). -/
def Team.mismatched (ids : List Nat) (t : Team) : Team :=
  if ids.contains t.uid && t.status != .absent then
    { t.dropRound 1 with span := t.span.map (fun y => { y with broken := true }) }
  else t

section
variable {s : State} {m : SpanMember} {x : EngCmd × Shape × Bool × Bool × Nat × Nat} (hspan : s.cur.span = some m)
  (hopen : m.opened = true) (hhead : s.cur.spanHead = some x) (hgo : s.halted s.cur.ctx = false)
include hspan hopen hhead hgo

theorem exec_spanRoundFire_of_gone (h : s.spanGone m) :
    exec .spanRoundFire s = .next { s with cur := s.cur.dropRound 2 } := by
  show execSpanRoundFire s = _
  rw [execSpanRoundFire, hspan, hhead]
  exact congrArg Host.Outcome.next ((if_neg (State.span_looked_at hopen hgo)).trans (if_pos ((s.spanGone_iff m).2 h)))

variable (hstay : ¬ s.spanGone m)
include hstay

theorem exec_spanRoundFire_of_missing (h : (s.spanUnits m).any (fun u => u.spanHead.isNone) = true) :
    exec .spanRoundFire s = .next s := by
  show execSpanRoundFire s = _
  rw [execSpanRoundFire, hspan, hhead]
  exact congrArg Host.Outcome.next ((if_neg (State.span_looked_at hopen hgo)).trans
    ((if_neg (mt (s.spanGone_iff m).1 hstay)).trans (if_pos h)))

variable (hthere : (s.spanUnits m).any (fun u => u.spanHead.isNone) = false)
include hthere

theorem exec_spanRoundFire_of_mismatch (h : ¬ s.spanAgrees m) :
    exec .spanRoundFire s = .next (s.mapTeams (Team.mismatched (s.memberIds s.cur m))) := by
  have hbad := Bool.eq_true_of_not_eq_false (mt (s.spanAgrees_iff m).2 h)
  show execSpanRoundFire s = _
  rw [execSpanRoundFire, hspan, hhead]
  exact congrArg Host.Outcome.next ((if_neg (State.span_looked_at hopen hgo)).trans
    ((if_neg (mt (s.spanGone_iff m).1 hstay)).trans ((if_neg (Bool.eq_false_iff.1 hthere)).trans (if_pos hbad))))

variable (hagree : s.spanAgrees m)
include hagree

theorem exec_spanRoundFire_of_not_ready (h : (s.roundFires s.cur && s.spanFirst m) = false) : exec .spanRoundFire s = .next s := by
  have hgood := Bool.eq_false_iff.1 ((s.spanAgrees_iff m).1 hagree)
  show execSpanRoundFire s = _
  rw [execSpanRoundFire, hspan, hhead]
  exact congrArg Host.Outcome.next ((if_neg (State.span_looked_at hopen hgo)).trans
    ((if_neg (mt (s.spanGone_iff m).1 hstay)).trans ((if_neg (Bool.eq_false_iff.1 hthere)).trans ((if_neg hgood).trans
      (if_pos (by rw [Bool.not_eq_true']; exact h))))))

theorem exec_spanRoundFire_of_ready {v : State} (h : (s.roundFires s.cur && s.spanFirst m) = true)
    (hfire : fireMembers ((s.memberIds s.cur m).map (fun i => (i, some i == (s.memberIds s.cur m).head?))) s = some v) :
    exec .spanRoundFire s = .next (v.focus s.cur.uid) := by
  have hgood := Bool.eq_false_iff.1 ((s.spanAgrees_iff m).1 hagree)
  show execSpanRoundFire s = _
  rw [execSpanRoundFire, hspan, hhead]
  refine congrArg Host.Outcome.next ((if_neg (State.span_looked_at hopen hgo)).trans
    ((if_neg (mt (s.spanGone_iff m).1 hstay)).trans ((if_neg (Bool.eq_false_iff.1 hthere)).trans ((if_neg hgood).trans
      ((if_neg ?_).trans ?_)))))
  · rw [Bool.not_eq_true', Bool.not_eq_false]
    exact h
  · rw [hfire]

end

/-- A round completes where its operands are there: the tail takes the product, and every member's command completes. -/
theorem exec_spanRoundComplete_of_panels {s : State} {m : SpanMember} {op : Nat} {hd tl : Team} {fa ft : Fired} {sa st : Shape}
    {ha r1 r2 r3 : Nat} {q1 q2 q3 z : Bool} {a : Panel} {bs : List Panel} (hspan : s.cur.span = some m)
    (hfired : (s.cur.fired.find? (fun f => f.id == op)).isSome = true)
    (hhd : (s.memberIds s.cur m).head?.bind s.team? = some hd) (htl : (s.memberIds s.cur m).getLast?.bind s.team? = some tl)
    (hhead : hd.roundOp = some (fa, sa, q1, q2, ha, r1)) (htail : tl.roundOp = some (ft, st, z, q3, r2, r3))
    (hpanels : roundPanels s (s.memberIds s.cur m) = some bs)
    (hpanel : (s.focus hd.uid).panel ha fa.inStart (8 * sa.m8) (bs.foldl (fun n b => n + b.kb) 0) sa.afmt false sa.mx = some a) :
    exec (.spanRoundComplete op) s = .next (
      let out := productInto a bs st.t st.n16 z tl.acc (gridOf (8 * st.m8) (16 * st.n16)) tl.acc 0
      (retireRound sa.afmt (s.memberIds s.cur m)
        (s.setTeam tl.uid (fun t => { t with fstat := t.fstat ||| out.2, acc := out.1 }))).focus s.cur.uid) := by
  obtain ⟨f, hf⟩ := Option.isSome_iff_exists.1 hfired
  show execSpanRoundComplete op s = _
  rw [execSpanRoundComplete, hspan, hf]
  simp only [hhd, htl, hhead, htail, hpanels, hpanel]
  rfl

end Sys2Proof.Machine
end

section
open Sys2Proof Sys2Proof.Machine

/-- Settles O26: the firing by the tests of the round in their order, the completion by the panels of its members. -/
theorem spanRounds : Obligations.SpanRounds := by
  intro s v m op hd tl x fa sa st ha z a bs r1 r2 r3 q1 q2 q3 ft hspan hopen ids us gone bytes agree ready
  have hagree : agree ↔ s.spanAgrees m := by
    show (_ ∧ roundAgrees _ bytes = true) ↔ _
    rw [State.spanAgrees, roundBytes_eq]
    rfl
  have hready (hall : (s.members s.cur m).length = m.len) : (s.roundFires s.cur && s.spanFirst m) = true ↔ ready := by
    rw [State.roundFires_eq hopen hspan hall, Bool.and_eq_true]
    rfl
  refine ⟨fun hhead hgo => ⟨exec_spanRoundFire_of_gone hspan hopen hhead hgo,
    exec_spanRoundFire_of_missing hspan hopen hhead hgo, fun hall hstay hthere => ⟨fun h => ?_, fun h hnot => ?_, fun h hr hfire => ?_⟩⟩,
    fun hfired hhd htl hh ht hps hp => exec_spanRoundComplete_of_panels hspan hfired hhd htl hh ht hps hp⟩
  · exact exec_spanRoundFire_of_mismatch hspan hopen hhead hgo hstay hthere (mt hagree.2 h)
  · exact exec_spanRoundFire_of_not_ready hspan hopen hhead hgo hstay hthere (hagree.1 h)
      (Bool.eq_false_iff.2 (mt (hready hall).1 hnot))
  · exact exec_spanRoundFire_of_ready hspan hopen hhead hgo hstay hthere (hagree.1 h) ((hready hall).2 hr) hfire
end

section
open Sys2Proof Sys2Proof.Machine

/-- Refutes O27: in `unfocused` an SPUNMAP of no pages wakes the team that waits for a page, and focuses it. -/
theorem not_scratchpadPages : ¬ Obligations.ScratchpadPages := by
  intro h
  obtain ⟨-, -, -, -, -, hunmap⟩ := h unfocused 0 0 false (by decide)
  obtain ⟨v, hv, -, -, hregs⟩ := hunmap (by decide) (by decide) fun q hp hq => absurd hq (Nat.not_lt.2 hp)
  have hcur : v.cur.s 1 = 1 := by
    rw [← show (unfocused.advance 1).wakeMemory = v from Host.Outcome.next.inj hv]
    decide
  have hold : v.cur.s 1 = unfocused.cur.s 1 := congrArg (fun regs => { v.cur with sregs := regs }.s 1) hregs
  exact absurd (hcur.symm.trans hold) (by decide)
end

section
/-!
SUPPORT. Trigger counters: what a change of a counter leaves of the counters, the entries and the teams (R293 to R295, R318 to
R320).
-/

namespace Sys2Proof.Machine

/-! ### Setts (R293) -/

/-- The sett that was changed. -/
theorem State.sett_setSett_same (s : State) (n : Nat) (f : Sett → Sett) : (s.setSett n f).sett n = f (s.sett n) := by
  show FMap.getD (FMap.set s.setts n (f (s.sett n))) n Sett.init = _
  rw [FMap.getD_set, if_pos rfl]

/-- Another sett stays. -/
theorem State.sett_setSett_other (s : State) {n k : Nat} (f : Sett → Sett) (h : k ≠ n) : (s.setSett n f).sett k = s.sett k := by
  show FMap.getD (FMap.set s.setts n (f (s.sett n))) k Sett.init = _
  rw [FMap.getD_set, if_neg h]
  rfl

/-- Two setts have the same trigger counters, the same entries and the same received messages. -/
structure Sett.SameEntries (x y : Sett) : Prop where
  counters : y.counters = x.counters
  entries : y.entries = x.entries
  inbox : y.inbox = x.inbox

/-- So have the setts of two states. -/
def State.SameEntries (s v : State) : Prop := ∀ n, (s.sett n).SameEntries (v.sett n)

theorem State.SameEntries.rfl {s : State} : s.SameEntries s := fun _ => ⟨Eq.refl _, Eq.refl _, Eq.refl _⟩

theorem State.SameEntries.trans {s u v : State} (h : s.SameEntries u) (h' : u.SameEntries v) : s.SameEntries v :=
  fun n => ⟨(h' n).counters.trans (h n).counters, (h' n).entries.trans (h n).entries, (h' n).inbox.trans (h n).inbox⟩

/-- A change of a sett that keeps its counters, entries and messages. -/
theorem State.sameEntries_setSett (s : State) (n : Nat) {f : Sett → Sett} (h : (s.sett n).SameEntries (f (s.sett n))) :
    s.SameEntries (s.setSett n f) := by
  intro k
  by_cases hk : k = n
  · rw [hk, State.sett_setSett_same]
    exact h
  · rw [State.sett_setSett_other s f hk]
    exact ⟨Eq.refl _, Eq.refl _, Eq.refl _⟩

/-- The counters are those of the setts. -/
theorem State.SameEntries.counter_eq {s v : State} (h : s.SameEntries v) (n no : Nat) : v.counter n no = s.counter n no := by
  rw [State.counter, State.counter, (h n).counters]

/-! ### Messages and what a change of a counter tells (R295, R320, R321) -/

/-- A message leaves the teams and memory alone. -/
theorem State.sendCtl_eq (s : State) (src pkg sett : Nat) (b : CtlBody) : ∃ setts transit outbox,
    s.sendCtl src pkg sett b = { s with setts := setts, transit := transit, outbox := outbox }
      ∧ s.SameEntries (s.sendCtl src pkg sett b) := by
  have hsame : s.SameEntries (s.setSett src fun x => { x with
      cseqOut := FMap.set x.cseqOut (pairKey pkg sett) (FMap.getD (s.sett src).cseqOut (pairKey pkg sett) 1 + 1) }) :=
    State.sameEntries_setSett s src ⟨Eq.refl _, Eq.refl _, Eq.refl _⟩
  by_cases h : pkg = s.ownPkg
  · have hsend : s.sendCtl src pkg sett b = _ := if_pos h
    rw [hsend]
    exact ⟨_, _, _, rfl, hsame⟩
  · have hsend : s.sendCtl src pkg sett b = _ := if_neg h
    rw [hsend]
    exact ⟨_, _, _, rfl, hsame⟩

/-- Messages to several members. -/
theorem State.foldl_sendCtl_eq {α : Type} (src : Nat) (pkg sett : α → Nat) (b : α → CtlBody) (xs : List α) (s : State) :
    ∃ setts transit outbox, xs.foldl (fun s x => s.sendCtl src (pkg x) (sett x) (b x)) s
      = { s with setts := setts, transit := transit, outbox := outbox }
      ∧ s.SameEntries (xs.foldl (fun s x => s.sendCtl src (pkg x) (sett x) (b x)) s) := by
  induction xs generalizing s with
  | nil => exact ⟨s.setts, s.transit, s.outbox, rfl, .rfl⟩
  | cons x xs ih =>
    obtain ⟨_, _, _, hx, hsame⟩ := s.sendCtl_eq src (pkg x) (sett x) (b x)
    obtain ⟨setts, transit, outbox, hxs, hsame'⟩ := ih (s.sendCtl src (pkg x) (sett x) (b x))
    refine ⟨setts, transit, outbox, ?_, hsame.trans hsame'⟩
    rw [List.foldl_cons, hxs, hx]

/-- What a change of a counter tells: the waits see its value, and members elsewhere are told. -/
theorem State.counterSeen_eq (s : State) (sett no : Nat) : ∃ setts transit outbox,
    s.counterSeen sett no = { s.mapWaits (Wait.seen sett no (s.counter sett no).value) with
      setts := setts, transit := transit, outbox := outbox } ∧ s.SameEntries (s.counterSeen sett no) := by
  obtain ⟨setts, transit, outbox, h, hsame⟩ := State.foldl_sendCtl_eq sett FarMember.pkg FarMember.sett
    (fun m => .arrived m.ctx m.team (some (s.counter sett no).value.toNat))
    ((s.sett sett).members.filter (fun m => m.no == no && notNeg ((s.counter sett no).value - m.target)))
    ((s.mapWaits (Wait.seen sett no (s.counter sett no).value)).setSett sett fun x => { x with
      members := (s.sett sett).members.filter
        (fun m => !(m.no == no && notNeg ((s.counter sett no).value - m.target))) })
  refine ⟨setts, transit, outbox, h, State.SameEntries.trans ?_ hsame⟩
  exact State.sameEntries_setSett (s.mapWaits _) sett ⟨Eq.refl _, Eq.refl _, Eq.refl _⟩

/-- A change of a counter leaves the focused team alone but for its waits, and memory. -/
theorem State.counterSeen_keeps (s : State) (sett no : Nat) :
    (s.counterSeen sett no).cur = s.cur.mapWait (Wait.seen sett no (s.counter sett no).value)
    ∧ (s.counterSeen sett no).mem = s.mem := by
  obtain ⟨_, _, _, h, _⟩ := s.counterSeen_eq sett no
  rw [h]
  exact ⟨rfl, rfl⟩

/-! ### Increments (R294) -/

/-- The counters of a sett, one of them set. -/
theorem State.counter_of_set {s v : State} {sett no : Nat} {c : Counter}
    (h : (v.sett sett).counters = FMap.set (s.sett sett).counters no c) :
    v.counter sett no = c ∧ ∀ n, n ≠ no → v.counter sett n = s.counter sett n := by
  refine ⟨?_, fun n hn => ?_⟩
  · rw [State.counter, h, FMap.getD_set, if_pos rfl]
  · rw [State.counter, h, FMap.getD_set, if_neg hn]
    rfl

/-- An increment adds to its counter, and fires the entries whose test then holds. -/
theorem State.bump_sett (s : State) (sett no n : Nat) :
    ((s.bump sett no n).sett sett).counters = FMap.set (s.sett sett).counters no
      { s.counter sett no with value := (s.counter sett no).value + BitVec.ofNat 32 n }
    ∧ ((s.bump sett no n).sett sett).entries = fireEntries (fun c => !s.halted c) no
        ((s.counter sett no).value + BitVec.ofNat 32 n) (s.sett sett).entries
    ∧ ((s.bump sett no n).sett sett).inbox = (s.sett sett).inbox := by
  obtain ⟨_, _, _, _, hsame⟩ := State.counterSeen_eq (s.setSett sett (fun x => x.setCounter (fun c => !s.halted c) no
    { s.counter sett no with value := (s.counter sett no).value + BitVec.ofNat 32 n })) sett no
  refine ⟨(hsame sett).counters.trans ?_, (hsame sett).entries.trans ?_, (hsame sett).inbox.trans ?_⟩ <;>
    rw [State.sett_setSett_same] <;> rfl

/-- An increment leaves the focused team alone but for its waits, which its value reaches, and memory. -/
theorem State.bump_keeps (s : State) (sett no n : Nat) :
    (s.bump sett no n).cur = s.cur.mapWait (Wait.seen sett no ((s.counter sett no).value + BitVec.ofNat 32 n))
    ∧ (s.bump sett no n).mem = s.mem := by
  obtain ⟨hcur, hmem⟩ := State.counterSeen_keeps (s.setSett sett (fun x => x.setCounter (fun c => !s.halted c) no
    { s.counter sett no with value := (s.counter sett no).value + BitVec.ofNat 32 n })) sett no
  refine ⟨hcur.trans ?_, hmem⟩
  rw [State.setSett_cur, (State.counter_of_set (s := s) (congrArg Sett.counters (State.sett_setSett_same s sett _))).1]

/-- A test that is not negative. -/
theorem notNeg_iff (x : BitVec 32) : notNeg x = true ↔ 0 ≤ x.toInt := by
  rw [notNeg, BitVec.msb_eq_toInt, Bool.not_eq_true', decide_eq_false_iff_not, Int.not_lt]

/-! ### CNTSET (R318) -/

/-- A write of the collective engine leaves the setts and the registers of the team alone. -/
theorem State.cleWrite_keeps (s : State) (ctx a : Nat) (pkr : Word) (bs : List Byte) :
    (s.cleWrite ctx a pkr bs).2.setts = s.setts ∧ (s.cleWrite ctx a pkr bs).2.cur.sregs = s.cur.sregs := by
  rw [State.cleWrite]
  split
  · exact ⟨rfl, rfl⟩
  split
  · exact ⟨rfl, rfl⟩
  split
  · exact ⟨rfl, rfl⟩
  split
  · exact ⟨rfl, rfl⟩
  · next l _ =>
    obtain ⟨_, _, _, _, _, _, h⟩ := s.writeLine_none_eq l.cmp l.key bs
    simp only [h, and_self]

/-- A record of an entry leaves the setts and the registers of the team alone. -/
theorem State.entryRecord_keeps (s : State) (e : Entry) (status : Nat) (fl : Flags5) (stamp : Nat) :
    (s.entryRecord e status fl stamp).2.setts = s.setts ∧ (s.entryRecord e status fl stamp).2.cur.sregs = s.cur.sregs := by
  rw [State.entryRecord]
  by_cases h : (entryFields e.bytes).recd = 0
  · simp only [h, if_true, and_self]
  · simp only [h, if_false]
    exact s.cleWrite_keeps ..

/-- The records of entries that leave change memory only, and the entries are those that are left. -/
theorem cancelEntries_eq (sett : Nat) (es : List Entry) (s : State) :
    (cancelEntries sett es s).cur.sregs = s.cur.sregs
    ∧ ((cancelEntries sett es s).sett sett).counters = (s.sett sett).counters
    ∧ ((cancelEntries sett es s).sett sett).entries = (s.sett sett).entries.filter (fun y => es.all (fun o => y.id != o.id))
    ∧ (es = [] → (cancelEntries sett es s).mem = s.mem) := by
  induction es generalizing s with
  | nil => exact ⟨rfl, rfl, by simp [cancelEntries], fun _ => rfl⟩
  | cons e es ih =>
    obtain ⟨hsetts, hsregs⟩ := s.entryRecord_keeps e 1 0 s.gtc
    have hsett : (s.entryRecord e 1 0 s.gtc).2.sett sett = s.sett sett := by rw [State.sett, hsetts, State.sett]
    obtain ⟨hregs, hctr, hent, -⟩ := ih ((s.entryRecord e 1 0 s.gtc).2.dropEntry sett e.id)
    rw [State.dropEntry, State.sett_setSett_same, hsett] at hctr hent
    refine ⟨hregs.trans hsregs, hctr, hent.trans ?_, fun h => absurd h (List.cons_ne_nil _ _)⟩
    rw [List.filter_filter]
    exact List.filter_congr fun y _ => by rw [List.all_cons, Bool.and_comm]

/-- The entries of a counter that CNTSET makes leave. -/
def State.armedOn (s : State) (sett no : Nat) : List Entry :=
  (s.sett sett).entries.filter (fun e => e.ctr == no && !e.fired && e.waitBlocks.isNone)

theorem State.mem_armedOn (s : State) (sett no : Nat) (e : Entry) :
    e ∈ s.armedOn sett no ↔ e ∈ (s.sett sett).entries ∧ e.ctr = no ∧ e.fired = false ∧ e.waitBlocks = none := by
  rw [State.armedOn, List.mem_filter, Bool.and_eq_true, Bool.and_eq_true, beq_iff_eq, Bool.not_eq_true', Option.isNone_iff_eq_none,
    and_assoc]

/-- CNTSET gives the counter its value and a new generation, and the entries armed on it leave. -/
theorem State.setCounter_keeps (s : State) (sett no : Nat) (v : BitVec 32) :
    ((s.setCounter sett no v).sett sett).counters
      = FMap.set (s.sett sett).counters no { value := v, gen := (s.counter sett no).gen + 1 }
    ∧ ((s.setCounter sett no v).sett sett).entries
      = (s.sett sett).entries.filter (fun y => (s.armedOn sett no).all (fun o => y.id != o.id))
    ∧ (s.setCounter sett no v).cur.sregs = s.cur.sregs
    ∧ (s.armedOn sett no = [] → (s.setCounter sett no v).mem = s.mem) := by
  obtain ⟨hregs, hctr, hent, hmem⟩ := cancelEntries_eq sett (s.armedOn sett no) (s.setSett sett fun x => { x with
    counters := FMap.set x.counters no { value := v, gen := (s.counter sett no).gen + 1 } })
  rw [State.sett_setSett_same] at hctr hent
  obtain ⟨_, _, _, _, hsame⟩ := State.counterSeen_eq (cancelEntries sett (s.armedOn sett no) (s.setSett sett fun x => { x with
    counters := FMap.set x.counters no { value := v, gen := (s.counter sett no).gen + 1 } })) sett no
  obtain ⟨hcur', hmem'⟩ := State.counterSeen_keeps (cancelEntries sett (s.armedOn sett no) (s.setSett sett fun x => { x with
    counters := FMap.set x.counters no { value := v, gen := (s.counter sett no).gen + 1 } })) sett no
  exact ⟨(hsame sett).counters.trans hctr, (hsame sett).entries.trans hent, (congrArg Team.sregs hcur').trans hregs, fun h => hmem'.trans (hmem h)⟩

/-! ### The instructions (R318 to R320) -/

/-- The end check does not look at what a team waits for. -/
theorem endLevels_setWait (a : Word) (w : Option Wait) (ks : List (BitVec 2)) (t : Team) :
    endLevels a ks { t with wait := w } = { endLevels a ks t with wait := w } := by
  induction ks generalizing t with
  | nil => rfl
  | cons k ks ih =>
    simp only [endLevels]
    split
    · split
      · exact ih { t with lc := t.lc.set k.toNat 0, armed := t.armed &&& ~~~(1#4 <<< k.toNat) }
      · rfl
    · exact ih t

/-- A team whose wait ends goes on at the next instruction. -/
theorem State.endWait_spc (s : State) : s.endWait.cur.spc = (s.advance 1).cur.spc := by
  have hspc := congrArg Team.spc (endLevels_setWait (s.cur.spc + BitVec.ofNat 64 (4 * (1 - 1))) none [3, 2, 1, 0] { s.cur with
    spc := s.cur.spc + BitVec.ofNat 64 (4 * 1) })
  exact hspc

section
variable {s : State} {a b : Reg} {k : Bit3} {arrive : Bool} (hr : s.ready [a, b] = true)
include hr

theorem exec_cntset_of_none (h : s.ownCounter (s.cur.s a) = none) : exec (.cntset a b) s = .next (s.reject 0) := by
  show execCntset a b s = _
  rw [execCntset, State.whenReady_of_ready hr, h]

theorem exec_cntset_of_some {no : Nat} (h : s.ownCounter (s.cur.s a) = some no) :
    exec (.cntset a b) s = .next ((s.setCounter s.cur.sett no ((s.cur.s b).setWidth 32)).advance 1) := by
  show execCntset a b s = _
  rw [execCntset, State.whenReady_of_ready hr, h]

theorem exec_cntwaitNowait_of_none (h : s.ownCounter (s.cur.s a) = none) :
    exec (.cntwaitNowait a b k) s = .next (s.reject 0) := by
  show execCntwaitNowait a b k s = _
  rw [execCntwaitNowait, State.whenReady_of_ready hr, h]

theorem exec_cntwaitNowait_of_far {no : Nat} (h : s.ownCounter (s.cur.s a) = some no)
    (hfar : s.tooFar s.cur.sett no ((s.cur.s b).setWidth 32) = true) :
    exec (.cntwaitNowait a b k) s = .next (s.reject 0) := by
  show execCntwaitNowait a b k s = _
  rw [execCntwaitNowait, State.whenReady_of_ready hr, h]
  exact congrArg Host.Outcome.next (if_pos hfar)

theorem exec_cntwaitNowait_of_near {no : Nat} (h : s.ownCounter (s.cur.s a) = some no)
    (hfar : s.tooFar s.cur.sett no ((s.cur.s b).setWidth 32) = false) : ∃ l1 reqs,
    exec (.cntwaitNowait a b k) s = .next (State.resultC { s with l1 := l1, reqs := reqs } 1 k
      (notNeg ((s.counter s.cur.sett no).value - (s.cur.s b).setWidth 32))) := by
  show ∃ l1 reqs, execCntwaitNowait a b k s = _
  rw [execCntwaitNowait, State.whenReady_of_ready hr, h]
  cases hmet : notNeg ((s.counter s.cur.sett no).value - (s.cur.s b).setWidth 32) with
  | false =>
    refine ⟨s.l1, s.reqs, congrArg Host.Outcome.next ((if_neg (Bool.eq_false_iff.1 hfar)).trans ?_)⟩
    rw [hmet]
    rfl
  | true =>
    obtain ⟨l1, reqs, hacq⟩ := s.discardCores_eq
    refine ⟨l1, reqs, congrArg Host.Outcome.next ((if_neg (Bool.eq_false_iff.1 hfar)).trans ?_)⟩
    rw [hmet, ← hacq]
    rfl

section
variable (hw : s.cur.wait = none)
include hw

theorem exec_cntwait_of_none (h : s.ownCounter (s.cur.s a) = none) : exec (.cntwait a b) s = .next (s.reject 0) := by
  show execCntwait a b s = _
  rw [execCntwait, hw]
  simp only [State.whenReady_of_ready hr, h]

variable {no : Nat} (h : s.ownCounter (s.cur.s a) = some no)
include h

theorem exec_cntwait_of_far (hfar : s.tooFar s.cur.sett no ((s.cur.s b).setWidth 32) = true) :
    exec (.cntwait a b) s = .next (s.reject 0) := by
  show execCntwait a b s = _
  rw [execCntwait, hw]
  simp only [State.whenReady_of_ready hr, h, hfar, if_true]

variable (hnear : s.tooFar s.cur.sett no ((s.cur.s b).setWidth 32) = false)
include hnear

theorem exec_cntwait_of_met (hmet : notNeg ((s.counter s.cur.sett no).value - (s.cur.s b).setWidth 32) = true) :
    exec (.cntwait a b) s = .next s.acquire.endWait := by
  show execCntwait a b s = _
  rw [execCntwait, hw]
  simp only [State.whenReady_of_ready hr, h, hnear, Bool.false_eq_true, if_false, hmet, if_true]

theorem exec_cntwait_of_not_met (hmet : notNeg ((s.counter s.cur.sett no).value - (s.cur.s b).setWidth 32) = false) :
    exec (.cntwait a b) s = .next { s with
      cur := { s.cur with wait := some (.cnt s.cur.sett no ((s.cur.s b).setWidth 32) false) } } := by
  show execCntwait a b s = _
  rw [execCntwait, hw]
  simp only [State.whenReady_of_ready hr, h, hnear, Bool.false_eq_true, if_false, hmet]

end

/-- CNTADD rejects a malformed increment. -/
theorem exec_cntadd_of_bad {remote : Bool} (h : bitsNat (s.cur.s b).toNat 15 0 = 0 ∨ bitsNat (s.cur.s b).toNat 63 28 ≠ 0
      ∨ 48 ≤ bitsNat (s.cur.s b).toNat 21 16 ∨ (!remote && (bitsNat (s.cur.s b).toNat 21 16 != 0
        || bitsNat (s.cur.s b).toNat 27 22 != 0 || (s.ownCounter (s.cur.s a)).isNone)) = true) :
    exec (.cntadd a b arrive remote) s = .next (s.reject 0) := by
  show execCntadd a b arrive remote s = _
  rw [execCntadd, State.whenReady_of_ready hr]
  exact congrArg Host.Outcome.next (if_pos h)

/-- The increment of CNTADD. -/
def State.cntIncrement (s : State) (a b : Reg) (pkg : Nat) : Increment :=
  { uid := s.cur.uid, need := s.cur.blocks, ctx := s.cur.ctx, src := s.cur.sett, pkg := pkg,
    sett := bitsNat (s.cur.s b).toNat 21 16, idx := (s.cur.s a).toNat, inc := bitsNat (s.cur.s b).toNat 15 0 }

omit hr in
/-- The increment of CNTADD, by the fields of its operand. -/
theorem State.cntIncrement_eq (s : State) (a b : Reg) (pkg : Nat) : s.cntIncrement a b pkg =
    { uid := s.cur.uid, need := s.cur.blocks, ctx := s.cur.ctx, src := s.cur.sett, pkg := pkg,
      sett := (s.cur.s b).toNat / 2 ^ 16 % 64, idx := (s.cur.s a).toNat, inc := (s.cur.s b).toNat % 65536 } := by
  rw [State.cntIncrement, bitsNat_low]
  rfl

section
variable (hinc : bitsNat (s.cur.s b).toNat 15 0 ≠ 0) (hhigh : bitsNat (s.cur.s b).toNat 63 28 = 0)
  (hsett : bitsNat (s.cur.s b).toNat 21 16 < 48)
include hinc hhigh hsett

theorem exec_cntadd_remote_of_outside (hdom : s.inDomain (bitsNat (s.cur.s b).toNat 27 22) = false) :
    exec (.cntadd a b arrive true) s = .next (s.trap codeRemoteUnreach 0) := by
  show execCntadd a b arrive true s = _
  rw [execCntadd, State.whenReady_of_ready hr]
  refine congrArg Host.Outcome.next ((if_neg ?_).trans (if_pos (by rw [hdom]; decide)))
  simpa [hhigh, Nat.not_le.2 hsett] using hinc

theorem exec_cntadd_remote_of_inside (hdom : s.inDomain (bitsNat (s.cur.s b).toNat 27 22) = true) :
    exec (.cntadd a b arrive true) s = .next (if arrive && !s.blocksPerformed s.cur.uid s.cur.blocks then
      State.advance { s with incs := s.incs ++ [s.cntIncrement a b (bitsNat (s.cur.s b).toNat 27 22)] } 1
      else (s.makeIncrement (s.cntIncrement a b (bitsNat (s.cur.s b).toNat 27 22)) true).advance 1) := by
  show execCntadd a b arrive true s = _
  rw [execCntadd, State.whenReady_of_ready hr]
  refine congrArg Host.Outcome.next ((if_neg ?_).trans (if_neg (by rw [hdom]; decide)))
  simpa [hhigh, Nat.not_le.2 hsett] using hinc

end

theorem exec_cntadd_local (hinc : bitsNat (s.cur.s b).toNat 15 0 ≠ 0) (hhigh : bitsNat (s.cur.s b).toNat 63 28 = 0)
    (hsett : bitsNat (s.cur.s b).toNat 21 16 = 0) (hpkg : bitsNat (s.cur.s b).toNat 27 22 = 0) {no : Nat}
    (h : s.ownCounter (s.cur.s a) = some no) :
    exec (.cntadd a b arrive false) s = .next (if arrive && !s.blocksPerformed s.cur.uid s.cur.blocks then
      State.advance { s with incs := s.incs ++ [s.cntIncrement a b 64] } 1
      else (s.makeIncrement (s.cntIncrement a b 64) false).advance 1) := by
  show execCntadd a b arrive false s = _
  rw [execCntadd, State.whenReady_of_ready hr]
  refine congrArg Host.Outcome.next ((if_neg ?_).trans (if_neg (by simp)))
  simpa [hhigh, hsett, hpkg, h] using hinc

end

end Sys2Proof.Machine
end

section
open Sys2Proof Sys2Proof.Machine

/-- Settles O29: each instruction by the tests of its rule, and what a change of a counter leaves. -/
theorem counterInstructions : Obligations.CounterInstructions := by
  intro s a b k arrive hr t thr w sett pkg now later goesOn
  have hlow : bitsNat w 15 0 = w % 65536 := bitsNat_low w 15
  have hhigh : bitsNat w 63 28 = 0 ↔ w < 2 ^ 28 := bitsNat_high_eq_zero_iff (t.s b) (by decide)
  have hnow : (arrive && !s.blocksPerformed t.uid t.blocks) = true ↔ ¬ now := by
    cases arrive <;> simp [now]
  have goesOn_of {i : Instr} (hi : exec i s = .next s.acquire.endWait) : goesOn i := by
    obtain ⟨l1, reqs, hacq⟩ := s.discardCores_eq
    rw [State.acquire, hacq] at hi
    exact ⟨_, hi, Team.advance_wait _ 1, Team.advance_sregs _ 1, rfl, State.endWait_spc _⟩
  refine ⟨fun hno => ⟨exec_cntset_of_none hr hno, exec_cntwaitNowait_of_none hr hno,
    fun hw => exec_cntwait_of_none hr hw hno, ?_⟩, fun hbad => ?_, fun hinc hlt hsett => ?_,
    fun no hno => ⟨?_, fun hpos hle => ?_, fun hbad => ?_, fun hfar => ?_, fun hfar => ?_, fun hfar hw => ?_⟩, fun x no y => ?_⟩
  case refine_1 =>
    refine exec_cntadd_of_bad hr (.inr (.inr (.inr ?_)))
    rw [show s.ownCounter (s.cur.s a) = none from hno]
    simp
  case refine_2 =>
    refine exec_cntadd_of_bad hr ?_
    obtain h | h | h := hbad
    · exact .inl (hlow.trans h)
    · exact .inr (.inl fun h0 => absurd (hhigh.1 h0) (Nat.not_lt.2 h))
    · exact .inr (.inr (.inl h))
  case refine_3 =>
    have hinc' : bitsNat w 15 0 ≠ 0 := hlow.symm ▸ hinc
    refine ⟨fun hdom => exec_cntadd_remote_of_outside hr hinc' (hhigh.2 hlt) hsett hdom, fun hdom => ?_⟩
    have hexec := exec_cntadd_remote_of_inside (arrive := arrive) hr hinc' (hhigh.2 hlt) hsett hdom
    rw [State.cntIncrement_eq] at hexec
    exact ⟨fun hn => hexec.trans (congrArg Host.Outcome.next (if_neg (mt hnow.1 (not_not.2 hn)))),
      fun hn => hexec.trans (congrArg Host.Outcome.next (if_pos (hnow.2 hn)))⟩
  case refine_4 =>
    obtain ⟨hctr, hent, hregs, hmem⟩ := s.setCounter_keeps t.sett no thr
    obtain ⟨hval, hother⟩ := State.counter_of_set hctr
    refine ⟨_, exec_cntset_of_some hr hno, hval, hother, (Team.advance_sregs _ 1).trans hregs, fun e => ?_, fun hnone => hmem ?_⟩
    · show e ∈ ((s.setCounter t.sett no thr).sett t.sett).entries ↔ _
      rw [hent, List.mem_filter, List.all_eq_true]
      simp only [State.mem_armedOn, bne_iff_ne]
      exact and_congr_right fun _ => forall₂_congr fun _ _ => ne_comm
    · exact List.eq_nil_iff_forall_not_mem.2 fun o ho => hnone o ((s.mem_armedOn t.sett no o).1 ho)
  case refine_5 =>
    have hw : w < 65536 := Nat.lt_succ_of_le hle
    obtain ⟨hsett, hpkg⟩ : bitsNat w 21 16 = 0 ∧ bitsNat w 27 22 = 0 := by
      simp only [bitsNat]
      omega
    have hinc : bitsNat w 15 0 = w := hlow.trans (Nat.mod_eq_of_lt hw)
    have hexec := exec_cntadd_local (arrive := arrive) hr (hinc ▸ Nat.pos_iff_ne_zero.1 hpos)
      (hhigh.2 (Nat.lt_trans hw (by decide))) hsett hpkg hno
    refine ⟨fun hn => ?_, fun hn => ?_⟩
    · have hlocal : s.makeIncrement (s.cntIncrement a b 64) false = s.bump t.sett no w := by
        show s.increment t.ctx t.sett (t.s a).toNat (bitsNat w 15 0) = _
        rw [State.increment, show s.ctrNo t.ctx t.sett (t.s a).toNat = some no from hno, hinc]
      rw [hlocal] at hexec
      obtain ⟨hctr, -⟩ := s.bump_sett t.sett no w
      obtain ⟨hval, hother⟩ := State.counter_of_set hctr
      obtain ⟨hcur, hmem⟩ := s.bump_keeps t.sett no w
      exact ⟨_, hexec.trans (congrArg Host.Outcome.next (if_neg (mt hnow.1 (not_not.2 hn)))), hval, hother,
        (Team.advance_sregs _ 1).trans (by rw [hcur]; rfl), hmem⟩
    · rw [State.cntIncrement_eq, show (s.cur.s b).toNat / 2 ^ 16 % 64 = 0 from hsett] at hexec
      exact hexec.trans (congrArg Host.Outcome.next (if_pos (hnow.2 hn)))
  case refine_6 =>
    refine exec_cntadd_of_bad hr ?_
    obtain h | h := hbad
    · exact .inl (hlow.trans h)
    · by_cases h28 : w < 2 ^ 28
      · have hfields : bitsNat w 21 16 ≠ 0 ∨ bitsNat w 27 22 ≠ 0 := by
          simp only [bitsNat]
          omega
        refine .inr (.inr (.inr ?_))
        obtain hne | hne := hfields
        · rw [bne_iff_ne.2 hne]; rfl
        · rw [bne_iff_ne.2 hne, Bool.or_true]; rfl
      · exact .inr (.inl (mt hhigh.1 h28))
  case refine_7 =>
    have hfar' : s.tooFar t.sett no thr = true := decide_eq_true hfar
    exact ⟨exec_cntwaitNowait_of_far hr hno hfar', fun hw => exec_cntwait_of_far hr hw hno hfar'⟩
  case refine_8 =>
    obtain ⟨l1, reqs, hexec⟩ := exec_cntwaitNowait_of_near (k := k) hr hno (decide_eq_false hfar)
    refine ⟨_, hexec, ?_, ?_, rfl, fun n => rfl⟩
    · refine ((congrArg (·[k.toNat]) (Team.advance_creg _ 1)).trans (Vector.getElem_set_self _)).trans ?_
      exact Bool.eq_iff_iff.2 ((notNeg_iff _).trans decide_eq_true_iff.symm)
    · exact Team.advance_sregs _ 1
  case refine_9 =>
    have hnear : s.tooFar t.sett no thr = false := decide_eq_false hfar
    refine ⟨fun hmet => goesOn_of (exec_cntwait_of_met hr hw hno hnear ((notNeg_iff _).2 hmet)), fun hmet => ?_⟩
    exact exec_cntwait_of_not_met hr hw hno hnear (Bool.eq_false_iff.2 (mt (notNeg_iff _).1 hmet))
  case refine_10 =>
    refine ⟨fun hw => goesOn_of ?_, fun hw => ⟨?_, fun n _ hge => ?_⟩⟩
    · show execCntwait a b s = _
      rw [execCntwait, hw]
      rfl
    · show execCntwait a b s = _
      rw [execCntwait, hw]
      rfl
    · obtain ⟨hcur, -⟩ := s.bump_keeps x no n
      rw [hcur, Team.mapWait, show s.cur.wait = _ from hw, Option.map_some, Wait.seen, (notNeg_iff _).2 hge, BEq.rfl, BEq.rfl]
      rfl
end

section
/-!
SUPPORT. The test of an armed entry against its counter (R294).
-/

namespace Sys2Proof.Machine

/-- An armed entry whose test holds at a value of its counter. -/
def Entry.due (e : Entry) (run : Nat → Bool) (no : Nat) (v : BitVec 32) : Bool :=
  run e.ctx && e.ctr == no && !e.fired && e.waitBlocks.isNone && e.group.isNone && notNeg (v - e.thresh)

/-- The entries of a sett at a value of a counter: those that are due have fired. -/
theorem fireEntries_eq (run : Nat → Bool) (no : Nat) (v : BitVec 32) (es : List Entry) :
    fireEntries run no v es = es.map (fun e => if e.due run no v then { e with fired := true } else e) := rfl

theorem Entry.due_iff (e : Entry) (run : Nat → Bool) (no : Nat) (v : BitVec 32) : e.due run no v = true ↔
    run e.ctx = true ∧ e.ctr = no ∧ e.fired = false ∧ e.waitBlocks = none ∧ e.group = none ∧ 0 ≤ (v - e.thresh).toInt := by
  simp only [Entry.due, Bool.and_eq_true, beq_iff_eq, Bool.not_eq_true', Option.isNone_iff_eq_none, notNeg_iff, and_assoc]

/-- Entries keep their order. -/
theorem map_id_fireEntries (run : Nat → Bool) (no : Nat) (v : BitVec 32) (es : List Entry) :
    (fireEntries run no v es).map Entry.id = es.map Entry.id := by
  rw [fireEntries_eq, List.map_map]
  refine List.map_congr_left fun e _ => ?_
  show (if e.due run no v then { e with fired := true } else e).id = e.id
  rw [apply_ite Entry.id]
  exact ite_self _

/-- An entry has fired where it had, or where it was due. -/
theorem fired_of_mem_fireEntries {run : Nat → Bool} {no : Nat} {v : BitVec 32} {es : List Entry} {e : Entry}
    (he : e ∈ fireEntries run no v es) : e.fired = true ↔
      ∃ o ∈ es, { o with fired := true } = e ∧ (o.fired = true ∨ o.due run no v = true) := by
  rw [fireEntries_eq] at he
  obtain ⟨o, ho, rfl⟩ := List.mem_map.1 he
  by_cases hdue : o.due run no v = true
  · rw [if_pos hdue]
    exact ⟨fun _ => ⟨o, ho, rfl, .inr hdue⟩, fun _ => rfl⟩
  · rw [if_neg hdue]
    refine ⟨fun hf => ⟨o, ho, by rw [← hf], .inl hf⟩, fun ⟨p, _, hp, _⟩ => ?_⟩
    rw [← hp]

end Sys2Proof.Machine
end

section
open Sys2Proof Sys2Proof.Machine

/-- Settles O30, by what an increment leaves of the counters and entries of its sett. -/
theorem incrementFiresEntries : Obligations.IncrementFiresEntries := by
  intro s sett no n v x
  obtain ⟨hctr, hent, -⟩ := s.bump_sett sett no n
  obtain ⟨hval, -⟩ := State.counter_of_set (s := s) (v := v) hctr
  refine ⟨congrArg Counter.value hval, (congrArg Counter.gen hval).trans rfl, ?_, fun e he => ?_⟩
  · rw [hent, map_id_fireEntries]
  · rw [hent] at he
    rw [fired_of_mem_fireEntries he]
    refine exists_congr fun o => and_congr_right fun _ => and_congr_right fun _ => ?_
    rw [Entry.due_iff, Bool.not_eq_true']
    cases hf : o.fired with
    | true => exact ⟨fun _ => .inl rfl, fun _ => .inl rfl⟩
    | false => exact or_congr_right (and_congr_right fun _ => and_congr_right fun _ => ⟨fun h => h.2, fun h => ⟨rfl, h⟩⟩)
end

section
/-!
SUPPORT. The issue of an entry (R290, R294, R317).
-/

namespace Sys2Proof.Machine

/-- An instruction whose structure is read goes on with its bytes held. -/
theorem State.withStruct_of_read {s r : State} {a : Nat} {bs : List Byte} (hw : s.cur.wait = none) (hat : structOk a 64 = true)
    (hread : s.readWords a 8 = .ok bs r) (f : List Byte → State → State) : s.withStruct a f = f bs (r.holdStruct bs) := by
  simp only [State.withStruct, hw, hat, hread, Bool.not_true, Bool.false_eq_true, if_false]

/-- The fields of an entry are fine in a state. -/
def State.EntryFine (q : State) (bs : List Byte) : Prop :=
  entryOk bs = true ∧ (q.ctrNo q.cur.ctx q.cur.sett (entryFields bs).trig).isSome = true
    ∧ ((entryFields bs).remote = true ∨ (q.ctrNo q.cur.ctx q.cur.sett (entryFields bs).cctr).isSome = true)

theorem State.entryFine_iff (q : State) (bs : List Byte) :
    (!entryOk bs || !(q.ctrNo q.cur.ctx q.cur.sett (entryFields bs).trig).isSome
      || !((entryFields bs).remote || (q.ctrNo q.cur.ctx q.cur.sett (entryFields bs).cctr).isSome)) = true ↔ ¬ q.EntryFine bs := by
  rw [State.EntryFine, ← Bool.not_and, ← Bool.not_and, Bool.not_eq_true', Bool.eq_false_iff, Ne, Bool.and_eq_true, Bool.and_eq_true,
    Bool.or_eq_true, and_assoc]

section
variable {s r : State} {a : Reg} {arrive : Bool} {bs : List Byte} (hw : s.cur.wait = none) (hr : s.ready [a] = true)
  (hat : structOk (s.cur.s a).toNat 64 = true) (hread : s.readWords (s.cur.s a).toNat 8 = .ok bs r)
include hw hr hat hread

theorem exec_qpost_of_bad_fields (h : ¬ (r.holdStruct bs).EntryFine bs) :
    exec (.qpost a arrive) s = .next ((r.holdStruct bs).reject (s.cur.s a).toNat) := by
  show execQpost a arrive s = _
  rw [execQpost, hw]
  simp only [State.whenReady_of_ready hr, State.withStruct_of_read hw hat hread]
  exact congrArg Host.Outcome.next (if_pos ((State.entryFine_iff _ bs).2 h))

variable {u : State} (h : (r.holdStruct bs).EntryFine bs)
include h

theorem exec_qpost_of_bad_extent {x : Nat}
    (hext : (r.holdStruct bs).entryExtents (s.cur.s a).toNat (entryFields bs) = .bad x u) :
    exec (.qpost a arrive) s = .next (u.reject x) := by
  show execQpost a arrive s = _
  rw [execQpost, hw]
  simp only [State.whenReady_of_ready hr, State.withStruct_of_read hw hat hread, hext]
  exact congrArg Host.Outcome.next (if_neg fun hbad => (State.entryFine_iff _ bs).1 hbad h)

theorem exec_qpost_of_good (hext : (r.holdStruct bs).entryExtents (s.cur.s a).toNat (entryFields bs) = .good u) :
    exec (.qpost a arrive) s = .next (u.postEntry (s.cur.s a).toNat arrive bs) := by
  show execQpost a arrive s = _
  rw [execQpost, hw]
  simp only [State.whenReady_of_ready hr, State.withStruct_of_read hw hat hread, hext]
  exact congrArg Host.Outcome.next (if_neg fun hbad => (State.entryFine_iff _ bs).1 hbad h)

end

/-! ### The place of an entry (R290, R294) -/

/-- The entry that a team posts on a counter. -/
def State.newEntry (u : State) (arrive : Bool) (bs : List Byte) (no : Nat) : Entry :=
  { id := u.tick, ctx := u.cur.ctx, bytes := bs, pkr := u.cur.pkr, gen := 0, ctr := no,
    waitBlocks := if arrive then some (u.cur.uid, u.cur.blocks) else none, fired := false, grid := u.cur.gridId, group := none,
    base := u.chipBase u.cur }

/-- An entry as it is armed (R294). -/
def State.armed (u : State) (e : Entry) : Entry :=
  let c := u.counter u.cur.sett e.ctr
  { e with gen := c.gen, waitBlocks := none,
           fired := !u.halted e.ctx && ((entryFields e.bytes).imm || notNeg (c.value - e.thresh)) }

/-- A team whose entry stands in its sett. -/
def State.posted (u : State) (e : Entry) : State :=
  State.setSett { u with tick := u.tick + 1, cur := { u.cur with wait := none, sent := [], replies := [] } } u.cur.sett
    (fun x => { x with entries := x.entries ++ [e] })

/-- The entries of the sett gain the one that is posted. -/
theorem State.posted_entries (u : State) (e : Entry) :
    ((u.posted e).sett u.cur.sett).entries = (u.sett u.cur.sett).entries ++ [e] :=
  congrArg Sett.entries (State.sett_setSett_same _ _ _)

theorem State.postEntry_of_full {u : State} (at_ : Nat) (arrive : Bool) (bs : List Byte)
    (h : u.placeFree u.cur.ctx u.cur.sett = false) : u.postEntry at_ arrive bs = { u with
      cur := { u.cur with wait := some (.post bs), sent := [], replies := [] } } :=
  if_pos (by rw [h]; rfl)

section
variable {u : State} {at_ : Nat} {arrive : Bool} {bs : List Byte} {no : Nat} (h : u.placeFree u.cur.ctx u.cur.sett = true)
  (hno : u.ctrNo u.cur.ctx u.cur.sett (entryFields bs).trig = some no)
include h hno

theorem State.postEntry_of_far (himm : (entryFields bs).imm = false)
    (hfar : u.tooFar u.cur.sett no (BitVec.ofNat 32 (entryFields bs).thresh) = true) : u.postEntry at_ arrive bs = u.reject at_ := by
  refine (if_neg (by rw [h]; decide)).trans (if_pos ?_)
  rw [himm, hno]
  exact hfar

theorem State.postEntry_of_near
    (hnear : (entryFields bs).imm = true ∨ u.tooFar u.cur.sett no (BitVec.ofNat 32 (entryFields bs).thresh) = false) :
    u.postEntry at_ arrive bs
      = (u.posted (if arrive then u.newEntry arrive bs no else u.armed (u.newEntry arrive bs no))).advance 1 := by
  refine (if_neg (by rw [h]; decide)).trans ((if_neg ?_).trans ?_)
  · rw [hno]
    intro hbad
    obtain ⟨hi, hf⟩ := (Bool.and_eq_true _ _).mp hbad
    obtain himm | hfar := hnear
    · rw [himm] at hi; exact absurd hi (by decide)
    · exact absurd (hfar.symm.trans hf) (by decide)
  · rw [hno]
    cases arrive <;> rfl

end

end Sys2Proof.Machine
end

section
open Sys2Proof Sys2Proof.Machine

/-- Settles O31: the structure is read, its fields and extents pass, and the entry takes its place. -/
theorem entryPosted : Obligations.EntryPosted := by
  intro s r u a arrive bs x hw hr hat hread at_ q f i fine
  refine ⟨exec_qpost_of_bad_fields hw hr hat hread, fun hf => exec_qpost_of_bad_extent hw hr hat hread hf,
    fun hf hext hfull => ?_,
    fun hf hext hfree no hno => ⟨fun himm hfar => ?_, fun hnear => ?_⟩⟩
  · have hexec := exec_qpost_of_good (arrive := arrive) hw hr hat hread hf hext
    rw [State.postEntry_of_full _ _ _ hfull] at hexec
    exact ⟨_, hexec, rfl, rfl, rfl⟩
  · have hexec := exec_qpost_of_good (arrive := arrive) hw hr hat hread hf hext
    rwa [State.postEntry_of_far hfree hno himm (decide_eq_true hfar)] at hexec
  · have hexec := exec_qpost_of_good (arrive := arrive) hw hr hat hread hf hext
    rw [State.postEntry_of_near hfree hno (hnear.imp_right decide_eq_false)] at hexec
    refine ⟨_, _, hexec, u.posted_entries _, ?_⟩
    cases arrive with
    | true =>
      exact ⟨rfl, rfl, rfl, rfl, Team.advance_wait _ 1, Team.advance_sregs _ 1, rfl, fun _ => ⟨rfl, rfl⟩,
        fun h => Bool.noConfusion h⟩
    | false =>
      refine ⟨rfl, rfl, rfl, rfl, Team.advance_wait _ 1, Team.advance_sregs _ 1, rfl, fun h => Bool.noConfusion h,
        fun _ => ⟨rfl, rfl, fun hgo => ?_⟩⟩
      show (!u.halted u.cur.ctx && (f.imm || notNeg _)) = true ↔ _
      rw [hgo, Bool.not_false, Bool.true_and, Bool.or_eq_true, notNeg_iff]
      rfl
end

section
/-!
SUPPORT. The end of a fired entry without a record (R292, R296).
-/

namespace Sys2Proof.Machine

/-! ### Contexts (R345) -/

/-- The context that was changed. -/
theorem State.ctx?_setCtx (s : State) (k : Nat) (f : Context → Context) : (s.setCtx k f).ctx? k = (s.ctx? k).map f := by
  rw [State.ctx?, State.ctx?]
  show FMap.get? (FMap.modify s.ctxs k f) k = _
  rw [FMap.get?_modify, if_pos rfl]

/-- Another context stays. -/
theorem State.ctx?_setCtx_other (s : State) {k n : Nat} (f : Context → Context) (h : n ≠ k) : (s.setCtx k f).ctx? n = s.ctx? n := by
  rw [State.ctx?, State.ctx?]
  show FMap.get? (FMap.modify s.ctxs k f) n = _
  rw [FMap.get?_modify, if_neg h]

/-- Counters are placed as the context says, whatever is counted. -/
theorem State.ctrNo_count (s : State) (ctx sett cls n k x i : Nat) : (s.count ctx sett cls n).ctrNo k x i = s.ctrNo k x i := by
  rw [State.ctrNo, State.ctrNo, State.count]
  by_cases h : k = ctx
  · rw [h, State.ctx?_setCtx]
    cases s.ctx? ctx <;> rfl
  · rw [State.ctx?_setCtx_other _ _ h]

/-- A context gains an event. -/
theorem State.eventsOf_event {s : State} {ctx : Nat} {c : Context} (hc : s.ctx? ctx = some c) (e : Event) :
    (s.event ctx e).eventsOf ctx = c.events ++ [e] := by
  rw [State.eventsOf, State.event, State.ctx?_setCtx, hc]
  rfl

/-- An event of a context as such. -/
theorem State.eventsOf_ctxEvent {s : State} {ctx : Nat} {c : Context} (hc : s.ctx? ctx = some c) (kind code : Nat) (grid addr : Word) :
    (s.ctxEvent ctx kind code grid addr).eventsOf ctx = c.events ++ [plainEvent kind code grid addr] :=
  State.eventsOf_event hc _

/-! ### The end of an entry (R292, R296) -/

/-- No entry of the number is left. -/
theorem State.dropEntry_entries (s : State) (sett id : Nat) : ∀ x ∈ ((s.dropEntry sett id).sett sett).entries, x.id ≠ id := by
  intro x hx
  rw [State.dropEntry, State.sett_setSett_same] at hx
  exact bne_iff_ne.1 (List.mem_filter.1 hx).2

/-- The counters of the sett stay. -/
theorem State.counter_dropEntry (s : State) (sett id n : Nat) : (s.dropEntry sett id).counter sett n = s.counter sett n := by
  rw [State.counter, State.dropEntry, State.sett_setSett_same]
  rfl

section
variable {e : Entry} (hrec : (entryFields e.bytes).recd = 0)
include hrec

/-- An entry without a record writes none. -/
theorem State.entryRecord_of_none (w : State) (status : Nat) (fl : Flags5) (stamp : Nat) :
    w.entryRecord e status fl stamp = (0, w) := if_pos hrec

/-- An entry without a record ends at once. -/
theorem State.recordEntry_of_none (w : State) (sett : Nat) (r : Nat × Flags5 × Nat × Nat) (ext : List Answer) :
    w.recordEntry sett e r ext = w.endEntry sett e r 0 := by
  rw [State.recordEntry]
  simp only [hrec, true_or, if_true, State.entryRecord_of_none hrec]

/-- An entry that fails leaves with its event. -/
theorem State.faultEntry_of_none (w : State) (sett code : Nat) (fl : Flags5) :
    w.faultEntry sett e code fl = (w.dropEntry sett e.id).ctxEvent e.ctx 3 code e.grid 0 := by
  rw [State.faultEntry, State.recordEntry_of_none hrec, State.endEntry, hrec]
  rfl

end

/-- What a failed entry leaves. -/
theorem State.faultEntry_keeps {e : Entry} (hrec : (entryFields e.bytes).recd = 0) {w : State} {c : Context}
    (hc : w.ctx? e.ctx = some c) (sett code : Nat) (fl : Flags5) :
    (∀ x ∈ ((w.faultEntry sett e code fl).sett sett).entries, x.id ≠ e.id)
    ∧ (w.faultEntry sett e code fl).eventsOf e.ctx = c.events ++ [plainEvent 3 code e.grid 0]
    ∧ (w.faultEntry sett e code fl).mem = w.mem
    ∧ ∀ n, (w.faultEntry sett e code fl).counter sett n = w.counter sett n := by
  rw [State.faultEntry_of_none hrec]
  exact ⟨w.dropEntry_entries sett e.id, State.eventsOf_ctxEvent (s := w.dropEntry sett e.id) hc .., rfl,
    w.counter_dropEntry sett e.id⟩

section
variable {e : Entry} {no : Nat} {w : State} {sett : Nat} (hremote : (entryFields e.bytes).remote = false)
  (hno : w.ctrNo e.ctx sett (entryFields e.bytes).cctr = some no)
include hremote hno

/-- The increment of an entry in its own sett. -/
theorem State.entryIncrement_of_own : w.entryIncrement sett e = w.bump sett no (entryFields e.bytes).inc := by
  rw [State.entryIncrement, hremote]
  simp only [State.increment, hno]
  rfl

/-- An entry that is no reduction ends with its increment. -/
theorem State.endEntry_of_write (hkind : (entryFields e.bytes).kind ≠ 1) (fl : Flags5) (stamp : Nat) :
    w.endEntry sett e (0, fl, stamp, 0) 0 = (w.dropEntry sett e.id).bump sett no (entryFields e.bytes).inc := by
  rw [State.endEntry]
  simp only [OfNat.zero_ne_ofNat, ne_eq, not_true_eq_false, or_self, if_false, hkind]
  exact State.entryIncrement_of_own (w := w.dropEntry sett e.id) hremote hno

/-- The elements of a reduction are counted. -/
theorem State.endEntry_of_reduce (hkind : (entryFields e.bytes).kind = 1) (fl : Flags5) (stamp : Nat) :
    w.endEntry sett e (0, fl, stamp, 0) 0 = ((w.count e.ctx sett 12
      ((entryFields e.bytes).len / fmtBytes (entryFields e.bytes).fmt)).dropEntry sett e.id).bump sett no
        (entryFields e.bytes).inc := by
  rw [State.endEntry]
  simp only [OfNat.zero_ne_ofNat, ne_eq, not_true_eq_false, or_self, if_false, hkind, if_true]
  refine State.entryIncrement_of_own (w := State.dropEntry (w.count ..) sett e.id) hremote ?_
  exact (w.ctrNo_count ..).trans hno

end

/-- Bytes of an element of a reduction. -/
theorem fmtBytes_eq (n : Nat) : fmtBytes n = if n = 1 then 2 else if n = 2 then 1 else 4 := by
  match n with
  | 0 => rfl
  | 1 => rfl
  | 2 => rfl
  | n + 3 => rfl

/-! ### The steps of an entry (R292) -/

section
variable {s : State} {sett : Nat} {e : Entry} (hfired : s.firedEntry sett e.id = some e) (hlink : s.linkEntry sett e.id = none)
  (hres : e.res = none)
include hfired hlink hres

theorem exec_cleEntryComplete_of_move {ext : List Answer} {m : Moved} (hm : s.cleMove sett e ext = m) :
    exec (.cleEntryComplete sett e.id ext) s = .next (s.finishEntry sett e m) := by
  show execCleEntryComplete sett e.id ext s = _
  simp only [execCleEntryComplete, hlink, hfired, hres, hm]

theorem exec_cleEntryFaulted_of_wait (hm : s.cleMove sett e [] = .wait) : exec (.cleEntryFaulted sett e.id) s = .next (
    if (e.sent || e.recSent || !e.asked.isEmpty) && decide (e.at_ + 100000 ≤ s.gtc)
    then s.faultEntry sett e codeRemoteUnreach e.fl else s) := by
  show execCleEntryFaulted sett e.id s = _
  simp only [execCleEntryFaulted, hlink, hfired, hres, hm]

end

/-- An entry is late where it waits for another package, and has done so for 100 us. -/
theorem Entry.late_iff (e : Entry) (now : Nat) : ((e.sent || e.recSent || !e.asked.isEmpty) && decide (e.at_ + 100000 ≤ now)) = true ↔
    (e.sent = true ∨ e.recSent = true ∨ e.asked ≠ []) ∧ e.at_ + 100000 ≤ now := by
  rw [Bool.and_eq_true, Bool.or_eq_true, Bool.or_eq_true, decide_eq_true_eq, Bool.not_eq_true', List.isEmpty_eq_false_iff, or_assoc]

end Sys2Proof.Machine
end

section
open Sys2Proof Sys2Proof.Machine

/-- Settles O32: by what the move of the entry answers, and the end of an entry without a record. -/
theorem entryCompletes : Obligations.EntryCompletes := by
  intro s w sett code stamp no e fl ext c hfired hlink hres hc f i late hrec hremote
  have done {m : Moved} (hm : s.cleMove sett e ext = m) : Gives i s (s.finishEntry sett e m) :=
    exec_cleEntryComplete_of_move hfired hlink hres hm
  refine ⟨fun hkind hno => ?_, fun hm hno => ⟨fun hkind => ?_, fun hkind => ?_⟩, fun hm => ⟨fun hask => ?_, fun u hask => ?_⟩,
    fun hm => done hm, fun hm => ⟨fun hlate => ?_, fun hlate => ?_⟩, fun hm hcw => ?_⟩
  · have hm : s.cleMove sett e ext = .done 0 s.gtc s := if_pos hkind
    have hgive := done hm
    rw [State.finishEntry, State.recordEntry_of_none hrec,
      State.endEntry_of_write hremote hno (by rw [hkind]; decide)] at hgive
    exact hgive
  · have hgive := done hm
    rwa [State.finishEntry, State.recordEntry_of_none hrec, State.endEntry_of_write hremote hno hkind] at hgive
  · have hgive := done hm
    rwa [State.finishEntry, State.recordEntry_of_none hrec, State.endEntry_of_reduce hremote hno hkind, fmtBytes_eq] at hgive
  · have hgive := done hm
    rwa [State.finishEntry, hask, Option.getD_none] at hgive
  · have hgive := done hm
    rwa [State.finishEntry, hask, Option.getD_some] at hgive
  · exact (exec_cleEntryFaulted_of_wait hfired hlink hres hm).trans (congrArg Host.Outcome.next (if_neg (mt (e.late_iff _).1 hlate)))
  · obtain ⟨hent, hev, hmem, hctr⟩ := State.faultEntry_keeps hrec hc sett codeRemoteUnreach e.fl
    exact ⟨_, (exec_cleEntryFaulted_of_wait hfired hlink hres hm).trans (congrArg Host.Outcome.next (if_pos ((e.late_iff _).2 hlate))),
      hent, hev, hmem, hctr⟩
  · obtain ⟨hent, hev, -, hctr⟩ := State.faultEntry_keeps hrec hcw sett code fl
    exact ⟨_, done hm, hent, hev, hctr⟩
end

section
/-!
SUPPORT. Messages of class 0, received increments and release flags (R296, R383, R384, R427).
-/

namespace Sys2Proof.Machine

/-! ### Acceptance (R383) -/

/-- A number that was fresh is not once it is accepted. -/
theorem Sett.fresh_accept_same {x : Sett} {key n : Nat} (h : x.fresh key n = true) : (x.accept key n).fresh key n = false := by
  obtain ⟨top, seen, hold⟩ : ∃ top seen, FMap.getD x.cseqIn key (0, []) = (top, seen) := ⟨_, _, rfl⟩
  have hnew : FMap.getD (x.accept key n).cseqIn key (0, [])
      = (max top n, (insertNat n seen).filter (fun k => decide (max top n ≤ k + 1024))) := by
    rw [Sett.accept, hold, FMap.getD_set, if_pos rfl]
  rw [Sett.fresh, hold] at h
  rw [Sett.fresh, hnew]
  have hnear : max top n ≤ n + 1024 := by
    rcases Bool.or_eq_true_iff.1 h with hlt | hback
    · have := of_decide_eq_true hlt
      omega
    · simp only [Bool.and_eq_true, decide_eq_true_eq] at hback
      omega
  have hmem : n ∈ (insertNat n seen).filter (fun k => decide (max top n ≤ k + 1024)) :=
    List.mem_filter.2 ⟨(mem_insertNat n seen n).2 (.inl rfl), decide_eq_true hnear⟩
  have hlt : decide (max top n < n) = false := decide_eq_false (Nat.not_lt.2 (Nat.le_max_right top n))
  simp only [List.contains_eq_mem, decide_eq_true hmem, hlt, Bool.not_true, Bool.and_false, Bool.false_and, Bool.or_false]

/-- A message of another package that is received for the first time waits at its sett, where it is an increment. -/
theorem exec_controlMessageReceived_of_fresh {s : State} {sett : Nat} {m : CtlMsg} (hsett : sett < 48) (hpkg : m.srcPkg ≠ s.ownPkg)
    (hfresh : (s.sett sett).fresh (pairKey m.srcPkg m.srcSett) m.cseq = true) :
    exec (.controlMessageReceived sett m) s = .next (State.receive (State.setSett { s with
      transit := s.transit.erase (sett, m) } sett (fun x => x.accept (pairKey m.srcPkg m.srcSett) m.cseq)) sett m) := by
  show execControlMessageReceived sett m s = _
  refine congrArg Host.Outcome.next (if_neg ?_)
  rw [hfresh, beq_eq_false_iff_ne.2 hpkg]
  simpa using hsett

theorem exec_controlMessageReceived_of_known {s : State} {sett : Nat} {m : CtlMsg}
    (hknown : (s.sett sett).fresh (pairKey m.srcPkg m.srcSett) m.cseq = false) :
    exec (.controlMessageReceived sett m) s = .next s := by
  show execControlMessageReceived sett m s = _
  refine congrArg Host.Outcome.next (if_pos (Or.inr (Or.inr ?_)))
  rw [hknown]
  rfl

/-! ### Messages that are not delivered (R427) -/

theorem exec_controlMessageTimeout_of_early {s : State} {sett : Nat} {m : CtlMsg} (h : s.gtc < m.sgtc + 100000) :
    exec (.controlMessageTimeout sett m) s = .next s := by
  show execControlMessageTimeout sett m s = _
  refine congrArg Host.Outcome.next (if_neg ?_)
  rw [decide_eq_false (Nat.not_le.2 h), Bool.and_false]
  exact Bool.false_ne_true

/-- An increment that is late is dropped with an event. -/
theorem exec_controlMessageTimeout_of_late {s : State} {sett ctx i n : Nat} {m : CtlMsg} (h : m.sgtc + 100000 ≤ s.gtc)
    (hin : s.transit.contains (sett, m) = true) (hbody : m.body = .increment ctx i n) : ∃ uid,
    exec (.controlMessageTimeout sett m) s = .next (State.event { s with
      transit := s.transit.erase (sett, m), flags := s.flags.erase (sett, m) } ctx { plainEvent 4 0 0 0 with uid := uid }) := by
  refine ⟨s.counterMark ctx sett i
    (m.srcPkg == s.ownPkg && s.outbox.any (fun b => b.drop 3 == (ctlBytes 0 sett m).drop 3)), ?_⟩
  show execControlMessageTimeout sett m s = _
  rw [execControlMessageTimeout, hbody]
  refine congrArg Host.Outcome.next (if_pos ?_)
  rw [hin, decide_eq_true h]
  rfl

/-! ### Received increments and release flags (R296, R384) -/

/-- The receipt at the head of a sett is an increment. -/
theorem exec_remoteCounterIncrement_of_head {s : State} {sett ctx i n : Nat} {r : Receipt} {rest : List Receipt}
    (hinbox : (s.sett sett).inbox = r :: rest) (hbody : r.msg.body = .increment ctx i n) :
    exec (.remoteCounterIncrement sett) s
      = .next ((s.setSett sett (fun x => { x with inbox := x.inbox.erase r })).increment ctx sett i n) := by
  show execRemoteCounterIncrement sett s = _
  rw [execRemoteCounterIncrement, State.takeReceipt, hinbox]
  simp only [List.find?_cons, hbody]

/-- A held flag of a sett waits until the writes it covers are performed. -/
theorem exec_releaseFlagApply_of_one {s : State} {sett ctx : Nat} {a x : Word} {cover : BitVec 32} {m : CtlMsg}
    (hflags : s.flags = [(sett, m)]) (hbody : m.body = .flag ctx a x cover) : exec (.releaseFlagApply sett) s = .next (
      if notNeg (FMap.getD (s.sett sett).performed (pairKey m.srcPkg m.srcSett * 65536 + ctx) 0 - cover)
      then (State.cleWrite { s with flags := [] } ctx a.toNat 0 (bytesOf 8 x.toNat)).2 else s) := by
  have hready : s.flagReady sett (sett, m)
      = notNeg (FMap.getD (s.sett sett).performed (pairKey m.srcPkg m.srcSett * 65536 + ctx) 0 - cover) := by
    simp only [State.flagReady, hbody, BEq.rfl, Bool.true_and]
  show execReleaseFlagApply sett s = _
  rw [execReleaseFlagApply, hflags]
  cases hn : notNeg (FMap.getD (s.sett sett).performed (pairKey m.srcPkg m.srcSett * 65536 + ctx) 0 - cover) with
  | false => simp only [List.find?_cons, hready, hn, List.find?_nil]; rfl
  | true =>
    simp only [List.find?_cons, hready, hn, hbody, List.erase_cons_head, if_true]

/-- A write of a device where no operation reads changes its bytes. -/
theorem State.writeLine_none_mem {s : State} {k : Nat} {bs : List Byte} (h : s.calm none k bs.length = true) (cmp : Bool) :
    (s.writeLine none cmp k bs).mem = s.mem.setBytes k bs ∧ (s.writeLine none cmp k bs).flags = s.flags := by
  obtain ⟨packed, hline⟩ := s.writeLine_eq none cmp k bs
  rw [hline]
  simp only [State.poke, h, if_true, List.isEmpty_nil, and_self]

/-- The collective engine writes to memory of this package. -/
theorem State.cleWrite_of_here {s : State} {ctx a : Nat} {pkr : Word} {bs : List Byte} {l : Leaf} (hgva : gvaBad .scalar a = false)
    (hwin : a / 2 ^ 60 = 0) (hpkg : bitsNat a 59 54 = s.ownPkg) (hdom : s.inDomain s.ownPkg = true)
    (hleaf : s.ownerCheck ctx (bitsNat a 53 48) (bitsNat a 47 0) .store pkr = .ok l) :
    s.cleWrite ctx a pkr bs = (0, s.writeLine none l.cmp l.key bs) := by
  rw [State.cleWrite, hgva, hwin, hpkg, hdom, hleaf]
  simp

end Sys2Proof.Machine
end

section
open Sys2Proof Sys2Proof.Machine

/-- Settles O33: each step by what it takes from its sett and leaves there. -/
theorem messagesAndReceipts : Obligations.MessagesAndReceipts := by
  refine ⟨fun s sett ctx i n m c => ?messages, fun s sett ctx i n r rest c a x cover m l => ⟨fun hinbox hbody => ?receipts,
    fun hflags hbody => ?flags⟩⟩
  case messages =>
    refine ⟨fun hsett hpkg hfresh hbody => ?_, exec_controlMessageReceived_of_known, exec_controlMessageTimeout_of_early,
      fun hlate hin hbody hc => ?_⟩
    · have hexec := exec_controlMessageReceived_of_fresh hsett hpkg hfresh
      rw [State.receive, hbody] at hexec
      refine ⟨_, hexec, ?_, ?_, fun k => ?_, rfl, rfl⟩
      · rw [State.sett_setSett_same, State.sett_setSett_same]
        exact Sett.fresh_accept_same hfresh
      · rw [State.sett_setSett_same, State.sett_setSett_same]
        rfl
      · rw [State.counter, State.sett_setSett_same, State.sett_setSett_same]
        rfl
    · obtain ⟨uid, hexec⟩ := exec_controlMessageTimeout_of_late hlate hin hbody
      exact ⟨_, uid, hexec, rfl, State.eventsOf_event (s := { s with
        transit := s.transit.erase (sett, m), flags := s.flags.erase (sett, m) }) hc _⟩
  case receipts =>
    have hexec := exec_remoteCounterIncrement_of_head hinbox hbody
    have htaken := s.sett_setSett_same sett (fun x => { x with inbox := x.inbox.erase r })
    have hrest : ((s.setSett sett (fun x => { x with inbox := x.inbox.erase r })).sett sett).inbox = rest := by
      rw [htaken, hinbox, List.erase_cons_head]
    have hctr (k : Nat) : (s.setSett sett (fun x => { x with inbox := x.inbox.erase r })).counter sett k = s.counter sett k := by
      rw [State.counter, htaken]
      rfl
    refine ⟨fun no hno => ?_, fun hno hc => ?_⟩
    · have hincrement : (s.setSett sett (fun x => { x with inbox := x.inbox.erase r })).increment ctx sett i n
          = (s.setSett sett (fun x => { x with inbox := x.inbox.erase r })).bump sett no n := by
        rw [State.increment, show State.ctrNo (s.setSett sett _) ctx sett i = some no from hno]
      obtain ⟨hcounters, -, hinbox'⟩ := (s.setSett sett (fun x => { x with inbox := x.inbox.erase r })).bump_sett sett no n
      obtain ⟨hcur, hmem⟩ := (s.setSett sett (fun x => { x with inbox := x.inbox.erase r })).bump_keeps sett no n
      obtain ⟨hval, hother⟩ := State.counter_of_set hcounters
      refine ⟨_, hexec.trans (congrArg Host.Outcome.next hincrement), hinbox'.trans hrest, ?_, fun k hk => ?_, hmem, ?_⟩
      · rw [hval, hctr]
      · rw [hother k hk, hctr]
      · rw [hcur]
        rfl
    · have hincrement : (s.setSett sett (fun x => { x with inbox := x.inbox.erase r })).increment ctx sett i n
          = (s.setSett sett (fun x => { x with inbox := x.inbox.erase r })).ctxEvent ctx 4 0 0 0 := by
        rw [State.increment, show State.ctrNo (s.setSett sett _) ctx sett i = none from hno]
      exact ⟨_, hexec.trans (congrArg Host.Outcome.next hincrement), hrest, hctr,
        State.eventsOf_ctxEvent (s := s.setSett sett _) hc ..⟩
  case flags =>
    have hexec := exec_releaseFlagApply_of_one hflags hbody
    intro done
    refine ⟨fun hlt => ?_, fun hge hgva hwin hpkg hdom hleaf hcalm => ?_⟩
    · exact hexec.trans (congrArg Host.Outcome.next (if_neg (mt (notNeg_iff _).1 (Int.not_le.2 hlt))))
    · have hwrite : State.cleWrite { s with flags := [] } ctx a.toNat 0 (bytesOf 8 x.toNat)
          = (0, State.writeLine { s with flags := [] } none l.cmp l.key (bytesOf 8 x.toNat)) :=
        State.cleWrite_of_here (s := { s with flags := [] }) hgva hwin hpkg hdom hleaf
      obtain ⟨hmem, hleft⟩ := State.writeLine_none_mem (s := { s with flags := [] }) (bs := bytesOf 8 x.toNat)
        (by rw [length_bytesOf]; exact hcalm) l.cmp
      rw [hwrite] at hexec
      exact ⟨_, hexec.trans (congrArg Host.Outcome.next (if_pos ((notNeg_iff _).2 hge))), hleft, hmem⟩
end

section
/-!
SUPPORT. Barriers of a domain (R321): the arrival, its answer, and the wait for the last member.
-/

namespace Sys2Proof.Machine

/-! ### The arrival (R321) -/

/-- A member whose lanes and accesses are done sends its arrival, and waits for the answer. -/
theorem State.barxArrive_of_done {s : State} {bs : List Byte} (hl : s.cur.lanesDone = true) (hq : s.quiet = true) :
    s.barxArrive bs = State.sendCtl { s with
      cur := { s.cur with wait := some (.barxSent (fieldAt bs 4 4)), sent := [], replies := [] } } s.cur.sett (fieldAt bs 3 1)
        (fieldAt bs 2 1) (.arrival s.cur.ctx (fieldAt bs 0 2) (fieldAt bs 4 4) (fieldAt bs 8 4) (fieldAt bs 12 4)
          (BitVec.ofNat 64 (fieldAt bs 16 8)) s.cur.uid) := by
  rw [State.barxArrive, hl, hq]
  rfl

/-- Until then it waits with its descriptor. -/
theorem State.barxArrive_of_busy {s : State} {bs : List Byte} (h : s.cur.lanesDone = false ∨ s.quiet = false) :
    s.barxArrive bs = { s with cur := { s.cur with wait := some (.barxDesc bs), sent := [], replies := [] } } := by
  refine if_pos ?_
  rw [Bool.not_eq_true', Bool.and_eq_false_iff]
  exact h

/-- A message to a sett of this package is under way. -/
theorem State.sendCtl_here {s : State} {src pkg sett : Nat} {b : CtlBody} (h : pkg = s.ownPkg) : ∃ m, m.body = b
    ∧ (s.sendCtl src pkg sett b).transit = s.transit ++ [(sett, m)] ∧ (s.sendCtl src pkg sett b).cur = s.cur := by
  refine ⟨_, ?_, (congrArg State.transit (if_pos h)).trans rfl, (congrArg State.cur (if_pos h)).trans rfl⟩
  rfl

/-! ### The instruction -/

section
variable {s r : State} {a : Reg} {sc : BarScope} {bs : List Byte}

theorem exec_barx_of_desc (h : s.cur.wait = some (.barxDesc bs)) : exec (.barx a sc) s = .next (s.barxArrive bs) := by
  show execBarx a sc s = _
  simp only [execBarx, h]

theorem exec_barx_of_waiting {home : Option (Nat × Nat)} {target : BitVec 32} (h : s.cur.wait = some (.barx home target)) :
    exec (.barx a sc) s = .next s := by
  show execBarx a sc s = _
  simp only [execBarx, h]

theorem exec_barx_of_barxDone (h : s.cur.wait = some .barxDone) : exec (.barx a sc) s = .next s.acquire.endWait := by
  show execBarx a sc s = _
  simp only [execBarx, h]

variable (hw : s.cur.wait = none) (hr : s.ready [a] = true) (hat : structOk (s.cur.s a).toNat 64 = true)
  (hread : s.readWords (s.cur.s a).toNat 8 = .ok bs r)
include hw hr hat hread

theorem exec_barx_of_bad (h : (r.holdStruct bs).barxOk bs = false) :
    exec (.barx a sc) s = .next ((r.holdStruct bs).reject (s.cur.s a).toNat) := by
  show execBarx a sc s = _
  simp only [execBarx, hw, State.whenReady_of_ready hr, State.withStruct_of_read hw hat hread, h, Bool.not_false, if_true]

/-- A descriptor without a record goes on to its arrival. -/
theorem exec_barx_of_ok (h : (r.holdStruct bs).barxOk bs = true) (hrec : fieldAt bs 16 8 = 0) :
    exec (.barx a sc) s = .next ((r.holdStruct bs).barxArrive bs) := by
  show execBarx a sc s = _
  simp only [execBarx, hw, State.whenReady_of_ready hr, State.withStruct_of_read hw hat hread, h, Bool.not_true, Bool.false_eq_true,
    if_false, hrec, if_true, extentsCheck]

end

/-! ### The answer (R321) -/

/-- The wait of a member that is answered with the value its arrival found. -/
def barxAnswered (home : Nat × Nat) (now : BitVec 32) (v : Nat) : Wait → Wait
  | .barxSent m => if notNeg (now - barxTarget v m) then .barxDone else .barx (some home) (barxTarget v m)
  | w => w

/-- The focused team takes the answer to its arrival. -/
theorem State.barxAnswer_cur {s : State} {sett no m v : Nat} (hwait : s.cur.wait = some (.barxSent m))
    (hrun : s.cur.status = .running) :
    (s.barxAnswer s.cur.uid (some (sett, no)) (some v)).cur.wait
      = some (barxAnswered (sett, no) (s.counter sett no).value v (.barxSent m))
    ∧ (s.barxAnswer s.cur.uid (some (sett, no)) (some v)).cur.sregs = s.cur.sregs
    ∧ (s.barxAnswer s.cur.uid (some (sett, no)) (some v)).mem = s.mem
    ∧ (s.barxAnswer s.cur.uid (some (sett, no)) (some v)).setts = s.setts := by
  have hme : (s.cur.uid == s.cur.uid && s.cur.status != .absent) = true := by rw [hrun, BEq.rfl]; rfl
  refine ⟨?_, ?_, rfl, rfl⟩
  · simp only [State.barxAnswer, State.setAny, State.setTeam, State.mapTeams, hme, if_true, hwait, Option.any_some]
    rfl
  · simp only [State.barxAnswer, State.setAny, State.setTeam, State.mapTeams, hme, if_true]

/-- An increment leaves the number of the package. -/
theorem State.bump_ownPkg (s : State) (sett no n : Nat) : (s.bump sett no n).ownPkg = s.ownPkg := by
  obtain ⟨_, _, _, h, -⟩ := State.counterSeen_eq (s.setSett sett (fun x => x.setCounter (fun c => !s.halted c) no
    { s.counter sett no with value := (s.counter sett no).value + BitVec.ofNat 32 n })) sett no
  rw [State.bump, h]
  rfl

/-- A receipt has left its sett. -/
def State.taken (s : State) (sett : Nat) (x : Receipt) : State := s.setSett sett (fun y => { y with inbox := y.inbox.erase x })

theorem State.counter_taken (s : State) (sett : Nat) (x : Receipt) (no : Nat) : (s.taken sett x).counter sett no = s.counter sett no := by
  rw [State.counter, State.taken, State.sett_setSett_same]
  rfl

theorem State.inbox_taken (s : State) (sett : Nat) (x : Receipt) :
    ((s.taken sett x).sett sett).inbox = (s.sett sett).inbox.erase x := by
  rw [State.taken, State.sett_setSett_same]

/-- The arrival of a member at its home counter, without a record. -/
theorem exec_barxArrival_of_head {s : State} {sett ctx i mem idx lag team no : Nat} {x : Receipt} {rest : List Receipt}
    (hinbox : (s.sett sett).inbox = x :: rest) (hbody : x.msg.body = .arrival ctx i mem idx lag 0 team)
    (hpkg : x.msg.srcPkg = s.ownPkg) (hno : s.ctrNo ctx sett i = some no) :
    exec (.barxArrival sett) s = .next (
      ((s.taken sett x).bump sett no 1).barxAnswer team (some (sett, no)) (some (s.counter sett no).value.toNat)) := by
  show execBarxArrival sett s = _
  rw [← s.counter_taken sett x no]
  rw [execBarxArrival, State.takeReceipt, hinbox]
  have hown := (s.taken sett x).bump_ownPkg sett no 1
  have hnone (u : State) (v stamp : Nat) : u.straggler ctx mem idx lag (0 : Word).toNat v stamp = u := by
    rw [State.straggler]
    exact if_pos rfl
  simp only [List.find?_cons, hbody, State.applyArrival, show State.ctrNo (s.setSett sett _) ctx sett i = some no from hno, hnone]
  exact congrArg Host.Outcome.next (if_pos (hpkg.trans hown.symm))

end Sys2Proof.Machine
end

section
open Sys2Proof Sys2Proof.Machine

/-- Settles O34: the arrival by its descriptor, its answer by the counter it found. -/
theorem barrier : Obligations.Barrier := by
  intro s r a sc bs sett no mem n target x rest ctx i idx lag team bar arrives
  have arrives_of {q : State} {bs : List Byte} (hi : exec bar s = .next (q.barxArrive bs)) : arrives q bs := by
    refine ⟨fun hl hq hpkg => ?_, fun hbusy => ?_⟩
    · rw [State.barxArrive_of_done hl hq] at hi
      obtain ⟨m, hbody, htransit, hcur⟩ := State.sendCtl_here (s := { q with
        cur := { q.cur with wait := some (.barxSent (fieldAt bs 4 4)), sent := [], replies := [] } }) (src := q.cur.sett)
        (sett := fieldAt bs 2 1) (b := .arrival q.cur.ctx (fieldAt bs 0 2) (fieldAt bs 4 4) (fieldAt bs 8 4) (fieldAt bs 12 4)
          (BitVec.ofNat 64 (fieldAt bs 16 8)) q.cur.uid) hpkg
      have hwait := congrArg Team.wait hcur
      have hspc := congrArg Team.spc hcur
      exact ⟨_, m, hi, hwait, hspc, htransit, hbody⟩
    · rw [State.barxArrive_of_busy hbusy] at hi
      exact ⟨_, hi, rfl, rfl, rfl⟩
  refine ⟨fun hw hr hat hread => ⟨exec_barx_of_bad hw hr hat hread, fun hok hrec => arrives_of (exec_barx_of_ok hw hr hat hread hok hrec)⟩,
    fun hw => arrives_of (exec_barx_of_desc hw), fun hinbox hbody hpkg hno hmem hteam hrun hw => ?_,
    fun hw => ⟨exec_barx_of_waiting hw, fun hrun hge => ?_⟩, fun hw => ?_⟩
  · intro old goal
    have hi := exec_barxArrival_of_head hinbox hbody hpkg hno
    obtain ⟨hcounters, -, hinbox'⟩ := (s.taken sett x).bump_sett sett no 1
    obtain ⟨hcur, hmem⟩ := (s.taken sett x).bump_keeps sett no 1
    obtain ⟨hval, -⟩ := State.counter_of_set hcounters
    rw [s.counter_taken] at hval
    generalize (s.taken sett x).bump sett no 1 = b at hi hval hinbox' hcur hmem
    have hwait : b.cur.wait = some (.barxSent mem) := by rw [hcur, Team.mapWait, State.taken, State.setSett_cur, hw]; rfl
    have huid : team = b.cur.uid := by rw [hcur]; exact hteam.symm
    have hstatus : b.cur.status = .running := by rw [hcur]; exact hrun
    obtain ⟨hanswer, hregs, hmem', hsetts⟩ := State.barxAnswer_cur (sett := sett) (no := no) (v := old.toNat) hwait hstatus
    rw [huid] at hi
    refine ⟨_, hi, ?_, ?_, hanswer.trans ?_, hmem'.trans hmem, hregs.trans (by rw [hcur]; rfl)⟩
    · rw [State.sett, hsetts]
      exact hinbox'.trans (by rw [s.inbox_taken, hinbox, List.erase_cons_head])
    · rw [State.counter, State.sett, hsetts]
      exact congrArg Counter.value hval
    · rw [barxAnswered, hval]
      simp only [notNeg_iff]
      rfl
  · obtain ⟨hcur, -⟩ := s.bump_keeps sett no n
    rw [hcur, Team.mapWait, hw, Option.map_some, Wait.seen]
    exact congrArg some (if_pos ⟨rfl, rfl, (notNeg_iff _).2 hge⟩)
  · obtain ⟨l1, reqs, hacq⟩ := s.discardCores_eq
    have hi : exec bar s = .next s.acquire.endWait := exec_barx_of_barxDone hw
    rw [State.acquire, hacq] at hi
    exact ⟨_, hi, Team.advance_wait _ 1, State.endWait_spc _, Team.advance_sregs _ 1, rfl⟩
end

section
/-!
SUPPORT. The words of a lane's registers read and written, and the immediates (R98, R103 to R106).
-/

namespace Sys2Proof.Machine

/-! ### Reading (R98, R104, R105) -/

theorem Lane.words_one (x : Lane) (i : Nat) : x.words i 1 = x.word i := by
  rw [Lane.words, Lane.words, Nat.mul_zero, Nat.add_zero]

theorem Lane.words_two (x : Lane) (i : Nat) : x.words i 2 = x.word i + 2 ^ 32 * x.word (i + 1) := by
  rw [Lane.words, Lane.words_one]

theorem Lane.words_four (x : Lane) (i : Nat) : x.words i 4
    = x.word i + 2 ^ 32 * x.word (i + 1) + 2 ^ 64 * x.word (i + 2) + 2 ^ 96 * x.word (i + 3) := by
  rw [Lane.words, Lane.words, Lane.words_two]
  ring

/-- The immediate of a type of `n` bits is the field, sign-extended. -/
theorem toInt_emod_eq_signExtend (x : BitVec 9) (n : Nat) : (x.toInt % 2 ^ n).toNat = (x.signExtend n).toNat := by
  rw [BitVec.signExtend, BitVec.toNat_ofInt]
  norm_cast

/-! ### Writing (R98) -/

/-- Registers written one after another: what they hold, and that nothing else of the lane differs but its marks of errors. -/
theorem Lane.setWords_spec (n : Nat) (x : Lane) (i v : Nat) (h : i + n ≤ x.regs.length) :
    (∀ j, nth 0 (x.setWords i n v).regs j
      = if i ≤ j ∧ j < i + n then BitVec.ofNat 32 (v / 2 ^ (32 * (j - i))) else nth 0 x.regs j)
    ∧ (x.setWords i n v).regs.length = x.regs.length
    ∧ { x.setWords i n v with regs := x.regs, bad := x.bad, soft := x.soft } = x := by
  induction n generalizing x i v with
  | zero => exact ⟨fun j => (if_neg (by omega)).symm, rfl, rfl⟩
  | succ n ih =>
    have hlen : (x.setWord i (v % 2 ^ 32)).regs.length = x.regs.length := length_setNth _ _ _
    obtain ⟨hregs, hlength, hrest⟩ := ih (x.setWord i (v % 2 ^ 32)) (i + 1) (v / 2 ^ 32) (by rw [hlen]; omega)
    refine ⟨fun j => (hregs j).trans ?_, hlength.trans hlen,
      congrArg (fun z : Lane => { z with regs := x.regs, bad := x.bad, soft := x.soft }) hrest⟩
    by_cases hlater : i + 1 ≤ j ∧ j < i + 1 + n
    · have hdiv : v / 2 ^ 32 / 2 ^ (32 * (j - (i + 1))) = v / 2 ^ (32 * (j - i)) := by
        rw [Nat.div_div_eq_div_mul, ← Nat.pow_add]
        congr 2
        omega
      rw [if_pos hlater, if_pos (by omega), hdiv]
    · rw [if_neg hlater, show (x.setWord i (v % 2 ^ 32)).regs = setNth x.regs i (BitVec.ofNat 32 (v % 2 ^ 32)) from rfl,
        nth_setNth _ _ _ _ _ (by omega)]
      by_cases hj : j = i
      · rw [if_pos hj, if_pos (by omega), hj, Nat.sub_self, Nat.mul_zero, Nat.pow_zero, Nat.div_one]
        exact BitVec.eq_of_toNat_eq (by simp)
      · rw [if_neg hj, if_neg (by omega)]

/-- An operand with a place in the register space is written there. -/
theorem Lane.write_of_span {views : List Word32} {o : Operand} {i n : Nat} (h : operandSpan views o = some (i, n)) (x : Lane) (v : Nat) :
    x.write views o v = x.setWords i n v := by
  rw [Lane.write, h]

/-- An operand without a place is not written. -/
theorem Lane.write_of_no_span {views : List Word32} {o : Operand} (h : operandSpan views o = none) (x : Lane) (v : Nat) :
    x.write views o v = x := by
  rw [Lane.write, h]

end Sys2Proof.Machine
end

section
open Sys2Proof Sys2Proof.Machine

/-- Settles O35: what is read by the words of the register space, what is written by the places of the operand. -/
theorem laneOperands : Obligations.LaneOperands := by
  refine ⟨fun s b p ty l k r x => ?_, fun x views o v i n hspan hle => ?_, fun x views o v hspan => Lane.write_of_no_span hspan x v,
    fun views => ⟨fun k => rfl, fun k => rfl, fun k => rfl, rfl, fun r => rfl⟩⟩
  · intro e w g
    refine ⟨Lane.words_one _ _, Lane.words_two _ _, fun q => ?_, fun h64 => ?_, fun h32 => ?_, rfl, fun hr hsw => ?_,
      rfl, rfl, rfl, rfl, rfl, rfl, rfl, fun h => ?_, fun h => ?_⟩
    · exact Lane.words_four _ _
    · show (e.s r).toNat % 2 ^ (if ty.bits = 64 then 64 else 32) = _
      rw [if_pos h64]
      exact Nat.mod_eq_of_lt (e.s r).isLt
    · show (e.s r).toNat % 2 ^ (if ty.bits = 64 then 64 else 32) = _
      rw [h32]
      rfl
    · show pathS b p r = _
      rw [pathS, if_neg hr, hsw]
      rfl
    · show immValue ty x = _
      rw [← toInt_emod_eq_signExtend x 32]
      obtain rfl | rfl | rfl := h <;> rfl
    · show immValue ty x = _
      rw [← toInt_emod_eq_signExtend x 64]
      obtain rfl | rfl | rfl := h <;> rfl
  · intro y
    rw [show y = x.setWords i n v from Lane.write_of_span hspan x v]
    exact Lane.setWords_spec n x i v hle
end

section
/-!
SUPPORT. What the cross-lane words leave (R155): a register result goes to each active lane, an s result is written once.
-/

namespace Sys2Proof.Machine

variable {s : State} {i : Instr} {p : Path} {b : Block}

/-! ### The sweep of a cross-lane word (R155) -/

/-- A lane without register errors has nothing to correct. -/
theorem State.correctLane_clean (h : ∀ l, (s.cur.lane l).clean) (l : Nat) (ws : List Nat) : s.correctLane l ws = s := by
  obtain ⟨_, hsoft, _⟩ := h l
  simp only [State.correctLane, hsoft, List.filter_nil]
  rfl

/-- Where no lane holds a register error, the sources are read and nothing else happens. -/
theorem LaneReady.laneCross_eq (h : LaneReady s i p b) (r : LaneRun) (reads : List (Nat × List Nat)) (f : State → State) :
    s.laneCross r reads f = f s := by
  have hword (l : Nat) (ws : List Nat) : (s.cur.lane l).wordError ws = none := by
    rw [Lane.wordError, (h.clean l).1]
    simp
  have herr : reads.filterMap (fun x => if r.act.contains x.1 then (s.cur.lane x.1).error r.i x.2 else (s.cur.lane x.1).wordError x.2)
      = [] := by
    rw [List.filterMap_eq_nil_iff]
    intro x _
    rw [hword, Lane.clean_error _ (h.clean x.1), ite_self]
  have hfix : reads.foldl (fun s x => if r.act.contains x.1 then s.correct r.i x.2 [x.1] else s.correctLane x.1 x.2) s = s := by
    induction reads with
    | nil => rfl
    | cons x xs ih =>
      rw [List.foldl_cons, s.correct_clean h.clean, State.correctLane_clean h.clean, ite_self]
      exact ih (List.filterMap_eq_nil_iff.2 fun y hy => List.filterMap_eq_nil_iff.1 herr y (List.mem_cons_of_mem _ hy))
  simp only [State.laneCross, herr, hfix]

/-- What a word's sweep leaves on its run (R75, R87). -/
def State.sweepDone (s : State) (r : LaneRun) (cls n : Nat) (eff : LaneEff) : State :=
  State.countCur (State.finishWord { s with
      cur := (applyLanes { r.e with t := s.cur } eff r.act s.cur false 0).1.orFlags
        (applyLanes { r.e with t := s.cur } eff r.act s.cur false 0).2.2 } r
    (applyLanes { r.e with t := s.cur } eff r.act s.cur false 0).2.1 []) cls n

/-- A word that works in each lane on its own leaves the same. -/
theorem LaneReady.laneEach_eq (h : LaneReady s i p b) (cls n : Nat) (eff : LaneEff) :
    s.laneEach (s.laneRun i p b) cls n eff = s.sweepDone (s.laneRun i p b) cls (n * (s.lanesOn p i).length) eff := by
  obtain ⟨hwhole, hpart⟩ := h.whole (s.env b p) (s.lanesOn p i)
  have herr (l : Nat) (ws : List Nat) : (s.cur.lane l).error i ws = none := Lane.clean_error _ (h.clean l) _ _
  obtain ⟨_, hfaults, _, hfl, _⟩ := h.start
  have hor (y : Flags5) : y ||| (0 : Flags5) = y := BitVec.or_zero
  have hbad : (s.lanesOn p i).filterMap (fun _ => (none : Option LaneFault)) = [] := List.filterMap_eq_nil_iff.2 fun _ _ => rfl
  show State.laneEach s ⟨i, p, b, s.env b p, s.lanesOn p i⟩ cls n eff = _
  rw [State.laneEach]
  simp only [hwhole, hpart, herr, s.correct_clean h.clean, Option.isNone_none, List.filter_true, if_true, hfl, LaneRun.earlier,
    hfaults, Option.map_none, List.map_nil, List.nil_append, hor, hbad]
  rfl

/-- A cross-lane word leaves its results in its active lanes (R155). -/
theorem LaneReady.crossResult_swept (h : LaneReady s i p b) {hd : LaneHead} {cls : Nat} {ok : Team → Bool} (hok : ok s.cur = true)
    (src : LaneRun → Nat → List Nat) (f : LaneRun → LaneEnv → Nat → Nat × Flags5) :
    Swept s (s.crossResult i hd cls ok src f) p (s.lanesOn p i) (fun l =>
      ((s.cur.lane l).write s.cur.code.mview hd.d (f (s.laneRun i p b) (s.env b p) l).1, (f (s.laneRun i p b) (s.env b p) l).2)) := by
  have hrun : s.crossResult i hd cls ok src f = s.laneParts i ok (fun r u => u.laneEach r cls 1 (fun e l =>
      (e.put hd.d l (f (s.laneRun i p b) e l).1, (f (s.laneRun i p b) e l).2))) := by
    rw [h.laneParts_eq hok, h.laneEach_eq, State.crossResult, State.laneWord, h.laneParts_eq hok]
    obtain ⟨hwhole, -⟩ := h.whole (s.env b p) (s.lanesOn p i)
    refine (if_pos hwhole).trans ((h.laneCross_eq _ _ _).trans ?_)
    rw [Nat.one_mul]
    rfl
  rw [hrun]
  exact s.laneEach_spec i p b cls 1 (fun e l => (e.put hd.d l (f (s.laneRun i p b) e l).1, (f (s.laneRun i p b) e l).2)) ok h hok

/-- A word that does not fit its configuration faults its path (R117). -/
theorem LaneReady.laneParts_of_illegal (h : LaneReady s i p b) {ok : Team → Bool} (hok : ok s.cur = false)
    (f : LaneRun → State → State) : s.laneParts i ok f = s.faultPath p codeIllegal 0 := by
  rw [State.laneParts, h.path, h.block]
  simp only [hok, Bool.and_false, Bool.not_false, if_true]

/-- The s registers of a team are its register file. -/
theorem Team.s_congr {t u : Team} (h : t.sregs = u.sregs) (r : Reg) : t.s r = u.s r := by
  rw [Team.s, Team.s, h]

/-- What a path reads of an s register once a word of it has written it (R79). -/
def Path.scalarWritten (d : Reg) (x : Nat × Word) (q : Path) : Path :=
  { q with swrites := if d = 0 then q.swrites else FMap.set q.swrites d.toNat x }

/-- The write of an s result leaves the register, the flags, and the path past the word. -/
theorem LaneReady.crossScalar_cur (h : LaneReady s i p b) (d : Reg) (w : Word × Flags5) (cls : Nat) : ∃ changed,
    (s.crossScalar (s.laneRun i p b) d w.1 w.2 cls).cur = { s.cur with
      sregs := (s.cur.setS d w.1).sregs, fstat := s.cur.fstat ||| w.2,
      paths := ((s.cur.setPath p.idx (Path.scalarWritten d (s.tick, w.1))).setPath p.idx
        (fun q => q.past (q.passCount (s.lanesOn p i)) changed)).paths }
    ∧ (s.crossScalar (s.laneRun i p b) d w.1 w.2 cls).mem = s.mem := by
  have hcount (u : State) (c n : Nat) : (u.countCur c n).cur = u.cur ∧ (u.countCur c n).mem = u.mem := by
    rw [State.countCur]
    split <;> exact ⟨rfl, rfl⟩
  obtain ⟨sregs, hset⟩ := s.cur.setS_eq d w.1
  rw [State.crossScalar, hset]
  obtain ⟨hcur, hmem⟩ := hcount (State.finishWord { s with
    cur := (({ s.cur with sregs := sregs } : Team).setPath p.idx (Path.scalarWritten d (s.tick, w.1))).orFlags w.2,
    tick := s.tick + 1 } (s.laneRun i p b) (decide (d ≠ 0) && decide (s.cur.s d ≠ w.1)) []) cls (s.lanesOn p i).length
  have hdone := State.finishWord_quiet { s with
    cur := (({ s.cur with sregs := sregs } : Team).setPath p.idx (Path.scalarWritten d (s.tick, w.1))).orFlags w.2,
    tick := s.tick + 1 } (s.laneRun i p b) (decide (d ≠ 0) && decide (s.cur.s d ≠ w.1)) h.quiet
  have hdoneCur := congrArg State.cur hdone
  have hdoneMem := congrArg State.mem hdone
  exact ⟨_, hcur.trans hdoneCur, hmem.trans hdoneMem⟩

/-- A cross-lane word with an s result writes it once (R79). -/
theorem LaneReady.crossScalar_swept (h : LaneReady s i p b) {ok : Team → Bool} (hok : ok s.cur = true)
    (reads : LaneRun → State → List (Nat × List Nat)) (d : Reg) (v : LaneRun → Word × Flags5) (cls : Nat) :
    SweptScalar s (s.laneWord i ok (fun r s => s.laneCross r (reads r s) (fun s => s.crossScalar r d (v r).1 (v r).2 cls))) p b d
      (v (s.laneRun i p b)).1 := by
  obtain ⟨hwhole, -⟩ := h.whole (s.env b p) (s.lanesOn p i)
  have hrun : s.laneWord i ok (fun r s => s.laneCross r (reads r s) (fun s => s.crossScalar r d (v r).1 (v r).2 cls))
      = s.crossScalar (s.laneRun i p b) d (v (s.laneRun i p b)).1 (v (s.laneRun i p b)).2 cls := by
    rw [State.laneWord, h.laneParts_eq hok]
    exact (if_pos hwhole).trans (h.laneCross_eq _ _ _)
  rw [hrun]
  generalize v (s.laneRun i p b) = w
  obtain ⟨changed, hcur, hmem⟩ := h.crossScalar_cur d w cls
  have hregs := congrArg Team.sregs hcur
  constructor
  case reg => exact (Team.s_congr hregs d).trans (s.cur.s_setS_same d w.1)
  case regs => exact fun r hr => (Team.s_congr hregs r).trans (s.cur.s_setS_other w.1 hr)
  case lanes => rw [hcur]
  case mem => exact hmem
  case path =>
    have hwritten := Team.path?_setPath s.cur p.idx p.idx (Path.scalarWritten d (s.tick, w.1)) fun _ => rfl
    rw [Team.current_path? h.path, Option.map_some, BEq.rfl, if_pos rfl] at hwritten
    have hpast := Team.path?_setPath (s.cur.setPath p.idx (Path.scalarWritten d (s.tick, w.1))) p.idx p.idx
      (fun q => q.past (q.passCount (s.lanesOn p i)) changed) fun _ => rfl
    rw [hwritten, Option.map_some] at hpast
    refine ⟨(p.scalarWritten d (s.tick, w.1)).past (p.passCount (s.lanesOn p i)) changed, ?_, rfl, rfl, ?_⟩
    · rw [hcur]
      exact hpast.trans (congrArg some (if_pos (beq_self_eq_true p.idx)))
    · show pathS b (p.scalarWritten d (s.tick, w.1)) d = _
      by_cases hd : d = 0
      · rw [if_pos hd, hd]
        rfl
      · have hread : FMap.get? (p.scalarWritten d (s.tick, w.1)).swrites d.toNat = some (s.tick, w.1) := by
          rw [Path.scalarWritten, if_neg hd, FMap.get?_set_same]
        rw [if_neg hd, pathS, if_neg hd, hread]

end Sys2Proof.Machine
end

section
/-!
SUPPORT. The values of the cross-lane words: reductions as operations on bit vectors (R158), votes (R161), and the lanes of a group.
-/

namespace Sys2Proof.Machine

/-! ### Sums and bitwise reductions (R158) -/

/-- A reduction whose step is that of an operation on bit vectors gives that operation's value over the lanes. -/
theorem foldl_eq_toNat {n : Nat} {op : Nat → Nat → Nat} {f : BitVec n → BitVec n → BitVec n}
    (hop : ∀ x y : BitVec n, op x.toNat y.toNat = (f x y).toNat) {A : Nat → Nat} {dom : List Nat} (hA : ∀ l ∈ dom, A l < 2 ^ n)
    (c : BitVec n) : (dom.map A).foldl op c.toNat = ((dom.map fun l => BitVec.ofNat n (A l)).foldl f c).toNat := by
  induction dom generalizing c with
  | nil => rfl
  | cons l ls ih =>
    have hl : A l = (BitVec.ofNat n (A l)).toNat := by
      rw [BitVec.toNat_ofNat, Nat.mod_eq_of_lt (hA l List.mem_cons_self)]
    rw [List.map_cons, List.map_cons, List.foldl_cons, List.foldl_cons, ← ih fun m hm => hA m (List.mem_cons_of_mem l hm)]
    congr 1
    rw [← hop, ← hl]

/-! ### The smallest and the largest (R158) -/

/-- A fold that picks the smaller of two by some measure gives an element whose measure is the smallest. -/
theorem foldl_pick_least {pick : Nat → Nat → Nat} {key : Nat → Int}
    (hpick : ∀ a b, (pick a b = a ∨ pick a b = b) ∧ key (pick a b) ≤ key a ∧ key (pick a b) ≤ key b) (xs : List Nat) (c : Nat) :
    (xs.foldl pick c = c ∨ xs.foldl pick c ∈ xs) ∧ key (xs.foldl pick c) ≤ key c ∧ ∀ x ∈ xs, key (xs.foldl pick c) ≤ key x := by
  induction xs generalizing c with
  | nil => exact ⟨.inl rfl, le_refl _, fun x hx => absurd hx List.not_mem_nil⟩
  | cons x xs ih =>
    obtain ⟨hfrom, hc, hxs⟩ := ih (pick c x)
    obtain ⟨hor, hpc, hpx⟩ := hpick c x
    rw [List.foldl_cons]
    refine ⟨?_, hc.trans hpc, fun y hy => ?_⟩
    · rcases hfrom with heq | hmem
      · rcases hor with ha | hb
        · exact .inl (heq.trans ha)
        · exact .inr (List.mem_cons.2 (.inl (heq.trans hb)))
      · exact .inr (List.mem_cons_of_mem x hmem)
    · rcases List.mem_cons.1 hy with rfl | hy
      · exact hc.trans hpx
      · exact hxs y hy

/-- Where nothing measures more than the start, the fold gives one of the elements. -/
theorem foldl_pick_mem {pick : Nat → Nat → Nat} {key : Nat → Int}
    (hpick : ∀ a b, (pick a b = a ∨ pick a b = b) ∧ key (pick a b) ≤ key a ∧ key (pick a b) ≤ key b) {xs : List Nat} {c : Nat}
    (hne : xs ≠ []) (htop : ∀ x ∈ xs, key x ≤ key c) (hinj : ∀ x ∈ xs, key x = key c → x = c) :
    xs.foldl pick c ∈ xs ∧ ∀ x ∈ xs, key (xs.foldl pick c) ≤ key x := by
  obtain ⟨hfrom, -, hleast⟩ := foldl_pick_least hpick xs c
  refine ⟨?_, hleast⟩
  rcases hfrom with heq | hmem
  · obtain ⟨x, hx⟩ := List.exists_mem_of_ne_nil xs hne
    have hkey : key x = key c := le_antisymm (htop x hx) (heq ▸ hleast x hx)
    rw [heq, ← hinj x hx hkey]
    exact hx
  · exact hmem

/-- An element of a type as a number. -/
def elemKey (sg : Bool) (n a : Nat) : Int := if sg then (BitVec.ofNat n a).toInt else (BitVec.ofNat n a).toNat

theorem elemInt_zero {n : Nat} (hn : 0 < n) (sg : Bool) (a : Nat) : elemInt sg n a 0 = elemKey sg n a := by
  rw [elemInt_eq hn, Nat.mul_zero, Nat.pow_zero, Nat.div_one, elemKey]

/-- Elements of `n` bits that are the same number are the same. -/
theorem elemKey_inj {sg : Bool} {n a b : Nat} (ha : a < 2 ^ n) (hb : b < 2 ^ n) (h : elemKey sg n a = elemKey sg n b) : a = b := by
  have hvec : BitVec.ofNat n a = BitVec.ofNat n b := by
    cases sg with
    | true => exact BitVec.toInt_inj.1 h
    | false => exact BitVec.eq_of_toNat_eq (Int.ofNat_inj.1 h)
  have := congrArg BitVec.toNat hvec
  rwa [BitVec.toNat_ofNat, BitVec.toNat_ofNat, Nat.mod_eq_of_lt ha, Nat.mod_eq_of_lt hb] at this

/-- The largest element of a type. -/
theorem elemKey_le_top {n : Nat} (hn : 0 < n) (sg : Bool) (a : Nat) :
    elemKey sg n a ≤ elemKey sg n (if sg then 2 ^ (n - 1) - 1 else 2 ^ n - 1) := by
  cases sg with
  | true =>
    have hlt : 2 ^ (n - 1) - 1 < 2 ^ n :=
      lt_of_le_of_lt (Nat.sub_le _ _) (Nat.pow_lt_pow_right (by decide) (Nat.sub_one_lt_of_lt hn))
    have htop : BitVec.ofNat n (2 ^ (n - 1) - 1) = BitVec.intMax n :=
      BitVec.eq_of_toNat_eq (by rw [BitVec.toNat_intMax, BitVec.toNat_ofNat, Nat.mod_eq_of_lt hlt])
    show (BitVec.ofNat n a).toInt ≤ (BitVec.ofNat n (2 ^ (n - 1) - 1)).toInt
    rw [htop, BitVec.toInt_intMax]
    exact Int.le_sub_one_of_lt BitVec.toInt_lt
  | false =>
    show ((BitVec.ofNat n a).toNat : Int) ≤ ((BitVec.ofNat n (2 ^ n - 1)).toNat : Int)
    rw [BitVec.toNat_ofNat (2 ^ n - 1) n, Nat.mod_eq_of_lt (Nat.sub_lt (Nat.two_pow_pos n) Nat.one_pos)]
    exact Int.ofNat_le.2 (Nat.le_sub_one_of_lt (BitVec.ofNat n a).isLt)

/-- The smallest element of a type. -/
theorem bottom_le_elemKey {n : Nat} (hn : 0 < n) (sg : Bool) (a : Nat) :
    elemKey sg n (if sg then 2 ^ (n - 1) else 0) ≤ elemKey sg n a := by
  cases sg with
  | true =>
    have hmin : BitVec.ofNat n (2 ^ (n - 1)) = BitVec.intMin n :=
      BitVec.eq_of_toNat_eq (by rw [BitVec.toNat_intMin, BitVec.toNat_ofNat])
    show (BitVec.ofNat n (2 ^ (n - 1))).toInt ≤ (BitVec.ofNat n a).toInt
    rw [hmin, BitVec.toInt_intMin_of_pos hn]
    exact BitVec.le_toInt _
  | false =>
    show ((BitVec.ofNat n 0).toNat : Int) ≤ ((BitVec.ofNat n a).toNat : Int)
    exact Int.ofNat_le.2 (by simp)

theorem top_lt_two_pow {n : Nat} (hn : 0 < n) (sg : Bool) : (if sg then 2 ^ (n - 1) - 1 else 2 ^ n - 1) < 2 ^ n := by
  cases sg with
  | true => exact lt_of_le_of_lt (Nat.sub_le _ _) (Nat.pow_lt_pow_right (by decide) (Nat.sub_one_lt_of_lt hn))
  | false => exact Nat.sub_one_lt_of_lt (Nat.two_pow_pos n)

theorem bottom_lt_two_pow {n : Nat} (hn : 0 < n) (sg : Bool) : (if sg then 2 ^ (n - 1) else 0) < 2 ^ n := by
  cases sg with
  | true => exact Nat.pow_lt_pow_right (by decide) (Nat.sub_one_lt_of_lt hn)
  | false => exact Nat.two_pow_pos n

/-! ### Votes (R161) -/

/-- A bit that is clear is set by adding its weight. -/
theorem testBit_add_two_pow {x i : Nat} (h : x.testBit i = false) (k : Nat) : (x + 2 ^ i).testBit k = (x.testBit k || decide (k = i)) := by
  have hx : x = 2 ^ (i + 1) * (x / 2 ^ (i + 1)) + x % 2 ^ i := by
    rw [Nat.testBit_eq_decide_div_mod_eq, decide_eq_false_iff_not] at h
    have hmod : x % 2 ^ (i + 1) = x % 2 ^ i := by
      rw [Nat.pow_succ, Nat.mod_mul]
      have : x / 2 ^ i % 2 = 0 := by omega
      rw [this, Nat.mul_zero, Nat.add_zero]
    rw [← hmod]
    exact (Nat.div_add_mod x _).symm
  have hr : x % 2 ^ i < 2 ^ i := Nat.mod_lt _ (Nat.two_pow_pos i)
  generalize x / 2 ^ (i + 1) = q at hx
  generalize x % 2 ^ i = r at hx hr
  have hsum : x + 2 ^ i = 2 ^ i * (2 * q + 1) + r := by rw [hx, Nat.pow_succ]; ring
  have hx' : x = 2 ^ i * (2 * q) + r := by rw [hx, Nat.pow_succ]; ring
  rw [hsum, hx', Nat.testBit_two_pow_mul_add _ hr, Nat.testBit_two_pow_mul_add _ hr]
  by_cases hk : k < i
  · have hne : k ≠ i := by omega
    simp [hk, hne]
  · obtain ⟨m, rfl⟩ := Nat.exists_eq_add_of_le (Nat.le_of_not_lt hk)
    rw [if_neg hk, if_neg hk, Nat.add_sub_cancel_left]
    cases m with
    | zero => simp [Nat.testBit_zero]
    | succ m => simp [Nat.testBit_succ, Nat.mul_add_div]

/-- A bit of a number, by the library's name. -/
theorem bitAt_eq_testBit (x i : Nat) : bitAt x i = x.testBit i := by
  rw [Nat.testBit_eq_decide_div_mod_eq]
  rfl

/-- The bits of a number made of bit numbers. -/
theorem bitAt_bitsOf (xs : List Nat) (k : Nat) : bitAt (bitsOf xs) k = true ↔ k ∈ xs := by
  have hfold (acc : Nat) : (bitAt (xs.foldl (fun acc i => if bitAt acc i then acc else acc + 2 ^ i) acc) k = true)
      ↔ acc.testBit k = true ∨ k ∈ xs := by
    induction xs generalizing acc with
    | nil => rw [List.foldl_nil, bitAt_eq_testBit]; simp
    | cons x xs ih =>
      rw [List.foldl_cons, ih, List.mem_cons, bitAt_eq_testBit]
      by_cases hx : acc.testBit x = true
      · rw [if_pos hx]
        constructor
        · exact fun h => h.imp_right Or.inr
        · rintro (h | rfl | h)
          · exact .inl h
          · exact .inl hx
          · exact .inr h
      · rw [if_neg hx, testBit_add_two_pow (Bool.eq_false_iff.2 hx), Bool.or_eq_true, decide_eq_true_iff, or_assoc]
  rw [bitsOf, hfold, Nat.zero_testBit]
  simp

/-- A vote counts every lane as yes (R161). -/
theorem vote_all (q : Nat → Bool) (xs : List Nat) :
    b2n (decide ((xs.filter q).length = xs.length)) = if ∀ l ∈ xs, q l = true then 1 else 0 := by
  rw [b2n]
  refine if_congr ?_ rfl rfl
  rw [decide_eq_true_iff, List.length_filter_eq_length_iff]

/-- A vote finds some lane that says yes (R161). -/
theorem vote_any (q : Nat → Bool) (xs : List Nat) :
    b2n (!(xs.filter q).isEmpty) = if ∃ l ∈ xs, q l = true then 1 else 0 := by
  rw [b2n]
  refine if_congr ?_ rfl rfl
  rw [Bool.not_eq_true', Bool.eq_false_iff, ne_eq, List.isEmpty_iff, List.filter_eq_nil_iff]
  push Not
  rfl

/-- The votes of a domain (R161). -/
theorem voteValue_eq (e : LaneEnv) (x : AuxX) (dom : List Nat) (index : Nat → Nat) :
    (x.xop = 0 → voteValue e x dom index = if ∀ l ∈ dom, (e.t.lane l).pred x.pa = true then 1 else 0)
      ∧ (x.xop = 1 → voteValue e x dom index = if ∃ l ∈ dom, (e.t.lane l).pred x.pa = true then 1 else 0)
      ∧ (x.xop = 2 → ∀ k, bitAt (voteValue e x dom index) k = true ↔ ∃ m ∈ dom, index m = k ∧ (e.t.lane m).pred x.pa = true) := by
  refine ⟨fun h => ?_, fun h => ?_, fun h k => ?_⟩
  · rw [voteValue, h]
    exact vote_all _ dom
  · rw [voteValue, h]
    exact vote_any _ dom
  · rw [voteValue, h]
    refine (bitAt_bitsOf _ k).trans ?_
    rw [List.mem_map]
    simp only [List.mem_filter]
    constructor
    · rintro ⟨m, ⟨hm, hp⟩, hk⟩
      exact ⟨m, hm, hk, hp⟩
    · rintro ⟨m, hm, hk, hp⟩
      exact ⟨m, ⟨hm, hp⟩, hk⟩

/-- The types a ballot takes (R161). -/
theorem ballotOk_of {h : LaneHead} {x : AuxX} {t : Team}
    (hs : x.xop = 2 → (∀ r, h.d ≠ .s r) → h.ty = .b64 ∨ t.kern.gwidth ≤ 32)
    (hd : ∀ d, h.d = .s d → x.xop = 2 → t.kern.lanesN ≤ if h.ty = .b32 then 32 else 64) : ballotOk h x t = true := by
  rw [ballotOk]
  by_cases hx : x.xop = 2
  · rw [hx]
    cases hop : h.d with
    | s d =>
      have := hd d hop hx
      simpa using this
    | _ =>
      have := hs hx (fun r hr => by rw [hop] at hr; cases hr)
      simpa using this
  · have hne : (x.xop != 2) = true := bne_iff_ne.2 hx
    rw [hne, Bool.true_or]

/-! ### Groups and segments (R156, R158) -/

/-- The lanes of a lane's group are those with its group number. -/
theorem groupLanes_contains {t : Team} (hg : 0 < t.kern.gwidth) (l m : Nat) :
    (groupLanes t l).contains m = decide (m / t.kern.gwidth = l / t.kern.gwidth) := by
  rw [Bool.eq_iff_iff, List.contains_iff_mem, decide_eq_true_iff, groupLanes, mem_upTo, Nat.div_eq_iff hg]
  omega

/-- The segment widths of a shuffle (R156). -/
theorem segmentOk_iff (w : BitVec 12) (g : Nat) :
    segmentOk w.toNat g = true ↔ w = 0 ∨ (w.toNat ∈ [2, 4, 8, 16, 32, 64] ∧ w.toNat ≤ g) := by
  rw [segmentOk, Bool.or_eq_true, Bool.and_eq_true, List.contains_iff_mem, decide_eq_true_iff, beq_iff_eq]
  refine or_congr_left ⟨fun h => BitVec.eq_of_toNat_eq h, fun h => by rw [h]; rfl⟩

/-! ### Integer reductions (R158) -/

/-- A value is an integer or bitwise combination of the elements `A` gives over a domain that is not empty (R158). -/
def Combined (t : LType) (xop : BitVec 4) (A : Nat → Nat) (dom : List Nat) (v : Nat) : Prop :=
  let n := (elemOf t).1
  let val (l : Nat) : BitVec n := BitVec.ofNat n (A l)
  (xop = 0 → v = ((dom.map val).foldl (· + ·) 0).toNat)
    ∧ (xop = 1 → ∃ l ∈ dom, v = A l ∧ ∀ m ∈ dom, if (elemOf t).2.2 then (val l).toInt ≤ (val m).toInt else (val l).toNat ≤ (val m).toNat)
    ∧ (xop = 2 → ∃ l ∈ dom, v = A l ∧ ∀ m ∈ dom, if (elemOf t).2.2 then (val m).toInt ≤ (val l).toInt else (val m).toNat ≤ (val l).toNat)
    ∧ (xop = 3 → v = ((dom.map val).foldl (· &&& ·) (BitVec.allOnes n)).toNat)
    ∧ (xop = 4 → v = ((dom.map val).foldl (· ||| ·) 0).toNat) ∧ (xop = 5 → v = ((dom.map val).foldl (· ^^^ ·) 0).toNat)

/-- The order of elements of a type, by their bit vectors. -/
theorem elemKey_le_iff (sg : Bool) (n a b : Nat) : elemKey sg n a ≤ elemKey sg n b
    ↔ if sg then (BitVec.ofNat n a).toInt ≤ (BitVec.ofNat n b).toInt else (BitVec.ofNat n a).toNat ≤ (BitVec.ofNat n b).toNat := by
  cases sg with
  | true => rfl
  | false => exact Int.ofNat_le

/-- The smallest element of a domain (R158). -/
theorem redInt_least {t : LType} (ht : t ≠ .f32) {A : Nat → Nat} {dom : List Nat} (hne : dom ≠ [])
    (hA : ∀ l ∈ dom, A l < 2 ^ (elemOf t).1) : ∃ l ∈ dom, (dom.map A).foldl (redInt t 1) (redIdentity t 1) = A l
      ∧ ∀ m ∈ dom, elemKey (elemOf t).2.2 (elemOf t).1 (A l) ≤ elemKey (elemOf t).2.2 (elemOf t).1 (A m) := by
  have hn : 0 < (elemOf t).1 := elemOf_bits_pos t
  have hpick (a b : Nat) : (redInt t 1 a b = a ∨ redInt t 1 a b = b)
      ∧ elemKey (elemOf t).2.2 (elemOf t).1 (redInt t 1 a b) ≤ elemKey (elemOf t).2.2 (elemOf t).1 a
      ∧ elemKey (elemOf t).2.2 (elemOf t).1 (redInt t 1 a b) ≤ elemKey (elemOf t).2.2 (elemOf t).1 b := by
    have hdef : redInt t 1 a b = if elemInt (elemOf t).2.2 (elemOf t).1 a 0 ≤ elemInt (elemOf t).2.2 (elemOf t).1 b 0 then a else b := rfl
    rw [hdef, elemInt_zero hn, elemInt_zero hn]
    split
    next hle => exact ⟨.inl rfl, le_refl _, hle⟩
    next hgt => exact ⟨.inr rfl, (not_le.1 hgt).le, le_refl _⟩
  have hid : redIdentity t 1 = if (elemOf t).2.2 then 2 ^ ((elemOf t).1 - 1) - 1 else 2 ^ (elemOf t).1 - 1 := if_neg ht
  obtain ⟨hmem, hleast⟩ := foldl_pick_mem hpick (xs := dom.map A) (c := redIdentity t 1) (by simpa using hne)
    (fun x _ => hid ▸ elemKey_le_top hn _ x) (fun x hx heq => by
      obtain ⟨l, hl, rfl⟩ := List.mem_map.1 hx
      exact elemKey_inj (hA l hl) (hid ▸ top_lt_two_pow hn _) heq)
  obtain ⟨l, hl, heq⟩ := List.mem_map.1 hmem
  exact ⟨l, hl, heq.symm, fun m hm => heq ▸ hleast (A m) (List.mem_map_of_mem hm)⟩

/-- The largest element of a domain (R158). -/
theorem redInt_greatest {t : LType} (ht : t ≠ .f32) {A : Nat → Nat} {dom : List Nat} (hne : dom ≠ [])
    (hA : ∀ l ∈ dom, A l < 2 ^ (elemOf t).1) : ∃ l ∈ dom, (dom.map A).foldl (redInt t 2) (redIdentity t 2) = A l
      ∧ ∀ m ∈ dom, elemKey (elemOf t).2.2 (elemOf t).1 (A m) ≤ elemKey (elemOf t).2.2 (elemOf t).1 (A l) := by
  have hn : 0 < (elemOf t).1 := elemOf_bits_pos t
  have hpick (a b : Nat) : (redInt t 2 a b = a ∨ redInt t 2 a b = b)
      ∧ -elemKey (elemOf t).2.2 (elemOf t).1 (redInt t 2 a b) ≤ -elemKey (elemOf t).2.2 (elemOf t).1 a
      ∧ -elemKey (elemOf t).2.2 (elemOf t).1 (redInt t 2 a b) ≤ -elemKey (elemOf t).2.2 (elemOf t).1 b := by
    have hdef : redInt t 2 a b = if elemInt (elemOf t).2.2 (elemOf t).1 a 0 ≤ elemInt (elemOf t).2.2 (elemOf t).1 b 0 then b else a := rfl
    rw [hdef, elemInt_zero hn, elemInt_zero hn]
    split
    next hle => exact ⟨.inr rfl, neg_le_neg hle, le_refl _⟩
    next hgt => exact ⟨.inl rfl, le_refl _, neg_le_neg (not_le.1 hgt).le⟩
  have hid : redIdentity t 2 = if (elemOf t).2.2 then 2 ^ ((elemOf t).1 - 1) else 0 := if_neg ht
  obtain ⟨hmem, hleast⟩ := foldl_pick_mem hpick (xs := dom.map A) (c := redIdentity t 2) (by simpa using hne)
    (fun x _ => hid ▸ neg_le_neg (bottom_le_elemKey hn _ x)) (fun x hx heq => by
      obtain ⟨l, hl, rfl⟩ := List.mem_map.1 hx
      exact elemKey_inj (hA l hl) (hid ▸ bottom_lt_two_pow hn _) (neg_injective heq))
  obtain ⟨l, hl, heq⟩ := List.mem_map.1 hmem
  exact ⟨l, hl, heq.symm, fun m hm => heq ▸ neg_le_neg_iff.1 (hleast (A m) (List.mem_map_of_mem hm))⟩

/-- The value of an integer reduction (R158). -/
theorem combined_redValue {t : LType} (ht : t ≠ .f32) (ftz : Bool) (xop : BitVec 4) {A : Nat → Nat} {dom : List Nat}
    (hne : dom ≠ []) (hA : ∀ l ∈ dom, A l < 2 ^ (elemOf t).1) :
    Combined t xop A dom (redValue t ftz xop.toNat (dom.map A)).1 := by
  have hval : (redValue t ftz xop.toNat (dom.map A)).1 = (dom.map A).foldl (redInt t xop.toNat) (redIdentity t xop.toNat) :=
    congrArg Prod.fst (if_neg ht)
  have hzero : (0 : Nat) = (0 : BitVec (elemOf t).1).toNat := rfl
  rw [hval]
  refine ⟨fun h => ?_, fun h => ?_, fun h => ?_, fun h => ?_, fun h => ?_, fun h => ?_⟩ <;> rw [h]
  · have hid : redIdentity t (0 : BitVec 4).toNat = (0 : BitVec (elemOf t).1).toNat := if_neg ht
    rw [hid]
    exact foldl_eq_toNat (fun x y => (BitVec.toNat_add x y).symm) hA 0
  · obtain ⟨l, hl, heq, hleast⟩ := redInt_least ht hne hA
    exact ⟨l, hl, heq, fun m hm => (elemKey_le_iff _ _ _ _).1 (hleast m hm)⟩
  · obtain ⟨l, hl, heq, hgreatest⟩ := redInt_greatest ht hne hA
    exact ⟨l, hl, heq, fun m hm => (elemKey_le_iff _ _ _ _).1 (hgreatest m hm)⟩
  · have hid : redIdentity t (3 : BitVec 4).toNat = (BitVec.allOnes (elemOf t).1).toNat :=
      (if_neg ht : _ = 2 ^ (elemOf t).1 - 1).trans BitVec.toNat_allOnes.symm
    rw [hid]
    exact foldl_eq_toNat (fun x y => (BitVec.toNat_and x y).symm) hA _
  · have hid : redIdentity t (4 : BitVec 4).toNat = (0 : BitVec (elemOf t).1).toNat := if_neg ht
    rw [hid]
    exact foldl_eq_toNat (fun x y => (BitVec.toNat_or x y).symm) hA 0
  · have hid : redIdentity t (5 : BitVec 4).toNat = (0 : BitVec (elemOf t).1).toNat := if_neg ht
    rw [hid]
    exact foldl_eq_toNat (fun x y => (BitVec.toNat_xor x y).symm) hA 0

/-- The identity of an integer operation, where a domain is empty (R158). -/
theorem redIdentity_int {t : LType} (ht : t ≠ .f32) (xop : BitVec 4) : redIdentity t xop.toNat
    = if xop = 1 then (if (elemOf t).2.2 then 2 ^ ((elemOf t).1 - 1) - 1 else 2 ^ (elemOf t).1 - 1)
      else if xop = 2 then (if (elemOf t).2.2 then 2 ^ ((elemOf t).1 - 1) else 0) else if xop = 3 then 2 ^ (elemOf t).1 - 1 else 0 := by
  have hdef : redIdentity t xop.toNat = match xop.toNat with
    | 1 => if (elemOf t).2.2 then 2 ^ ((elemOf t).1 - 1) - 1 else 2 ^ (elemOf t).1 - 1
    | 2 => if (elemOf t).2.2 then 2 ^ ((elemOf t).1 - 1) else 0
    | 3 => 2 ^ (elemOf t).1 - 1
    | _ => 0 := if_neg ht
  rw [hdef]
  by_cases h1 : xop = 1
  · rw [if_pos h1, h1]
    rfl
  by_cases h2 : xop = 2
  · rw [if_neg h1, if_pos h2, h2]
    rfl
  by_cases h3 : xop = 3
  · rw [if_neg h1, if_neg h2, if_pos h3, h3]
    rfl
  rw [if_neg h1, if_neg h2, if_neg h3]
  split
  next h => exact absurd (BitVec.eq_of_toNat_eq h) h1
  next h => exact absurd (BitVec.eq_of_toNat_eq h) h2
  next h => exact absurd (BitVec.eq_of_toNat_eq h) h3
  next => rfl

/-- The identity of an F32 operation, where a domain is empty (R158). -/
theorem redIdentity_f32 (xop : BitVec 4) :
    redIdentity .f32 xop.toNat = if xop = 1 then 0x7F800000 else if xop = 2 then 0xFF800000 else 0 := by
  revert xop
  decide

end Sys2Proof.Machine
end

section
/-!
SUPPORT. The cross-lane words, word by word (R156 to R161).
-/

namespace Sys2Proof.Machine

variable {s : State} {p : Path} {b : Block} {h : LaneHead} {x : AuxX}

/-- A cross-lane word that gives each lane a value leaves those values (R155). -/
theorem LaneReady.crossResult_writes {i : Instr} (hr : LaneReady s i p b) {hd : LaneHead} {cls : Nat} {ok : Team → Bool}
    (hok : ok s.cur = true) {src : LaneRun → Nat → List Nat} {f : LaneRun → LaneEnv → Nat → Nat × Flags5}
    (hexec : exec i s = .next (s.crossResult i hd cls ok src f)) {v : Nat → Nat}
    (hv : ∀ l ∈ s.lanesOn p i, f (s.laneRun i p b) (s.env b p) l = (v l, 0)) : LaneWrites s i p hd.d v :=
  ⟨_, hexec, (hr.crossResult_swept hok src f).congr fun l hl => by rw [hv l hl]⟩

/-- VSHFL gives each lane the A of the lane it draws on (R156). -/
theorem LaneReady.vshfl_writes (hr : LaneReady s (.vshfl h x) p b)
    (hok : x.imm12 = 0 ∨ (x.imm12.toNat ∈ [2, 4, 8, 16, 32, 64] ∧ x.imm12.toNat ≤ s.cur.kern.gwidth)) :
    LaneWrites s (.vshfl h x) p h.d (fun l => (s.env b p).val h.ty h.a (shuffleLane (s.env b p) h x l)) :=
  hr.crossResult_writes (ok := fun t => segmentOk x.imm12.toNat t.kern.gwidth) ((segmentOk_iff x.imm12 _).2 hok) rfl fun _ _ => rfl

/-- A VSHFL with another segment width faults its path (R117, R156). -/
theorem LaneReady.vshfl_faults (hr : LaneReady s (.vshfl h x) p b)
    (hok : ¬ (x.imm12 = 0 ∨ (x.imm12.toNat ∈ [2, 4, 8, 16, 32, 64] ∧ x.imm12.toNat ≤ s.cur.kern.gwidth))) :
    Gives (.vshfl h x) s (s.faultPath p codeIllegal 0) := by
  have hbad : segmentOk x.imm12.toNat s.cur.kern.gwidth = false := by
    rw [Bool.eq_false_iff, ne_eq, segmentOk_iff]
    exact hok
  show execVshfl h x s = _
  rw [execVshfl, State.crossResult, State.laneWord,
    hr.laneParts_of_illegal (ok := fun t => segmentOk x.imm12.toNat t.kern.gwidth) hbad]

/-- The GLANE a VSHFL reads, mode by mode (R156). -/
theorem shuffleFrom_eq (xop : BitVec 4) (w i k : Nat) : shuffleFrom xop.toNat w i k
    = if xop = 0 then i - i % w + k % w else if xop = 1 then (if k ≤ i - (i - i % w) then i - k else i)
      else if xop = 2 then (if i + k < i - i % w + w then i + k else i) else i - i % w + ((i - (i - i % w)) ^^^ (k % w)) := by
  by_cases h0 : xop = 0
  · rw [if_pos h0, h0]
    rfl
  by_cases h1 : xop = 1
  · rw [if_neg h0, if_pos h1, h1]
    rfl
  by_cases h2 : xop = 2
  · rw [if_neg h0, if_neg h1, if_pos h2, h2]
    rfl
  rw [if_neg h0, if_neg h1, if_neg h2, shuffleFrom]
  · exact fun h => h0 (BitVec.eq_of_toNat_eq h)
  · exact fun h => h1 (BitVec.eq_of_toNat_eq h)
  · exact fun h => h2 (BitVec.eq_of_toNat_eq h)

/-! ### Reductions and scans (R158 to R160) -/

/-- An integer reduction sets no flag (R158). -/
theorem redValue_int {t : LType} (ht : t ≠ .f32) (ftz : Bool) (xop : Nat) (terms : List Nat) :
    redValue t ftz xop terms = ((redValue t ftz xop terms).1, 0) := by
  rw [redValue, if_neg ht]

/-- What a reduction of each lane's own domain leaves (R155, R158, R159). -/
theorem LaneReady.reduced {i : Instr} (hr : LaneReady s i p b) {dom : Nat → List Nat}
    {f : LaneRun → LaneEnv → Nat → Nat × Flags5} {src : LaneRun → Nat → List Nat}
    (hexec : exec i s = .next (s.crossResult i h (classOf h.ty) (fun _ => true) src f))
    (hf : ∀ l, f (s.laneRun i p b) (s.env b p) l = redValue h.ty b.ftz x.xop.toNat ((dom l).map ((s.env b p).val h.ty h.a)))
    (hself : ∀ l ∈ s.lanesOn p i, dom l ≠ [])
    (hsub : ∀ l ∈ s.lanesOn p i, ∀ m ∈ dom l, m ∈ s.lanesOn p i)
    (hA : ∀ l ∈ s.lanesOn p i, (s.env b p).val h.ty h.a l < 2 ^ (elemOf h.ty).1) :
    (h.ty ≠ .f32 → ∃ v, LaneWrites s i p h.d v ∧ ∀ l ∈ s.lanesOn p i, Combined h.ty x.xop ((s.env b p).val h.ty h.a) (dom l) (v l))
      ∧ (h.ty = .f32 → ∃ t, Gives i s t ∧ Swept s t p (s.lanesOn p i) (fun l =>
          ((s.cur.lane l).write s.cur.code.mview h.d
              (redF32 (b.snap.fmode.getLsbD 3) x.xop.toNat ((dom l).map ((s.env b p).val h.ty h.a))).1,
            (redF32 (b.snap.fmode.getLsbD 3) x.xop.toNat ((dom l).map ((s.env b p).val h.ty h.a))).2))) := by
  refine ⟨fun ht => ⟨fun l => (redValue h.ty b.ftz x.xop.toNat ((dom l).map ((s.env b p).val h.ty h.a))).1, ?_, fun l hl => ?_⟩,
    fun ht => ⟨_, hexec, (hr.crossResult_swept rfl _ _).congr fun l _ => ?_⟩⟩
  · exact hr.crossResult_writes rfl hexec fun l _ => (hf l).trans (redValue_int ht _ _ _)
  · exact combined_redValue ht _ _ (hself l hl) fun m hm => hA m (hsub l hl m hm)
  · have hval : redValue h.ty b.ftz x.xop.toNat ((dom l).map ((s.env b p).val h.ty h.a)) = _ := if_pos ht
    exact congrArg (fun r : Nat × Flags5 => ((s.cur.lane l).write s.cur.code.mview h.d r.1, r.2)) ((hf l).trans hval)

/-- A VREDUCE with a result in each lane (R158). -/
theorem exec_vreduce_lanes (hd : ∀ r, h.d ≠ .s r) : exec (.vreduce h x) s
    = .next (s.crossResult (.vreduce h x) h (classOf h.ty) (fun _ => true) (fun _ l => [l]) (fun r e l =>
        redValue h.ty r.b.ftz x.xop.toNat ((r.act.filter (groupLanes e.t l).contains).map (e.val h.ty h.a)))) := by
  show execVreduce h x s = _
  rw [execVreduce]
  split
  next d hop => exact absurd hop (hd d)
  next => rfl

/-- A VVOTE with a result in each lane (R161). -/
theorem exec_vvote_lanes (hd : ∀ r, h.d ≠ .s r) : exec (.vvote h x) s
    = .next (s.crossResult (.vvote h x) h 8 (ballotOk h x) (fun _ l => [l]) (fun r e l =>
        (voteValue e x (r.act.filter (groupLanes e.t l).contains) (fun k => k % e.t.kern.gwidth), 0))) := by
  show execVvote h x s = _
  rw [execVvote]
  split
  next d hop => exact absurd hop (hd d)
  next => rfl

/-- What a VREDUCE makes of all its lanes (R158). -/
def scalarReduced (h : LaneHead) (x : AuxX) (r : LaneRun) : Nat × Flags5 :=
  if r.act.isEmpty then (redIdentity h.ty x.xop.toNat, 0) else redValue h.ty r.b.ftz x.xop.toNat (r.act.map (r.e.val h.ty h.a))

/-- A VREDUCE with an s result writes it (R158). -/
theorem LaneReady.vreduce_scalar (hr : LaneReady s (.vreduce h x) p b) {d : Reg} (hd : h.d = .s d) :
    ∃ t, Gives (.vreduce h x) s t
      ∧ SweptScalar s t p b d (toScalar h.ty (scalarReduced h x (s.laneRun (.vreduce h x) p b)).1) := by
  refine ⟨_, ?_, hr.crossScalar_swept (ok := fun _ => true) rfl (fun r s => crossReads s.cur.code.mview r h r.act) d
    (fun r => (toScalar h.ty (scalarReduced h x r).1, (scalarReduced h x r).2)) (classOf h.ty)⟩
  show execVreduce h x s = _
  have hpair (r : LaneRun) (u : State) (w : Nat × Flags5) : (let (v, fl) := w; u.crossScalar r d (toScalar h.ty v) fl (classOf h.ty))
      = u.crossScalar r d (toScalar h.ty w.1) w.2 (classOf h.ty) := rfl
  rw [execVreduce, hd]
  refine congrArg (fun f => Host.Outcome.next (s.laneWord (.vreduce h x) (fun _ => true) f)) (funext fun r => funext fun u => ?_)
  exact congrArg (u.laneCross r (crossReads u.cur.code.mview r h r.act)) (funext fun u => hpair r u (scalarReduced h x r))

/-- A VVOTE with an s result writes it (R161). -/
theorem LaneReady.vvote_scalar (hr : LaneReady s (.vvote h x) p b) {d : Reg} (hd : h.d = .s d) (hok : ballotOk h x s.cur = true) :
    ∃ t, Gives (.vvote h x) s t
      ∧ SweptScalar s t p b d (BitVec.ofNat 64 (voteValue (s.env b p) x (s.lanesOn p (.vvote h x)) (fun l => l))) := by
  refine ⟨_, ?_, hr.crossScalar_swept (ok := ballotOk h x) hok (fun r _ => r.act.map (fun l => (l, []))) d
    (fun r => (BitVec.ofNat 64 (voteValue r.e x r.act (fun l => l)), 0)) 8⟩
  show execVvote h x s = _
  rw [execVvote, hd]

/-- The value of a VREDUCE with an s result, by its type and by whether a lane is active (R158, R159). -/
theorem scalarReduced_eq (hA : ∀ l ∈ s.lanesOn p (.vreduce h x), (s.env b p).val h.ty h.a l < 2 ^ (elemOf h.ty).1) :
    (h.ty ≠ .f32 → s.lanesOn p (.vreduce h x) ≠ [] → Combined h.ty x.xop ((s.env b p).val h.ty h.a) (s.lanesOn p (.vreduce h x))
        (scalarReduced h x (s.laneRun (.vreduce h x) p b)).1)
      ∧ (h.ty = .f32 → s.lanesOn p (.vreduce h x) ≠ [] → (scalarReduced h x (s.laneRun (.vreduce h x) p b)).1
          = (redF32 (b.snap.fmode.getLsbD 3) x.xop.toNat ((s.lanesOn p (.vreduce h x)).map ((s.env b p).val h.ty h.a))).1)
      ∧ (s.lanesOn p (.vreduce h x) = [] → (scalarReduced h x (s.laneRun (.vreduce h x) p b)).1 = redIdentity h.ty x.xop.toNat) := by
  have hsome (hon : s.lanesOn p (.vreduce h x) ≠ []) : scalarReduced h x (s.laneRun (.vreduce h x) p b)
      = redValue h.ty b.ftz x.xop.toNat ((s.lanesOn p (.vreduce h x)).map ((s.env b p).val h.ty h.a)) :=
    if_neg fun hnil => hon (List.isEmpty_iff.1 hnil)
  refine ⟨fun ht hon => ?_, fun ht hon => ?_, fun hon => congrArg Prod.fst (if_pos (List.isEmpty_iff.2 hon))⟩
  · rw [hsome hon]
    exact combined_redValue ht _ _ hon hA
  · rw [hsome hon, redValue, if_pos ht]
    rfl

end Sys2Proof.Machine
end

section
open Sys2Proof Sys2Proof.Machine

/-- Settles O39: each word gathers its sources before it writes, so that a lane's result is a function of the state before
(`LaneReady.crossResult_swept`, `LaneReady.crossScalar_swept`), and the folds of R158 are those of bit vectors. -/
theorem crossLane : Obligations.CrossLane := by
  unfold Obligations.CrossLane
  intro s p b h x d
  dsimp only
  intro hg
  have hgroup (i : Instr) (l : Nat) : (s.lanesOn p i).filter (groupLanes s.cur l).contains
      = (s.lanesOn p i).filter (fun m => decide (m / s.cur.kern.gwidth = l / s.cur.kern.gwidth)) :=
    List.filter_congr fun m _ => groupLanes_contains hg l m
  refine ⟨fun hr hok => ?_, fun hr hok => hr.vshfl_faults hok, fun hr => ?_, fun hr hd hA => ?_, fun hr hd hA => ?_,
    fun hd hr hA => ?_, fun hd hr hok => ?_, fun hd hr hok => ?_⟩
  case refine_1 =>
    obtain ⟨t, hgives, hswept⟩ := hr.vshfl_writes hok
    refine ⟨t, hgives, hswept.congr fun l _ => ?_⟩
    simp only [shuffleLane, shuffleFrom_eq]
    rfl
  case refine_2 => exact hr.crossResult_writes rfl rfl fun _ _ => rfl
  case refine_3 =>
    refine hr.reduced (exec_vreduce_lanes hd) (fun l => ?_) (fun l hl => List.ne_nil_of_mem (List.mem_filter.2 ⟨hl, by simp⟩))
      (fun l _ m hm => List.mem_of_mem_filter hm) hA
    rw [← hgroup]
    rfl
  case refine_4 =>
    refine hr.reduced (src := fun _ l => [l]) (f := fun r e l => redValue h.ty r.b.ftz x.xop.toNat
        ((r.act.filter (fun k => (groupLanes e.t l).contains k && decide (k ≤ l))).map (e.val h.ty h.a))) rfl (fun l => ?_)
      (fun l hl => List.ne_nil_of_mem (List.mem_filter.2 ⟨List.mem_filter.2 ⟨hl, by simp⟩, by simp⟩))
      (fun l _ m hm => List.mem_of_mem_filter (List.mem_of_mem_filter hm)) hA
    have hdom : (s.lanesOn p (.vscan h x)).filter (fun k => (groupLanes s.cur l).contains k && decide (k ≤ l))
        = ((s.lanesOn p (.vscan h x)).filter (fun m => decide (m / s.cur.kern.gwidth = l / s.cur.kern.gwidth))).filter
          (fun m => decide (m ≤ l)) := by
      rw [← hgroup, List.filter_filter]
      exact List.filter_congr fun m _ => Bool.and_comm _ _
    rw [← hdom]
    rfl
  case refine_5 =>
    obtain ⟨t, hgives, hswept⟩ := hr.vreduce_scalar hd
    obtain ⟨hint, hf32, hnone⟩ := scalarReduced_eq hA
    refine ⟨_, t, hgives, hswept, hint, hf32, fun ht hon => (hnone hon).trans (redIdentity_int ht x.xop), fun ht hon => ?_⟩
    rw [hnone hon, ht, redIdentity_f32]
  case refine_6 =>
    obtain ⟨t, hgives, hswept⟩ := hr.vvote_scalar hd (ballotOk_of (fun _ h' => absurd hd (h' d)) fun _ _ => hok)
    obtain ⟨hall, hany, hbits⟩ := voteValue_eq (s.env b p) x (s.lanesOn p (.vvote h x)) (fun l => l)
    refine ⟨_, t, hgives, hswept, fun hx => ?_, fun hx => ?_, fun hx k hk => ?_⟩
    · rw [hall hx, apply_ite (BitVec.ofNat 64)]
      rfl
    · rw [hany hx, apply_ite (BitVec.ofNat 64)]
      rfl
    · rw [BitVec.getLsbD_ofNat, decide_eq_true hk, Bool.true_and, ← bitAt_eq_testBit, hbits hx]
      exact ⟨fun ⟨m, hm, hmk, hp⟩ => hmk ▸ ⟨hm, hp⟩, fun ⟨hm, hp⟩ => ⟨k, hm, rfl, hp⟩⟩
  case refine_7 =>
    refine ⟨fun l => voteValue (s.env b p) x
        ((s.lanesOn p (.vvote h x)).filter (fun m => decide (m / s.cur.kern.gwidth = l / s.cur.kern.gwidth)))
        (fun k => k % s.cur.kern.gwidth), hr.crossResult_writes (ok := ballotOk h x)
      (ballotOk_of (fun hx _ => hok hx) fun d' h' => absurd h' (hd d')) (exec_vvote_lanes hd) fun l _ => ?_,
      fun l => voteValue_eq (s.env b p) x _ _⟩
    rw [← hgroup]
    rfl

end

section
/-!
SUPPORT. What an atomic makes of the old value (R249 to R251).
-/

namespace Sys2Proof.Machine

/-- The order of two elements of a type, as R250 compares them. -/
theorem elemInt_le_iff (t : LType) {a b : Nat} (ha : a < 2 ^ (elemOf t).1) (hb : b < 2 ^ (elemOf t).1) :
    elemInt (elemOf t).2.2 (elemOf t).1 a 0 ≤ elemInt (elemOf t).2.2 (elemOf t).1 b 0
      ↔ (if (elemOf t).2.2 then (BitVec.ofNat (elemOf t).1 a).sle (BitVec.ofNat (elemOf t).1 b) else decide (a ≤ b)) = true := by
  rw [elemInt_zero (elemOf_bits_pos t), elemInt_zero (elemOf_bits_pos t), elemKey_le_iff]
  cases (elemOf t).2.2 with
  | true => exact BitVec.sle_iff_toInt_le.symm
  | false =>
    rw [if_neg Bool.false_ne_true, if_neg Bool.false_ne_true, decide_eq_true_iff, BitVec.toNat_ofNat, BitVec.toNat_ofNat,
      Nat.mod_eq_of_lt ha, Nat.mod_eq_of_lt hb]

/-- The element of two that R250 picks: the smaller one, or the larger one. -/
def atomPick (t : LType) (isMax : Bool) (old c : Nat) : Nat :=
  if (elemInt (elemOf t).2.2 (elemOf t).1 old 0 ≤ elemInt (elemOf t).2.2 (elemOf t).1 c 0) == isMax then c else old

theorem atomPick_or (t : LType) (isMax : Bool) (old c : Nat) : atomPick t isMax old c = old ∨ atomPick t isMax old c = c := by
  rw [atomPick]
  split
  · exact .inr rfl
  · exact .inl rfl

/-- The smaller of two elements is at most both. -/
theorem atomPick_min_le (t : LType) (old c : Nat) :
    elemInt (elemOf t).2.2 (elemOf t).1 (atomPick t false old c) 0 ≤ elemInt (elemOf t).2.2 (elemOf t).1 old 0
      ∧ elemInt (elemOf t).2.2 (elemOf t).1 (atomPick t false old c) 0 ≤ elemInt (elemOf t).2.2 (elemOf t).1 c 0 := by
  by_cases hle : elemInt (elemOf t).2.2 (elemOf t).1 old 0 ≤ elemInt (elemOf t).2.2 (elemOf t).1 c 0
  · simp [atomPick, hle]
  · simp [atomPick, hle, (not_le.1 hle).le]

/-- Both elements are at most the larger one. -/
theorem le_atomPick_max (t : LType) (old c : Nat) :
    elemInt (elemOf t).2.2 (elemOf t).1 old 0 ≤ elemInt (elemOf t).2.2 (elemOf t).1 (atomPick t true old c) 0
      ∧ elemInt (elemOf t).2.2 (elemOf t).1 c 0 ≤ elemInt (elemOf t).2.2 (elemOf t).1 (atomPick t true old c) 0 := by
  by_cases hle : elemInt (elemOf t).2.2 (elemOf t).1 old 0 ≤ elemInt (elemOf t).2.2 (elemOf t).1 c 0
  · simp [atomPick, hle]
  · simp [atomPick, hle, (not_le.1 hle).le]

/-- An integer atomic, operation by operation (R249, R250). -/
theorem atomValue_int {h : LaneHead} (ht : h.ty ≠ .f32) (x : AuxM) (old c e : Nat) :
    (x.aop = .add → atomValue (.vatom h x) old c e = (some ((old + c) % 2 ^ (elemOf h.ty).1), 0))
      ∧ (x.aop = .and → atomValue (.vatom h x) old c e = (some (old &&& c), 0))
      ∧ (x.aop = .or → atomValue (.vatom h x) old c e = (some (old ||| c), 0))
      ∧ (x.aop = .xor → atomValue (.vatom h x) old c e = (some (old ^^^ c), 0))
      ∧ (x.aop = .min → atomValue (.vatom h x) old c e = (some (atomPick h.ty false old c), 0))
      ∧ (x.aop = .max → atomValue (.vatom h x) old c e = (some (atomPick h.ty true old c), 0))
      ∧ (x.aop = .swap → atomValue (.vatom h x) old c e = (some c, 0)) := by
  refine ⟨fun hx => ?_, fun hx => ?_, fun hx => ?_, fun hx => ?_, fun hx => ?_, fun hx => ?_, fun hx => ?_⟩ <;>
  simp only [atomValue, if_neg ht, hx, atomPick]

end Sys2Proof.Machine
end

section
open Sys2Proof Sys2Proof.Machine

/-- Settles O45: operation by operation; the smaller and the larger value are found by the order of the type's elements. -/
theorem atomicValues : Obligations.AtomicValues := by
  unfold Obligations.AtomicValues
  intro h x old c e
  refine ⟨rfl, fun ht ho hc => ?_, fun ht hx => ?_, fun ht hx => ?_⟩
  · obtain ⟨hadd, hand, hor, hxor, hmin, hmax, hswap⟩ := atomValue_int ht x old c e
    have hpick (isMax : Bool) : atomPick h.ty isMax old c < 2 ^ (elemOf h.ty).1 := by
      rcases atomPick_or h.ty isMax old c with heq | heq <;> rw [heq] <;> assumption
    cases hx : x.aop with
    | add => exact ⟨_, hadd hx, Nat.mod_lt _ (Nat.two_pow_pos _), rfl⟩
    | and => exact ⟨_, hand hx, Nat.and_lt_two_pow _ hc, rfl⟩
    | or => exact ⟨_, hor hx, Nat.or_lt_two_pow ho hc, rfl⟩
    | xor => exact ⟨_, hxor hx, Nat.xor_lt_two_pow ho hc, rfl⟩
    | swap => exact ⟨_, hswap hx, hc, rfl⟩
    | min =>
      obtain ⟨hold, hnew⟩ := atomPick_min_le h.ty old c
      exact ⟨_, hmin hx, hpick false, atomPick_or _ _ _ _, (elemInt_le_iff _ (hpick false) ho).1 hold,
        (elemInt_le_iff _ (hpick false) hc).1 hnew⟩
    | max =>
      obtain ⟨hold, hnew⟩ := le_atomPick_max h.ty old c
      exact ⟨_, hmax hx, hpick true, atomPick_or _ _ _ _, (elemInt_le_iff _ ho (hpick true)).1 hold,
        (elemInt_le_iff _ hc (hpick true)).1 hnew⟩
  · simp only [atomValue, if_pos ht, hx]
  · simp only [atomValue, if_pos ht, hx]

end

section
open Sys2Proof Sys2Proof.Machine

/-- Settles O58: field by field of the state at reset. -/
theorem resetHolds : Obligations.ResetHolds := by
  unfold Obligations.ResetHolds
  intro s
  refine ⟨rfl, rfl, rfl, rfl, rfl, rfl, rfl, rfl, rfl, fun _ => rfl, fun _ => rfl, ?_, ?_, ?_, rfl, rfl, rfl, rfl, rfl, rfl, rfl, rfl,
    rfl, rfl, rfl, ?_, ?_⟩ <;> decide

end

section
/-!
SUPPORT. What a turn comes to (R448): the fetch of each agent, and that every instruction goes on.
-/

namespace Sys2Proof.Machine

/-- A host's access to a package goes on, whatever it names (R208, R438). -/
theorem execHostMemoryAccess_next (site off : Nat) (acc : HostAccess) (s : State) :
    ∃ t, execHostMemoryAccess site off acc s = .next t := by
  rw [execHostMemoryAccess]
  split
  next => exact ⟨_, rfl⟩
  next x hx =>
    split_ifs with hdown hwin
    · exact ⟨_, rfl⟩
    · exact ⟨_, rfl⟩
    cases acc with
    | read n => exact ⟨_, rfl⟩
    | write bs =>
      dsimp only [ringDoorbell]
      split_ifs <;> exact ⟨_, rfl⟩

/-- Every instruction goes on: a trap, a fault or a wait is a state too. -/
theorem exec_next (i : Instr) (s : State) : ∃ t, exec i s = .next t := by
  cases i with
  | hostMemoryAccess site off acc => exact execHostMemoryAccess_next site off acc s
  | _ => exact ⟨_, rfl⟩

/-- A step goes on, or finds nobody there to move. -/
theorem step_goes_or_nobody (s : State) : Goes s ∨ step s = .fault .noSuchAgent := by
  rw [Goes, step]
  cases s.nextTurn.2.fetchTurn s.nextTurn.1 with
  | run i t => exact .inl (exec_next i t)
  | stay t => exact .inl ⟨t, rfl⟩
  | nobody => exact .inr rfl

/-- A step with a turn on the agenda takes it. -/
theorem step_of_turn {s : State} {rest : List Turn} {dt : Nat} {b : Act} (h : s.agenda = { dt := dt, act := b } :: rest) :
    step s = runFetched ((State.arriveReady (State.elapse { s with agenda := rest } dt)).fetchAct b) := by
  rw [step, State.nextTurn, h]
  rfl

/-! ### The scalar stream (R42, R53, R338) -/

variable {s : State} {c : Nat} {w : Word32} {i : Instr} {e : DecodeError}

/-- A running team that nothing holds back, with no invocation to enter, fetches the word at SPC. -/
theorem State.fetchScalar_free (hrun : s.cur.status = .running) (hev : s.cur.evWait = false) (hhalt : s.halted s.cur.ctx = false)
    (hpend : s.cur.pendf = []) (hwants : s.cur.wantsHandler = false) (hwait : ∀ h, s.cur.wait ≠ some (.host h)) :
    (∀ w i, s.fetchWord s.cur.spc.toNat = .ok w → decodeScalar w = .ok i → s.fetchScalar = .run i s)
      ∧ (∀ w e, s.fetchWord s.cur.spc.toNat = .ok w → decodeScalar w = .error e → s.fetchScalar = .stay s.illegal)
      ∧ (∀ c, s.fetchWord s.cur.spc.toNat = .error c → s.fetchScalar
          = .stay (if isAwait c = true then s.askFar (.code s.cur.uid) c else s.trap c s.cur.spc)) := by
  have hgo : s.fetchScalar = match s.cur.wait with
      | some (.host _) => .stay s
      | _ => match s.fetchWord s.cur.spc.toNat with
        | .error c => .stay (if isAwait c then s.askFar (.code s.cur.uid) c else s.trap c s.cur.spc)
        | .ok w => match decodeScalar w with
          | .error _ => .stay s.illegal
          | .ok i => .run i s := by
    simp only [State.fetchScalar, hrun, hev, hhalt, hpend, hwants]
    rfl
  have hfree : s.fetchScalar = match s.fetchWord s.cur.spc.toNat with
      | .error c => .stay (if isAwait c then s.askFar (.code s.cur.uid) c else s.trap c s.cur.spc)
      | .ok w => match decodeScalar w with
        | .error _ => .stay s.illegal
        | .ok i => .run i s := by
    rw [hgo]
    split
    next h heq => exact absurd heq (hwait h)
    next => rfl
  refine ⟨fun w i hw hi => ?_, fun w e hw he => ?_, fun c hc => ?_⟩
  · rw [hfree, hw]
    simp only [hi]
  · rw [hfree, hw]
    simp only [he]
  · rw [hfree, hc]

/-- A team in user mode enters a handler that waits before it goes on (R338). -/
theorem State.fetchScalar_handler (hrun : s.cur.status = .running) (hev : s.cur.evWait = false) (hhalt : s.halted s.cur.ctx = false)
    (hpend : s.cur.pendf = []) (hwants : s.cur.wantsHandler = true) (hsent : s.cur.sent = []) :
    s.fetchScalar = .run .handlerEntry s := by
  simp only [State.fetchScalar, hrun, hev, hhalt, hpend, hwants, hsent]
  rfl

/-! ### Fetched words (R20, R212) -/

/-- A number of `n` bytes is below `256 ^ n`. -/
theorem natOf_lt (bs : List Byte) : natOf bs < 256 ^ bs.length := by
  induction bs with
  | nil => exact Nat.one_pos
  | cons b bs ih =>
    have hb : b.toNat < 256 := b.isLt
    rw [natOf, List.length_cons, Nat.pow_succ]
    omega

/-- A word fetched in this package passed its checks and is what stands there, if its line is not packed. -/
theorem State.fetchWord_here {a : Nat} (hpkg : bitsNat a 59 54 = s.ownPkg) (hw : s.fetchWord a = .ok w) : s.fetchCheck a false = none
    ∧ ∃ l, s.ownerCheck s.cur.ctx (bitsNat a 53 48) (bitsNat a 47 0) .fetch 0 = .ok l
      ∧ (s.packState l.key = 0 → w.toNat = natOf (s.mem.getBytes l.key 4)) := by
  rw [State.fetchWord] at hw
  cases hcheck : s.fetchCheck a false with
  | some c =>
    rw [hcheck] at hw
    cases hw
  | none =>
    rw [hcheck] at hw
    simp only [if_pos hpkg] at hw
    cases hl : s.ownerCheck s.cur.ctx (bitsNat a 53 48) (bitsNat a 47 0) .fetch 0 with
    | error c =>
      rw [hl] at hw
      cases hw
    | ok l =>
      rw [hl] at hw
      refine ⟨rfl, l, rfl, fun hplain => ?_⟩
      have hread : s.readLine l.cmp l.key 4 = (s.mem.getBytes l.key 4, s) := by
        simp only [State.readLine, hplain, true_or, if_true]
      have heq : w = BitVec.ofNat 32 (natOf (s.mem.getBytes l.key 4)) := by
        simp only [hread] at hw
        exact (Except.ok.inj hw).symm
      rw [heq, BitVec.toNat_ofNat, Nat.mod_eq_of_lt]
      exact (natOf_lt _).trans_eq (by rw [Memory.length_getBytes]; rfl)

/-- A lane word is made of three words of the code, in memory order (R111). -/
theorem State.fetchLane_words {a : Nat} {x : BitVec 96} (h : s.fetchLane a = .ok x) : a < s.cur.code.lcount
    ∧ s.fetchWord (s.cur.code.lbase.toNat + 12 * a) = .ok (x.extractLsb' 0 32)
    ∧ s.fetchWord (s.cur.code.lbase.toNat + 12 * a + 4) = .ok (x.extractLsb' 32 32)
    ∧ s.fetchWord (s.cur.code.lbase.toNat + 12 * a + 8) = .ok (x.extractLsb' 64 32) := by
  rw [State.fetchLane] at h
  split at h
  next => cases h
  next hlt =>
    dsimp only at h
    split at h
    next x0 x1 x2 h0 h1 h2 =>
      cases h
      rw [h0, h1, h2]
      refine ⟨Nat.lt_of_not_le hlt, ?_, ?_, ?_⟩
      · exact congrArg Except.ok ((extractLsb'_append_low (x2 ++ x1) x0 0 32 (by decide)).trans (extractLsb'_whole x0)).symm
      · exact congrArg Except.ok (((extractLsb'_append_high (x2 ++ x1) x0 32 32 (by decide)).trans
          (extractLsb'_append_low x2 x1 0 32 (by decide))).trans (extractLsb'_whole x1)).symm
      · exact congrArg Except.ok (((extractLsb'_append_high (x2 ++ x1) x0 64 32 (by decide)).trans
          (extractLsb'_append_high x2 x1 32 32 (by decide))).trans (extractLsb'_whole x2)).symm
    all_goals cases h

/-! ### The lane stream (R87, R90, R163) -/

/-- What the lane stream of a team does whose current path can go on, in order: its turn ends, the spin detector flags it, the watchdog
reaches it, or its next word runs. -/
theorem State.fetchLaneWord_free {part : Option Nat} {p : Path} {o : State} (ho : s.setCur (fun t => t.offer part) = o)
    (hrun : o.cur.status = .running) (hev : o.cur.evWait = false) (hhalt : o.halted o.cur.ctx = false)
    (hwants : o.cur.wantsHandler = false) (hpend : o.cur.pendf = []) (hlate : o.lateFaults.1 = []) (hp : o.cur.current = some p) :
    (p.slice + p.hold = 0 → s.fetchLaneWord part = .run .sliceExpiry o)
      ∧ (0 < p.slice + p.hold → o.cur.flagged = true → s.fetchLaneWord part = .run .spinDetectorFlag o)
      ∧ (0 < p.slice + p.hold → o.cur.flagged = false → o.cur.wdogDue p = true → s.fetchLaneWord part = .run (.watchdogFire p.idx) o)
      ∧ (0 < p.slice + p.hold → o.cur.flagged = false → o.cur.wdogDue p = false →
          (∀ x i, o.fetchLane p.ip = .ok x → decodeLane x = .ok i → s.fetchLaneWord part
              = if isControl i && p.skipLeft != 0 then .stay (o.faultPath p codeIllegal 0) else .run i o)
          ∧ (∀ x e, o.fetchLane p.ip = .ok x → decodeLane x = .error e → s.fetchLaneWord part = .stay (o.faultPath p codeIllegal 0))
          ∧ (∀ c, o.fetchLane p.ip = .error c → s.fetchLaneWord part = .stay (if isAwait c = true then o.askFar (.code o.cur.uid) c
              else o.faultPath p c (if c = codeIllegal then 0 else BitVec.ofNat 64 (o.cur.code.lbase.toNat + 12 * p.ip))))) := by
  refine ⟨fun hturn => ?_, fun hturn hflag => ?_, fun hturn hflag hdue => ?_, fun hturn hflag hdue =>
    ⟨fun x i hx hi => ?_, fun x e hx he => ?_, fun c hc => ?_⟩⟩
  · simp only [State.fetchLaneWord, ho, hrun, hev, hhalt, hwants, hpend, hlate, hp, hturn]
    rfl
  · simp only [State.fetchLaneWord, ho, hrun, hev, hhalt, hwants, hpend, hlate, hp, hturn.ne', hflag]
    rfl
  · simp only [State.fetchLaneWord, ho, hrun, hev, hhalt, hwants, hpend, hlate, hp, hturn.ne', hflag, hdue]
    rfl
  · simp only [State.fetchLaneWord, ho, hrun, hev, hhalt, hwants, hpend, hlate, hp, hturn.ne', hflag, hdue, hx, hi]
    rfl
  · simp only [State.fetchLaneWord, ho, hrun, hev, hhalt, hwants, hpend, hlate, hp, hturn.ne', hflag, hdue, hx, he]
    rfl
  · simp only [State.fetchLaneWord, ho, hrun, hev, hhalt, hwants, hpend, hlate, hp, hturn.ne', hflag, hdue, hc]
    rfl

/-- Withholding slots of a turn changes nothing of a team but its paths. -/
theorem Team.offer_eq (t : Team) (part : Option Nat) : ∃ ps, t.offer part = { t with paths := ps } := by
  rw [Team.offer]
  split
  · exact ⟨t.paths, rfl⟩
  · exact ⟨_, rfl⟩

/-! ### The host command ring (R439) -/

/-- The next command of a ring is held and runs where its slot was read valid and its header is well-formed. -/
theorem State.fetchCommand_of_valid {site : Nat} {y : Site} (hsite : FMap.get? s.sites site = some y) (hseen : y.rd ∈ y.seen)
    (hup : 6 ≤ s.bringup) (hcmd : hostCommand (bitsNat (s.mem.getNat (ringSlot site y.rd) 8) 7 0) = some i)
    (hgm : i = .grandmaster ∨ 8 ≤ s.bringup) (hhead : commandHeaderOk (s.mem.getNat (ringSlot site y.rd) 8) = true) :
    s.fetchCommand site = .run i { s with
      hcmd := {
        site := site
        ctx := bitsNat (s.mem.getNat (ringSlot site y.rd) 8) 47 32
        params := (upTo 1 7).map (fun j => BitVec.ofNat 64 (s.mem.getNat (ringSlot site y.rd + 8 * j) 8)) } } := by
  have hvalid : ¬ ((!y.seen.contains y.rd) = true ∨ s.bringup < 6) := by
    rw [not_or, Bool.not_eq_true', Bool.not_eq_false, List.contains_iff_mem]
    exact ⟨hseen, Nat.not_lt.2 hup⟩
  have hlocked : ¬ (s.bringup < 8 ∧ i ≠ .grandmaster) := by
    rintro ⟨hlow, hne⟩
    exact hgm.elim hne fun h => Nat.not_lt.2 h hlow
  simp only [State.fetchCommand, hsite, if_neg hvalid, hcmd, if_neg hlocked, hhead, Bool.not_true, Bool.false_eq_true, if_false]

/-! ### The default turn -/

theorem nth_mem {α : Type} (d : α) : ∀ (xs : List α) (k : Nat), k < xs.length → nth d xs k ∈ xs
  | _ :: _, 0, _ => List.mem_cons_self
  | x :: xs, k + 1, h => List.mem_cons_of_mem x (nth_mem d xs k (Nat.lt_of_succ_lt_succ h))

/-- Where the agenda is empty one of the movers takes a turn of one tick. -/
theorem step_of_no_turn (h : s.agenda = []) :
    ∃ b, step s = step { s with agenda := [{ dt := 1, act := b }] } ∧ (s.movers ≠ [] → b ∈ s.movers) := by
  refine ⟨nth Act.idle s.movers (s.gtc % s.movers.length), ?_, fun hne =>
    nth_mem _ _ _ (Nat.mod_lt _ (List.length_pos_iff.2 hne))⟩
  have hself : { s with agenda := [] } = s := by
    rw [← h]
  rw [step_of_turn (s := { s with agenda := [{ dt := 1, act := _ }] }) rfl, step, State.nextTurn, h]
  exact congrArg (fun u => runFetched (State.fetchTurn u _)) hself.symm

end Sys2Proof.Machine
end

section
open Sys2Proof Sys2Proof.Machine

/-- Settles O59: a turn on the agenda is the fetch of its agent in the state after the time of the turn, and each agent's fetch is
read off its definition in the order of its checks. -/
theorem stepRunsDecoded : Obligations.StepRunsDecoded := by
  unfold Obligations.StepRunsDecoded
  intro s rest dt uid site a i w x p c e y part v u can turn free o k word par holding
  refine ⟨fun ht hcan hfree hw => ?_, fun ht hcan hfree hc => ?_, fun ht hcan hpend hwants hsent => ?_,
    fun w hpkg hw => State.fetchWord_here hpkg hw, fun ht hcan hwants hpend hlate hp => ?_, State.fetchLane_words, fun ht ha hrun hi => ?_,
    fun ht ha hrun => ?_, fun ht hev hteam => ?_, fun ht hev hteam hthere => ?_, fun ht hsite hseen hup hcmd hgm hhead => ?_, fun ht => ?_,
    step_of_no_turn, step_goes_or_nobody s⟩
  case refine_1 =>
    obtain ⟨hthere, hrun, hev, hhalt⟩ := hcan
    obtain ⟨hpend, hwants, hwait⟩ := hfree
    obtain ⟨hok, hbad, -⟩ := State.fetchScalar_free (s := u) hrun hev hhalt hpend hwants hwait
    have hstep : step s = runFetched u.fetchScalar := (step_of_turn ht).trans (congrArg runFetched (if_pos hthere))
    refine ⟨fun hi => ?_, fun he => ?_⟩
    · rw [hstep, hok w i hw hi]
      rfl
    · rw [hstep, hbad w e hw he]
      rfl
  case refine_2 =>
    obtain ⟨hthere, hrun, hev, hhalt⟩ := hcan
    obtain ⟨hpend, hwants, hwait⟩ := hfree
    obtain ⟨-, -, hfail⟩ := State.fetchScalar_free (s := u) hrun hev hhalt hpend hwants hwait
    have hstep : step s = runFetched u.fetchScalar := (step_of_turn ht).trans (congrArg runFetched (if_pos hthere))
    rw [hstep, hfail c hc]
    rfl
  case refine_3 =>
    obtain ⟨hthere, hrun, hev, hhalt⟩ := hcan
    have hstep : step s = runFetched u.fetchScalar := (step_of_turn ht).trans (congrArg runFetched (if_pos hthere))
    rw [hstep, State.fetchScalar_handler hrun hev hhalt hpend hwants hsent]
    rfl
  case refine_4 =>
    obtain ⟨hthere, hrun, hev, hhalt⟩ := hcan
    have hstep : step s = runFetched (u.fetchLaneWord part) := by
      cases part with
      | none => exact (step_of_turn ht).trans (congrArg runFetched (if_pos hthere))
      | some n => exact (step_of_turn ht).trans (congrArg runFetched (if_pos hthere))
    obtain ⟨ps, hoffer⟩ := u.cur.offer_eq part
    have hcur : o.cur = { u.cur with paths := ps } := hoffer
    have hhalted : o.halted o.cur.ctx = false := by
      rw [hcur]
      exact hhalt
    obtain ⟨hend, hspin, hdog, hword⟩ := State.fetchLaneWord_free (s := u) (o := o) (part := part) rfl (by rw [hcur]; exact hrun)
      (by rw [hcur]; exact hev) hhalted hwants hpend hlate hp
    rw [hstep]
    refine ⟨fun h0 => by rw [hend h0]; rfl, fun h0 hf => by rw [hspin h0 hf]; rfl, fun h0 hf hd => by rw [hdog h0 hf hd]; rfl,
      fun h0 hf hd => ?_⟩
    obtain ⟨hok, hbad, hfail⟩ := hword h0 hf hd
    refine ⟨fun hx => ⟨fun hi hcontrol => ?_, fun hi hcontrol hskip => ?_, fun he => by rw [hbad x e hx he]; rfl⟩,
      fun hc => by rw [hfail c hc]; rfl⟩
    · have hallowed : ¬ (isControl i && p.skipLeft != 0) = true := by
        rcases hcontrol with hno | hno <;> simp [hno]
      rw [hok x i hx hi, if_neg hallowed]
      rfl
    · have hshadow : (isControl i && p.skipLeft != 0) = true := by simp [hcontrol, hskip]
      rw [hok x i hx hi, if_pos hshadow]
      rfl
  case refine_5 =>
    have hfetch : v.fetchSumac a = .run i (v.focusRun a) := by
      simp only [State.fetchSumac, if_neg (Nat.not_le.2 ha), hrun, if_true, hi]
    exact (step_of_turn ht).trans (congrArg runFetched hfetch)
  case refine_6 =>
    have hfetch : v.fetchSumac a = .stay ((v.focusRun a).nextRun a) := by
      simp only [State.fetchSumac, if_neg (Nat.not_le.2 ha), hrun, Bool.false_eq_true, if_false]
    exact (step_of_turn ht).trans (congrArg runFetched hfetch)
  case refine_7 =>
    have hfetch : v.fetchAct (.event uid i) = .run i v := by
      simp only [State.fetchAct, hev, hteam, Bool.not_true, Bool.false_eq_true, if_false]
    exact (step_of_turn ht).trans (congrArg runFetched hfetch)
  case refine_8 =>
    have hfetch : v.fetchAct (.event uid i) = .run i u := by
      simp only [State.fetchAct, hev, hteam, hthere, Bool.not_true, Bool.false_eq_true, if_false, if_true]
      rfl
    exact (step_of_turn ht).trans (congrArg runFetched hfetch)
  case refine_9 =>
    have hfetch : v.fetchCommand site = .run i (holding v) := v.fetchCommand_of_valid hsite hseen hup hcmd hgm hhead
    exact (step_of_turn ht).trans (congrArg runFetched hfetch)
  case refine_10 => exact step_of_turn ht

end

section
/-!
SUPPORT. A path at a JOIN in the shadow of a SKIP that leaves no lane active: its word issues no pass (R163).
-/

namespace Sys2Proof.Machine

/-- The block of the path. -/
def shadowBlock : Block :=
  { seq := 0, entry := 0, snap := { s := Team.launch.sregs, fmode := 0, pkr := 0, seed := none }, pend := 0, lanes := [0], handler := false, arr := 0 }

/-- A path of one lane, removed by a shadow of one word. -/
def shadowPath : Path := { Path.make 0 0 [0] with state := .current, skipLanes := [0], skipLeft := 1 }

/-- A team whose current path is that one. -/
def shadowState : State :=
  { State.reset with
    cur := { Team.launch with
      status := .running, lanes := [Lane.launch 0 0], paths := [shadowPath], curPath := some 0, block := some shadowBlock } }

/-- A JOIN without operands. -/
def shadowJoin : LaneHead := { g := ⟨false, 7⟩, ty := .i32, d := .none, a := .none, b := .none, c := .none }

theorem shadowState_ready : LaneReady shadowState (.join shadowJoin) shadowPath shadowBlock where
  path := by decide
  only q hq _ := List.mem_singleton.1 hq
  current := rfl
  start := by decide
  turn := by decide
  quiet := by decide
  running := rfl
  block := rfl
  indices := by decide
  free := by decide
  lanes := by decide
  clean l := by
    cases l with
    | zero => exact ⟨rfl, rfl, rfl, rfl⟩
    | succ l => exact ⟨rfl, rfl, rfl, rfl⟩

/-- The slots left to path 0 of the focused team. -/
def slotsAfter (o : Out) : Option Nat :=
  match o with
  | .next u => (u.cur.path? 0).map Path.slice
  | _ => none

end Sys2Proof.Machine
end

section
open Sys2Proof Sys2Proof.Machine

/-- Refutes O40: a JOIN of `shadowState`, in whose shadow no lane is active, issues no pass, so that its path keeps every slot of its
turn. -/
theorem not_laneControl : ¬ Obligations.LaneControl := by
  unfold Obligations.LaneControl
  intro h
  obtain ⟨-, -, -, hjoin, -⟩ := h shadowState shadowPath shadowBlock shadowJoin ⟨false, 0⟩ ⟨false, 7⟩ 0 .none
  obtain ⟨u, hgo, -⟩ := hjoin shadowState_ready
  obtain ⟨hu, q, hq, -, -, hslice, -⟩ := hgo rfl
  have hkept : ((u.cur.path? 0).map Path.slice) = some 4096 := by
    have hslots : slotsAfter (exec (.join shadowJoin) shadowState) = some 4096 := by decide
    rwa [hu] at hslots
  have hspent : ((u.cur.path? 0).map Path.slice) = some 4095 := by
    rw [show u.cur.path? 0 = some q from hq, Option.map_some, hslice]
    decide
  exact absurd (hkept.symm.trans hspent) (by decide)

end

section
/-!
SUPPORT. The arrival of a path at a barrier (R254): which lanes complete instances release, and what is left of the path.
-/

namespace Sys2Proof.Machine

/-! ### The path table -/

/-- Paths changed in place keep their indices. -/
theorem Team.path?_mapPaths (t : Team) (k : Nat) {f : Path → Path} (hf : ∀ p : Path, (f p).idx = p.idx) :
    ({ t with paths := t.paths.map f } : Team).path? k = (t.path? k).map f := by
  have hsame : ((fun p : Path => p.idx == k) ∘ f) = fun p => p.idx == k := funext fun p => congrArg (· == k) (hf p)
  show (t.paths.map f).find? (fun p => p.idx == k) = (t.paths.find? (fun p => p.idx == k)).map f
  rw [List.find?_map, hsame]

/-- A change of one path leaves the others. -/
theorem Team.path?_setPath_other (t : Team) {i k : Nat} (hne : k ≠ i) {f : Path → Path}
    (hf : ∀ p : Path, (f p).idx = p.idx := by exact fun _ => rfl) :
    (t.setPath i f).path? k = t.path? k := by
  rw [Team.path?_setPath t i k f hf]
  cases hq : t.path? k with
  | none => rfl
  | some q =>
    have hidx : q.idx = k := by simpa using List.find?_some hq
    rw [Option.map_some, if_neg]
    rw [hidx, beq_iff_eq]
    exact hne

/-- A change of one path is read back. -/
theorem Team.path?_setPath_same {t : Team} {k : Nat} {p : Path} (hp : t.path? k = some p) {f : Path → Path}
    (hf : ∀ p : Path, (f p).idx = p.idx := by exact fun _ => rfl) : (t.setPath k f).path? k = some (f p) := by
  have hidx : p.idx = k := by simpa using List.find?_some hp
  rw [Team.path?_setPath t k k f hf, hp, Option.map_some, if_pos (beq_iff_eq.2 hidx)]

/-- Paths woken beside a current path go to the ready order (R87); no other path changes. -/
theorem wakeAll_others (is : List Nat) (t : Team) {c : Nat} (hc : t.curPath = some c) : ∃ paths ready,
    wakeAll is t = { t with paths := paths, ready := ready } ∧ ∀ k, k ∉ is → (wakeAll is t).path? k = t.path? k := by
  induction is generalizing t with
  | nil => exact ⟨t.paths, t.ready, rfl, fun _ _ => rfl⟩
  | cons i is ih =>
    have hwake : (t.setPath i (fun p => { p with park := none, ip := p.ip + 1 })).enqueue i
        = { (t.setPath i (fun p => { p with park := none, ip := p.ip + 1 })).setPath i (fun p => { p with state := .ready }) with
            ready := t.ready ++ [i] } := by
      rw [Team.enqueue]
      split
      next h => exact absurd (h.symm.trans hc) (by simp)
      next => rfl
    obtain ⟨paths, ready, heq, hkeep⟩ := ih ((t.setPath i (fun p => { p with park := none, ip := p.ip + 1 })).enqueue i) (by
      rw [hwake]
      exact hc)
    rw [wakeAll]
    refine ⟨paths, ready, by rw [heq, hwake]; rfl, fun k hk => ?_⟩
    obtain ⟨hne, hmem⟩ := not_or.1 (fun h => hk (List.mem_cons.2 h))
    rw [hkeep k hmem, hwake]
    exact (Team.path?_setPath_other _ hne).trans (t.path?_setPath_other hne)

/-- The next path that becomes current is not one that has left (R87). -/
theorem Team.path?_leave_pickNext {t : Team} {k : Nat} {p : Path} {st : PathState} (hp : t.path? k = some p) (hc : t.curPath = some k) :
    ((t.leave k st).pickNext).path? k = some { p with state := st } := by
  have hleft : (t.leave k st).path? k = some { p with state := st } := Team.path?_setPath_same hp
  have hnone : (t.leave k st).curPath = none := if_pos hc
  rw [Team.pickNext]
  split
  next i h => exact absurd (h.symm.trans hnone) (by simp)
  next =>
    split
    next => exact hleft
    next i is hready =>
      have hmem : i ∈ t.ready.filter (fun j => j != k) := by
        rw [show t.ready.filter (fun j => j != k) = i :: is from hready]
        exact List.mem_cons_self
      have hne : k ≠ i := fun h => by simp [h] at hmem
      exact ((t.leave k st).path?_setPath_other hne).trans hleft

/-! ### Releases (R254) -/

/-- The lanes of a parked path that complete instances leave waiting. -/
def unreleased (rs : List (BarKind × List Nat)) (k : BarKind) (ls : List Nat) : List Nat :=
  rs.foldl (fun ls r => if k = r.1 then ls.filter (fun l => !r.2.contains l) else ls) ls

/-- A lane still waits where no release of its kind names it. -/
theorem mem_unreleased {rs : List (BarKind × List Nat)} {k : BarKind} {ls : List Nat} {l : Nat} :
    l ∈ unreleased rs k ls ↔ l ∈ ls ∧ ∀ r ∈ rs, r.1 = k → l ∉ r.2 := by
  induction rs generalizing ls with
  | nil => simp [unreleased]
  | cons r rs ih =>
    have hstep : unreleased (r :: rs) k ls = unreleased rs k (if k = r.1 then ls.filter (fun l => !r.2.contains l) else ls) := rfl
    rw [hstep, ih, List.forall_mem_cons]
    by_cases hk : k = r.1
    · rw [if_pos hk, List.mem_filter, and_assoc]
      simp [hk]
    · rw [if_neg hk]
      have hk' : r.1 ≠ k := Ne.symm hk
      simp [hk']

/-- Releases of a parked path take their lanes out of those that wait. -/
theorem foldl_release (rs : List (BarKind × List Nat)) {q : Path} (k : BarKind) (hstate : q.state = .parked) (ls : List Nat) :
    rs.foldl (fun q r => q.release r.1 r.2) { q with park := some (.bar k ls) }
      = { q with park := some (.bar k (unreleased rs k ls)) } := by
  induction rs generalizing ls with
  | nil => rfl
  | cons r rs ih =>
    have hone : Path.release { q with park := some (.bar k ls) } r.1 r.2
        = { q with park := some (.bar k (if k = r.1 then ls.filter (fun l => !r.2.contains l) else ls)) } := by
      simp only [Path.release, hstate, and_true]
      split <;> rfl
    rw [List.foldl_cons, hone]
    exact ih _

/-! ### The arrival of a path -/

variable {s : State} {p : Path} {b : Block} {i : Instr}

/-- A path that has arrived. -/
def Path.arrived (p : Path) (k : BarKind) (q : Path) : Path :=
  { (q.past (p.passes.length - p.passDone) false).pet true with ip := p.ip, state := .parked, park := some (.bar k q.lanes) }

/-- The team with the lanes of a path arrived. -/
def Team.withArrival (t : Team) (p : Path) (k : BarKind) : Team := t.setPath p.idx (p.arrived k)

/-- The team with the lanes of complete instances released. -/
def Team.released (t : Team) : Team := { t with paths := t.paths.map (fun q => t.releases.foldl (fun q r => q.release r.1 r.2) q) }

/-- The paths that no lane keeps at a barrier. -/
def Team.freed (t : Team) : List Nat := (t.paths.filter Path.barFree).map Path.idx

theorem Team.arriveBar_eq (t : Team) (p : Path) (k : BarKind) : t.arriveBar p k
    = (if (t.withArrival p k).released.freed.contains p.idx
      then (wakeAll ((t.withArrival p k).released.freed.filter (fun i => i != p.idx)) (t.withArrival p k).released).setPath p.idx
        (fun q => { q with state := .current, park := none, ip := q.ip + 1 })
      else ((wakeAll ((t.withArrival p k).released.freed.filter (fun i => i != p.idx)) (t.withArrival p k).released).leave
        p.idx .parked).pickNext, !(t.withArrival p k).releases.isEmpty) := rfl

/-- After the arrival a lane is accounted for if it is one of the path's or was before. -/
theorem LaneReady.accounted_withArrival (h : LaneReady s i p b) (k : BarKind) (l : Nat) :
    (s.cur.withArrival p k).accounted l = true ↔ l ∈ p.lanes ∨ s.cur.accounted l = true := by
  have hp : p ∈ s.cur.paths := List.mem_of_find?_eq_some (Team.current_path? h.path)
  have hself (q : Path) : ((p.arrived k q).barLane l || ((p.arrived k q).lanes.contains l && ((p.arrived k q).state == .waitJoin
      || (p.arrived k q).state == .waitPack || (p.arrived k q).state == .waitLend))) = q.lanes.contains l := by
    show (q.lanes.contains l || (q.lanes.contains l && false)) = _
    rw [Bool.and_false, Bool.or_false]
  have hnone : (p.barLane l || (p.lanes.contains l && (p.state == .waitJoin || p.state == .waitPack || p.state == .waitLend))) = false := by
    simp only [Path.barLane, h.current]
    split <;> simp
  rw [Team.accounted, Team.accounted, Team.withArrival, Team.setPath, List.any_map, List.any_eq_true, List.any_eq_true]
  constructor
  · rintro ⟨q, hq, hacc⟩
    by_cases hidx : q.idx = p.idx
    · obtain rfl := h.only q hq hidx
      rw [Function.comp_apply, if_pos (beq_self_eq_true q.idx), hself] at hacc
      exact .inl (List.contains_iff_mem.1 hacc)
    · refine .inr ⟨q, hq, ?_⟩
      simpa [hidx] using hacc
  · rintro (hl | ⟨q, hq, hacc⟩)
    · refine ⟨p, hp, ?_⟩
      rw [Function.comp_apply, if_pos (beq_self_eq_true p.idx), hself]
      exact List.contains_iff_mem.2 hl
    · refine ⟨q, hq, ?_⟩
      have hidx : q.idx ≠ p.idx := fun hidx => by
        obtain rfl := h.only q hq hidx
        rw [hnone] at hacc
        exact Bool.false_ne_true hacc
      simpa [hidx] using hacc

/-- The barrier instance of a lane at a BAR of a kind (R254). -/
def Team.barInstance (t : Team) (k : BarKind) (l : Nat) : List Nat :=
  t.instance_ (if k = .group then some (l / t.kern.gwidth) else none)

/-- An instance is complete where its lanes have arrived or were accounted for. -/
theorem LaneReady.barDone_withArrival (h : LaneReady s i p b) (k : BarKind) (g : Option Nat) :
    (s.cur.withArrival p k).barDone g = true ↔ ∀ m ∈ s.cur.instance_ g, m ∈ p.lanes ∨ s.cur.accounted m = true := by
  rw [Team.barDone, List.all_eq_true]
  exact forall₂_congr fun m _ => h.accounted_withArrival k m

/-- A path waits at a BAR of a kind with one of these lanes. -/
def Path.waitsIn (k : BarKind) (ls : List Nat) (p : Path) : Bool :=
  match p.park with
  | some (.bar k' ws) => k' == k && p.state == .parked && ws.any (fun l => ls.contains l)
  | _ => false

/-- The releases are those of the complete instances in which some path waits (R254). -/
theorem Team.mem_releases (t : Team) (r : BarKind × List Nat) : r ∈ t.releases
    ↔ (∃ g < t.kern.lanesN / max 1 t.kern.gwidth, t.barDone (some g) = true ∧ t.paths.any (Path.waitsIn .group (t.instance_ (some g))) = true
        ∧ r = (.group, t.instance_ (some g)))
      ∨ (t.barDone none = true ∧ t.paths.any (Path.waitsIn .team (t.instance_ none)) = true ∧ r = (.team, t.instance_ none)) := by
  have hdef : t.releases = (((upTo 0 (t.kern.lanesN / max 1 t.kern.gwidth)).filter (fun g => t.barDone (some g)
      && t.paths.any (Path.waitsIn .group (t.instance_ (some g))))).map (fun g => (BarKind.group, t.instance_ (some g))))
    ++ (if t.barDone none && t.paths.any (Path.waitsIn .team (t.instance_ none)) then [(BarKind.team, t.instance_ none)] else []) := rfl
  rw [hdef, List.mem_append, List.mem_map]
  refine or_congr ?_ ?_
  · simp only [List.mem_filter, mem_upTo, Bool.and_eq_true, Nat.zero_le, true_and, Nat.zero_add]
    constructor
    · rintro ⟨g, ⟨hg, hdone, hwaits⟩, rfl⟩
      exact ⟨g, hg, hdone, hwaits, rfl⟩
    · rintro ⟨g, hg, hdone, hwaits, rfl⟩
      exact ⟨g, ⟨hg, hdone, hwaits⟩, rfl⟩
  · split
    next h =>
      rw [Bool.and_eq_true] at h
      rw [List.mem_singleton]
      exact ⟨fun hr => ⟨h.1, h.2, hr⟩, fun hr => hr.2.2⟩
    next h =>
      rw [Bool.and_eq_true] at h
      exact ⟨fun hr => absurd hr List.not_mem_nil, fun hr => absurd ⟨hr.1, hr.2.1⟩ h⟩

/-- An arrived path waits in each of its lanes. -/
theorem LaneReady.waits_withArrival (h : LaneReady s i p b) (k : BarKind) {l : Nat} (hl : l ∈ p.lanes) {ls : List Nat} (hls : l ∈ ls) :
    (s.cur.withArrival p k).paths.any (Path.waitsIn k ls) = true := by
  rw [List.any_eq_true]
  refine ⟨p.arrived k p, List.mem_map.2 ⟨p, List.mem_of_find?_eq_some (Team.current_path? h.path), if_pos (beq_self_eq_true p.idx)⟩, ?_⟩
  show (k == k && (PathState.parked == .parked) && p.lanes.any (fun l => ls.contains l)) = true
  rw [beq_self_eq_true, beq_self_eq_true, Bool.true_and, Bool.true_and, List.any_eq_true]
  exact ⟨l, hl, List.contains_iff_mem.2 hls⟩

/-- The lanes of an instance (R254). -/
theorem LaneReady.mem_instance (h : LaneReady s i p b) (g : Option Nat) (l : Nat) : l ∈ s.cur.instance_ g
    ↔ l ∈ b.lanes ∧ (s.cur.lane l).retired = false ∧ ∀ k, g = some k → l / s.cur.kern.gwidth = k := by
  rw [Team.instance_, h.block]
  cases g with
  | none => simp
  | some k =>
    simp only [List.mem_filter, Bool.and_eq_true, Bool.not_eq_true', beq_iff_eq, Option.some.injEq, forall_eq']

/-- A lane of an arrived path is released where its instance is complete. -/
theorem LaneReady.released_iff (h : LaneReady s i p b) (k : BarKind) (hg : 0 < s.cur.kern.gwidth)
    (hdvd : s.cur.kern.gwidth ∣ s.cur.kern.lanesN) {l : Nat} (hl : l ∈ p.lanes) (hb : l ∈ b.lanes) (hlive : (s.cur.lane l).retired = false)
    (hn : l < s.cur.kern.lanesN) : (∃ r ∈ (s.cur.withArrival p k).releases, r.1 = k ∧ l ∈ r.2)
      ↔ ∀ m ∈ s.cur.barInstance k l, m ∈ p.lanes ∨ s.cur.accounted m = true := by
  have hin : l ∈ s.cur.barInstance k l := by
    rw [Team.barInstance, h.mem_instance]
    refine ⟨hb, hlive, fun g hgk => ?_⟩
    split at hgk
    · exact Option.some.inj hgk
    · cases hgk
  rw [Team.barInstance, ← h.barDone_withArrival k]
  constructor
  · rintro ⟨⟨k', ls⟩, hr, hk, hlr⟩
    rcases (Team.mem_releases _ _).1 hr with ⟨g, -, hdone, -, heq⟩ | ⟨hdone, -, heq⟩
    · obtain ⟨rfl, rfl⟩ := Prod.mk.inj heq
      obtain rfl : BarKind.group = k := hk
      obtain ⟨-, -, hgroup⟩ := (h.mem_instance (some g) l).1 hlr
      rw [if_pos rfl, hgroup g rfl]
      exact hdone
    · obtain ⟨rfl, rfl⟩ := Prod.mk.inj heq
      obtain rfl : BarKind.team = k := hk
      exact hdone
  · intro hdone
    refine ⟨(k, s.cur.barInstance k l), (Team.mem_releases _ _).2 ?_, rfl, hin⟩
    have hwaits := h.waits_withArrival k hl hin
    cases k with
    | group =>
      refine .inl ⟨l / s.cur.kern.gwidth, ?_, hdone, hwaits, rfl⟩
      show l / s.cur.kern.gwidth < s.cur.kern.lanesN / max 1 s.cur.kern.gwidth
      rw [Nat.max_eq_right hg]
      exact Nat.div_lt_div_of_lt_of_dvd hdvd hn
    | team => exact .inr ⟨hdone, hwaits, rfl⟩

/-- Releases keep the index of a path. -/
theorem foldl_release_idx (rs : List (BarKind × List Nat)) (q : Path) : (rs.foldl (fun q r => q.release r.1 r.2) q).idx = q.idx := by
  induction rs generalizing q with
  | nil => rfl
  | cons r rs ih =>
    rw [List.foldl_cons, ih, Path.release]
    split
    · split <;> rfl
    · rfl

/-- What is left of an arrived path once complete instances have released their lanes. -/
def Path.atBar (p : Path) (k : BarKind) (rs : List (BarKind × List Nat)) : Path :=
  { p.arrived k p with park := some (.bar k (unreleased rs k p.lanes)) }

/-- The path table after the arrival and the releases holds the path with the lanes that still wait. -/
theorem LaneReady.path?_released (h : LaneReady s i p b) (k : BarKind) :
    (s.cur.withArrival p k).released.path? p.idx = some (p.atBar k (s.cur.withArrival p k).releases) := by
  have harrived : (s.cur.withArrival p k).path? p.idx = some (p.arrived k p) := Team.path?_setPath_same (Team.current_path? h.path)
  rw [Team.released, Team.path?_mapPaths _ _ (foldl_release_idx _), harrived, Option.map_some]
  exact congrArg some (foldl_release _ (q := p.arrived k p) k rfl p.lanes)

/-- It is freed where no lane still waits. -/
theorem LaneReady.freed_iff (h : LaneReady s i p b) (k : BarKind) : p.idx ∈ (s.cur.withArrival p k).released.freed
    ↔ ∀ l ∈ p.lanes, ∃ r ∈ (s.cur.withArrival p k).releases, r.1 = k ∧ l ∈ r.2 := by
  have hfree : (p.atBar k (s.cur.withArrival p k).releases).barFree = true
      ↔ unreleased (s.cur.withArrival p k).releases k p.lanes = [] := by
    rw [Path.barFree, Path.atBar]
    cases unreleased (s.cur.withArrival p k).releases k p.lanes with
    | nil => exact ⟨fun _ => rfl, fun _ => rfl⟩
    | cons l ls => simp
  have hnil : unreleased (s.cur.withArrival p k).releases k p.lanes = []
      ↔ ∀ l ∈ p.lanes, ∃ r ∈ (s.cur.withArrival p k).releases, r.1 = k ∧ l ∈ r.2 := by
    rw [List.eq_nil_iff_forall_not_mem]
    refine forall_congr' fun l => ?_
    rw [mem_unreleased]
    push Not
    rfl
  have honly : ∀ q ∈ (s.cur.withArrival p k).released.paths, q.idx = p.idx → q = p.atBar k (s.cur.withArrival p k).releases := by
    intro q hq hidx
    obtain ⟨q1, hq1, rfl⟩ := List.mem_map.1 hq
    obtain ⟨q0, hq0, rfl⟩ := List.mem_map.1 hq1
    have hidx0 : q0.idx = p.idx := by
      rw [foldl_release_idx] at hidx
      split at hidx
      · exact hidx
      · exact hidx
    obtain rfl := h.only q0 hq0 hidx0
    rw [if_pos (beq_self_eq_true q0.idx)]
    exact foldl_release _ (q := q0.arrived k q0) k rfl q0.lanes
  rw [← hnil, ← hfree, Team.freed, List.mem_map]
  constructor
  · rintro ⟨q, hq, hidx⟩
    obtain ⟨hmem, hbar⟩ := List.mem_filter.1 hq
    rwa [honly q hmem hidx] at hbar
  · intro hbar
    exact ⟨_, List.mem_filter.2 ⟨List.mem_of_find?_eq_some (h.path?_released k), hbar⟩, rfl⟩

/-! ### The team after a BAR -/

/-- The path that the scheduler holds is the current one (R87). -/
theorem LaneReady.curPath_eq (h : LaneReady s i p b) : s.cur.curPath = some p.idx := by
  have hcur := h.path
  rw [Team.current, Option.bind_eq_some_iff] at hcur
  obtain ⟨k, hk, hpath⟩ := hcur
  have hidx : p.idx = k := by simpa using List.find?_some hpath
  rw [hk, hidx]

/-- What an arrival leaves of the team and of the path (R254). -/
theorem LaneReady.arriveBar_spec (h : LaneReady s i p b) (k : BarKind) : ∃ q, (s.cur.arriveBar p k).1.path? p.idx = some q
    ∧ q.wdog = 0 ∧ q.lanes = p.lanes ∧ (s.cur.arriveBar p k).1.lanes = s.cur.lanes
    ∧ (p.idx ∈ (s.cur.withArrival p k).released.freed → q.ip = p.ip + 1 ∧ q.state = .current)
    ∧ (p.idx ∉ (s.cur.withArrival p k).released.freed → q.ip = p.ip ∧ q.state = .parked) := by
  obtain ⟨paths, ready, hwoken, hkeep⟩ := wakeAll_others ((s.cur.withArrival p k).released.freed.filter (fun i => i != p.idx))
    (s.cur.withArrival p k).released (c := p.idx) h.curPath_eq
  have hpath := (hkeep p.idx (by simp)).trans (h.path?_released k)
  rw [Team.arriveBar_eq]
  by_cases hfree : p.idx ∈ (s.cur.withArrival p k).released.freed
  · rw [if_pos (List.contains_iff_mem.2 hfree)]
    refine ⟨_, Team.path?_setPath_same hpath, rfl, rfl, ?_, fun _ => ⟨rfl, rfl⟩, fun hno => absurd hfree hno⟩
    have hlanes := congrArg Team.lanes hwoken
    exact hlanes
  · rw [if_neg (fun hc => hfree (List.contains_iff_mem.1 hc))]
    have hcur : (wakeAll ((s.cur.withArrival p k).released.freed.filter (fun i => i != p.idx)) (s.cur.withArrival p k).released).curPath
        = some p.idx := by
      rw [hwoken]
      exact h.curPath_eq
    refine ⟨_, Team.path?_leave_pickNext hpath hcur, rfl, rfl, ?_, fun hno => absurd hno hfree, fun _ => ⟨rfl, rfl⟩⟩
    have hlanes := congrArg Team.lanes hwoken
    generalize wakeAll ((s.cur.withArrival p k).released.freed.filter (fun i => i != p.idx)) (s.cur.withArrival p k).released = u
      at hlanes
    obtain ⟨_, _, _, _, hpick⟩ := Team.pickNext_eq (u.leave p.idx .parked)
    rw [hpick]
    exact hlanes

/-- A BAR is the arrival of its path; where instances complete on a pair of cores, their L1 lines are discarded (R254, R231). -/
theorem LaneReady.exec_bar {h : LaneHead} {x : AuxX} (hr : LaneReady s (.bar h x) p b) : ∃ t, Gives (.bar h x) s t ∧ t.mem = s.mem
    ∧ t.cur = (s.cur.arriveBar p (if x.xop = 0 then .group else .team)).1 := by
  have hrun : s.laneWord (.bar h x) (fun _ => true) (fun r s =>
      let (t, met) := s.cur.arriveBar r.p (if x.xop = 0 then .group else .team)
      let s := { s with cur := t }
      if met && t.pair then s.discardCores else s)
      = (let (t, met) := s.cur.arriveBar p (if x.xop = 0 then .group else .team)
        let s := { s with cur := t }
        if met && t.pair then s.discardCores else s) := by
    rw [State.laneWord, hr.laneParts_eq rfl]
    exact if_pos (hr.whole _ _).1
  refine ⟨_, congrArg Host.Outcome.next hrun, ?_⟩
  generalize s.cur.arriveBar p (if x.xop = 0 then .group else .team) = u
  obtain ⟨l1, reqs, hdiscard⟩ := State.discardCores_eq { s with cur := u.1 }
  dsimp only
  split
  · rw [hdiscard]
    exact ⟨rfl, rfl⟩
  · exact ⟨rfl, rfl⟩

end Sys2Proof.Machine
end

section
open Sys2Proof Sys2Proof.Machine

/-- Settles O41: a path goes on past its BAR where each of its lanes is released, which is where each lane's instance is complete. -/
theorem laneBarrier : Obligations.LaneBarrier := by
  unfold Obligations.LaneBarrier
  intro s p b h x
  dsimp only
  intro hr hg hdvd hlanes
  obtain ⟨t, hgives, hmem, hcur⟩ := hr.exec_bar
  obtain ⟨q, hq, hwdog, hqlanes, hkept, hon, hstay⟩ := hr.arriveBar_spec (if x.xop = 0 then .group else .team)
  have hinst (l : Nat) : s.cur.barInstance (if x.xop = 0 then .group else .team) l
      = s.cur.instance_ (if x.xop = 0 then some (l / s.cur.kern.gwidth) else none) := by
    rw [Team.barInstance]
    split <;> rfl
  have hfreed := hr.freed_iff (if x.xop = 0 then .group else .team)
  refine ⟨t, q, hgives, hmem, (congrArg Team.lanes hcur).trans hkept, ?_, hwdog, hqlanes, fun hall => hon (hfreed.2 fun l hl => ?_),
    fun ⟨l, hl, m, hm, hout, hno⟩ => hstay fun hfree => ?_⟩
  · rw [hcur]
    exact hq
  · obtain ⟨hb, hlive, hn⟩ := hlanes l hl
    rw [hr.released_iff _ hg hdvd hl hb hlive hn, hinst]
    exact hall l hl
  · obtain ⟨hb, hlive, hn⟩ := hlanes l hl
    have hdone := (hr.released_iff _ hg hdvd hl hb hlive hn).1 (hfreed.1 hfree l hl)
    rw [hinst] at hdone
    rcases hdone m hm with hin | hacc
    · exact hout hin
    · exact Bool.false_ne_true (hno.symm.trans hacc)

end

section
/-!
SUPPORT. The floating-point lane words (R131, R133, R167 to R176): results element by element, and the flags of all elements.
-/

namespace Sys2Proof.Machine

variable {s : State} {i : Instr} {p : Path} {b : Block} {h : LaneHead} {f : Fmt}

/-- Flags gathered from a list: those of the start and of each item (R135). -/
theorem getLsbD_foldl_or {α : Type} (g : α → Flags5) (xs : List α) (c : Flags5) (j : Nat) :
    (xs.foldl (fun acc x => acc ||| g x) c).getLsbD j = true ↔ c.getLsbD j = true ∨ ∃ x ∈ xs, (g x).getLsbD j = true := by
  induction xs generalizing c with
  | nil => simp
  | cons x xs ih =>
    rw [List.foldl_cons, ih, BitVec.getLsbD_or, Bool.or_eq_true, or_assoc]
    simp

/-- The rounding mode that FMODE selects; SR counts as RNE (R133). -/
theorem plainMode_dyn (b : Block) : plainMode b .dyn = if b.snap.fmode.extractLsb' 0 3 = 1 then .rtz
    else if b.snap.fmode.extractLsb' 0 3 = 2 then .rdn else if b.snap.fmode.extractLsb' 0 3 = 3 then .rup else .rne := by
  simp only [plainMode, rndMode]
  generalize b.snap.fmode.extractLsb' 0 3 = m
  revert m
  decide

/-- An operand's element as a value of its format, a subnormal read as zero under FTZ (R131, R167). -/
def fpRead (b : Block) (e : LaneEnv) (h : LaneHead) (f : Fmt) (o : Operand) (l m : Nat) : FV :=
  f.ftzIn b.ftz (f.value (elemAt (elemOf h.ty).1 (e.val h.ty o l) m))

/-- A floating result, element by element. -/
def fpElem (b : Block) (e : LaneEnv) (h : LaneHead) (f : Fmt) (op : FV → FV → FV → Nat × Flags5) (l m : Nat) : Nat × Flags5 :=
  f.ftzOut b.ftz (op (fpRead b e h f h.a l m) (fpRead b e h f h.b l m) (fpRead b e h f h.c l m))

/-- The result of a floating word is made of its elements. -/
theorem fpResult_eq (hf : fmtOf h.ty = some f) (e : LaneEnv) (op : Fmt → FV → FV → FV → Nat × Flags5) (l : Nat) :
    fpResult b e h op l = (packElems (elemOf h.ty).1 (((upTo 0 (elemOf h.ty).2.1).map (fpElem b e h f (op f) l)).map Prod.fst),
      ((upTo 0 (elemOf h.ty).2.1).map (fpElem b e h f (op f) l)).foldl (fun (acc : Flags5) r => acc ||| r.2) 0) := by
  rw [fpResult, hf]
  rfl

theorem fpResult_spec (hf : fmtOf h.ty = some f) (e : LaneEnv) (op : Fmt → FV → FV → FV → Nat × Flags5) (l : Nat) :
    (fpResult b e h op l).1 < 2 ^ ((elemOf h.ty).1 * (elemOf h.ty).2.1)
      ∧ (∀ m, m < (elemOf h.ty).2.1 → elemAt (elemOf h.ty).1 (fpResult b e h op l).1 m
          = (fpElem b e h f (op f) l m).1 % 2 ^ (elemOf h.ty).1)
      ∧ ∀ j : Nat, (fpResult b e h op l).2.getLsbD j = true
          ↔ ∃ m, m < (elemOf h.ty).2.1 ∧ (fpElem b e h f (op f) l m).2.getLsbD j = true := by
  rw [fpResult_eq hf]
  refine ⟨?_, fun m hm => ?_, fun j => ?_⟩
  · exact (packElems_lt _ _).trans_eq (by rw [List.length_map, List.length_map, length_upTo])
  · rw [elemAt_packElems _ (by rwa [List.length_map, List.length_map, length_upTo])]
    simp [getElem_upTo]
  · rw [getLsbD_foldl_or]
    simp [mem_upTo]

/-- What a floating word leaves (R135, R167): each lane's result and its flags. -/
theorem LaneReady.float_swept (hr : LaneReady s i p b) (hf : fmtOf h.ty = some f) {cls n : Nat}
    {op : Block → Fmt → FV → FV → FV → Nat × Flags5}
    (hi : exec i s = .next (s.laneParts i (fun _ => true) (fun r s => s.laneEach r cls n (fun e l =>
      (e.put h.d l (fpResult r.b e h (op r.b) l).1, (fpResult r.b e h (op r.b) l).2))))) :
    ∃ (v : Nat → Nat) (fl : Nat → Flags5) (t : State), Gives i s t
      ∧ Swept s t p (s.lanesOn p i) (fun l => ((s.cur.lane l).write s.cur.code.mview h.d (v l), fl l))
      ∧ ∀ l, v l < 2 ^ ((elemOf h.ty).1 * (elemOf h.ty).2.1)
        ∧ (∀ m, m < (elemOf h.ty).2.1 → elemAt (elemOf h.ty).1 (v l) m
            = (fpElem b (s.env b p) h f (op b f) l m).1 % 2 ^ (elemOf h.ty).1)
        ∧ ∀ j : Nat, (fl l).getLsbD j = true
            ↔ ∃ m, m < (elemOf h.ty).2.1 ∧ (fpElem b (s.env b p) h f (op b f) l m).2.getLsbD j = true := by
  obtain ⟨t, hgives, hswept⟩ := hr.swept hi
  exact ⟨fun l => (fpResult b (s.env b p) h (op b) l).1, fun l => (fpResult b (s.env b p) h (op b) l).2, t, hgives, hswept,
    fpResult_spec hf (s.env b p) (op b)⟩

/-- A word that makes a number of one floating operand leaves it (R175, R176). -/
theorem LaneReady.probe_writes (hr : LaneReady s i p b) (hf : fmtOf h.ty = some f) {op : Fmt → FV → Nat}
    (hi : exec i s = .next (laneProbe i h op s)) :
    LaneWrites s i p h.d (fun l => op f (f.ftzIn b.ftz (f.value ((s.env b p).val h.ty h.a l)))) := by
  obtain ⟨t, hgives, hswept⟩ := hr.swept (eff := fun r e l => match fmtOf h.ty with
    | some fm => (e.put h.d l (op fm (fm.ftzIn r.b.ftz (fm.value (e.val h.ty h.a l)))), 0)
    | none => (e.t.lane l, 0)) hi
  refine ⟨t, hgives, hswept.congr fun l _ => ?_⟩
  rw [hf]
  rfl

/-! ### Signs (R174) -/

/-- The sign bit of VFSGN, by its operation. -/
theorem signOf_eq (w : BitVec 12) (a b : Bool) : signOf w.toNat a b = if w = 0 then b else if w = 1 then !b else a != b := by
  have hval (n : Nat) (hn : n < 2 ^ 12) : w.toNat = n ↔ w = BitVec.ofNat 12 n := by
    rw [← BitVec.toNat_inj, BitVec.toNat_ofNat, Nat.mod_eq_of_lt hn]
  rw [signOf, if_congr (hval 0 (by decide)) rfl rfl, if_congr (hval 1 (by decide)) rfl rfl]
  rfl

/-- The bits of a number whose sign is set apart. -/
theorem bitAt_withSign {n : Nat} (u : Nat) (c : Bool) {j : Nat} (hj : j < n) :
    bitAt (u % 2 ^ (n - 1) + 2 ^ (n - 1) * b2n c) j = if j = n - 1 then c else bitAt u j := by
  rw [bitAt_eq_testBit, bitAt_eq_testBit, Nat.add_comm, Nat.testBit_two_pow_mul_add _ (Nat.mod_lt _ (Nat.two_pow_pos _))]
  by_cases hsign : j = n - 1
  · rw [if_pos hsign, if_neg (by omega), hsign, Nat.sub_self]
    cases c <;> rfl
  · rw [if_neg hsign, if_pos (by omega), Nat.testBit_mod_two_pow, decide_eq_true (by omega), Bool.true_and]

/-- A bit of an element. -/
theorem bitAt_elem (n x m : Nat) {j : Nat} (hj : j < n) : bitAt (elemAt n x m) j = bitAt x (n * m + j) := by
  rw [bitAt_eq_testBit, bitAt_eq_testBit, elemAt, Nat.testBit_mod_two_pow, decide_eq_true hj, Bool.true_and, Nat.testBit_div_two_pow,
    Nat.add_comm]

/-- An element of a VFSGN result: A with another sign (R174). -/
def signedElem (n a b : Nat) (op : BitVec 12) (m : Nat) : Nat :=
  elemAt n a m % 2 ^ (n - 1) + 2 ^ (n - 1) * b2n (signOf op.toNat (bitAt (elemAt n a m) (n - 1)) (bitAt (elemAt n b m) (n - 1)))

/-- A VFSGN result, bit by bit. -/
theorem bitAt_signed (n k a b : Nat) (op : BitVec 12) {m j : Nat} (hm : m < k) (hj : j < n) :
    bitAt (packElems n ((upTo 0 k).map (signedElem n a b op))) (n * m + j)
      = if j = n - 1 then (if op = 0 then bitAt (elemAt n b m) (n - 1) else if op = 1 then !bitAt (elemAt n b m) (n - 1)
          else bitAt (elemAt n a m) (n - 1) != bitAt (elemAt n b m) (n - 1)) else bitAt (elemAt n a m) j := by
  have hget : elemAt n (packElems n ((upTo 0 k).map (signedElem n a b op))) m = signedElem n a b op m % 2 ^ n := by
    rw [elemAt_packElems n (by rwa [List.length_map, length_upTo]), List.getElem_map, getElem_upTo, Nat.zero_add]
  have hlow : bitAt (signedElem n a b op m % 2 ^ n) j = bitAt (signedElem n a b op m) j := by
    rw [bitAt_eq_testBit, bitAt_eq_testBit, Nat.testBit_mod_two_pow, decide_eq_true hj, Bool.true_and]
  rw [← bitAt_elem n _ m hj, hget, hlow, signedElem, bitAt_withSign _ _ hj, signOf_eq]

end Sys2Proof.Machine
end

section
open Sys2Proof Sys2Proof.Machine

/-- Settles O42: the words of one result for each element, the probes, and the sign word, each by its function of the element values. -/
theorem laneFloat : Obligations.LaneFloat := by
  intro s p b h x f e
  split
  next n k sg hty =>
    obtain rfl : (elemOf h.ty).1 = n := by rw [hty]
    obtain rfl : (elemOf h.ty).2.1 = k := by rw [hty]
    intro ftz bits rd rm mode each probes hf
    have hmode : plainMode b x.rnd = mode := by
      have hdyn := plainMode_dyn b
      show plainMode b x.rnd = match x.rnd with
        | .rne | .sr => .rne
        | .rtz => .rtz
        | .rdn => .rdn
        | .rup => .rup
        | .dyn => if rm = 1 then .rtz else if rm = 2 then .rdn else if rm = 3 then .rup else .rne
      cases x.rnd with
      | dyn => exact hdyn
      | _ => rfl
    have heach {i : Instr} {cls c : Nat} (op : Block → Fmt → FV → FV → FV → Nat × Flags5)
        (hi : exec i s = .next (s.laneParts i (fun _ => true) (fun r s => s.laneEach r cls c (fun e l =>
          (e.put h.d l (fpResult r.b e h (op r.b) l).1, (fpResult r.b e h (op r.b) l).2))))) : each i (op b f) :=
      fun hr => hr.float_swept hf hi
    have hrounded {i : Instr} {cls c : Nat} (op : RMode → Fmt → FV → FV → FV → Nat × Flags5)
        (hi : exec i s = .next (s.laneParts i (fun _ => true) (fun r s => s.laneEach r cls c (fun e l =>
          (e.put h.d l (fpResult r.b e h (op (plainMode r.b x.rnd)) l).1, (fpResult r.b e h (op (plainMode r.b x.rnd)) l).2))))) :
        each i (op mode f) := hmode ▸ heach (fun b => op (plainMode b x.rnd)) hi
    refine ⟨?vfadd, ?vfsub, ?vfmul, ?vfma, ?vfdiv, ?vfsqrt, ?vfrnd, ?vfmin, ?vfmax, ?vfrcp, ?vfrsq, ?vfexp2, ?vflog2, ?vfsin, ?vfcos,
      fun hr => hr.probe_writes hf (op := fun f x => f.classBit x) rfl, fun hr => hr.probe_writes hf (op := fun _ x => expoBits x) rfl,
      ?vfsgn⟩
    case vfadd => exact hrounded (fun m f u v _ => f.add u v m) rfl
    case vfsub => exact hrounded (fun m f u v _ => f.add u v.negate m) rfl
    case vfmul => exact hrounded (fun m f u v _ => f.mul u v m) rfl
    case vfma => exact hrounded (fun m f u v w => f.fma u v w m) rfl
    case vfdiv => exact hrounded (fun m f u v _ => f.div u v m) rfl
    case vfsqrt => exact hrounded (fun m f u _ _ => f.sqrt u m) rfl
    case vfrnd => exact hrounded (fun m f u _ _ => f.rint u m) rfl
    case vfmin => exact heach (fun _ f u v _ => (f.minMax false u v (f.bitsOf u) (f.bitsOf v), 0)) rfl
    case vfmax => exact heach (fun _ f u v _ => (f.minMax true u v (f.bitsOf u) (f.bitsOf v), 0)) rfl
    case vfrcp => exact heach (fun _ _ u _ _ => fRcp u) rfl
    case vfrsq => exact heach (fun _ _ u _ _ => fRsq u) rfl
    case vfexp2 => exact heach (fun _ _ u _ _ => fExp2 u) rfl
    case vflog2 => exact heach (fun _ _ u _ _ => fLog2 u) rfl
    case vfsin => exact heach (fun _ _ u _ _ => fSin u) rfl
    case vfcos => exact heach (fun _ _ u _ _ => fCos u) rfl
    case vfsgn =>
      intro hr
      refine ⟨fun l => packElems (elemOf h.ty).1 ((upTo 0 (elemOf h.ty).2.1).map
        (signedElem (elemOf h.ty).1 (e.val h.ty h.a l) (e.val h.ty h.b l) x.imm12)), hr.laneWrites rfl fun _ _ => rfl,
        fun l => ⟨(packElems_lt _ _).trans_eq (by rw [List.length_map, length_upTo]), fun m hm j hj => ?_⟩⟩
      exact bitAt_signed _ _ _ _ x.imm12 hm hj

end

section
/-!
SUPPORT. Conversion words (R128, R177 to R182) and the fragment product (R186).
-/

namespace Sys2Proof.Machine

variable {s : State} {i : Instr} {p : Path} {b : Block} {h : LaneHead}

/-! ### Conversion -/

/-- A conversion word gives each active lane its elements converted in turn, and the rounding state after them (R128). -/
theorem LaneReady.convert_swept (hr : LaneReady s i p b) {x : AuxA} {st dt vt : LType} {k ns nd : Nat}
    (hi : exec i s = .next (laneConvert i h x st dt vt k ns nd s)) : ∃ t, Gives i s t ∧ Swept s t p (s.lanesOn p i) (fun l =>
      let r := convertAll (convert st dt b.ftz x.sat x.satf (rndMode b x.rnd)
          (if scaledPair dt st then some ((s.env b p).scale h.b l, dt.scaledElem) else none))
        ((upTo 0 k).map (elemAt ns ((s.env b p).val vt h.a l))) (s.cur.lane l).sigma.toNat
      ({ (s.cur.lane l).write s.cur.code.mview h.d (packElems nd r.1) with sigma := BitVec.ofNat 32 r.2.2 }, r.2.1)) :=
  hr.swept (eff := fun r e l =>
    let rs := convertAll (convert st dt r.b.ftz x.sat x.satf (rndMode r.b x.rnd)
        (if scaledPair dt st then some (e.scale h.b l, dt.scaledElem) else none))
      ((upTo 0 k).map (elemAt ns (e.val vt h.a l))) (e.t.lane l).sigma.toNat
    ({ e.put h.d l (packElems nd rs.1) with sigma := BitVec.ofNat 32 rs.2.2 }, rs.2.1)) hi

/-- VCVT converts from the type its word names (R179). -/
theorem exec_vcvt_of {x : AuxA} {st : LType} (hst : LType.ofCode x.stype.toNat = some st) : exec (.vcvt h x) s
    = .next (laneConvert (.vcvt h x) h x st h.ty st (elemOf h.ty).2.1 (cvtBits st) (cvtBits h.ty) s) := by
  show execVcvt h x s = _
  rw [execVcvt, hst]

/-- VPACK narrows elements of the wide type (R181). -/
theorem exec_vpack_of {x : AuxA} {st : LType} (hst : LType.ofCode x.stype.toNat = some st) {k wp : Nat} {c inW : Bool}
    (hpair : packPair h.ty st = some (k, wp, c, inW)) :
    exec (.vpack h x) s = .next (laneConvert (.vpack h x) h x st h.ty .b128 k (elemOf st).1 wp s) := by
  show execVpack h x s = _
  rw [execVpack, lanePack, hst]
  simp only [hpair]
  rfl

/-- VUNPK widens elements of the packed format (R182). -/
theorem exec_vunpk_of {x : AuxA} {st : LType} (hst : LType.ofCode x.stype.toNat = some st) {k wp : Nat} {c inW : Bool}
    (hpair : packPair h.ty st = some (k, wp, c, inW)) :
    exec (.vunpk h x) s = .next (laneConvert (.vunpk h x) h x h.ty st (if inW then .b64 else .b32) k wp (elemOf st).1 s) := by
  show execVunpk h x s = _
  rw [execVunpk, lanePack, hst]
  simp only [hpair]
  rfl

/-! ### The fragment product (R186) -/

/-- What a lane of a group holds of the product: its part of the group's tile. -/
def Team.fmmaPart (t : Team) (h : LaneHead) (l : Nat) : Lane :=
  (t.lane l).write t.code.mview h.d (packElems 32
    ((((fmmaTile t h (l / t.kern.gwidth)).map Prod.fst).drop (128 / t.kern.gwidth * (l % t.kern.gwidth))).take (128 / t.kern.gwidth)))

/-- A group's tile is written lane after lane. -/
theorem writeTile_spec {t0 : Team} {outs : List Nat} (ls : List Nat) {t : Team} {lanes : List Lane} (ht : t = { t0 with lanes := lanes })
    (hlen : ∀ l ∈ ls, l < lanes.length) : ∃ lanes', writeTile t0 h outs ls t = { t0 with lanes := lanes' } ∧ lanes'.length = lanes.length
      ∧ ∀ l, ({ t0 with lanes := lanes' } : Team).lane l = if l ∈ ls then (t0.lane l).write t0.code.mview h.d (packElems 32
          ((outs.drop (128 / t0.kern.gwidth * (l % t0.kern.gwidth))).take (128 / t0.kern.gwidth))) else t.lane l := by
  induction ls generalizing t lanes with
  | nil => exact ⟨lanes, ht, rfl, fun l => by rw [if_neg List.not_mem_nil, ht]⟩
  | cons k ks ih =>
    have hk : k < t.lanes.length := by
      rw [ht]
      exact hlen k List.mem_cons_self
    obtain ⟨lanes', hwrite, hlen', hlane⟩ := ih
      (t := t.setLane k fun _ => (t0.lane k).write t.code.mview h.d (packElems 32
        ((outs.drop (128 / t.kern.gwidth * (k % t.kern.gwidth))).take (128 / t.kern.gwidth))))
      (lanes := setNth lanes k ((t0.lane k).write t0.code.mview h.d (packElems 32
        ((outs.drop (128 / t0.kern.gwidth * (k % t0.kern.gwidth))).take (128 / t0.kern.gwidth)))))
      (by rw [ht]; rfl) (fun l hl => by rw [length_setNth]; exact hlen l (List.mem_cons_of_mem k hl))
    refine ⟨lanes', hwrite, hlen'.trans (length_setNth _ _ _), fun l => ?_⟩
    rw [hlane, Team.lane_setLane _ _ _ _ hk]
    by_cases hl : l = k
    · subst hl
      rw [if_pos rfl, if_pos List.mem_cons_self, ht]
      exact ite_self _
    · rw [if_neg hl]
      exact if_congr (by rw [List.mem_cons, or_iff_right hl]) rfl rfl

/-- Without register errors no group faults (R187). -/
theorem groupError_clean {t : Team} (h : ∀ l, (t.lane l).clean) (words lanes : List Nat) : groupError t words lanes = none := by
  rw [groupError, List.filterMap_eq_nil_iff.2]
  · rfl
  · intro l _
    rw [(h l).1]
    rfl

/-- The groups of a word write their parts into the lanes of the word, and gather their flags. -/
theorem fmmaGroups_spec {t0 : Team} (hclean : ∀ l, (t0.lane l).clean) (words act : List Nat) (gs : List Nat) {t : Team}
    {lanes : List Lane} (ht : t = { t0 with lanes := lanes }) (hlen : ∀ l ∈ act, l < lanes.length) (fl : Flags5) :
    ∃ lanes' fl', fmmaGroups t0 h words act gs t fl [] = ({ t0 with lanes := lanes' }, fl', [])
      ∧ (∀ l, ({ t0 with lanes := lanes' } : Team).lane l
          = if l ∈ act ∧ l / t0.kern.gwidth ∈ gs then t0.fmmaPart h l else t.lane l)
      ∧ ∀ j : Nat, fl'.getLsbD j = true
          ↔ fl.getLsbD j = true ∨ ∃ g ∈ gs, ∃ o ∈ fmmaTile t0 h g, o.2.getLsbD j = true := by
  induction gs generalizing t lanes fl with
  | nil => exact ⟨lanes, fl, by rw [fmmaGroups, ht], fun l => by simp [ht], fun j => by simp⟩
  | cons g gs ih =>
    obtain ⟨lanes1, hwrite, hlen1, hlane1⟩ := writeTile_spec (h := h) (outs := (fmmaTile t0 h g).map Prod.fst)
      (act.filter (fun l => l / t0.kern.gwidth == g)) ht fun l hl => hlen l (List.mem_of_mem_filter hl)
    obtain ⟨lanes', fl', hgroups, hlane, hflags⟩ := ih (t := { t0 with lanes := lanes1 }) rfl
      (fun l hl => (hlen l hl).trans_eq hlen1.symm) ((fmmaTile t0 h g).foldl (fun acc o => acc ||| o.2) fl)
    refine ⟨lanes', fl', ?_, fun l => ?_, fun j => ?_⟩
    · rw [fmmaGroups, groupError_clean hclean]
      simp only [hwrite]
      exact hgroups
    · rw [hlane, hlane1]
      by_cases hact : l ∈ act
      · by_cases hg : l / t0.kern.gwidth = g
        · have hin : l ∈ act.filter (fun l => l / t0.kern.gwidth == g) := List.mem_filter.2 ⟨hact, beq_iff_eq.2 hg⟩
          rw [if_pos hin, if_pos (⟨hact, hg ▸ List.mem_cons_self⟩ : l ∈ act ∧ l / t0.kern.gwidth ∈ g :: gs), ← hg]
          exact ite_self _
        · have hout : l ∉ act.filter (fun l => l / t0.kern.gwidth == g) := fun hin => hg (beq_iff_eq.1 (List.mem_filter.1 hin).2)
          rw [if_neg hout]
          exact if_congr (by rw [List.mem_cons]; tauto) rfl rfl
      · have hout : l ∉ act.filter (fun l => l / t0.kern.gwidth == g) := fun hin => hact (List.mem_of_mem_filter hin)
        rw [if_neg hout, if_neg fun hc => hact hc.1, if_neg fun hc => hact hc.1]
    · rw [hflags, getLsbD_foldl_or, or_assoc]
      simp

/-- Lanes without register errors have nothing to correct. -/
theorem State.foldl_correctLane_clean (h : ∀ l, (s.cur.lane l).clean) (words ls : List Nat) :
    ls.foldl (fun s l => s.correctLane l words) s = s := by
  induction ls with
  | nil => rfl
  | cons l ls ih => rw [List.foldl_cons, State.correctLane_clean h, ih]

/-- Counting operations changes neither team nor memory (R443). -/
theorem State.countCur_keeps (s : State) (cls n : Nat) : (s.countCur cls n).cur = s.cur ∧ (s.countCur cls n).mem = s.mem := by
  rw [State.countCur]
  split <;> exact ⟨rfl, rfl⟩

/-- A word that has changed lanes and set flags, its path past it. -/
def State.fmmaDone (s : State) (r : LaneRun) (lanes : List Lane) (fl : Flags5) : State :=
  State.finishWord { s with cur := ({ s.cur with lanes := lanes } : Team).orFlags fl } r (decide (lanes ≠ s.cur.lanes)) []

/-- An FMMA that fits its views runs its groups and moves its path on (R186). -/
theorem LaneReady.exec_fmma (hr : LaneReady s (.fmma h) p b) (hok : fmmaOk h s.cur = true) {lanes : List Lane} {fl : Flags5}
    (hgroups : fmmaGroups s.cur h (wordsOf s.cur.code.mview [h.a, h.b, h.c]) (s.lanesOn p (.fmma h))
      (sortNat ((s.lanesOn p (.fmma h)).map (fun l => l / s.cur.kern.gwidth))) s.cur 0 [] = ({ s.cur with lanes := lanes }, fl, [])) :
    ∃ cls n, exec (.fmma h) s = .next ((s.fmmaDone (s.laneRun (.fmma h) p b) lanes fl).countCur cls n) := by
  have hnone : (s.lanesOn p (.fmma h)).filterMap (fun l => ((s.cur.lane l).error (.fmma h) []).map
      (fun a => (s.laneRun (.fmma h) p b).regFault l a)) = [] :=
    List.filterMap_eq_nil_iff.2 fun l _ => by rw [Lane.clean_error _ (hr.clean l)]; rfl
  have hall : (s.lanesOn p (.fmma h)).filter (fun l => !(([] : List LaneFault).any (fun f => f.lane == l))) = s.lanesOn p (.fmma h) :=
    List.filter_eq_self.2 fun _ _ => rfl
  have hbad : (s.lanesOn p (.fmma h)).filterMap (fun l => (([] : List (Nat × Word)).find? (fun b => b.1 == l / s.cur.kern.gwidth)).map
      (fun b' => (s.laneRun (.fmma h) p b).regFault l b'.2)) = [] := List.filterMap_eq_nil_iff.2 fun _ _ => rfl
  refine ⟨matClass (viewFmt (viewOf s.cur.code.mview h.a)),
    ((sortNat ((s.lanesOn p (.fmma h)).map (fun l => l / s.cur.kern.gwidth))).length - ([] : List (Nat × Word)).length)
      * (128 * (512 / matBits (viewFmt (viewOf s.cur.code.mview h.a)))), ?_⟩
  show execFmma h s = _
  have hwhole : (s.laneRun (.fmma h) p b).whole = true := (hr.whole _ _).1
  rw [execFmma, State.laneWord, hr.laneParts_eq hok, if_pos hwhole]
  rw [State.laneRun] at hnone hbad ⊢
  simp only [hnone, hall, s.correct_clean hr.clean, State.foldl_correctLane_clean hr.clean, hgroups, hbad, List.append_nil]
  rfl

/-- An FMMA that fits its views gives each active lane its part, and FSTAT the flags of its groups (R186). -/
theorem LaneReady.fmma_spec (hr : LaneReady s (.fmma h) p b) (hok : fmmaOk h s.cur = true) : ∃ t, Gives (.fmma h) s t
    ∧ (∀ l, t.cur.lane l = if l ∈ s.lanesOn p (.fmma h) then s.cur.fmmaPart h l else s.cur.lane l)
    ∧ (∀ j : Nat, t.cur.fstat.getLsbD j = true ↔ s.cur.fstat.getLsbD j = true
        ∨ ∃ l ∈ s.lanesOn p (.fmma h), ∃ o ∈ fmmaTile s.cur h (l / s.cur.kern.gwidth), o.2.getLsbD j = true)
    ∧ t.mem = s.mem ∧ ∃ q : Path, t.cur.path? p.idx = some q ∧ q.ip = p.after ∧ q.lanes = p.lanes := by
  obtain ⟨lanes, fl, hgroups, hlane, hflags⟩ := fmmaGroups_spec (h := h) (t0 := s.cur) hr.clean
    (wordsOf s.cur.code.mview [h.a, h.b, h.c]) (s.lanesOn p (.fmma h))
    (sortNat ((s.lanesOn p (.fmma h)).map (fun l => l / s.cur.kern.gwidth))) (t := s.cur) rfl hr.lanes 0
  obtain ⟨cls, n, hexec⟩ := hr.exec_fmma hok hgroups
  obtain ⟨hcount, hmem⟩ := (s.fmmaDone (s.laneRun (.fmma h) p b) lanes fl).countCur_keeps cls n
  have hdone : s.fmmaDone (s.laneRun (.fmma h) p b) lanes fl = _ := State.finishWord_quiet _ _ _ hr.quiet
  have hcur := congrArg State.cur hdone
  have hmemDone := congrArg State.mem hdone
  rw [← hcount] at hcur
  rw [← hmem] at hmemDone
  generalize (s.fmmaDone (s.laneRun (.fmma h) p b) lanes fl).countCur cls n = t at hexec hcur hmemDone
  refine ⟨t, hexec, fun l => ?_, fun j => ?_, hmemDone, ?_⟩
  · have hsame : t.cur.lane l = ({ s.cur with lanes := lanes } : Team).lane l := by
      rw [hcur]
      rfl
    rw [hsame, hlane]
    refine if_congr (and_iff_left_of_imp fun hl => ?_) rfl rfl
    exact (mem_sortNat _ _).2 (List.mem_map_of_mem hl)
  · have hsame : t.cur.fstat = s.cur.fstat ||| fl := by
      rw [hcur]
      rfl
    rw [hsame, BitVec.getLsbD_or, Bool.or_eq_true, hflags]
    simp [mem_sortNat]
  · rw [hcur]
    exact ⟨_, Team.path?_setPath_same (Team.current_path? hr.path), rfl, rfl⟩

end Sys2Proof.Machine
end

section
open Sys2Proof Sys2Proof.Machine

/-- Settles O43: a conversion is a sweep whose lanes convert their elements in turn; an FMMA writes group after group, each lane once. -/
theorem laneConvert : Obligations.LaneConvert := by
  intro s p b h x st e ftz conv
  have hconv {i : Instr} {st dt vt : LType} {k ns nd : Nat} (hi : exec i s = .next (Machine.laneConvert i h x st dt vt k ns nd s)) :
      conv i st dt vt k ns nd := fun hr => hr.convert_swept hi
  refine ⟨fun hst => ⟨hconv (exec_vcvt_of hst), fun k wp c inW hpair => ⟨hconv (exec_vpack_of hst hpair), hconv (exec_vunpk_of hst hpair)⟩⟩,
    fun hr hok => hr.fmma_spec hok, fun hr hbad => ?_⟩
  show execFmma h s = _
  rw [execFmma, State.laneWord, hr.laneParts_of_illegal hbad]

end

section
/-!
SUPPORT. A path whose two packed passes name the same lane, over a memory whose first two entries have one key.
-/

namespace Sys2Proof.Machine

/-- The first byte of the chip scratchpad of sett 0. -/
def chipByte : Nat := Config.chipKey 0 0

/-- Stores byte 0 at the address in s1. -/
def clearByte : LaneHead := { g := ⟨false, 7⟩, ty := .b32, d := .none, a := .s 1, b := .none, c := .none }
def byteAux : AuxM := { off := 0, narrow := 1, ord := .relaxed, scope := .sett, cache := .default, aop := .add }

/-- A path of lane 0 with two passes of it. -/
def twicePath : Path := { Path.make 0 0 [0] with state := .current, packed := some [[0], [0]] }

/-- Its block, with s1 at the start of the chip scratchpad. -/
def twiceBlock : Block :=
  { seq := 0, entry := 0, snap := { s := (Team.launch.setS 1 0xA000000000000000).sregs, fmode := 0, pkr := 0, seed := none }, pend := 0,
    lanes := [0], handler := false, arr := 0 }

/-- The team of the path. -/
def twiceTeam : Team :=
  { Team.launch with
    status := .running, lanes := [Lane.launch 0 0], paths := [twicePath], curPath := some 0, block := some twiceBlock, kspsize := 64 }

/-- A memory that is not in canonical form: the byte has two entries. -/
def twiceStored : State := { State.reset with cur := twiceTeam, mem := [(chipByte, 1), (chipByte, 2)] }

theorem twiceStored_ready : LaneReady twiceStored (.vst clearByte byteAux) twicePath twiceBlock where
  path := by decide
  only q hq _ := List.mem_singleton.1 hq
  current := rfl
  start := by decide
  turn := by decide
  quiet := by decide
  running := rfl
  block := rfl
  indices := by decide
  free := by decide
  lanes := by decide
  clean l := by
    cases l with
    | zero => exact ⟨rfl, rfl, rfl, rfl⟩
    | succ l => exact ⟨rfl, rfl, rfl, rfl⟩

/-- The access of lane 0. -/
def clearOp : MemOp := twiceStored.laneOp twicePath twiceBlock (.vst clearByte byteAux) clearByte byteAux 0

/-- The access passes its checks in a team with room in the chip scratchpad. -/
theorem checkAccess_clear {t : Team} (ht : t.kspsize = 64) : checkAccess t (.lane 0) 0xA000000000000000 1 true true = none := by
  have hgva : gvaBad (.lane 0) 0xA000000000000000 = false := by decide
  have hrange : rangeBad t (.lane 0) 0xA000000000000000 1 = none := by
    show (if t.kspsize < 0 + 1 then some codeChipspRange else none) = none
    rw [ht]
    rfl
  have hstt : sttBad t (.lane 0) 0xA000000000000000 true = none := if_neg (by decide)
  rw [checkAccess, hgva, hrange]
  exact hstt

/-- The access finds its byte in every state near `twiceStored`. -/
theorem locateLane_clear {u : State} (hu : twiceStored.near u) :
    u.locateLane (.vst clearByte byteAux) twiceBlock.snap.pkr clearOp = (u, .here [(chipByte, 1)]) := by
  obtain ⟨hsame, -⟩ := hu
  have hksp : u.cur.kspsize = 64 := by rw [hsame]; rfl
  have hsett : u.cur.sett = 0 := by rw [hsame]; rfl
  have hbase : u.chipBase u.cur = 0 := by rw [hsame]; rfl
  have hcheck := checkAccess_clear hksp
  have hplace : u.locate (.lane 0) 0xA000000000000000 1 true true = (u, .key chipByte) := by
    rw [State.locate, hcheck]
    show (u, Place.key (Config.chipKey u.cur.sett (u.chipBase u.cur + 0))) = _
    rw [hsett, hbase]
    rfl
  show (match checkAccess u.cur (.lane 0) 0xA000000000000000 1 true true with
    | some c => (u, LaneAccess.fault c)
    | none => locateAll 0 true [(0xA000000000000000, 1)] u) = _
  rw [hcheck]
  show locateAll 0 true [(0xA000000000000000, 1)] u = _
  rw [locateAll, hplace]
  rfl

/-- The memory an instruction leaves. -/
def memAfter (o : Out) : Memory :=
  match o with
  | .next u => u.mem
  | _ => []

/-- Each of the two passes takes one of the two entries. -/
theorem memAfter_twiceStored : memAfter (exec (.vst clearByte byteAux) twiceStored) = [] := by decide +kernel

end Sys2Proof.Machine
end

section
open Sys2Proof Sys2Proof.Machine

/-- Refutes O44: in `twiceStored` a VST of byte 0 stores once for each of the two passes that name lane 0, and over the memory's two
entries of one key this is not what storing once leaves. -/
theorem not_laneMemory : ¬ Obligations.LaneMemory := by
  unfold Obligations.LaneMemory
  intro h
  obtain ⟨-, -, -, ⟨hstores, -⟩, -⟩ := h twiceStored twicePath twiceBlock clearByte byteAux
  have hlane {l : Nat} (hl : l ∈ twiceStored.lanesOn twicePath (.vst clearByte byteAux)) : l = 0 := by
    have honly : ∀ l ∈ twiceStored.lanesOn twicePath (.vst clearByte byteAux), l = 0 := by decide
    exact honly l hl
  obtain ⟨t, hgives, -, -, -, hmem, -⟩ := hstores (fun _ => [(chipByte, 1)]) twiceStored_ready
    (fun l hl u hu => by
      obtain rfl := hlane hl
      exact ⟨u, locateLane_clear hu, hu, rfl, rfl⟩)
    (by decide)
  have hempty : t.mem = [] := by
    have hafter := memAfter_twiceStored
    rwa [show exec (.vst clearByte byteAux) twiceStored = .next t from hgives] at hafter
  rw [hempty] at hmem
  exact absurd hmem (by decide)

end

section
/-!
SUPPORT. A state in which one request stands twice in the list of requests in flight.
-/

namespace Sys2Proof.Machine

/-- Adds 1 to a 32-bit word of sett 0, for lane 0. -/
def oneMore : LaneAcc := { lane := 0, ea := 0x200000, width := 4, kind := 2, data := bytesOf 4 1, exp := [] }

/-- A VATOM.ADD of 32 bits. -/
def addWord : Instr :=
  .vatom { g := ⟨false, 7⟩, ty := .i32, d := .none, a := .none, b := .none, c := .none }
    { off := 0, narrow := 0, ord := .relaxed, scope := .sett, cache := .default, aop := .add }

/-- The request that carries it. -/
def addReq : GReq :=
  { tag := 0, uid := 0, path := 0, ip := 0, block := 0, instr := addWord, accs := [oneMore], pkg := 0, pkr := 0, eligible := false, core := 0,
    sentAt := 0, performed := false, answers := [], flags := 0, ctx := 1, line := 0x4000 }

/-- The word's place in memory. -/
def addLeaf : Leaf := { key := Config.dramKey 0 0x200000, pkey := 0, cmp := false, x := true, w := true, rd := true }

/-- Context 1 with its pages mapped, and the request twice. -/
def twiceAsked : State := { State.reset.placeBytes [] with reqs := [addReq, addReq] }

theorem twiceAsked_reqs {q : GReq} (h : q ∈ twiceAsked.reqs) : q = addReq := by
  rcases List.mem_cons.1 h with rfl | h
  · rfl
  · exact List.mem_singleton.1 h

/-- A path, a block and a frame that the request does not concern. -/
def noPath : Path := Path.make 0 0 []
def noBlock : Block :=
  { seq := 0, entry := 0, snap := { s := Team.launch.sregs, fmode := 0, pkr := 0, seed := none }, pend := 0, lanes := [], handler := false,
    arr := 0 }

/-- Four bytes of the memory an instruction leaves. -/
def wordAfter (o : Out) (k : Nat) : Nat :=
  match o with
  | .next u => u.mem.getNat k 4
  | _ => 0

/-- The request is performed for each of its two places: the word grows by 2. -/
theorem wordAfter_twiceAsked : wordAfter (exec (.globalRequest { tag := 0, part := 0xFFFF }) twiceAsked) addLeaf.key = 2 := by
  decide +kernel

end Sys2Proof.Machine
end

section
open Sys2Proof Sys2Proof.Machine

/-- Refutes O46: in `twiceAsked` the one request of its tag stands twice among those in flight, and its atomic adds twice. -/
theorem not_laneEvents : ¬ Obligations.LaneEvents := by
  unfold Obligations.LaneEvents
  intro h
  obtain ⟨-, -, -, -, -, -, -, -, hreq⟩ :=
    h twiceAsked noPath (FrameInfo.filled 0 0 0) 0 0 0 [] addReq oneMore addLeaf noBlock
  obtain ⟨hown, -⟩ := hreq rfl List.mem_cons_self (fun q hq _ => twiceAsked_reqs hq)
    (fun q hq hne => absurd (congrArg GReq.tag (twiceAsked_reqs hq)) hne) rfl rfl (by decide) (by decide) (by decide)
  obtain ⟨-, hgood⟩ := hown rfl (by decide) rfl rfl rfl rfl (by decide)
  obtain ⟨-, -, hatomic⟩ := hgood (by decide +kernel) (by decide +kernel)
  obtain ⟨t, hgives, hmem, -⟩ := hatomic rfl (by decide) (by decide +kernel)
  have htwo : t.mem.getNat addLeaf.key 4 = 2 := by
    have hword := wordAfter_twiceAsked
    rwa [show exec (.globalRequest { tag := 0, part := 0xFFFF }) twiceAsked = .next t from hgives] at hword
  rw [hmem] at htwo
  exact absurd htwo (by decide +kernel)

end

section
/-!
SUPPORT. User queues (R285 to R287): what a doorbell, the promotion of a packet and the end of one leave of a queue.
-/

namespace Sys2Proof.Machine

variable {s : State} {key : Nat} {q : UserQueue}

/-! ### What a queue's reads depend on -/

/-- A read of a line draws undefined values at most. -/
theorem State.readLine_state (s : State) (cmp : Bool) (k n : Nat) : ∃ free, (s.readLine cmp k n).2 = { s with free := free } := by
  rw [State.readLine]
  split
  · exact ⟨s.free, rfl⟩
  · exact ⟨_, rfl⟩

/-- Reads of the device do not depend on the queues. -/
theorem State.devRead_queues (s : State) (qs : FMap UserQueue) (ctx a n : Nat) :
    ({ s with queues := qs } : State).devRead ctx a n = s.devRead ctx a n := by
  induction n generalizing a with
  | zero => rfl
  | succ n ih =>
    have hleaf : ({ s with queues := qs } : State).devLeaf ctx a .load = s.devLeaf ctx a .load := rfl
    have hread (cmp : Bool) (k : Nat) : (({ s with queues := qs } : State).readLine cmp k 1).1 = (s.readLine cmp k 1).1 := by
      rw [State.readLine_fst, State.readLine_fst]
      rfl
    simp only [State.devRead, ih, hleaf, hread]

/-- Whether a packet is valid does not depend on the counts of its queue. -/
theorem State.headerValid_queues (s : State) (qs : FMap UserQueue) {q v : UserQueue} (hctx : v.ctx = q.ctx) (hbase : v.base = q.base)
    (hlog : v.log2 = q.log2) (i : Nat) : ({ s with queues := qs } : State).headerValid v i = s.headerValid q i := by
  rw [State.headerValid, State.headerValid, State.devNat, State.devNat, State.devRead_queues, UserQueue.slot, UserQueue.slot, hctx,
    hbase, hlog]

/-- What is read of a header joins the list of those seen valid. -/
theorem mem_seen_of_valid {valid : Nat → Bool} {xs : List Nat} {i : Nat} (seen : List Nat) (hi : i ∈ xs) (hvalid : valid i = true) :
    i ∈ xs.foldl (fun seen i => if seen.contains i || !valid i then seen else insertNat i seen) seen := by
  have hkeep (xs seen : List Nat) (h : i ∈ seen) :
      i ∈ xs.foldl (fun seen i => if seen.contains i || !valid i then seen else insertNat i seen) seen := by
    induction xs generalizing seen with
    | nil => exact h
    | cons x xs ih =>
      rw [List.foldl_cons]
      refine ih _ ?_
      split
      · exact h
      · exact (mem_insertNat _ _ _).2 (.inr h)
  induction xs generalizing seen with
  | nil => exact absurd hi List.not_mem_nil
  | cons x xs ih =>
    rw [List.foldl_cons]
    rcases List.mem_cons.1 hi with rfl | hi
    · refine hkeep _ _ ?_
      split
      next h =>
        rw [hvalid, Bool.not_true, Bool.or_false] at h
        exact List.contains_iff_mem.1 h
      next => exact (mem_insertNat _ _ _).2 (.inl rfl)
    · exact ih _ hi

/-! ### Steps of a queue -/

/-- A queue changed is read back. -/
theorem State.get?_setQueue (hq : FMap.get? s.queues key = some q) (f : UserQueue → UserQueue) :
    FMap.get? (s.setQueue key f).queues key = some (f q) := by
  rw [State.setQueue, FMap.get?_modify, if_pos rfl, hq, Option.map_some]

/-- A promotion sets the time a packet became eligible at and nothing else of the queue. -/
theorem State.promote_eq (hq : FMap.get? s.queues key = some q) : ∃ tick queues e, s.promote key = { s with tick := tick, queues := queues }
    ∧ FMap.get? queues key = some { q with eligible := e }
    ∧ (q.running = false → q.eligible = none → q.rd ∈ q.seen → e = some s.tick) := by
  rw [State.promote, hq]
  dsimp only
  split
  next h =>
    refine ⟨s.tick, s.queues, q.eligible, rfl, hq, fun hrun hel hseen => ?_⟩
    rw [hrun, hel, List.contains_iff_mem.2 hseen] at h
    exact absurd h (by decide)
  next h =>
    have hset := State.get?_setQueue (s := { s with tick := s.tick + 1 }) hq (fun q => { q with eligible := some s.tick })
    exact ⟨_, _, some s.tick, rfl, hset, fun _ _ _ => rfl⟩

/-- A doorbell takes its value in and promotes the packet at the read index (R285, R286). -/
theorem State.doorbell_eq (hq : FMap.get? s.queues key = some q) (value n : Nat) : ∃ tick queues seen e,
    ((s.setQueue key (fun q => { q with db := value })).readHeaders key q.rd n).promote key = { s with tick := tick, queues := queues }
      ∧ FMap.get? queues key = some { q with db := value, seen := seen, eligible := e }
      ∧ (0 < n → s.headerValid q q.rd = true → q.running = false → q.eligible = none → e = some s.tick) := by
  have hdb := State.get?_setQueue hq (fun q => { q with db := value })
  obtain ⟨tick, queues, e, heq, hget, hel⟩ := State.promote_eq (State.get?_setQueue hdb (fun q' => { q' with
    seen := (upTo q.rd n).foldl (fun xs i => if xs.contains i || !(s.setQueue key (fun q => { q with db := value })).headerValid q' i
      then xs else insertNat i xs) q'.seen }))
  refine ⟨tick, queues, _, e, heq, hget, fun hn hvalid hrun hnone => hel hrun hnone ?_⟩
  refine mem_seen_of_valid _ ((mem_upTo _ _ _).2 ⟨le_refl _, Nat.lt_add_of_pos_right hn⟩) ?_
  exact (s.headerValid_queues _ rfl rfl rfl q.rd).trans hvalid

/-- The read index moves past a packet (R287). -/
theorem State.nextPacket_eq (hq : FMap.get? s.queues key = some q) : ∃ tick queues v, s.nextPacket key = { s with tick := tick, queues := queues }
    ∧ FMap.get? queues key = some v ∧ v.rd = q.rd + 1 ∧ v.running = false ∧ v.base = q.base ∧ v.log2 = q.log2 ∧ v.db = q.db := by
  have hnext := State.get?_setQueue hq (fun q => { q with
    rd := q.rd + 1, running := false, eligible := none, seen := q.seen.filter (fun i => decide (q.rd < i)) })
  rw [State.nextPacket, hnext]
  dsimp only
  split
  next =>
    obtain ⟨tick, queues, e, heq, hget, -⟩ := State.promote_eq (State.get?_setQueue hnext (fun q' => { q' with
      seen := (upTo (q.rd + 1 + 2 ^ q.log2 - 1) 1).foldl (fun xs i =>
        if xs.contains i || !(s.setQueue key _).headerValid q' i then xs else insertNat i xs) q'.seen }))
    exact ⟨tick, queues, _, heq, hget, rfl, rfl, rfl, rfl, rfl⟩
  next =>
    obtain ⟨tick, queues, e, heq, hget, -⟩ := State.promote_eq hnext
    exact ⟨tick, queues, _, heq, hget, rfl, rfl, rfl, rfl, rfl⟩

/-- A signal's decrement changes no queue (R287). -/
theorem State.signalDown_queues (s : State) (ctx : Nat) (grid a : Word) : (s.signalDown ctx grid a).queues = s.queues := by
  have hfail (c : Nat) : (s.ctxEvent ctx 8 c grid a).queues = s.queues := rfl
  rw [State.signalDown]
  split_ifs
  · rfl
  · exact hfail _
  · exact hfail _
  · exact hfail _
  · split
    · exact hfail _
    · rfl
  · split
    · exact hfail _
    next l hl =>
      obtain ⟨free, hread⟩ := s.readLine_state l.cmp l.key 8
      obtain ⟨_, _, _, _, _, _, hwrite⟩ := (s.readLine l.cmp l.key 8).2.writeLine_none_eq l.cmp l.key
        (bytesOf 8 ((natOf (s.readLine l.cmp l.key 8).1 + (2 ^ 64 - 1)) % 2 ^ 64))
      dsimp only
      rw [hwrite, hread]

/-- Nothing is signalled where no signal is named. -/
theorem State.signalDown_zero (s : State) (ctx : Nat) (grid : Word) : s.signalDown ctx grid 0 = s := by
  rw [State.signalDown]
  exact if_pos rfl

/-- The end of a packet (R287): the queue moves on; without a signal nothing but the header is written. -/
theorem State.endPacket_spec (hq : FMap.get? s.queues key = some q) (p : Packet) (status : Nat) (grid : Word) :
    ∃ v, FMap.get? (s.endPacket key p status grid).queues key = some v ∧ v.rd = q.rd + 1 ∧ v.running = false ∧ v.base = q.base
      ∧ v.log2 = q.log2 ∧ v.db = q.db
      ∧ (p.signal = 0 → (s.endPacket key p status grid).mem
          = (s.devWrite q.ctx (q.slot q.rd) (bytesOf 4 (doneHeader p.hdr status))).mem) := by
  obtain ⟨_, _, _, _, _, _, hwrite⟩ := s.devWrite_eq q.ctx (q.slot q.rd) (bytesOf 4 (doneHeader p.hdr status))
  have hkept : ((s.devWrite q.ctx (q.slot q.rd) (bytesOf 4 (doneHeader p.hdr status))).signalDown q.ctx grid p.signal).queues = s.queues := by
    rw [State.signalDown_queues, hwrite]
  obtain ⟨tick, queues, v, hnext, hget, hrd, hrun, hbase, hlog, hdb⟩ := State.nextPacket_eq (q := q) (key := key)
    (s := (s.devWrite q.ctx (q.slot q.rd) (bytesOf 4 (doneHeader p.hdr status))).signalDown q.ctx grid p.signal) (by rw [hkept]; exact hq)
  rw [State.endPacket, hq]
  dsimp only
  rw [hnext]
  refine ⟨v, hget, hrd, hrun, hbase, hlog, hdb, fun hsignal => ?_⟩
  rw [hsignal, State.signalDown_zero]

/-- A header with VALID = 0 and a status keeps its other fields (R330). -/
theorem doneHeader_fields (hdr : Nat) {status : Nat} (h : status < 256) : bitAt (doneHeader hdr status) 8 = false
    ∧ bitsNat (doneHeader hdr status) 23 16 = status ∧ bitsNat (doneHeader hdr status) 7 0 = bitsNat hdr 7 0
    ∧ bitsNat (doneHeader hdr status) 15 9 = bitsNat hdr 15 9 := by
  simp only [doneHeader, bitsNat, bitAt, Nat.reduceSub, Nat.reduceAdd, Nat.reducePow, Nat.pow_zero, Nat.div_one, beq_eq_false_iff_ne]
  omega

/-! ### A grid starts -/

/-- Chip scratchpad given to a grid changes the runs of its setts and bytes of K (R205). -/
theorem allocChip_eq {gid n : Nat} {ts : List Nat} {r : FMap Nat × State} (h : allocChip gid n ts s = some r) :
    ∃ setts mem, r.2 = { s with setts := setts, mem := mem } := by
  induction ts generalizing s r with
  | nil =>
    cases h
    exact ⟨s.setts, s.mem, rfl⟩
  | cons t ts ih =>
    rw [allocChip] at h
    split at h
    next => cases h
    next b hb =>
      obtain ⟨r', hr', rfl⟩ := Option.map_eq_some_iff.1 h
      obtain ⟨setts, mem, heq⟩ := ih hr'
      exact ⟨setts, mem, heq⟩

/-- A grid as it starts. -/
def newGrid (id ctx site : Nat) (queue : Option (Nat × Nat)) (parent : Option Nat) (prio : Nat) (p : Packet) (k : Kernel) : Grid :=
  { id := id, ctx := ctx, site := site, queue := queue, parent := parent, pkt := p, setts := p.settList, kern := k, next := 0, gang := 0,
    ended := 0, faulted := false, tail := [], child := parent.isSome, kbase := [], prio := prio }

/-- A grid that starts stands in the table, with its chip scratchpad where there is room for it. -/
theorem State.startGrid_spec (s : State) (ctx site : Nat) (queue : Option (Nat × Nat)) (parent : Option Nat) (prio : Nat) (p : Packet)
    (k : Kernel) : ∃ setts mem grids g, s.startGrid ctx site queue parent prio p k
        = { s with tick := s.tick + 1, grids := grids, setts := setts, mem := mem }
      ∧ FMap.get? grids (s.tick + 1) = some g ∧ (∀ id, id ≠ s.tick + 1 → FMap.get? grids id = FMap.get? s.grids id)
      ∧ ∃ kbase, g = { newGrid (s.tick + 1) ctx site queue parent prio p k with kbase := kbase } := by
  have hset : FMap.get? (FMap.set s.grids (s.tick + 1) (newGrid (s.tick + 1) ctx site queue parent prio p k)) (s.tick + 1)
      = some (newGrid (s.tick + 1) ctx site queue parent prio p k) := FMap.get?_set_same _ _ _
  have hother (id : Nat) (hid : id ≠ s.tick + 1) :
      FMap.get? (FMap.set s.grids (s.tick + 1) (newGrid (s.tick + 1) ctx site queue parent prio p k)) id = FMap.get? s.grids id :=
    FMap.get?_set_other _ _ hid
  have hdef : s.startGrid ctx site queue parent prio p k = (State.chipReady { s with
      tick := s.tick + 1, grids := FMap.set s.grids (s.tick + 1) (newGrid (s.tick + 1) ctx site queue parent prio p k) }
        (newGrid (s.tick + 1) ctx site queue parent prio p k)).getD { s with
      tick := s.tick + 1, grids := FMap.set s.grids (s.tick + 1) (newGrid (s.tick + 1) ctx site queue parent prio p k) } := rfl
  rw [hdef, State.chipReady]
  split
  · exact ⟨s.setts, s.mem, _, _, rfl, hset, hother, [], rfl⟩
  · cases halloc : allocChip (newGrid (s.tick + 1) ctx site queue parent prio p k).id
        (4096 * (newGrid (s.tick + 1) ctx site queue parent prio p k).pkt.ksppages)
        (newGrid (s.tick + 1) ctx site queue parent prio p k).setts { s with
      tick := s.tick + 1, grids := FMap.set s.grids (s.tick + 1) (newGrid (s.tick + 1) ctx site queue parent prio p k) } with
    | none => exact ⟨s.setts, s.mem, _, _, rfl, hset, hother, [], rfl⟩
    | some r =>
      obtain ⟨setts, mem, heq⟩ := allocChip_eq halloc
      refine ⟨setts, mem, FMap.modify (FMap.set s.grids (s.tick + 1) (newGrid (s.tick + 1) ctx site queue parent prio p k)) (s.tick + 1)
        (fun g => { g with kbase := r.1 }), _, ?_, ?_, fun id hid => ?_, r.1, rfl⟩
      · rw [Option.map_some, Option.getD_some, heq]
        rfl
      · rw [FMap.get?_modify, if_pos rfl, hset]
        rfl
      · rw [FMap.get?_modify, if_neg hid]
        exact hother id hid

/-- A NOP packet ends with 1, or with 6 where it names setts its context does not have (log entry 125). -/
theorem exec_packetStart_nop {site : Nat} (hnext : s.nextQueue site = some (key, q))
    (hok : (parsePacket (s.packetBytes q q.rd)).ok = true) (htype : (parsePacket (s.packetBytes q q.rd)).type = 2) :
    ((∃ c, s.ctx? q.ctx = some c ∧ settsBad c (parsePacket (s.packetBytes q q.rd)) = false) → exec (.packetStart site) s
        = .next ((s.setQueue key (fun q => { q with running := true })).endPacket key (parsePacket (s.packetBytes q q.rd)) 1 0))
      ∧ ((¬ ∃ c, s.ctx? q.ctx = some c ∧ settsBad c (parsePacket (s.packetBytes q q.rd)) = false) → exec (.packetStart site) s
        = .next ((s.setQueue key (fun q => { q with running := true })).endPacket key (parsePacket (s.packetBytes q q.rd)) 6 0)) := by
  refine ⟨fun ⟨c, hctx, hgood⟩ => ?_, fun hbad => ?_⟩
  · show execPacketStart site s = _
    rw [execPacketStart, hnext]
    dsimp only
    rw [if_neg (by rw [hok]; decide), if_pos htype, hctx]
    dsimp only
    rw [hgood]
    rfl
  · show execPacketStart site s = _
    rw [execPacketStart, hnext]
    dsimp only
    rw [if_neg (by rw [hok]; decide), if_pos htype]
    cases hctx : s.ctx? q.ctx with
    | none => rfl
    | some c =>
      have hsetts : settsBad c (parsePacket (s.packetBytes q q.rd)) = true :=
        Bool.of_not_eq_false fun hno => hbad ⟨c, hctx, hno⟩
      dsimp only
      rw [hsetts]
      rfl

/-- A KERNEL packet that starts becomes a grid, or is refused, or waits for its object (R287). -/
theorem exec_packetStart_kernel {site : Nat} (hnext : s.nextQueue site = some (key, q))
    (hok : (parsePacket (s.packetBytes q q.rd)).ok = true) (htype : (parsePacket (s.packetBytes q q.rd)).type ≠ 2) :
    (∀ k, s.launchTest (.packet key) q.ctx (parsePacket (s.packetBytes q q.rd)) = (0, k) → exec (.packetStart site) s
        = .next (((s.setQueue key (fun q => { q with running := true })).dropFar (.packet key)).startGrid q.ctx site (some (key, q.rd)) none
          q.prio (parsePacket (s.packetBytes q q.rd)) k))
      ∧ ∀ c k, c ≠ 0 → s.launchTest (.packet key) q.ctx (parsePacket (s.packetBytes q q.rd)) = (c, k) → exec (.packetStart site) s
        = .next (if isAwait c = true then s.askFar (.packet key) c
          else ((s.setQueue key (fun q => { q with running := true })).dropFar (.packet key)).endPacket key
            (parsePacket (s.packetBytes q q.rd)) c 0) := by
  refine ⟨fun k htest => ?_, fun c k hc htest => ?_⟩
  · show execPacketStart site s = _
    rw [execPacketStart, hnext]
    dsimp only
    rw [if_neg (by rw [hok]; decide), if_neg htype, htest]
    rfl
  · show execPacketStart site s = _
    rw [execPacketStart, hnext]
    dsimp only
    rw [if_neg (by rw [hok]; decide), if_neg htype, htest]
    cases c with
    | zero => exact absurd rfl hc
    | succ c => rfl

end Sys2Proof.Machine
end

section
open Sys2Proof Sys2Proof.Machine

/-- Settles O47: doorbells and packet ends by what they leave of one queue, the start of a packet by the branches of its test. -/
theorem packetsStart : Obligations.PacketsStart := by
  unfold Obligations.PacketsStart
  intro s site n value key q k
  dsimp only
  refine ⟨fun hq => ?_, fun hq hle => ?_, fun hq hlt => ?_, fun hnone => ?_, fun hnext => ⟨fun hbad => ?_, fun hok htype => ?_,
    fun hok htype c hc htest => ?_, fun hok htype htest => ?_⟩, fun x p status grid hq => State.endPacket_spec hq p status grid,
    fun hdr status hstatus => doneHeader_fields hdr hstatus⟩
  · show execUserQueueDoorbell site n value s = _
    rw [execUserQueueDoorbell, hq]
  · show execUserQueueDoorbell site n value s = _
    rw [execUserQueueDoorbell, hq]
    exact congrArg Host.Outcome.next (if_pos hle)
  · obtain ⟨tick, queues, seen, e, heq, hget, hel⟩ := State.doorbell_eq hq value (min value (q.rd + 2 ^ q.log2) - q.rd)
    have hgives : Gives (.userQueueDoorbell site n value) s { s with tick := tick, queues := queues } := by
      show execUserQueueDoorbell site n value s = _
      rw [execUserQueueDoorbell, hq]
      exact congrArg Host.Outcome.next ((if_neg (Nat.not_le.2 hlt)).trans heq)
    refine ⟨_, _, hgives, hget, rfl, rfl, rfl, rfl, rfl, fun hrd hvalid hrun hnone => hel ?_ hvalid hrun hnone⟩
    have hlen : 0 < 2 ^ q.log2 := Nat.two_pow_pos _
    omega
  · show execPacketStart site s = _
    rw [execPacketStart, hnone]
  · show execPacketStart site s = _
    rw [execPacketStart, hnext]
    simp only [hbad, Bool.not_false, if_true]
  · obtain ⟨hgood, hbad⟩ := exec_packetStart_nop hnext hok htype
    by_cases hsetts : ∃ c, s.ctx? q.ctx = some c ∧ settsBad c (parsePacket (s.packetBytes q q.rd)) = false
    · rw [if_pos hsetts]
      exact hgood hsetts
    · rw [if_neg hsetts]
      exact hbad hsetts
  · obtain ⟨-, hrefused⟩ := exec_packetStart_kernel hnext hok (by rw [htype]; decide)
    exact hrefused c k hc htest
  · obtain ⟨hstarts, -⟩ := exec_packetStart_kernel hnext hok (by rw [htype]; decide)
    have hgives := hstarts k htest
    obtain ⟨setts, mem, grids, g, hstart, hget, -, kbase, hg⟩ := State.startGrid_spec
      ((s.setQueue key (fun q => { q with running := true })).dropFar (.packet key)) q.ctx site (some (key, q.rd)) none q.prio
      (parsePacket (s.packetBytes q q.rd)) k
    subst hg
    exact ⟨_, _, hgives.trans (congrArg Host.Outcome.next hstart), hget, rfl, rfl, rfl, rfl, rfl, rfl, rfl, rfl, rfl, rfl, rfl, rfl, rfl, rfl⟩

end

section
/-!
SUPPORT. Gangs, tail lists and the end of a grid (R94, R97, R287, R325, R347): what the placing of teams leaves of the machine, and
which grids and teams the signals at the end of a grid leave alone.
-/

namespace Sys2Proof.Machine

variable {s : State} {g : Grid}

/-! ### Teams placed -/

/-- A team of a gang as it is launched (R35, R347). -/
def Launched (g : Grid) (sett gang size idx core : Nat) (u : Team) : Prop :=
  u.status = .running ∧ u.teamIndex = BitVec.ofNat 32 idx ∧ u.gridId = BitVec.ofNat 64 g.id ∧ u.gangId = BitVec.ofNat 32 gang
    ∧ u.gangSize = size ∧ u.sett = sett ∧ u.core = core ∧ u.ctx = g.ctx ∧ u.kern = g.kern
    ∧ u.spc = g.kern.sbase + BitVec.ofNat 64 g.kern.sentry ∧ u.s 1 = g.pkt.args ∧ (∀ q : Reg, q ≠ 1 → u.s q = 0)
    ∧ u.lanes.length = g.kern.lanesN ∧ u.block = none

/-- The s registers of a team at launch: s1 holds its argument, every other one 0. -/
theorem Team.s_of_launch {t : Team} {x : Word} (h : t.sregs = Team.launch.sregs.set 1 x) : t.s 1 = x ∧ ∀ q : Reg, q ≠ 1 → t.s q = 0 := by
  have hval (q : Reg) : t.s q = if q = 0 then 0 else (Team.launch.sregs.set 1 x)[q.toNat] := by rw [Team.s, h]
  refine ⟨?_, fun q hq => ?_⟩
  · rw [hval]
    rfl
  · have hne : (1 : Nat) ≠ q.toNat := fun h1 => hq (BitVec.eq_of_toNat_eq h1.symm)
    rw [hval, Vector.getElem_set_ne _ _ hne]
    split
    · rfl
    · exact Vector.getElem_replicate _

/-- A team put among others stands there, and they stay. -/
theorem mem_insertTeam (t u : Team) (xs : List Team) : u ∈ insertTeam t xs ↔ u = t ∨ u ∈ xs := by
  induction xs with
  | nil => rw [insertTeam, List.mem_singleton, iff_self_or]; exact fun h => absurd h List.not_mem_nil
  | cons x xs ih =>
    rw [insertTeam]
    split
    · exact List.mem_cons
    · rw [List.mem_cons, ih, List.mem_cons]
      exact or_left_comm

/-- L1 lines discarded leave lines and the marks of fills on their way. -/
theorem foldl_l1Discard (s : State) (sett : Nat) (u : List Nat) :
    ∃ l1 reqs, u.foldl (fun s c => s.l1Discard sett c) s = { s with l1 := l1, reqs := reqs } := by
  induction u generalizing s with
  | nil => exact ⟨s.l1, s.reqs, rfl⟩
  | cons c u ih =>
    obtain ⟨_, _, heq⟩ := ih (s.l1Discard sett c)
    rw [List.foldl_cons, heq]
    exact ⟨_, _, rfl⟩

/-- A team placed is launched among the others (R347). -/
theorem State.placeTeam_spec (s : State) (g : Grid) (sett cl cbase gang size idx area : Nat) (u : List Nat) :
    ∃ tick ctxs l1 reqs t, s.placeTeam g sett cl cbase gang size idx area u
        = { s with tick := tick, ctxs := ctxs, l1 := l1, reqs := reqs, others := insertTeam t s.others }
      ∧ Launched g sett gang size idx (u.headD 0) t := by
  have hfree : (freshLanes g.kern.lanesN g.kern.regsN).length = g.kern.lanesN := by
    rw [freshLanes, List.length_map, length_upTo]
  rw [State.placeTeam]
  dsimp only
  split
  next =>
    refine ⟨_, _, _, _, _, rfl, rfl, rfl, rfl, rfl, rfl, rfl, rfl, rfl, rfl, rfl, ?_, ?_, hfree, rfl⟩
    · exact (Team.s_of_launch rfl).1
    · exact (Team.s_of_launch rfl).2
  next =>
    obtain ⟨l1, reqs, heq⟩ := foldl_l1Discard (s.setCtx g.ctx _) sett u
    rw [heq]
    refine ⟨_, _, _, _, _, rfl, rfl, rfl, rfl, rfl, rfl, rfl, rfl, rfl, rfl, rfl, ?_, ?_, hfree, rfl⟩
    · exact (Team.s_of_launch rfl).1
    · exact (Team.s_of_launch rfl).2

/-- Every team of a list is placed, in its turn. -/
theorem foldl_placeTeam (s : State) (g : Grid) (sett cl cbase gang size : Nat) (xs : List ((List Nat × Nat) × Nat)) :
    ∃ tick ctxs l1 reqs others, xs.foldl (fun s x => s.placeTeam g sett cl cbase gang size x.2 x.1.2 x.1.1) s
        = { s with tick := tick, ctxs := ctxs, l1 := l1, reqs := reqs, others := others }
      ∧ (∀ x ∈ xs, ∃ u ∈ others, Launched g sett gang size x.2 (x.1.1.headD 0) u) ∧ ∀ u ∈ s.others, u ∈ others := by
  induction xs generalizing s with
  | nil => exact ⟨s.tick, s.ctxs, s.l1, s.reqs, s.others, rfl, fun _ h => absurd h List.not_mem_nil, fun _ h => h⟩
  | cons x xs ih =>
    obtain ⟨_, _, _, _, t, hplace, hlaunch⟩ := s.placeTeam_spec g sett cl cbase gang size x.2 x.1.2 x.1.1
    obtain ⟨_, _, _, _, others, hrest, hall, hkept⟩ := ih (s.placeTeam g sett cl cbase gang size x.2 x.1.2 x.1.1)
    rw [hplace] at hkept
    have hin (u : Team) (hu : u = t ∨ u ∈ s.others) : u ∈ others := hkept u ((mem_insertTeam t u s.others).2 hu)
    rw [List.foldl_cons, hrest, hplace]
    refine ⟨_, _, _, _, _, rfl, fun y hy => ?_, fun u hu => hin u (.inr hu)⟩
    rcases List.mem_cons.1 hy with rfl | hy
    · exact ⟨t, hin t (.inl rfl), hlaunch⟩
    · exact hall y hy

/-- Zeros written for the device change bytes, states of lines, undefined values and the marks of races. -/
theorem State.devZero_eq (s : State) (ctx a n : Nat) : ∃ mem packed free others fired wlog,
    s.devZero ctx a n = { s with
      mem := mem, packed := packed, free := free, others := others, cur := { s.cur with fired := fired, wlog := wlog } } := by
  rw [State.devZero]
  generalize lineCut a n = xs
  induction xs generalizing s with
  | nil => exact ⟨s.mem, s.packed, s.free, s.others, s.cur.fired, s.cur.wlog, rfl⟩
  | cons x xs ih =>
    obtain ⟨_, _, _, _, _, _, hx⟩ := s.devWrite_eq ctx x.1 (List.replicate x.2 0)
    obtain ⟨_, _, _, _, _, _, hxs⟩ := ih (s.devWrite ctx x.1 (List.replicate x.2 0))
    rw [List.foldl_cons, hxs, hx]
    exact ⟨_, _, _, _, _, _, rfl⟩

/-- The same for the areas of a gang. -/
theorem foldl_devZero (s : State) (ctx n : Nat) (areas : List Nat) : ∃ mem packed free others fired wlog,
    areas.foldl (fun s a => s.devZero ctx a n) s = { s with
      mem := mem, packed := packed, free := free, others := others, cur := { s.cur with fired := fired, wlog := wlog } } := by
  induction areas generalizing s with
  | nil => exact ⟨s.mem, s.packed, s.free, s.others, s.cur.fired, s.cur.wlog, rfl⟩
  | cons a areas ih =>
    obtain ⟨_, _, _, _, _, _, ha⟩ := s.devZero_eq ctx a n
    obtain ⟨_, _, _, _, _, _, hrest⟩ := ih (s.devZero ctx a n)
    rw [List.foldl_cons, hrest, ha]
    exact ⟨_, _, _, _, _, _, rfl⟩

/-- A gang placed (R94, R347): its teams are launched, its grid counts them, and the focused team's registers stay. -/
theorem State.placeGang_spec (s : State) (g : Grid) (sett cl base : Nat) (us : List (List Nat)) (areas : List Nat) (r : Region)
    (hlen : areas.length = us.length) :
    (s.placeGang g sett cl base us areas r).grids
        = FMap.modify s.grids g.id (fun v => { v with next := v.next + us.length, gang := v.gang + 1 })
      ∧ (s.placeGang g sett cl base us areas r).cur.sregs = s.cur.sregs
      ∧ ∀ j (hj : j < us.length), ∃ u ∈ (s.placeGang g sett cl base us areas r).others,
          Launched g sett g.gang us.length (g.next + j) (us[j].headD 0) u := by
  rw [State.placeGang]
  obtain ⟨_, _, _, _, _, _, hzero⟩ := foldl_devZero (State.setCtx _ g.ctx (fun c => { c with regions := FMap.set c.regions sett r }))
    g.ctx (areaBytes g.kern.lanesN) areas
  rw [hzero]
  obtain ⟨_, _, _, _, others, hplace, hall, -⟩ := foldl_placeTeam _ g sett cl base g.gang us.length
    ((us.zip areas).zip (upTo g.next us.length))
  rw [hplace]
  refine ⟨rfl, rfl, fun j hj => ?_⟩
  have hin : j < ((us.zip areas).zip (upTo g.next us.length)).length := by
    rw [List.length_zip, List.length_zip, length_upTo, hlen, Nat.min_self, Nat.min_self]
    exact hj
  obtain ⟨u, hu, hlaunch⟩ := hall _ (List.getElem_mem hin)
  rw [List.getElem_zip, List.getElem_zip, getElem_upTo] at hlaunch
  exact ⟨u, hu, hlaunch⟩

/-- Chip scratchpad found for a grid changes its runs, bytes of K, and the place noted with the grid (R205). -/
theorem State.chipReady_eq {r : State} (h : s.chipReady g = some r) : ∃ setts mem grids, r = { s with
      setts := setts, mem := mem, grids := grids }
    ∧ ∀ v, FMap.get? s.grids g.id = some v → ∃ kbase, FMap.get? grids g.id = some { v with kbase := kbase }
        ∧ (g.pkt.ksppages = 0 → kbase = v.kbase) := by
  rw [State.chipReady] at h
  split at h
  next =>
    cases h
    exact ⟨_, _, _, rfl, fun v hv => ⟨v.kbase, hv, fun _ => rfl⟩⟩
  next hneeds =>
    obtain ⟨x, hx, rfl⟩ := Option.map_eq_some_iff.1 h
    obtain ⟨setts, mem, heq⟩ := allocChip_eq hx
    rw [heq]
    refine ⟨_, _, _, rfl, fun v hv => ⟨x.1, ?_, fun hno => absurd (.inl hno) hneeds⟩⟩
    rw [FMap.get?_modify, if_pos rfl]
    exact congrArg (Option.map _) hv

/-! ### Signals leave grids and teams -/

/-- Grids, queues, the focused team's grid and the grids of the other teams are the same. -/
structure GridsKept (s t : State) : Prop where
  grids : t.grids = s.grids
  queues : t.queues = s.queues
  ids : t.others.map Team.gridId = s.others.map Team.gridId
  cur : t.cur.gridId = s.cur.gridId

/-- Two changes that leave these leave them together. -/
theorem GridsKept.trans {s t u : State} (h : GridsKept s t) (h' : GridsKept t u) : GridsKept s u :=
  ⟨h'.grids.trans h.grids, h'.queues.trans h.queues, h'.ids.trans h.ids, h'.cur.trans h.cur⟩

/-- A write of the device to lines of DRAM leaves them. -/
theorem State.writeLine_gridsKept (s : State) (cmp : Bool) (k : Nat) (bs : List Byte) : GridsKept s (s.writeLine none cmp k bs) := by
  obtain ⟨packed, hline⟩ := s.writeLine_eq none cmp k bs
  obtain ⟨mem, free, hpoke⟩ := s.poke_none_eq k bs
  rw [hline, hpoke]
  refine ⟨rfl, rfl, ?_, rfl⟩
  exact (List.map_map).trans (List.map_congr_left fun _ _ => rfl)

/-- So does a write to a range. -/
theorem State.devWrite_gridsKept (s : State) (ctx a : Nat) (bs : List Byte) : GridsKept s (s.devWrite ctx a bs) := by
  rw [State.devWrite]
  split
  next => exact ⟨rfl, rfl, rfl, rfl⟩
  next l hl =>
    rw [State.writeSpan]
    generalize linePieces _ l.key bs = xs
    clear hl
    induction xs generalizing s with
    | nil => exact ⟨rfl, rfl, rfl, rfl⟩
    | cons x xs ih => exact (s.writeLine_gridsKept l.cmp x.1 x.2).trans (ih _)

/-- So does the decrement of a signal (R287). -/
theorem State.signalDown_gridsKept (s : State) (ctx : Nat) (grid a : Word) : GridsKept s (s.signalDown ctx grid a) := by
  have hfail (c : Nat) : GridsKept s (s.ctxEvent ctx 8 c grid a) := ⟨rfl, rfl, rfl, rfl⟩
  rw [State.signalDown]
  split_ifs
  · exact ⟨rfl, rfl, rfl, rfl⟩
  · exact hfail _
  · exact hfail _
  · exact hfail _
  · split
    · exact hfail _
    · exact ⟨rfl, rfl, rfl, rfl⟩
  · split
    · exact hfail _
    next l hl =>
      obtain ⟨free, hread⟩ := s.readLine_state l.cmp l.key 8
      have hsame : GridsKept s (s.readLine l.cmp l.key 8).2 := by rw [hread]; exact ⟨rfl, rfl, rfl, rfl⟩
      exact hsame.trans (State.writeLine_gridsKept _ l.cmp l.key _)

/-- So do the signals of a tail list. -/
theorem foldl_signalDown_gridsKept (s : State) (ctx : Nat) (grid : Word) (es : List TailEntry) :
    GridsKept s (es.foldl (fun s e => s.signalDown ctx grid e.pkt.signal) s) := by
  induction es generalizing s with
  | nil => exact ⟨rfl, rfl, rfl, rfl⟩
  | cons e es ih => exact (s.signalDown_gridsKept ctx grid e.pkt.signal).trans (ih _)

/-- So does the cancelling of entries (R266). -/
theorem cancelEntries_gridsKept (sett : Nat) (es : List Entry) (s : State) : GridsKept s (cancelEntries sett es s) := by
  induction es generalizing s with
  | nil => exact ⟨rfl, rfl, rfl, rfl⟩
  | cons e es ih =>
    rw [cancelEntries]
    refine GridsKept.trans ?_ (ih _)
    have hdrop (t : State) : GridsKept t (t.dropEntry sett e.id) := ⟨rfl, rfl, rfl, rfl⟩
    refine GridsKept.trans ?_ (hdrop _)
    rw [State.entryRecord]
    split
    · exact ⟨rfl, rfl, rfl, rfl⟩
    · rw [State.cleWrite]
      split_ifs
      · exact ⟨rfl, rfl, rfl, rfl⟩
      · exact ⟨rfl, rfl, rfl, rfl⟩
      · exact ⟨rfl, rfl, rfl, rfl⟩
      · split
        · exact ⟨rfl, rfl, rfl, rfl⟩
        · exact s.writeLine_gridsKept _ _ _

/-- So does the cancelling of the entries of a grid in every sett. -/
theorem State.cancelChip_gridsKept (s : State) (id : Nat) : GridsKept s (s.cancelChip id) := by
  rw [State.cancelChip]
  generalize s.setts = xs
  induction xs generalizing s with
  | nil => exact ⟨rfl, rfl, rfl, rfl⟩
  | cons x xs ih => exact (cancelEntries_gridsKept x.1 _ s).trans (ih _)

/-- The grid with a number is freed with its teams, and the queues stay (R205, R287). -/
theorem State.freeGrid_spec (s : State) (g : Grid) : FMap.get? (s.freeGrid g).grids g.id = none
    ∧ (∀ u ∈ (s.freeGrid g).others, u.gridId.toNat ≠ g.id) ∧ (s.freeGrid g).queues = s.queues := by
  have hqueues : (if g.kbase.isEmpty then s else s.cancelChip g.id).queues = s.queues := by
    split
    · rfl
    · exact (s.cancelChip_gridsKept g.id).queues
  refine ⟨?_, fun u hu => ?_, hqueues⟩
  · rw [State.freeGrid]
    exact (FMap.get?_erase _ _ _).trans (if_pos rfl)
  · rw [State.freeGrid] at hu
    obtain ⟨-, hne⟩ := List.mem_filter.1 hu
    exact bne_iff_ne.1 hne

/-- Nothing of a freed grid is left by a change that leaves grids and teams. -/
theorem GridsKept.freed {s t : State} {id : Nat} (h : GridsKept s t) (hgrid : FMap.get? s.grids id = none)
    (hteams : ∀ u ∈ s.others, u.gridId.toNat ≠ id) : FMap.get? t.grids id = none ∧ ∀ u ∈ t.others, u.gridId.toNat ≠ id := by
  refine ⟨by rw [h.grids]; exact hgrid, fun u hu => ?_⟩
  have hid : u.gridId ∈ s.others.map Team.gridId := h.ids ▸ List.mem_map_of_mem hu
  obtain ⟨v, hv, heq⟩ := List.mem_map.1 hid
  rw [← heq]
  exact hteams v hv

/-- The end of a packet leaves the grids and the grids of the teams. -/
theorem State.endPacket_freed {key id : Nat} {q : UserQueue} (hq : FMap.get? s.queues key = some q) (p : Packet) (status : Nat) (grid : Word)
    (hgrid : FMap.get? s.grids id = none) (hteams : ∀ u ∈ s.others, u.gridId.toNat ≠ id) :
    FMap.get? (s.endPacket key p status grid).grids id = none ∧ ∀ u ∈ (s.endPacket key p status grid).others, u.gridId.toNat ≠ id := by
  have hkept := (s.devWrite_gridsKept q.ctx (q.slot q.rd) (bytesOf 4 (doneHeader p.hdr status))).trans
    (State.signalDown_gridsKept _ q.ctx grid p.signal)
  obtain ⟨tick, queues, v, hnext, -⟩ := State.nextPacket_eq (q := q) (key := key)
    (s := (s.devWrite q.ctx (q.slot q.rd) (bytesOf 4 (doneHeader p.hdr status))).signalDown q.ctx grid p.signal)
    (by rw [hkept.queues]; exact hq)
  rw [State.endPacket, hq]
  dsimp only
  rw [hnext]
  exact hkept.freed hgrid hteams

/-- A packet of a queue that is gone ends without a trace. -/
theorem State.endPacket_none {key : Nat} (hq : FMap.get? s.queues key = none) (p : Packet) (status : Nat) (grid : Word) :
    s.endPacket key p status grid = s := by
  rw [State.endPacket, hq]

/-! ### The steps of a grid -/

/-- The packet that TLAUNCH enters (R325): one that names no setts runs on those of its grid. -/
def tailPacket (g : Grid) (bs : List Byte) : Packet :=
  if (parsePacket bs).setts = 0 then { parsePacket bs with setts := bitsOf g.setts } else parsePacket bs

/-- The step that places a gang, where a place is found (R94). -/
theorem exec_gangPlacement_of_room {r : State} {id n tt cl base : Nat} {us : List (List Nat)} {as : List Nat} {z : Region}
    (hg : FMap.get? s.grids id = some g) (hleft : g.next < g.pkt.teams) (hhalt : s.halted g.ctx = false) (hchip : s.chipReady g = some r)
    (hn : n = min g.pkt.gp (g.pkt.teams - g.next) ∨ (n = min g.pkt.gf (g.pkt.teams - g.next)
      ∧ (if 65536 < r.liveTeams g.ctx + min g.pkt.gp (g.pkt.teams - g.next) then none
          else r.findRoom g (min g.pkt.gp (g.pkt.teams - g.next))) = none))
    (hroom : (if 65536 < r.liveTeams g.ctx + n then none else r.findRoom g n) = some (tt, cl, us, base, as, z)) :
    exec (.gangPlacement id) s = .next (if (r.wakeCluster tt cl g.prio (0x210 + g.site)).1 = true
      then (r.wakeCluster tt cl g.prio (0x210 + g.site)).2.placeGang g tt cl base us as z
      else (r.wakeCluster tt cl g.prio (0x210 + g.site)).2) := by
  have hgo : ¬ (g.pkt.teams ≤ g.next ∨ s.halted g.ctx = true) := by
    rw [hhalt]
    exact fun h => h.elim (Nat.not_le.2 hleft) (by decide)
  show execGangPlacement id s = _
  rw [execGangPlacement, hg]
  dsimp only
  rw [if_neg hgo, hchip]
  dsimp only
  rcases hn with rfl | ⟨rfl, hgp⟩
  · rw [hroom]
    rfl
  · rw [hgp, hroom]
    rfl

/-- What TLAUNCH enters in its grid's tail list (R325). -/
def State.tailEntry (r : State) (g : Grid) (bs : List Byte) : TailEntry :=
  { gtc := r.gtc, team := r.cur.teamIndex.toNat, order := r.tick, pkt := tailPacket g bs }

/-- The state in which TLAUNCH leaves the machine once its packet is entered. -/
def State.tailEntered (r : State) (g : Grid) (bs : List Byte) : State :=
  (State.setGrid { (r.holdStruct bs).clearRemote.dropStruct with tick := r.tick + 1 } g.id
    (fun v => { v with tail := insertTail (r.tailEntry g bs) v.tail })).advance 1

/-- TLAUNCH of a packet that is read (R325). -/
theorem exec_tlaunch_of_read {r : State} {a : Reg} {bs : List Byte} {c : Context} (hw : s.cur.wait = none) (hr : s.ready [a] = true)
    (hat : structOk (s.cur.s a).toNat 64 = true) (hread : s.readWords (s.cur.s a).toNat 8 = .ok bs r)
    (hg : FMap.get? r.grids r.cur.gridId.toNat = some g) (hc : r.curCtx = some c) :
    exec (.tlaunch a) s = .next (
      if !(tailPacket g bs).ok || (tailPacket g bs).barrier || (tailPacket g bs).settList.any (fun n => !c.setts.contains n)
      then (r.holdStruct bs).reject (s.cur.s a).toNat
      else if 1024 ≤ g.tail.length then (r.holdStruct bs).reject 0
      else r.tailEntered g bs) := by
  have hg' : FMap.get? (r.holdStruct bs).grids (r.holdStruct bs).cur.gridId.toNat = some g := hg
  have hc' : (r.holdStruct bs).curCtx = some c := hc
  show execTlaunch a s = _
  rw [execTlaunch, State.whenReady_of_ready hr, State.withStruct_of_read hw hat hread]
  dsimp only
  rw [hg', hc']
  rfl

/-- A packet of a tail list is refused for its fields, a barrier, or a sett its context does not have. -/
theorem tailRefused_iff (p : Packet) (c : Context) : (!p.ok || p.barrier || p.settList.any (fun n => !c.setts.contains n)) = true
    ↔ p.ok = false ∨ p.barrier = true ∨ ∃ m ∈ p.settList, m ∉ c.setts := by
  simp only [Bool.or_eq_true, Bool.not_eq_true', List.any_eq_true, List.contains_eq_mem, decide_eq_false_iff_not, or_assoc]

/-- An entry put into a tail list stands there; the others stay. -/
theorem mem_insertTail (e x : TailEntry) (es : List TailEntry) : x ∈ insertTail e es ↔ x = e ∨ x ∈ es := by
  induction es with
  | nil => rw [insertTail, List.mem_singleton, iff_self_or]; exact fun h => absurd h List.not_mem_nil
  | cons y es ih =>
    rw [insertTail]
    split
    · exact List.mem_cons
    · rw [List.mem_cons, ih, List.mem_cons]
      exact or_left_comm

/-- It is one entry more. -/
theorem length_insertTail (e : TailEntry) (es : List TailEntry) : (insertTail e es).length = es.length + 1 := by
  induction es with
  | nil => rfl
  | cons y es ih =>
    rw [insertTail]
    split
    · rfl
    · rw [List.length_cons, ih, List.length_cons]

/-- TLAUNCH of a packet that is not refused, where its list has room (R325). -/
theorem exec_tlaunch_enters {r : State} {a : Reg} {bs : List Byte} {c : Context} (hw : s.cur.wait = none) (hr : s.ready [a] = true)
    (hat : structOk (s.cur.s a).toNat 64 = true) (hread : s.readWords (s.cur.s a).toNat 8 = .ok bs r)
    (hg : FMap.get? r.grids r.cur.gridId.toNat = some g) (hc : r.curCtx = some c)
    (hgood : ¬ ((tailPacket g bs).ok = false ∨ (tailPacket g bs).barrier = true ∨ ∃ m ∈ (tailPacket g bs).settList, m ∉ c.setts))
    (hroom : g.tail.length < 1024) : exec (.tlaunch a) s = .next (r.tailEntered g bs) := by
  rw [← tailRefused_iff] at hgood
  exact (exec_tlaunch_of_read hw hr hat hread hg hc).trans
    (congrArg Host.Outcome.next ((if_neg hgood).trans (if_neg (Nat.not_le.2 hroom))))

/-- The grid's entry list then has the packet beside the others. -/
theorem State.tailEntered_grid {r : State} (bs : List Byte) (hg : FMap.get? r.grids g.id = some g) :
    FMap.get? (r.tailEntered g bs).grids g.id = some { g with tail := insertTail (r.tailEntry g bs) g.tail } := by
  have hmod := FMap.get?_modify r.grids g.id (fun v => { v with tail := insertTail (r.tailEntry g bs) v.tail }) g.id
  rw [if_pos rfl, hg, Option.map_some] at hmod
  rw [State.tailEntered, State.advance_grids]
  exact hmod

/-- No register is written. -/
theorem State.tailEntered_sregs (r : State) (g : Grid) (bs : List Byte) : (r.tailEntered g bs).cur.sregs = r.cur.sregs := by
  rw [State.tailEntered, State.advance]
  exact Team.advance_sregs _ 1

/-- The instruction waits no longer. -/
theorem State.tailEntered_wait (r : State) (g : Grid) (bs : List Byte) : (r.tailEntered g bs).cur.wait = none := by
  rw [State.tailEntered, State.advance]
  exact Team.advance_wait _ 1

/-- Memory stays. -/
theorem State.tailEntered_mem (r : State) (g : Grid) (bs : List Byte) : (r.tailEntered g bs).mem = r.mem := by
  rw [State.tailEntered, State.advance_mem]
  rfl

/-- The head of a tail list, where its grid is ready for it (R97, R325). -/
theorem exec_tailChildStart_of_head {id : Nat} {e : TailEntry} {es : List TailEntry} (hg : FMap.get? s.grids id = some g)
    (htail : g.tail = e :: es) (hfault : g.faulted = false) (hended : s.teamsEnded g = true) (hlive : s.childLive id = false)
    (hhalt : s.halted g.ctx = false) :
    let run := (s.dropFar (.child id)).setGrid id (fun g => { g with tail := es })
    exec (.tailChildStart id) s = .next (
      if e.pkt.type = 2 ∧ (s.ctx? g.ctx).any (fun c => !settsBad c e.pkt) = true then run.signalDown g.ctx (BitVec.ofNat 64 id) e.pkt.signal
      else if (s.launchTest (.child id) g.ctx e.pkt).1 = 0
        then run.startGrid g.ctx g.site none (some id) g.prio e.pkt (s.launchTest (.child id) g.ctx e.pkt).2
      else if isAwait (s.launchTest (.child id) g.ctx e.pkt).1 = true then s.askFar (.child id) (s.launchTest (.child id) g.ctx e.pkt).1
      else (run.signalDown g.ctx (BitVec.ofNat 64 id) e.pkt.signal).ctxEvent g.ctx 5 (s.launchTest (.child id) g.ctx e.pkt).1
        (BitVec.ofNat 64 id) 0) := by
  have hgo : ¬ ((g.faulted || !s.teamsEnded g || s.childLive id || s.halted g.ctx) = true) := by
    rw [hfault, hended, hlive, hhalt]
    decide
  show execTailChildStart id s = _
  rw [execTailChildStart, hg]
  dsimp only
  rw [htail]
  dsimp only
  rw [if_neg hgo]
  cases s.launchTest (.child id) g.ctx e.pkt with
  | mk x k => cases x with
    | zero => rfl
    | succ x => rfl

/-- A NOP of a context's own setts, as the step tests it. -/
theorem tailNop_iff (s : State) (ctx : Nat) (p : Packet) : (p.type = 2 ∧ (s.ctx? ctx).any (fun c => !settsBad c p) = true)
    ↔ p.type = 2 ∧ ∃ c, s.ctx? ctx = some c ∧ settsBad c p = false := by
  simp only [Option.any_eq_true, Bool.not_eq_true']

/-- The state in which a grid that is over is freed. -/
def State.overGrid (s : State) (id : Nat) (g : Grid) : State :=
  (g.tail.foldl (fun s e => s.signalDown g.ctx (BitVec.ofNat 64 id) e.pkt.signal) s).freeGrid g

/-- The end of a grid (R287): its packet ends, or its signal is decremented. -/
theorem exec_gridComplete_of_over {id : Nat} {c : Context} (hg : FMap.get? s.grids id = some g) (hended : s.teamsEnded g = true)
    (hlive : s.childLive id = false) (hover : g.tail = [] ∨ g.faulted = true) (hc : s.ctx? g.ctx = some c)
    (hposted : c.eventq = none ∨ ∀ y ∈ c.events, y.grid ≠ BitVec.ofNat 64 id) :
    (∀ key rd, g.queue = some (key, rd) → exec (.gridComplete id) s
        = .next ((s.overGrid id g).endPacket key g.pkt (if g.faulted = true then 2 else 1) (BitVec.ofNat 64 id)))
      ∧ (g.queue = none → exec (.gridComplete id) s = .next ((s.overGrid id g).signalDown g.ctx (BitVec.ofNat 64 id) g.pkt.signal)) := by
  have hover' : (g.faulted || g.tail.isEmpty) = true := by
    rcases hover with htail | hfault
    · rw [htail, List.isEmpty_nil, Bool.or_true]
    · rw [hfault, Bool.true_or]
  have hposted' : (c.eventq.isNone || !c.events.any (fun e => e.grid == BitVec.ofNat 64 id)) = true := by
    rcases hposted with hnone | hall
    · rw [hnone, Option.isNone_none, Bool.true_or]
    · have hno : c.events.any (fun e => e.grid == BitVec.ofNat 64 id) = false :=
        List.any_eq_false.2 fun y hy => by rw [beq_iff_eq]; exact hall y hy
      rw [hno, Bool.not_false, Bool.or_true]
  refine ⟨fun key rd hqueue => ?_, fun hqueue => ?_⟩ <;>
  · show execGridComplete id s = _
    rw [execGridComplete, hg]
    simp only [hc, hended, hlive, hover', hposted', hqueue, Bool.not_true, Bool.or_false, Bool.false_eq_true, if_false,
      State.overGrid]

/-- What a grid that is over leaves: no grid with its number, no team of it, and the queues as they were. -/
theorem State.overGrid_spec (s : State) {id : Nat} (hid : g.id = id) : FMap.get? (s.overGrid id g).grids id = none
    ∧ (∀ u ∈ (s.overGrid id g).others, u.gridId.toNat ≠ id) ∧ (s.overGrid id g).queues = s.queues := by
  obtain ⟨hgrid, hteams, hqueues⟩ := State.freeGrid_spec
    (g.tail.foldl (fun s e => s.signalDown g.ctx (BitVec.ofNat 64 id) e.pkt.signal) s) g
  rw [hid] at hgrid hteams
  exact ⟨hgrid, hteams, hqueues.trans (foldl_signalDown_gridsKept s g.ctx _ g.tail).queues⟩

end Sys2Proof.Machine
end

section
open Sys2Proof Sys2Proof.Machine

/-- Settles O48: the placing of a gang by the team that each of its places gets, TLAUNCH and the start of a child by their tests, the
end of a grid by what its signals leave of grids and teams. -/
theorem gridsRun : Obligations.GridsRun := by
  unfold Obligations.GridsRun
  intro s r id tt cl base n us as z a g bs c e es k
  dsimp only
  refine ⟨fun hg hno => ?_, fun hg hleft hhalt hchip hgp hgf => ?_, fun hg hid hleft hhalt hchip hn hroom hus has => ⟨fun hawake => ?_,
    fun hasleep htokens hinrush => ?_⟩, fun hw hr hbad => ?_, fun hw hr hok => ⟨fun x hread => ?_, fun hread => ?_,
    fun hread hg hid hc => ⟨fun hbad => ?_, fun hgood hfull => ?_, fun hgood hroom => ?_⟩⟩, fun hg htail => ?_,
    fun hg htail hfault hended hlive hhalt => ⟨fun hnop => ?_, fun hnop x hx htest => ?_, fun hnop htest hne => ?_⟩, fun hg hno => ?_,
    fun hg hid hended hlive hover hc hposted => ?_⟩
  · show execGangPlacement id s = _
    rw [execGangPlacement, hg]
    dsimp only
    rcases hno with hle | hhalt | hnone
    · rw [if_pos (.inl hle)]
    · rw [if_pos (.inr hhalt)]
    · rw [hnone]
      exact congrArg Host.Outcome.next (ite_self s)
  · have hgo : ¬ (g.pkt.teams ≤ g.next ∨ s.halted g.ctx = true) := by
      rw [hhalt]
      exact fun h => h.elim (Nat.not_le.2 hleft) (by decide)
    show execGangPlacement id s = _
    rw [execGangPlacement, hg]
    dsimp only
    rw [if_neg hgo, hchip]
    dsimp only
    rw [hgp, hgf]
    rfl
  · have hstep := exec_gangPlacement_of_room hg hleft hhalt hchip hn hroom
    have hwake : r.wakeCluster tt cl g.prio (0x210 + g.site) = (true, r) := by
      rw [State.wakeCluster]
      simp [hawake]
    rw [hwake, if_pos rfl] at hstep
    obtain ⟨hgrids, hregs, hteams⟩ := r.placeGang_spec g tt cl base us as z (has.trans hus.symm)
    obtain ⟨setts, mem, grids, rfl, hkept⟩ := State.chipReady_eq hchip
    subst hid
    obtain ⟨kbase, hget, hkbase⟩ := hkept g hg
    have hgot : FMap.get? (State.placeGang { s with setts := setts, mem := mem, grids := grids } g tt cl base us as z).grids g.id
        = some { g with kbase := kbase, next := g.next + n, gang := g.gang + 1 } := by
      rw [hgrids, FMap.get?_modify, if_pos rfl, hget, hus]
      rfl
    refine ⟨_, _, hstep, hgot, rfl, hkbase, hregs, fun j hj => ?_⟩
    obtain ⟨u, hu, hlaunch⟩ := hteams j hj
    rw [Launched, hus] at hlaunch
    exact ⟨u, hu, hlaunch⟩
  · have hstep := exec_gangPlacement_of_room hg hleft hhalt hchip hn hroom
    have hwake : r.wakeCluster tt cl g.prio (0x210 + g.site)
        = (false, r.setSett tt (fun x => { x with tokens := x.tokens ++ [(cl, r.gtc)] })) := by
      rw [State.wakeCluster]
      simp [hasleep, htokens, hinrush]
    rw [hwake] at hstep
    obtain ⟨setts, mem, grids, rfl, -⟩ := State.chipReady_eq hchip
    refine ⟨_, hstep, rfl, rfl, ?_⟩
    have htok : FMap.get? _ tt = some _ := FMap.get?_set_same setts tt
      { State.sett { s with setts := setts, mem := mem, grids := grids } tt with
        tokens := (State.sett { s with setts := setts, mem := mem, grids := grids } tt).tokens ++ [(cl, s.gtc)] }
    exact (congrArg (Option.map Sett.tokens) htok).trans (congrArg (fun ts => some (ts ++ [(cl, s.gtc)])) htokens)
  · show execTlaunch a s = _
    rw [execTlaunch, State.whenReady_of_ready hr, State.withStruct, hw]
    simp only [hbad, Bool.not_false, if_true]
  · show execTlaunch a s = _
    rw [execTlaunch, State.whenReady_of_ready hr, State.withStruct, hw]
    simp only [hok, Bool.not_true, Bool.false_eq_true, if_false, hread]
  · show execTlaunch a s = _
    rw [execTlaunch, State.whenReady_of_ready hr, State.withStruct, hw]
    simp only [hok, Bool.not_true, Bool.false_eq_true, if_false, hread]
  · rw [← tailRefused_iff] at hbad
    exact (exec_tlaunch_of_read hw hr hok hread hg hc).trans (congrArg Host.Outcome.next (if_pos hbad))
  · rw [← tailRefused_iff] at hgood
    exact (exec_tlaunch_of_read hw hr hok hread hg hc).trans
      (congrArg Host.Outcome.next ((if_neg hgood).trans (if_pos hfull)))
  · have hstep := exec_tlaunch_enters hw hr hok hread hg hc hgood hroom
    rw [← hid] at hg
    have hgrid := State.tailEntered_grid bs hg
    have hsregs := r.tailEntered_sregs g bs
    have hwait := r.tailEntered_wait g bs
    have hmem := r.tailEntered_mem g bs
    generalize r.tailEntered g bs = t at hstep hgrid hsregs hwait hmem
    exact ⟨t, _, r.tailEntry g bs, hstep, hgrid, (mem_insertTail _ _ _).2 (.inl rfl), rfl, rfl, rfl,
      fun y hy => (mem_insertTail _ _ _).2 (.inr hy), length_insertTail _ _, hsregs, hwait, hmem⟩
  · show execTailChildStart id s = _
    rw [execTailChildStart, hg]
    dsimp only
    rw [htail]
  · have hstep := exec_tailChildStart_of_head hg htail hfault hended hlive hhalt
    exact hstep.trans (congrArg Host.Outcome.next (if_pos ((tailNop_iff s g.ctx e.pkt).2 hnop)))
  · have hstep := exec_tailChildStart_of_head hg htail hfault hended hlive hhalt
    dsimp only at hstep
    rw [htest, if_neg (fun h => hnop ((tailNop_iff s g.ctx e.pkt).1 h)), if_neg hx] at hstep
    exact hstep
  · have hstep := exec_tailChildStart_of_head hg htail hfault hended hlive hhalt
    dsimp only at hstep
    rw [htest, if_neg (fun h => hnop ((tailNop_iff s g.ctx e.pkt).1 h)), if_pos rfl] at hstep
    obtain ⟨setts, mem, grids, v, hstart, hget, hkept, kbase, rfl⟩ := State.startGrid_spec
      ((s.dropFar (.child id)).setGrid id (fun g => { g with tail := es })) g.ctx g.site none (some id) g.prio e.pkt k
    have hparent : FMap.get? grids id = some { g with tail := es } := by
      rw [hkept id (Ne.symm hne)]
      show FMap.get? (FMap.modify s.grids id (fun g => { g with tail := es })) id = _
      rw [FMap.get?_modify, if_pos rfl, hg]
      rfl
    exact ⟨_, _, _, hstep.trans (congrArg Host.Outcome.next hstart), hget, rfl, rfl, rfl, rfl, rfl, rfl, hparent, rfl⟩
  · show execGridComplete id s = _
    rw [execGridComplete, hg]
    refine congrArg Host.Outcome.next (if_pos ?_)
    rcases hno with hrun | hlive | ⟨hgood, htail⟩
    · rw [hrun, Bool.not_false, Bool.true_or, Bool.true_or, Bool.true_or]
    · rw [hlive, Bool.or_true, Bool.true_or, Bool.true_or]
    · rw [hgood, Bool.false_or, List.isEmpty_eq_false_iff.2 htail, Bool.not_false, Bool.or_true, Bool.true_or]
  · obtain ⟨hends, hsignals⟩ := exec_gridComplete_of_over hg hended hlive hover hc hposted
    obtain ⟨hgrid, hteams, hqueues⟩ := s.overGrid_spec hid
    cases hqueue : g.queue with
    | none =>
      obtain ⟨hgone, hfree⟩ := (State.signalDown_gridsKept (s.overGrid id g) g.ctx (BitVec.ofNat 64 id) g.pkt.signal).freed hgrid hteams
      exact ⟨_, hsignals hqueue, hgone, hfree, fun key rd q h => absurd h (by simp)⟩
    | some at_ =>
      obtain ⟨key, rd⟩ := at_
      cases hq : FMap.get? s.queues key with
      | none =>
        have hstep := hends key rd hqueue
        rw [State.endPacket_none (by rw [hqueues]; exact hq)] at hstep
        refine ⟨_, hstep, hgrid, hteams, fun key' rd' q h hq' => ?_⟩
        cases h
        rw [hq] at hq'
        cases hq'
      | some q =>
        have hq' : FMap.get? (s.overGrid id g).queues key = some q := by rw [hqueues]; exact hq
        obtain ⟨hgone, hfree⟩ := State.endPacket_freed hq' g.pkt (if g.faulted = true then 2 else 1) (BitVec.ofNat 64 id) hgrid hteams
        refine ⟨_, hends key rd hqueue, hgone, hfree, fun key' rd' q' h hq'' => ?_⟩
        cases h
        rw [hq] at hq''
        cases hq''
        obtain ⟨v, hv, hrd, hrun, -⟩ := State.endPacket_spec hq' g.pkt (if g.faulted = true then 2 else 1) (BitVec.ofNat 64 id)
        exact ⟨⟨_, rfl⟩, v, hv, hrd, hrun⟩

end

section
/-!
SUPPORT. The host's link and ring (R438, R439): what an access of the window and of the ring area answers, and the commands by the
test they share and by what they do once it is passed.
-/

namespace Sys2Proof.Machine

variable {s : State}

/-! ### The test that commands share (R439) -/

/-- No parameter behind the first `n` is set. -/
def State.ParamsEnd (s : State) (n : Nat) : Prop := ∀ w ∈ s.hcmd.params.drop n, w = 0

theorem State.paramsEnd_iff (s : State) (n : Nat) : (s.hcmd.params.drop n).any (fun w => w != 0) = false ↔ s.ParamsEnd n := by
  simp [List.any_eq_false, State.ParamsEnd]

/-- Before the servo has locked a command ends with 0x08. -/
theorem State.command8_early {n : Nat} (f : State → Nat × State) (h : s.bringup < 8) : s.command8 n f = s.hostDone 8 := by
  rw [State.command8, if_pos h]

/-- A further parameter ends it with 0x07. -/
theorem State.command8_further {n : Nat} (f : State → Nat × State) (hup : 8 ≤ s.bringup) (h : ¬ s.ParamsEnd n) :
    s.command8 n f = s.hostDone 7 := by
  rw [State.command8, if_neg (Nat.not_lt.2 hup), if_pos (Bool.of_not_eq_false fun hno => h ((s.paramsEnd_iff n).1 hno))]

/-- A command that runs ends with what it answers. -/
theorem State.command8_run {n x : Nat} {f : State → Nat × State} {t : State} (hup : 8 ≤ s.bringup) (h : s.ParamsEnd n)
    (hf : f s = (x, t)) (hx : x ≠ 0) : s.command8 n f = t.hostDone x := by
  have hend : ¬ ((s.hcmd.params.drop n).any (fun w => w != 0) = true) := by
    rw [(s.paramsEnd_iff n).2 h]
    decide
  rw [State.command8, if_neg (Nat.not_lt.2 hup), if_neg hend, hf]
  exact if_neg hx

/-- The same of a command of a live context. -/
theorem State.ctxCommand_run {n x : Nat} {c : Context} {f : Nat → Context → State → Nat × State} {t : State} (hup : 8 ≤ s.bringup)
    (h : s.ParamsEnd n) (hc : s.ctx? s.hcmd.ctx = some c) (hf : f s.hcmd.ctx c s = (x, t)) (hx : x ≠ 0) :
    s.ctxCommand n f = t.hostDone x := by
  rw [State.ctxCommand]
  refine State.command8_run hup h ?_ hx
  rw [hc]
  exact hf

/-- A command of a context that does not exist ends with 0x07. -/
theorem State.ctxCommand_gone {n : Nat} (f : Nat → Context → State → Nat × State) (hup : 8 ≤ s.bringup) (h : s.ParamsEnd n)
    (hc : s.ctx? s.hcmd.ctx = none) : s.ctxCommand n f = s.hostDone 7 := by
  rw [State.ctxCommand]
  refine State.command8_run hup h ?_ (by decide)
  rw [hc]

/-- The commands of a context, each with the number of its parameters. -/
def ctxCommands : List (Instr × Nat) := [(.ctxDestroy, 0), (.bind, 2), (.pagetable, 2), (.poolAdd, 4), (.queue, 4), (.handlers, 1), (.eventq, 2),
  (.complq, 2), (.watchdog, 1), (.harea, 3), (.stop, 1), (.grant, 2), (.snapshot, 2), (.statement, 2), (.quote, 6), (.collective, 1),
  (.abort, 1), (.sumacLoad, 1), (.sumacUnload, 1)]

/-- Each of them is one command of `State.ctxCommand`. -/
theorem exec_of_mem_ctxCommands (s : State) : ∀ i ∈ ctxCommands, ∃ f, exec i.1 s = .next (s.ctxCommand i.2 f) := by
  simp only [ctxCommands, List.forall_mem_cons]
  exact ⟨⟨_, rfl⟩, ⟨_, rfl⟩, ⟨_, rfl⟩, ⟨_, rfl⟩, ⟨_, rfl⟩, ⟨_, rfl⟩, ⟨_, rfl⟩, ⟨_, rfl⟩, ⟨_, rfl⟩, ⟨_, rfl⟩, ⟨_, rfl⟩, ⟨_, rfl⟩,
    ⟨_, rfl⟩, ⟨_, rfl⟩, ⟨_, rfl⟩, ⟨_, rfl⟩, ⟨_, rfl⟩, ⟨_, rfl⟩, ⟨_, rfl⟩, fun _ h => absurd h List.not_mem_nil⟩

/-- A command answers 0x08 before the servo has locked, and 0x07 where a further parameter is set. -/
def Refuses (s : State) (i : Instr × Nat) : Prop :=
  (s.bringup < 8 → exec i.1 s = .next (s.hostDone 8)) ∧ (8 ≤ s.bringup → ¬ s.ParamsEnd i.2 → exec i.1 s = .next (s.hostDone 7))

/-- A command of the shared test refuses by it. -/
theorem refuses_of_command8 {i : Instr × Nat} {f : State → Nat × State} (h : exec i.1 s = .next (s.command8 i.2 f)) : Refuses s i := by
  refine ⟨fun hup => ?_, fun hup hend => ?_⟩
  · rw [h, State.command8_early f hup]
  · rw [h, State.command8_further f hup hend]

/-- RESTORE tests the same by itself (R360). -/
theorem refuses_restore (s : State) : Refuses s (.restore, 0) := by
  refine ⟨fun hup => congrArg Host.Outcome.next (if_pos hup), fun hup hend => ?_⟩
  refine congrArg Host.Outcome.next ((if_neg (Nat.not_lt.2 hup)).trans (if_pos ?_))
  exact Bool.of_not_eq_false fun hno => hend ((s.paramsEnd_iff 0).1 hno)

/-- Every command refuses so. -/
theorem refuses_of_mem (s : State) : ∀ i ∈ ctxCommands ++ [(Instr.ctxCreate, 5), (.timetable, 1), (.restore, 0)], Refuses s i := by
  refine List.forall_mem_append.2 ⟨fun i hi => ?_, ?_⟩
  · obtain ⟨f, hf⟩ := exec_of_mem_ctxCommands s i hi
    exact refuses_of_command8 hf
  · simp only [List.forall_mem_cons]
    exact ⟨refuses_of_command8 (i := (.ctxCreate, 5)) rfl, refuses_of_command8 (i := (.timetable, 1)) rfl, refuses_restore s,
      fun _ h => absurd h List.not_mem_nil⟩

/-- A context that does not exist is answered with 0x07. -/
theorem gone_of_mem (hup : 8 ≤ s.bringup) (hc : s.ctx? s.hcmd.ctx = none) : ∀ i ∈ ctxCommands ++ [(Instr.restore, 0)],
    s.ParamsEnd i.2 → exec i.1 s = .next (s.hostDone 7) := by
  refine List.forall_mem_append.2 ⟨fun i hi hend => ?_, ?_⟩
  · obtain ⟨f, hf⟩ := exec_of_mem_ctxCommands s i hi
    rw [hf, State.ctxCommand_gone f hup hend hc]
  · simp only [List.forall_mem_cons]
    refine ⟨fun hend => ?_, fun _ h => absurd h List.not_mem_nil⟩
    have hno : ¬ (s.hcmd.params.any (fun w => w != 0) = true) := by
      have hfalse : s.hcmd.params.any (fun w => w != 0) = false := (s.paramsEnd_iff 0).2 hend
      rw [hfalse]
      decide
    show execRestore s = _
    rw [execRestore, if_neg (Nat.not_lt.2 hup), if_neg hno, hc]

/-! ### The window and the ring area (R438) -/

/-- What is counted up from `a` is nothing, or starts with `a`. -/
theorem upTo_eq_nil_or (a n : Nat) : upTo a n = [] ∨ ∃ us, upTo a n = a :: us := by
  cases n with
  | zero => exact .inl rfl
  | succ n => exact .inr ⟨_, rfl⟩

/-- A read of units that are bound to no context answers ones and an error. The list of units is taken out before the definition's
matches reduce: the kernel would count through 2^21 bytes to reduce a match on it. -/
theorem State.hostWindow_unbound (s : State) {off : Nat} (n : Nat) (h : ∀ u, off / 2 ^ 21 ≤ u → FMap.get? s.bound u = none) :
    s.hostWindow off (.read n) = s.hostReply true (List.replicate n 0xFF) := by
  have hdef : @State.hostWindow = @State.hostWindow := rfl
  conv at hdef => rhs; delta State.hostWindow
  rw [hdef]
  beta_reduce
  extract_lets a m units ctx
  have hunits : units = [] ∨ ∃ us, units = off / 2 ^ 21 :: us := upTo_eq_nil_or _ _
  clear_value units
  rcases hunits with rfl | ⟨us, rfl⟩
  · rfl
  · have hctx : ctx = none := by
      simp only [ctx, h _ (Nat.le_refl _), Option.filter_none]
    clear_value ctx
    rw [hctx]
/-- An access of the ring area, where the link is up. -/
theorem exec_hostMemoryAccess_area {site : Nat} {x : Site} (hx : FMap.get? s.sites site = some x) (hlevel : x.level ≠ 0) (o : Nat) :
    (∀ n, exec (.hostMemoryAccess site (2 ^ 54 + o) (.read n)) s = .next (s.hostReply false ((upTo o n).map (s.areaByte site))))
      ∧ ∀ bs : List Byte, exec (.hostMemoryAccess site (2 ^ 54 + o) (.write bs)) s
        = if o < 1025 * 4096 then (if o % 4096 = 0 ∧ bs.length = 8 then ringDoorbell site (o / 4096) (natOf bs) s else .next s)
          else .next (s.areaWrite site o bs) := by
  have hin : ¬ (2 ^ 54 + o < 2 ^ 54) := Nat.not_lt.2 (Nat.le_add_right _ _)
  refine ⟨fun n => ?_, fun bs => ?_⟩
  · show execHostMemoryAccess site (2 ^ 54 + o) (.read n) s = _
    rw [execHostMemoryAccess, hx]
    dsimp only
    rw [if_neg hlevel, if_neg hin, Nat.add_sub_cancel_left]
  · show execHostMemoryAccess site (2 ^ 54 + o) (.write bs) s = _
    rw [execHostMemoryAccess, hx]
    dsimp only
    rw [if_neg hlevel, if_neg hin, Nat.add_sub_cancel_left]

/-- An aligned write of eight bytes below the slots rings the doorbell of its page. -/
theorem exec_hostMemoryAccess_ring {site a : Nat} {x : Site} {bs : List Byte} (hx : FMap.get? s.sites site = some x) (hlevel : x.level ≠ 0)
    (ha : a ≤ 1024) (hbs : bs.length = 8) :
    exec (.hostMemoryAccess site (2 ^ 54 + a * 4096) (.write bs)) s = ringDoorbell site a (natOf bs) s := by
  have hpage : a * 4096 < 1025 * 4096 := by omega
  have hdoor : a * 4096 % 4096 = 0 ∧ bs.length = 8 := ⟨Nat.mul_mod_left a 4096, hbs⟩
  rw [(exec_hostMemoryAccess_area hx hlevel (a * 4096)).2 bs, if_pos hpage, if_pos hdoor, Nat.mul_div_cancel a (by decide)]

/-- The host's doorbell takes its value in, and the headers that are valid (R439). -/
theorem exec_hostRingDoorbell_spec {site value : Nat} {x : Site} (hx : FMap.get? s.sites site = some x) (hnew : x.db < value)
    (hup : 6 ≤ s.bringup) : ∃ sites y, exec (.hostRingDoorbell site value) s = .next { s with sites := sites }
      ∧ FMap.get? sites site = some y ∧ y.db = value ∧ y.rd = x.rd
      ∧ ∀ i, x.rd ≤ i → i < value → i < x.rd + 256 → bitAt (s.mem.getNat (Config.ringKey site (64 * (i % 256))) 4) 8 = true → i ∈ y.seen := by
  have hgo : ¬ (value ≤ x.db ∨ s.bringup < 6) := by omega
  have hdb : FMap.get? (FMap.modify s.sites site (fun x => { x with db := value })) site = some { x with db := value } := by
    rw [FMap.get?_modify, if_pos rfl, hx, Option.map_some]
  have hread := FMap.get?_modify (FMap.modify s.sites site (fun x => { x with db := value })) site (fun y => { y with
    seen := (upTo x.rd (min value (x.rd + 256) - x.rd)).foldl (fun xs i =>
      if xs.contains i || !bitAt (s.mem.getNat (ringSlot site i) 4) 8 then xs else insertNat i xs) y.seen }) site
  rw [if_pos rfl, hdb, Option.map_some] at hread
  refine ⟨_, _, ?_, hread, rfl, rfl, fun i hle hlt hring hvalid => ?_⟩
  · show execHostRingDoorbell site value s = _
    rw [execHostRingDoorbell, hx]
    exact congrArg Host.Outcome.next (if_neg hgo)
  · refine mem_seen_of_valid (valid := fun i => bitAt (s.mem.getNat (ringSlot site i) 4) 8) _ ((mem_upTo _ _ _).2 ⟨hle, ?_⟩) hvalid
    omega

/-- Units bound one after another. -/
theorem get?_foldl_bind (m : FMap Nat) (id : Nat) (us : List Nat) (u : Nat) :
    FMap.get? (us.foldl (fun m u => FMap.set m u id) m) u = if u ∈ us then some id else FMap.get? m u := by
  induction us generalizing m with
  | nil => rfl
  | cons v us ih =>
    rw [List.foldl_cons, ih, FMap.get?_set]
    by_cases hmem : u ∈ us
    · rw [if_pos hmem, if_pos (List.mem_cons_of_mem v hmem)]
    · rw [if_neg hmem]
      by_cases huv : u = v
      · rw [if_pos huv, if_pos (huv ▸ List.mem_cons_self)]
      · rw [if_neg huv, if_neg (fun h => (List.mem_cons.1 h).elim huv hmem)]

/-! ### What commands do once their test is passed -/

/-- A command of a live context runs. -/
def State.Runs (s : State) (n : Nat) (c : Context) : Prop := 8 ≤ s.bringup ∧ s.ParamsEnd n ∧ s.ctx? s.hcmd.ctx = some c

/-- A command that runs ends with what it answers. -/
theorem exec_of_runs {i : Instr} {n x : Nat} {c : Context} {f : Nat → Context → State → Nat × State} {t : State}
    (hi : exec i s = .next (s.ctxCommand n f)) (hruns : s.Runs n c) (hf : f s.hcmd.ctx c s = (x, t)) (hx : x ≠ 0) :
    exec i s = .next (t.hostDone x) := by
  obtain ⟨hup, hend, hc⟩ := hruns
  rw [hi, State.ctxCommand_run hup hend hc hf hx]

variable {c : Context}

/-- CTX_CREATE of parameters within their limits: 0x08 where counters or places are short, else a new context. -/
theorem exec_ctxCreate_spec {x : Site} (hup : 8 ≤ s.bringup) (hend : s.ParamsEnd 5) (hctx : s.hcmd.ctx = 0) (h1 : s.param 1 < 2 ^ 48)
    (h2 : s.param 2 ≤ 4096) (h3 : s.param 3 ≤ 16384) (h4 : s.param 4 < 2 ^ 48)
    (hlive : ∀ t ∈ bitList (s.param 1) 48, (s.sett t).withdrawn = false) (hx : FMap.get? s.sites s.hcmd.site = some x) :
    (s.allotCounters (s.param 2) (bitList (s.param 1) 48) = none → exec .ctxCreate s = .next (s.hostDone 8))
      ∧ ∀ m, s.allotCounters (s.param 2) (bitList (s.param 1) 48) = some m → FMap.free s.ctxs 1 65535 ≤ 65535 →
        (∀ t ∈ bitList (s.param 1) 48, s.placesIn t + s.param 3 ≤ 16384) → exec .ctxCreate s = .next (State.hostDone { s with
          ctxs := FMap.set s.ctxs (FMap.free s.ctxs 1 65535)
            (Context.new (nth 0 s.hcmd.params 0) (bitList (s.param 1) 48) m (s.param 2) (s.param 3) (s.param 4)),
          mem := s.mem.setNat (ringSlot s.hcmd.site x.rd + 4) 2 (FMap.free s.ctxs 1 65535) } 1) := by
  have hwithdrawn : (bitList (s.param 1) 48).any (fun t => (s.sett t).withdrawn) = false :=
    List.any_eq_false.2 fun t ht => by rw [hlive t ht]; decide
  have hfields : ¬ (s.hcmd.ctx ≠ 0 ∨ 2 ^ 48 ≤ s.param 1 ∨ 4096 < s.param 2 ∨ 16384 < s.param 3 ∨ 2 ^ 48 ≤ s.param 4
      ∨ (bitList (s.param 1) 48).any (fun t => (s.sett t).withdrawn) = true) := by
    rw [hwithdrawn]
    simp only [Bool.false_eq_true, or_false]
    omega
  refine ⟨fun hallot => ?_, fun m hallot hfree hplaces => ?_⟩
  · refine congrArg Host.Outcome.next (State.command8_run hup hend ((if_neg hfields).trans ?_) (by decide))
    rw [hallot]
  · have hroom : ¬ (65535 < FMap.free s.ctxs 1 65535
        ∨ (bitList (s.param 1) 48).any (fun t => decide (16384 < s.placesIn t + s.param 3)) = true) := by
      rintro (h | h)
      · exact Nat.not_lt.2 hfree h
      · obtain ⟨t, ht, hmore⟩ := List.any_eq_true.1 h
        exact Nat.not_lt.2 (hplaces t ht) (of_decide_eq_true hmore)
    refine congrArg Host.Outcome.next (State.command8_run hup hend ((if_neg hfields).trans ?_) (by decide))
    rw [hallot, hx]
    exact if_neg hroom

/-- CTX_DESTROY: 0x08 while the context is busy, else all that was allotted to it is freed. -/
theorem exec_ctxDestroy_spec (hruns : s.Runs 0 c) : (s.ctxBusy s.hcmd.ctx c = true → exec .ctxDestroy s = .next (s.hostDone 8))
    ∧ (s.ctxBusy s.hcmd.ctx c = false → ∃ u : State, exec .ctxDestroy s = .next (u.hostDone 1) ∧ u.ctxs = FMap.erase s.ctxs s.hcmd.ctx
      ∧ (∀ y ∈ u.queues, y.2.ctx ≠ s.hcmd.ctx) ∧ (∀ y ∈ u.bound, y.2 ≠ s.hcmd.ctx) ∧ (∀ y ∈ u.groups, y.2.ctx ≠ s.hcmd.ctx)
      ∧ (∀ y ∈ u.setts, ∀ e ∈ y.2.entries, e.ctx ≠ s.hcmd.ctx) ∧ u.mem = s.mem) := by
  refine ⟨fun hbusy => exec_of_runs rfl hruns (if_pos hbusy) (by decide), fun hidle => ?_⟩
  have hno : ¬ (s.ctxBusy s.hcmd.ctx c = true) := by
    rw [hidle]
    decide
  refine ⟨_, exec_of_runs rfl hruns (if_neg hno) (by decide), rfl, fun y hy => ?_, fun y hy => ?_, fun y hy => ?_, fun y hy e he => ?_, rfl⟩
  · exact bne_iff_ne.1 (List.mem_filter.1 hy).2
  · exact bne_iff_ne.1 (List.mem_filter.1 hy).2
  · exact bne_iff_ne.1 (List.mem_filter.1 hy).2
  · obtain ⟨z, -, rfl⟩ := List.mem_map.1 hy
    exact bne_iff_ne.1 (List.mem_filter.1 he).2

/-- BIND of free units binds each of them. -/
theorem exec_bind_spec (hruns : s.Runs 2 c) (halign : s.param 0 % 2 ^ 21 = 0) (hsome : 0 < s.param 1)
    (hend : s.param 0 / 2 ^ 21 + s.param 1 ≤ 2 ^ 33)
    (hown : ∀ y ∈ s.bound, s.param 0 / 2 ^ 21 ≤ y.1 → y.1 < s.param 0 / 2 ^ 21 + s.param 1 → y.2 = s.hcmd.ctx) :
    ∃ m, exec .bind s = .next (State.hostDone { s with bound := m } 1) ∧ ∀ u, FMap.get? m u
      = if s.param 0 / 2 ^ 21 ≤ u ∧ u < s.param 0 / 2 ^ 21 + s.param 1 then some s.hcmd.ctx else FMap.get? s.bound u := by
  have hgo : ¬ (s.param 0 % 2 ^ 21 ≠ 0 ∨ s.param 1 = 0 ∨ windowUnits < s.param 0 / 2 ^ 21 + s.param 1
      ∨ s.bound.any (fun x => decide (s.param 0 / 2 ^ 21 ≤ x.1) && decide (x.1 < s.param 0 / 2 ^ 21 + s.param 1)
        && x.2 != s.hcmd.ctx) = true) := by
    rintro (h | h | h | h)
    · exact h halign
    · omega
    · exact Nat.not_lt.2 hend h
    · obtain ⟨y, hy, hmeets⟩ := List.any_eq_true.1 h
      simp only [Bool.and_eq_true, decide_eq_true_eq, bne_iff_ne] at hmeets
      obtain ⟨⟨hlo, hhi⟩, hother⟩ := hmeets
      exact hother (hown y hy hlo hhi)
  refine ⟨_, exec_of_runs rfl hruns (if_neg hgo) (by decide), fun u => ?_⟩
  rw [get?_foldl_bind]
  simp only [mem_upTo]

/-- PAGETABLE registers the root of a sett of the context. -/
theorem exec_pagetable_spec (hruns : s.Runs 2 c) :
    (s.param 0 ∈ c.setts → s.param 1 % 4096 = 0 → s.param 1 < Config.dramBytes → exec .pagetable s
        = .next ((s.setCtx s.hcmd.ctx (fun c => { c with roots := FMap.set c.roots (s.param 0) (s.param 1) })).hostDone 1))
      ∧ (s.param 0 ∉ c.setts → exec .pagetable s = .next (s.hostDone 7)) := by
  refine ⟨fun hin halign hdram => exec_of_runs rfl hruns (if_neg ?_) (by decide),
    fun hout => exec_of_runs rfl hruns (if_pos ?_) (by decide)⟩
  · simp [hin, halign, hdram]
  · simp [hout]

/-- POOL_ADD of 64 KiB frames. -/
theorem exec_poolAdd_spec (hruns : s.Runs 4 c) (hin : s.param 0 ∈ c.setts) (hsize : s.param 3 = 0) (halign : s.param 1 % 2 ^ 16 = 0)
    (hdram : s.param 1 + s.param 2 * 2 ^ 16 ≤ Config.dramBytes) : exec .poolAdd s = .next ((s.setCtx s.hcmd.ctx (fun c => { c with
      pools := FMap.set c.pools (s.param 0) ((FMap.getD c.pools (s.param 0) { k64 := [], m2 := [], g1 := [], slots := [] }).add 0
        ((upTo 0 (s.param 2)).map (fun i => s.param 1 + i * 2 ^ 16))) })).hostDone 1) := by
  refine exec_of_runs rfl hruns ((if_neg ?_).trans ?_) (by decide)
  · simp only [hsize, sizeLog2, if_true]
    simp [hin]
    exact ⟨halign, hdram⟩
  · simp only [hsize, sizeLog2, if_true]

/-- The queue that QUEUE's parameters say. -/
def State.newQueue (s : State) : UserQueue :=
  { ctx := s.hcmd.ctx, base := BitVec.ofNat 64 (s.param 1), log2 := s.param 2, prio := s.param 3, rd := 0, db := 0, seen := [],
    eligible := none, running := false }

/-- QUEUE at a free place. -/
theorem exec_queue_spec (hruns : s.Runs 4 c) (h0 : s.param 0 ≤ 1023) (halign : s.param 1 % 64 = 0) (hglobal : globalOk (s.param 1) = true)
    (hlo : 1 ≤ s.param 2) (hhi : s.param 2 ≤ 16) (hprio : s.param 3 ≤ 3)
    (hfree : FMap.get? s.queues (queueKey s.hcmd.site (s.param 0)) = none) :
    exec .queue s = .next (State.hostDone { s with
      queues := FMap.set s.queues (queueKey s.hcmd.site (s.param 0)) s.newQueue } 1) := by
  have hgo : ¬ (1023 < s.param 0 ∨ s.param 1 % 64 ≠ 0 ∨ (!globalOk (s.param 1)) = true ∨ s.param 2 = 0 ∨ 16 < s.param 2
      ∨ 3 < s.param 3) := by
    rw [hglobal]
    simp only [Bool.not_true, Bool.false_eq_true, false_or]
    omega
  refine exec_of_runs rfl hruns ((if_neg hgo).trans ?_) (by decide)
  rw [hfree]
  rfl

/-- HANDLERS registers an aligned table. -/
theorem exec_handlers_spec (hruns : s.Runs 1 c) :
    (s.param 0 % 16 = 0 → globalOk (s.param 0) = true → exec .handlers s
        = .next ((s.setCtx s.hcmd.ctx (fun c => { c with handlers := some (BitVec.ofNat 64 (s.param 0)) })).hostDone 1))
      ∧ (s.param 0 % 16 ≠ 0 → exec .handlers s = .next (s.hostDone 7)) := by
  refine ⟨fun halign hglobal => exec_of_runs rfl hruns (if_neg ?_) (by decide),
    fun hoff => exec_of_runs rfl hruns (if_pos (.inl hoff)) (by decide)⟩
  rw [hglobal]
  rintro (h | h)
  · exact h halign
  · exact absurd h (by decide)

/-- STOP at least so far ahead sets the time of the cut, once. -/
theorem exec_stop_spec (hruns : s.Runs 1 c) :
    (s.param 0 < s.gtc + (if s.spansPackages s.hcmd.ctx = true then 20000 else 2000) → exec .stop s = .next (s.hostDone 7))
      ∧ (s.gtc + (if s.spansPackages s.hcmd.ctx = true then 20000 else 2000) ≤ s.param 0 → c.stopAt ≠ none →
        exec .stop s = .next (s.hostDone 8))
      ∧ (s.gtc + (if s.spansPackages s.hcmd.ctx = true then 20000 else 2000) ≤ s.param 0 → c.stopAt = none →
        exec .stop s = .next ((s.setCtx s.hcmd.ctx (fun c => { c with stopAt := some (s.param 0) })).hostDone 1)) := by
  refine ⟨fun hearly => exec_of_runs rfl hruns (if_pos hearly) (by decide), fun hlate hset => ?_, fun hlate hnone => ?_⟩
  · exact exec_of_runs rfl hruns ((if_neg (Nat.not_lt.2 hlate)).trans (if_pos (Option.isSome_iff_ne_none.2 hset))) (by decide)
  · have hno : ¬ (c.stopAt.isSome = true) := by
      rw [hnone]
      decide
    exact exec_of_runs rfl hruns ((if_neg (Nat.not_lt.2 hlate)).trans (if_neg hno)) (by decide)

/-- A ring whose place and size are fine. -/
theorem State.newRing_of_fine {align : Nat} (halign : s.param 0 % align = 0) (hglobal : globalOk (s.param 0) = true) (hlo : 4 ≤ s.param 1)
    (hhi : s.param 1 ≤ 16) : s.newRing align = some { base := BitVec.ofNat 64 (s.param 0), log2 := s.param 1, next := 0 } := by
  refine if_neg ?_
  rw [hglobal]
  rintro (h | h | h | h)
  · exact h halign
  · exact absurd h (by decide)
  · omega
  · omega

/-- EVENTQ and COMPLQ register their rings. -/
theorem exec_rings_spec (hruns : s.Runs 2 c) (hglobal : globalOk (s.param 0) = true) (hlo : 4 ≤ s.param 1) (hhi : s.param 1 ≤ 16) :
    (s.param 0 % 32 = 0 → exec .eventq s = .next ((s.setCtx s.hcmd.ctx (fun c => { c with
        eventq := some { base := BitVec.ofNat 64 (s.param 0), log2 := s.param 1, next := 0 } })).hostDone 1))
      ∧ (s.param 0 % 16 = 0 → exec .complq s = .next ((s.setCtx s.hcmd.ctx (fun c => { c with
        complq := some { base := BitVec.ofNat 64 (s.param 0), log2 := s.param 1, next := 0 } })).hostDone 1)) := by
  refine ⟨fun halign => exec_of_runs rfl hruns ?_ (by decide), fun halign => exec_of_runs rfl hruns ?_ (by decide)⟩
  · rw [State.newRing_of_fine halign hglobal hlo hhi]
  · rw [State.newRing_of_fine halign hglobal hlo hhi]

/-- GRANT, SNAPSHOT and STATEMENT refuse a sett that the context does not have. -/
theorem exec_outside_spec (hruns : s.Runs 2 c) (hout : s.param 0 ∉ c.setts) : exec .grant s = .next (s.hostDone 7)
    ∧ exec .snapshot s = .next (s.hostDone 7) ∧ exec .statement s = .next (s.hostDone 7) := by
  have hno : (!c.setts.contains (s.param 0)) = true := by simp [hout]
  exact ⟨exec_of_runs rfl hruns (if_pos hno) (by decide), exec_of_runs rfl hruns (if_pos hno) (by decide),
    exec_of_runs rfl hruns (if_pos hno) (by decide)⟩

/-- GRANT adds to a balance, up to its largest value. -/
theorem exec_grant_spec (hruns : s.Runs 2 c) (hin : s.param 0 ∈ c.setts) : exec .grant s = .next ((s.setCtx s.hcmd.ctx (fun v => { v with
    accounts := FMap.set v.accounts (s.param 0) { FMap.getD c.accounts (s.param 0) { balance := 0, rem := 0 } with
      balance := min (2 ^ 48 - 1) ((FMap.getD c.accounts (s.param 0) { balance := 0, rem := 0 }).balance + s.param 1) } })).hostDone 1) := by
  have hhas : ¬ ((!c.setts.contains (s.param 0)) = true) := by simp [hin]
  exact exec_of_runs rfl hruns (if_neg hhas) (by decide)

/-- HAREA registers a region whose every page may be read and written with key 0. -/
theorem exec_harea_spec (hruns : s.Runs 3 c) (hin : s.param 0 ∈ c.setts) (halign : s.param 1 % 64 = 0) (hlen : s.param 2 % 64 = 0)
    (hglobal : globalOk (s.param 1) = true) (hpkg : bitsNat (s.param 1) 59 54 = s.ownPkg) (hsett : bitsNat (s.param 1) 53 48 = s.param 0)
    (hend : bitsNat (s.param 1) 47 0 + s.param 2 ≤ 2 ^ 48) :
    (s.rangeRw0 s.hcmd.ctx (s.param 1) (s.param 2) = false → exec .harea s = .next (s.hostDone 7))
      ∧ (s.rangeRw0 s.hcmd.ctx (s.param 1) (s.param 2) = true → FMap.get? c.regions (s.param 0) = none → exec .harea s
        = .next ((s.setCtx s.hcmd.ctx (fun c => { c with
          regions := FMap.set c.regions (s.param 0) { base := BitVec.ofNat 64 (s.param 1), len := s.param 2, areas := [] } })).hostDone 1)) := by
  have htest : (!c.setts.contains (s.param 0) || s.param 1 % 64 != 0 || s.param 2 % 64 != 0 || !globalOk (s.param 1)
      || bitsNat (s.param 1) 59 54 != s.ownPkg || bitsNat (s.param 1) 53 48 != s.param 0
      || decide (2 ^ 48 < bitsNat (s.param 1) 47 0 + s.param 2)) = false := by
    have hfits : decide (2 ^ 48 < bitsNat (s.param 1) 47 0 + s.param 2) = false := decide_eq_false (Nat.not_lt.2 hend)
    rw [hfits]
    simp [hin, halign, hlen, hglobal, hpkg, hsett]
  refine ⟨fun hno => exec_of_runs rfl hruns (if_pos ?_) (by decide), fun hyes hnew => exec_of_runs rfl hruns ((if_neg ?_).trans ?_) (by decide)⟩
  · rw [htest, hno]
    rfl
  · rw [htest, hyes]
    decide
  · rw [hnew]

end Sys2Proof.Machine
end

section
open Sys2Proof Sys2Proof.Machine

/-- Settles O49: accesses of the window and the ring area by their place, the commands by the test they share and by what each does
once it has passed. -/
theorem hostCommands : Obligations.HostCommands := by
  unfold Obligations.HostCommands
  intro s c x site off value a n bs acc
  dsimp only
  refine ⟨fun hx => ?_, fun hx hlevel => ?_, fun hx hlevel => ⟨fun hoff hunbound _ => ?_, fun hle hend => ?_, fun hle hend => ?_,
    fun hbs t hring => ?_, fun hbs ha t hring => ?_⟩, fun hx hold => ?_, fun hx hnew hup => ?_, refuses_of_mem s, fun i hi hup hend hc => ?_,
    fun hup hend hctx h1 h2 h3 h4 hlive hx => ?_, exec_ctxDestroy_spec, exec_bind_spec, exec_pagetable_spec, exec_poolAdd_spec,
    exec_queue_spec, fun hruns => ?_, exec_rings_spec, fun hruns => ⟨exec_outside_spec hruns, exec_grant_spec hruns⟩, exec_harea_spec⟩
  · show execHostMemoryAccess site off acc s = _
    rw [execHostMemoryAccess, hx]
  · show execHostMemoryAccess site off acc s = _
    rw [execHostMemoryAccess, hx]
    exact if_pos hlevel
  · have hin : off < 2 ^ 54 := by omega
    show execHostMemoryAccess site off (.read n) s = _
    rw [execHostMemoryAccess, hx]
    dsimp only
    rw [if_neg hlevel, if_pos hin, State.hostWindow_unbound s n hunbound]
  · have hslots : ¬ a < 1025 * 4096 := Nat.not_lt.2 hle
    refine ((exec_hostMemoryAccess_area hx hlevel a).2 bs).trans ((if_neg hslots).trans ?_)
    rw [State.areaWrite, if_pos ⟨hle, hend⟩]
  · have hbytes : (upTo a n).map (s.areaByte site) = (upTo a n).map (fun o => s.mem.get (Config.ringKey site (o - 1025 * 4096))) := by
      refine List.map_congr_left fun o ho => ?_
      obtain ⟨hlo, hhi⟩ := (mem_upTo _ _ _).1 ho
      have hslot : 1025 * 4096 ≤ o ∧ o < 1029 * 4096 := by omega
      rw [State.areaByte, if_pos hslot]
    exact ((exec_hostMemoryAccess_area hx hlevel a).1 n).trans (by rw [hbytes])
  · exact (exec_hostMemoryAccess_ring hx hlevel (Nat.le_refl 1024) hbs).trans hring
  · have hpage : a ≠ 1024 := by omega
    refine (exec_hostMemoryAccess_ring hx hlevel (Nat.le_of_lt ha) hbs).trans ?_
    rw [ringDoorbell, if_neg hpage]
    exact hring
  · show execHostRingDoorbell site value s = _
    rw [execHostRingDoorbell, hx]
    exact congrArg Host.Outcome.next (if_pos hold)
  · obtain ⟨sites, y, hstep, hy, hdb, hrd, hseen⟩ := exec_hostRingDoorbell_spec hx hnew hup
    exact ⟨_, y, hstep, hy, hdb, hrd, rfl, hseen⟩
  · exact gone_of_mem hup hc i hi hend
  · obtain ⟨hshort, hcreate⟩ := exec_ctxCreate_spec hup hend hctx h1 h2 h3 h4 hlive hx
    refine ⟨hshort, fun m hm hfree hplaces => ⟨_, rfl, rfl, rfl, rfl, rfl, rfl, rfl, fun t ht => ?_, hcreate m hm hfree hplaces⟩⟩
    obtain ⟨n, -, rfl⟩ := List.mem_map.1 ht
    rfl
  · obtain ⟨haligned, hoff⟩ := exec_handlers_spec hruns
    exact ⟨haligned, hoff, exec_of_runs rfl hruns rfl (by decide), exec_stop_spec hruns⟩

end

section
/-!
SUPPORT. The commands that start and end services (R351, R360, R393, R397, R398, R412, R420, R444, R445, R447), by the branch of each
that its reads and checks take.
-/

namespace Sys2Proof.Machine

variable {s : State} {c : Context}

/-! ### Commands that read or check in another package -/

/-- A command whose read or check failed: it asks and is run again, or ends with its status. -/
theorem exec_of_wait {i : Instr} {n k status : Nat} {f : Nat → Context → State → Nat × State} (hi : exec i s = .next (s.ctxCommand n f))
    (hruns : s.Runs n c) (hf : f s.hcmd.ctx c s = s.hostWait k status) (hstatus : status ≠ 0) :
    exec i s = .next (if isAwait k = true then s.askFar (.host s.hcmd.site) k else s.hostDone status) := by
  obtain ⟨hup, hend, hc⟩ := hruns
  by_cases hk : isAwait k = true
  · rw [if_pos hk]
    have hno : ¬ ((s.hcmd.params.drop n).any (fun w => w != 0) = true) := by
      rw [(s.paramsEnd_iff n).2 hend]
      decide
    rw [hi, State.ctxCommand, State.command8, if_neg (Nat.not_lt.2 hup), if_neg hno, hc]
    dsimp only
    rw [hf, State.hostWait, if_pos hk]
    rfl
  · rw [if_neg hk, hi, State.ctxCommand_run hup hend hc (hf.trans (if_neg hk)) hstatus]

/-- A record is written at its destination (R444): in this package where every page may be written, in another one once its pages
have passed. -/
theorem exec_of_record {i : Instr} {n : Nat} {f : Nat → Context → State → Nat × State} (hi : exec i s = .next (s.ctxCommand n f))
    (hruns : s.Runs n c) (record : List Byte) (hf : f s.hcmd.ctx c s = s.writeRecord s.hcmd.ctx (s.param 1) record) (xs : List Spot) :
    (globalOk (s.param 1) = false → exec i s = .next (s.hostDone 7))
      ∧ (globalOk (s.param 1) = true ∧ bitsNat (s.param 1) 59 54 = s.ownPkg →
        s.hostSpots s.hcmd.ctx (s.param 1) record.length .store = some xs → exec i s = .next ((writeSpots [] xs record s).hostDone 1))
      ∧ (globalOk (s.param 1) = true ∧ bitsNat (s.param 1) 59 54 = s.ownPkg →
        s.hostSpots s.hcmd.ctx (s.param 1) record.length .store = none → exec i s = .next (s.hostDone 7))
      ∧ (globalOk (s.param 1) = true → bitsNat (s.param 1) 59 54 ≠ s.ownPkg →
        allOk ((lineCut (s.param 1) record.length).map (fun x => s.devOk (.host s.hcmd.site) s.hcmd.ctx x.1 .store)) = .ok () →
        exec i s = .next ((s.sendRecord s.hcmd.ctx (s.param 1) record).hostDone 1))
      ∧ (globalOk (s.param 1) = true → bitsNat (s.param 1) 59 54 ≠ s.ownPkg → ∀ k,
        allOk ((lineCut (s.param 1) record.length).map (fun x => s.devOk (.host s.hcmd.site) s.hcmd.ctx x.1 .store)) = .error k →
        exec i s = .next (if isAwait k = true then s.askFar (.host s.hcmd.site) k else s.hostDone 7)) := by
  have hglobal (h : globalOk (s.param 1) = true) : ¬ ((!globalOk (s.param 1)) = true) := by
    rw [h]
    decide
  rw [State.writeRecord] at hf
  refine ⟨fun hbad => ?_, fun ⟨hok, hhere⟩ hspots => ?_, fun ⟨hok, hhere⟩ hspots => ?_, fun hok haway hpages => ?_,
    fun hok haway k hpages => ?_⟩
  · rw [hbad] at hf
    exact exec_of_runs hi hruns (hf.trans (if_pos rfl)) (by decide)
  · rw [if_neg (hglobal hok), if_pos hhere, hspots] at hf
    exact exec_of_runs hi hruns hf (by decide)
  · rw [if_neg (hglobal hok), if_pos hhere, hspots] at hf
    exact exec_of_runs hi hruns hf (by decide)
  · rw [if_neg (hglobal hok), if_neg haway, hpages] at hf
    exact exec_of_runs hi hruns hf (by decide)
  · rw [if_neg (hglobal hok), if_neg haway, hpages] at hf
    exact exec_of_wait hi hruns hf (by decide)

/-! ### COLLECTIVE and ABORT (R412, R420) -/

section
variable {hdr bs : List Byte} {g : Group}

/-- A read of COLLECTIVE's structure that fails is awaited, or answered with 0x07. -/
theorem exec_collective_unread (hruns : s.Runs 1 c) :
    (∀ k, s.anyRead (.host s.hcmd.site) s.hcmd.ctx .load (s.param 0) 64 = .error k → exec .collective s
        = .next (if isAwait k = true then s.askFar (.host s.hcmd.site) k else s.hostDone 7))
      ∧ (s.anyRead (.host s.hcmd.site) s.hcmd.ctx .load (s.param 0) 64 = .ok hdr →
        (headerOk (parseGroup s.hcmd.ctx 0 hdr) hdr = false → exec .collective s = .next (s.hostDone 7))
        ∧ (headerOk (parseGroup s.hcmd.ctx 0 hdr) hdr = true → ∀ k,
          s.anyRead (.host s.hcmd.site) s.hcmd.ctx .load (s.param 0) (64 + 48 * (fieldAt hdr 0 2 + fieldAt hdr 2 2)) = .error k →
          exec .collective s = .next (if isAwait k = true then s.askFar (.host s.hcmd.site) k else s.hostDone 7))) := by
  refine ⟨fun k hread => exec_of_wait rfl hruns ?_ (by decide), fun hread => ⟨fun hbad => exec_of_runs rfl hruns ?_ (by decide),
    fun hok k hrows => exec_of_wait rfl hruns ?_ (by decide)⟩⟩
  · simp only [hread]
  · simp only [hread, hbad, Bool.not_false, if_true]
  · have hgo : ¬ ((!headerOk (parseGroup s.hcmd.ctx 0 hdr) hdr) = true) := by
      rw [hok]
      decide
    simp only [hread, if_neg hgo, hrows]

/-- The rows of a group's structure, each with its position. -/
def Group.rows (g : Group) (n : Nat) (bs : List Byte) : List (Position × List Byte) :=
  g.positions.zip ((upTo 0 n).map (fun i => (bs.drop (64 + 48 * i)).take 48))

/-- The positions and the ranges of a structure pass (R412). -/
def State.GroupFine (s : State) (c : Context) (g : Group) (n : Nat) (bs : List Byte) : Prop :=
  (∀ y ∈ g.rows n bs, s.positionOk s.hcmd.ctx c g y.2 y.1 = true) ∧ peersOk g = true
    ∧ s.extentOk s.hcmd.ctx g.ostatus.toNat 8 .store = true

/-- The group as COLLECTIVE registers it: with the counts that its positions' counters start from. -/
def State.basedGroup (s : State) (g : Group) : Group :=
  { g with positions := g.positions.map (fun (p : Position) => { p with base := s.readyCount s.hcmd.ctx p }) }

/-- The number that a group gets: that of an earlier one of the same structure, or a free one. -/
def State.groupPlace (s : State) (g : Group) : Nat :=
  match s.groups.filter (fun x => x.2.ctx == s.hcmd.ctx && x.2.addr == g.addr) with
  | x :: _ => x.1
  | [] => FMap.free s.groups 1 s.groups.length

/-- A structure that is read (R412): its ranges are awaited, fail, are in use, or become a group. The check of its ranges is taken
as any function `ext`, so that the kernel does not evaluate it where it reduces the matches around it. -/
theorem exec_collective_read (hruns : s.Runs 1 c)
    (hhdr : s.anyRead (.host s.hcmd.site) s.hcmd.ctx .load (s.param 0) 64 = .ok hdr)
    (hok : headerOk (parseGroup s.hcmd.ctx 0 hdr) hdr = true)
    (hrows : s.anyRead (.host s.hcmd.site) s.hcmd.ctx .load (s.param 0) (64 + 48 * (fieldAt hdr 0 2 + fieldAt hdr 2 2)) = .ok bs)
    (hg : g = parseGroup s.hcmd.ctx (BitVec.ofNat 64 (s.param 0)) bs) :
    (∀ k, s.extentsUnread s.hcmd.ctx g = some k → exec .collective s
        = .next (if isAwait k = true then s.askFar (.host s.hcmd.site) k else s.hostDone 7))
      ∧ (s.extentsUnread s.hcmd.ctx g = none → ¬ s.GroupFine c g (fieldAt hdr 0 2 + fieldAt hdr 2 2) bs →
        exec .collective s = .next (s.hostDone 7))
      ∧ (s.extentsUnread s.hcmd.ctx g = none → s.GroupFine c g (fieldAt hdr 0 2 + fieldAt hdr 2 2) bs →
        ((∃ y ∈ s.groups, y.2.ctx = s.hcmd.ctx ∧ y.2.addr = g.addr ∧ y.2.st.live = true) → exec .collective s = .next (s.hostDone 8))
        ∧ ((∀ y ∈ s.groups, y.2.ctx = s.hcmd.ctx → y.2.addr = g.addr → y.2.st.live = false) → exec .collective s
          = .next (State.hostDone { s with groups := FMap.set s.groups (s.groupPlace g) (s.basedGroup g) } 1))) := by
  have hgo : ¬ ((!headerOk (parseGroup s.hcmd.ctx 0 hdr) hdr) = true) := by
    rw [hok]
    decide
  have hfine : ((g.rows (fieldAt hdr 0 2 + fieldAt hdr 2 2) bs).all (fun x => s.positionOk s.hcmd.ctx c g x.2 x.1) && peersOk g
      && s.extentOk s.hcmd.ctx g.ostatus.toNat 8 .store) = true ↔ s.GroupFine c g (fieldAt hdr 0 2 + fieldAt hdr 2 2) bs := by
    rw [Bool.and_eq_true, Bool.and_eq_true, List.all_eq_true, and_assoc]
    rfl
  have hlive : (s.groups.filter (fun x => x.2.ctx == s.hcmd.ctx && x.2.addr == g.addr)).any (fun x => x.2.st.live) = true
      ↔ ∃ y ∈ s.groups, y.2.ctx = s.hcmd.ctx ∧ y.2.addr = g.addr ∧ y.2.st.live = true := by
    simp only [List.any_eq_true, List.mem_filter, Bool.and_eq_true, beq_iff_eq, and_assoc]
  obtain ⟨ext, hext⟩ : ∃ f, f = State.extentsUnread := ⟨_, rfl⟩
  refine ⟨fun k hunread => exec_of_wait rfl hruns ?_ (by decide), fun hread hbad => exec_of_runs rfl hruns ?_ (by decide),
    fun hread hpass => ⟨fun hused => exec_of_runs rfl hruns ?_ (by decide), fun hfree => exec_of_runs rfl hruns ?_ (by decide)⟩⟩
  · rw [← hext] at hunread ⊢
    simp only [hhdr, if_neg hgo, hrows, ← hg, hunread]
  · rw [← hext] at hread ⊢
    simp only [hhdr, if_neg hgo, hrows, ← hg, hread]
    refine if_pos ?_
    rw [Bool.not_eq_true']
    exact Bool.eq_false_iff.2 fun h => hbad (hfine.1 h)
  · rw [← hext] at hread ⊢
    simp only [hhdr, if_neg hgo, hrows, ← hg, hread]
    refine (if_neg ?_).trans (if_pos (hlive.2 hused))
    rw [Bool.not_eq_true', Bool.not_eq_false]
    exact hfine.2 hpass
  · rw [← hext] at hread ⊢
    simp only [hhdr, if_neg hgo, hrows, ← hg, hread]
    refine (if_neg ?_).trans ((if_neg fun h => ?_).trans rfl)
    · rw [Bool.not_eq_true', Bool.not_eq_false]
      exact hfine.2 hpass
    · obtain ⟨y, hy, hctx, haddr, hyes⟩ := hlive.1 h
      rw [hfree y hy hctx haddr] at hyes
      cases hyes

end

/-- Aborts sent to setts leave the groups alone. -/
theorem foldl_abort_groups (ctx gid : Nat) (homes : List (Nat × Nat)) (s : State) :
    (homes.foldl (fun s h => s.sendCtl s.gtcSett h.1 h.2 (.abort ctx gid)) s).groups = s.groups := by
  induction homes generalizing s with
  | nil => rfl
  | cons h homes ih =>
    obtain ⟨_, _, _, hsend, -⟩ := s.sendCtl_eq s.gtcSett h.1 h.2 (.abort ctx gid)
    rw [List.foldl_cons, ih, hsend]

/-- ABORT of a group: refused where there is none or it is over, else every position of the run is told (R420). -/
theorem exec_abort_spec (hruns : s.Runs 1 c) (gid : Nat) (g : Group) : (s.groupAt s.hcmd.ctx (s.param 0) = none →
      exec .abort s = .next (s.hostDone 7))
    ∧ (s.groupAt s.hcmd.ctx (s.param 0) = some (gid, g) → (g.st.live = false ∨ g.aborting = true) → exec .abort s = .next (s.hostDone 8))
    ∧ (s.groupAt s.hcmd.ctx (s.param 0) = some (gid, g) → FMap.get? s.groups gid = some g → g.st.live = true → g.aborting = false →
      ∃ (u : State) (v : Group), exec .abort s = .next (u.hostDone 1) ∧ FMap.get? u.groups gid = some v ∧ v.aborting = true ∧ v.st = g.st) := by
  refine ⟨fun hnone => exec_of_runs rfl hruns ?_ (by decide), fun hat hover => exec_of_runs rfl hruns ?_ (by decide),
    fun hat hget hlive hidle => ?_⟩
  · rw [hnone]
  · rw [hat]
    refine if_pos ?_
    rcases hover with hdead | habort
    · rw [hdead, Bool.not_false, Bool.true_or]
    · rw [habort, Bool.or_true]
  · have hgo : ¬ ((!g.st.live || g.aborting) = true) := by
      rw [hlive, hidle]
      decide
    have hgot := FMap.get?_modify s.groups gid (fun g => { (g.mapActive (fun p => { p with applied := false, due := false })) with
      aborting := true }) gid
    rw [if_pos rfl, hget, Option.map_some] at hgot
    have hrun : exec .abort s = .next (State.hostDone _ 1) := exec_of_runs rfl hruns (by simp only [hat]; exact if_neg hgo) (by decide)
    exact ⟨_, _, hrun, (congrArg (fun m => FMap.get? m gid) (foldl_abort_groups s.hcmd.ctx gid _ _)).trans hgot, rfl, rfl⟩

/-! ### Slots, the timetable, the grandmaster and RESTORE -/

/-- A slot as SUMAC_LOAD makes it of its descriptor and image (R397). -/
def loadedSlot (ctx : Nat) (bs : List Byte) (ws : List Word32) : Slot :=
  { ctx := ctx, dir := fieldAt bs 3 1, flows := fieldAt bs 4 2, policy := fieldAt bs 7 1, image := ws, active := fieldAt bs 24 8,
    tqbase := BitVec.ofNat 64 (fieldAt bs 32 8), tqlog2 := fieldAt bs 40 1, tqctr := fieldAt bs 42 2,
    dest := (upTo 0 64).map (fun p => fieldAt bs (64 + 6 * p) 6), store := [], holds := [], flags := 0, records := 0, unloadAt := none,
    slotByte := fieldAt bs 2 1 }

/-- SUMAC_LOAD of a descriptor that is read: refused for its fields, or for its LEVEL. -/
theorem exec_sumacLoad_refused {bs : List Byte} (hruns : s.Runs 1 c)
    (hread : s.anyRead (.host s.hcmd.site) s.hcmd.ctx .load (s.param 0) 448 = .ok bs) :
    (s.slotBad s.hcmd.ctx bs = true → exec .sumacLoad s = .next (s.hostDone 0x11))
      ∧ (s.slotBad s.hcmd.ctx bs = false → fieldAt bs 6 1 ≠ 1 → exec .sumacLoad s = .next (s.hostDone 0x14)) := by
  refine ⟨fun hbad => exec_of_runs rfl hruns ?_ (by decide), fun hgood hlevel => exec_of_runs rfl hruns ?_ (by decide)⟩
  · simp only [hread, hbad, if_true]
  · simp only [hread, hgood, Bool.false_eq_true, if_false, if_pos hlevel]

/-- SUMAC_LOAD of a fine descriptor: refused where the place or the context is used, or the kernel is none, else the slot is made. -/
theorem exec_sumacLoad_spec {bs : List Byte} (hruns : s.Runs 1 c)
    (hread : s.anyRead (.host s.hcmd.site) s.hcmd.ctx .load (s.param 0) 448 = .ok bs)
    (hgood : s.slotBad s.hcmd.ctx bs = false) (hlevel : fieldAt bs 6 1 = 1) (ws : List Word32) :
    let ch := s.chip (fieldAt bs 2 1 / 16 % 2)
    let used := (FMap.get? ch.slots (fieldAt bs 2 1 % 16)).isSome = true ∨ ∃ y ∈ ch.slots, y.2.ctx = s.hcmd.ctx
    (used → exec .sumacLoad s = .next (s.hostDone 0x12))
      ∧ (¬ used → ∀ n, s.imageWords s.hcmd.ctx (fieldAt bs 8 8) (fieldAt bs 16 2) = .error n →
        exec .sumacLoad s = .next (if isAwait n = true then s.askFar (.host s.hcmd.site) n else s.hostDone 0x11))
      ∧ (¬ used → s.imageWords s.hcmd.ctx (fieldAt bs 8 8) (fieldAt bs 16 2) = .ok ws →
        (kernelOk ws = false → exec .sumacLoad s = .next (s.hostDone 0x13))
        ∧ (kernelOk ws = true → exec .sumacLoad s = .next (State.hostDone (s.setChip (fieldAt bs 2 1 / 16 % 2) (fun c => { c with
          slots := FMap.set c.slots (fieldAt bs 2 1 % 16) (loadedSlot s.hcmd.ctx bs ws) })) 1))) := by
  intro ch used
  have hused : ((FMap.get? ch.slots (fieldAt bs 2 1 % 16)).isSome || ch.slots.any (fun x => x.2.ctx == s.hcmd.ctx)) = true ↔ used := by
    simp only [used, Bool.or_eq_true, List.any_eq_true, beq_iff_eq]
  have hone : ¬ (fieldAt bs 6 1 ≠ 1) := not_not.2 hlevel
  refine ⟨fun hyes => exec_of_runs rfl hruns ?_ (by decide), fun hno n himage => exec_of_wait rfl hruns ?_ (by decide),
    fun hno himage => ⟨fun hbad => exec_of_runs rfl hruns ?_ (by decide), fun hok => exec_of_runs rfl hruns ?_ (by decide)⟩⟩
  · simp only [hread, hgood, Bool.false_eq_true, if_false, if_neg hone]
    exact if_pos (hused.2 hyes)
  · simp only [hread, hgood, Bool.false_eq_true, if_false, if_neg hone, himage]
    exact if_neg fun h => hno (hused.1 h)
  · simp only [hread, hgood, Bool.false_eq_true, if_false, if_neg hone, himage, hbad, Bool.not_false, if_true]
    exact if_neg fun h => hno (hused.1 h)
  · simp only [hread, hgood, Bool.false_eq_true, if_false, if_neg hone, himage, hok, Bool.not_true]
    exact if_neg fun h => hno (hused.1 h)

/-- A slot that is to unload at a time (R398). -/
def unloadingSlot (ctx at_ : Nat) (x : Slot) : Slot := if x.ctx = ctx ∧ x.unloadAt = none then { x with unloadAt := some at_ } else x

/-- SUMAC_UNLOAD: refused where the context has no slot, else each of its slots is to unload. -/
theorem exec_sumacUnload_spec (hruns : s.Runs 1 c) :
    ((∀ y ∈ s.chips, ∀ z ∈ y.2.slots, z.2.ctx ≠ s.hcmd.ctx) → exec .sumacUnload s = .next (s.hostDone 7))
      ∧ ((∃ y ∈ s.chips, ∃ z ∈ y.2.slots, z.2.ctx = s.hcmd.ctx) → exec .sumacUnload s = .next (State.hostDone { s with
        chips := s.chips.map (fun y => (y.1, { y.2 with
          slots := y.2.slots.map (fun z => (z.1, unloadingSlot s.hcmd.ctx (s.param 0) z.2)) })) } 1)) := by
  have hhas : s.chips.any (fun x => x.2.slots.any (fun y => y.2.ctx == s.hcmd.ctx)) = true
      ↔ ∃ y ∈ s.chips, ∃ z ∈ y.2.slots, z.2.ctx = s.hcmd.ctx := by
    simp only [List.any_eq_true, beq_iff_eq]
  refine ⟨fun hnone => exec_of_runs rfl hruns (if_pos ?_) (by decide), fun hsome => exec_of_runs rfl hruns ((if_neg ?_).trans ?_) (by decide)⟩
  · rw [Bool.not_eq_true']
    refine Bool.eq_false_iff.2 fun h => ?_
    obtain ⟨y, hy, z, hz, hctx⟩ := hhas.1 h
    exact hnone y hy z hz hctx
  · rw [hhas.2 hsome]
    decide
  · simp only [unloadingSlot, Option.isNone_iff_eq_none]

/-- A package stays dark longer than a timetable may leave it. -/
def Timetable.tooDark (t : Timetable) : Bool :=
  (upTo 0 64).any (fun p => match t.dark p with
    | some d => decide (50000 < d)
    | none => false)

/-- What the host is told of a timetable: how long each package stays dark. -/
def Timetable.report (t : Timetable) : List Byte :=
  bytesOf 1 13 ++ (upTo 0 64).flatMap (fun p => bytesOf 4 ((t.dark p).getD (2 ^ 32 - 1)))

/-- TIMETABLE of an image that is read (R393). -/
theorem exec_timetable_spec {hdr bs : List Byte} {t : Timetable} (hup : 8 ≤ s.bringup) (hend : s.ParamsEnd 1) (hctx : s.hcmd.ctx = 0)
    (hhdr : s.windowRead (s.param 0) 64 = some hdr)
    (hread : s.windowRead (s.param 0) (64 + 520 * min 256 (fieldAt hdr 2 2)) = some bs) (ht : t = parseTimetable bs) :
    let bad := s.tableOk bs t = false ∨ t.base < s.gtc + 100000 ∨ ∃ k d, k < 64 ∧ t.dark k = some d ∧ 50000 < d
    (bad → exec .timetable s = .next (s.hostDone 7))
      ∧ (¬ bad → ∃ report, exec .timetable s = .next (State.hostDone { s with
        timetable := s.inForce, pendingTable := some t, outbox := s.outbox ++ [report] } 1)) := by
  intro bad
  have hdark : t.tooDark = true ↔ ∃ k d, k < 64 ∧ t.dark k = some d ∧ 50000 < d := by
    simp only [Timetable.tooDark, List.any_eq_true, mem_upTo, Nat.zero_le, true_and, Nat.zero_add]
    refine exists_congr fun k => ?_
    cases t.dark k with
    | none => simp
    | some d => simp
  have hbad : (!s.tableOk bs t || decide (t.base < s.gtc + 100000) || t.tooDark) = true ↔ bad := by
    rw [Bool.or_eq_true, Bool.or_eq_true, hdark, Bool.not_eq_true', decide_eq_true_iff, or_assoc]
  have hpkg : ¬ (s.hcmd.ctx ≠ 0) := not_not.2 hctx
  refine ⟨fun hyes => congrArg Host.Outcome.next (State.command8_run hup hend ((if_neg hpkg).trans ?_) (by decide)),
    fun hno => ⟨t.report, congrArg Host.Outcome.next (State.command8_run hup hend ((if_neg hpkg).trans ?_) (by decide))⟩⟩
  · simp only [hhdr, hread, ← ht]
    exact if_pos (hbad.2 hyes)
  · simp only [hhdr, hread, ← ht]
    exact if_neg fun h => hno (hbad.1 h)

/-- GRANDMASTER (R447): ignored before its step, refused for its fields, and else taken in. -/
theorem exec_grandmaster_spec (s : State) :
    (s.bringup < 6 → exec .grandmaster s = .next s)
      ∧ (6 ≤ s.bringup → (s.hcmd.ctx ≠ 0 ∨ 64 ≤ s.param 0 ∨ 64 ≤ s.param 1 ∨ (nth 0 s.hcmd.params 2).getLsbD (s.param 0) = false
        ∨ (nth 0 s.hcmd.params 2).getLsbD (s.param 1) = false) → exec .grandmaster s = .next (s.hostDone 7))
      ∧ (6 ≤ s.bringup → s.hcmd.ctx = 0 → s.ParamsEnd 3 → s.param 0 < 64 → s.param 1 < 64 →
        (nth 0 s.hcmd.params 2).getLsbD (s.param 0) = true → (nth 0 s.hcmd.params 2).getLsbD (s.param 1) = true → s.ctxs = [] →
        ∃ u : State, exec .grandmaster s = .next (u.hostDone 1) ∧ u.grandmaster = s.param 0 ∧ u.ownPkg = s.param 1
          ∧ u.domain = nth 0 s.hcmd.params 2 ∧ (s.param 0 = s.param 1 → u.locked = true ∧ u.bringup = 8)
          ∧ (s.param 0 ≠ s.param 1 → u.locked = false ∧ u.bringup = 7) ∧ u.mem = s.mem) := by
  refine ⟨fun hearly => congrArg Host.Outcome.next (if_pos hearly), fun hup hbad => ?_, fun hup hctx hend h0 h1 hgm hown hnew => ?_⟩
  · refine congrArg Host.Outcome.next ((if_neg (Nat.not_lt.2 hup)).trans (if_pos ?_))
    rcases hbad with h | h | h | h | h
    · exact .inl h
    · exact .inr (.inr (.inl h))
    · exact .inr (.inr (.inr (.inl h)))
    · exact .inr (.inr (.inr (.inr (.inl (by rw [h]; rfl)))))
    · exact .inr (.inr (.inr (.inr (.inr (by rw [h]; rfl)))))
  · have hfields : ¬ (s.hcmd.ctx ≠ 0 ∨ (s.hcmd.params.drop 3).any (fun w => w != 0) = true ∨ 64 ≤ s.param 0 ∨ 64 ≤ s.param 1
        ∨ (!(nth 0 s.hcmd.params 2).getLsbD (s.param 0)) = true ∨ (!(nth 0 s.hcmd.params 2).getLsbD (s.param 1)) = true) := by
      rw [(s.paramsEnd_iff 3).2 hend, hgm, hown]
      simp only [Bool.not_true, Bool.false_eq_true, or_false, false_or]
      omega
    have hkept : ¬ ((s.param 1 ≠ s.ownPkg ∨ nth 0 s.hcmd.params 2 ≠ s.domain) ∧ (!s.ctxs.isEmpty) = true) := by
      rw [hnew]
      exact fun h => absurd h.2 (by decide)
    have hstep : exec .grandmaster s = .next (State.hostDone (if s.param 0 = s.param 1
        then State.lockServo { s with
          grandmaster := s.param 0, ownPkg := s.param 1, domain := nth 0 s.hcmd.params 2, locked := false, bringup := 7 }
        else { s with
          grandmaster := s.param 0, ownPkg := s.param 1, domain := nth 0 s.hcmd.params 2, locked := false, bringup := 7 }) 1) :=
      congrArg Host.Outcome.next ((if_neg (Nat.not_lt.2 hup)).trans ((if_neg hfields).trans (if_neg hkept)))
    by_cases hsame : s.param 0 = s.param 1
    · rw [if_pos hsame] at hstep
      exact ⟨_, hstep, rfl, rfl, rfl, fun _ => ⟨rfl, rfl⟩, fun h => absurd hsame h, rfl⟩
    · rw [if_neg hsame] at hstep
      exact ⟨_, hstep, rfl, rfl, rfl, fun h => absurd h hsame, fun _ => ⟨rfl, rfl⟩, rfl⟩

/-- What RESTORE leaves once gangs and chip scratchpads are back: the context goes on from its save (R360). -/
def State.resumed (w : State) (id : Nat) (ts : List Team) : State :=
  let u := w.setCtx id (fun c => { c with saved := none, savedMem := [], cut := false, stopAt := none })
  let u : State := { u with groups := u.groups.map (fun y => (y.1, { y.2 with since := if y.2.ctx = id then u.gtc else y.2.since })) }
  let u := takeCompletions id (u.complEntries id) u
  let u := ts.foldl (fun u t => u.onTeam t.uid (fun u => u.resolvePending.resume id)) u
  u.testEntries id

/-- RESTORE by what was saved and what finds room (R359, R360). -/
theorem exec_restore_spec (hruns : s.Runs 0 c) :
    (c.stopAt = none → exec .restore s = .next (s.hostDone 7))
      ∧ (c.stopAt ≠ none → c.saved = none → exec .restore s = .next (s.hostDone 8))
      ∧ ∀ ts, c.stopAt ≠ none → c.saved = some ts → (restoreGangs ts (gangHeads ts) s = none → exec .restore s = .next (s.hostDone 8))
        ∧ ∀ homes r, restoreGangs ts (gangHeads ts) s = some (homes, r) → (∀ h ∈ homes, h.2 ∉ (s.sett h.1).clusterOff) →
          (restoreChips (s.gridsOf s.hcmd.ctx) r = none → exec .restore s = .next (s.hostDone 8))
          ∧ ∀ w, restoreChips (s.gridsOf s.hcmd.ctx) r = some w →
            exec .restore s = .next ((w.resumed s.hcmd.ctx ts).hostDone 1) := by
  obtain ⟨hup, hend, hc⟩ := hruns
  have hno : ¬ (s.hcmd.params.any (fun w => w != 0) = true) := by
    have hfalse : s.hcmd.params.any (fun w => w != 0) = false := (s.paramsEnd_iff 0).2 hend
    rw [hfalse]
    decide
  have hstart : exec .restore s = execRestore s := rfl
  rw [hstart, execRestore, if_neg (Nat.not_lt.2 hup), if_neg hno, hc]
  dsimp only
  cases hstop : c.stopAt with
  | none => exact ⟨fun _ => rfl, fun h => absurd rfl h, fun ts h => absurd rfl h⟩
  | some at_ =>
    cases hsaved : c.saved with
    | none => exact ⟨fun h => absurd h (by simp), fun _ _ => rfl, fun ts _ h => absurd h (by simp)⟩
    | some us =>
      refine ⟨fun h => absurd h (by simp), fun _ h => absurd h (by simp), fun ts _ h => ?_⟩
      cases h
      refine ⟨fun hgangs => ?_, fun homes r hgangs hawake => ?_⟩
      · dsimp only
        rw [hgangs]
      · have hoff : homes.filter (fun h => (s.sett h.1).clusterOff.contains h.2) = [] := by
          refine List.filter_eq_nil_iff.2 fun h hh => ?_
          rw [List.contains_iff_mem]
          exact hawake h hh
        have hnone : ¬ ((!([] : List (Nat × Nat)).isEmpty) = true) := by decide
        dsimp only
        rw [hgangs]
        dsimp only
        rw [hoff, if_neg hnone]
        refine ⟨fun hchips => ?_, fun w hchips => ?_⟩
        · rw [hchips]
        · rw [hchips]
          rfl

end Sys2Proof.Machine
end

section
open Sys2Proof Sys2Proof.Machine

/-- Settles O50: each command by the branch that its reads, its checks and the context's save take. -/
theorem serviceCommands : Obligations.ServiceCommands := by
  unfold Obligations.ServiceCommands
  intro s r w c bs hdr body xs gid g t ts homes ws
  dsimp only
  refine ⟨fun m => rfl, fun hruns hin => ⟨?_, ?_⟩, fun hruns hsett => ?_, fun hruns => (exec_collective_unread (hdr := hdr) hruns).1,
    fun hruns hread => ⟨?_, ?_, fun hok hrows hg => ?_⟩, fun hruns => exec_abort_spec hruns gid g, fun hruns n hread => ?_,
    fun hruns hread => ⟨(exec_sumacLoad_refused hruns hread).1, (exec_sumacLoad_refused hruns hread).2, fun hgood hlevel => ?_⟩,
    fun hruns => ⟨(exec_sumacUnload_spec hruns).1, fun hsome => ⟨_, (exec_sumacUnload_spec hruns).2 hsome, rfl⟩⟩,
    fun hup hend hctx hhdr hread ht => ⟨(exec_timetable_spec hup hend hctx hhdr hread ht).1, fun hgood => ?_⟩,
    (exec_grandmaster_spec s).1, (exec_grandmaster_spec s).2.1, (exec_grandmaster_spec s).2.2, fun hruns => ?_⟩
  · have hhas : ¬ ((!c.setts.contains (s.param 0)) = true) := by simp [hin]
    exact exec_of_record rfl hruns _ (if_neg hhas) xs
  · have hhas : ¬ ((!c.setts.contains (s.param 0)) = true) := by simp [hin]
    exact exec_of_record rfl hruns _ (if_neg hhas) xs
  · refine exec_of_record rfl hruns _ ((if_neg (Nat.not_le.2 hsett)).trans ?_) xs
    have hnonce : (upTo 2 4).flatMap (fun i => bytesOf 8 (s.param i))
        = bytesOf 8 (s.param 2) ++ bytesOf 8 (s.param 3) ++ bytesOf 8 (s.param 4) ++ bytesOf 8 (s.param 5) := by
      simp only [upTo, List.flatMap_cons, List.flatMap_nil, List.append_nil, List.append_assoc]
    rw [hnonce]
  · exact ((exec_collective_unread hruns).2 hread).1
  · exact ((exec_collective_unread hruns).2 hread).2
  · obtain ⟨hwait, hbad, hfine⟩ := exec_collective_read hruns hread hok hrows hg
    refine ⟨hwait, hbad, fun hext hpass => (hfine hext hpass).1, fun hext hpass hfree =>
      ⟨_, _, (hfine hext hpass).2 hfree, ?_, rfl⟩⟩
    exact List.map_map
  · exact exec_of_wait rfl hruns (by simp only [hread]) (by decide)
  · obtain ⟨hused, himage, hload⟩ := exec_sumacLoad_spec hruns hread hgood hlevel ws
    exact ⟨hused, himage, fun hfree hws => ⟨(hload hfree hws).1, fun hkernel =>
      ⟨_, rfl, rfl, rfl, rfl, rfl, rfl, (hload hfree hws).2 hkernel⟩⟩⟩
  · obtain ⟨report, hstep⟩ := (exec_timetable_spec hup hend hctx hhdr hread ht).2 hgood
    exact ⟨_, hstep, rfl, rfl, rfl⟩
  · obtain ⟨hnever, hunsaved, hsaved⟩ := exec_restore_spec hruns
    exact ⟨hnever, hunsaved, fun hstop hts => (hsaved ts hstop hts).1, fun hstop hts hgangs hawake =>
      ⟨((hsaved ts hstop hts).2 homes r hgangs hawake).1, ((hsaved ts hstop hts).2 homes r hgangs hawake).2 w⟩⟩

end

section
/-!
SUPPORT. Events of the package (R345, R348, R352, R353, R358, R441, R442): energy, cluster power, the fault queues, and what the save of
a team and of a context leaves.
-/

namespace Sys2Proof.Machine

variable {s : State} {c : Context} {ctx : Nat}

/-- A context that is there is read back changed. -/
theorem State.ctx?_setCtx_of (h : s.ctx? ctx = some c) (f : Context → Context) : (s.setCtx ctx f).ctx? ctx = some (f c) := by
  rw [State.ctx?_setCtx, h, Option.map_some]

/-! ### Energy and cluster power (R441, R442) -/

/-- A sett's account of a context once an amount has been charged to it. -/
def Context.charged (c : Context) (sett amount : Nat) : Account :=
  let a := FMap.getD c.accounts sett { balance := 0, rem := 0 }
  { balance := a.balance - min ((amount + a.rem) / 1000) a.balance, rem := (amount + a.rem) % 1000 }

/-- A charge of a context for the package's own use is paid from its balance; the rest is counted (R441). -/
theorem State.charge_eq {sett : Nat} {x : Charge} (hc : s.ctx? x.ctx = some c) (hteam : x.team = none)
    (hlive : ∃ t ∈ s.teams, t.ctx = x.ctx ∧ t.sett = sett ∧ t.status = .running) :
    ∃ n, s.charge sett x = (s.setCtx x.ctx (fun v => { v with
      accounts := FMap.set v.accounts sett (c.charged sett x.amount) })).count x.ctx sett 15 n := by
  have hany : s.teams.any (fun t => t.ctx == x.ctx && t.sett == sett && t.status == .running) = true := by
    obtain ⟨t, ht, hctx, hsett, hrun⟩ := hlive
    exact List.any_eq_true.2 ⟨t, ht, by rw [hctx, hsett, hrun]; simp⟩
  rw [State.charge, hc]
  simp only [hany, Bool.not_true, Bool.false_eq_true, if_false, hteam, Option.bind_none, Nat.min_zero, Nat.sub_zero]
  exact ⟨_, rfl⟩

/-- The account of a context after such a charge. -/
theorem exec_energyCharge_one {sett : Nat} {x : Charge} (htime : s.gtc % 10000 = 0) (hc : s.ctx? x.ctx = some c) (hteam : x.team = none)
    (hlive : ∃ t ∈ s.teams, t.ctx = x.ctx ∧ t.sett = sett ∧ t.status = .running) :
    ∃ t d, exec (.energyCharge sett [x]) s = .next t ∧ t.ctx? x.ctx = some d ∧ t.mem = s.mem ∧ t.cur = s.cur
      ∧ FMap.get? d.accounts sett = some (c.charged sett x.amount) := by
  obtain ⟨n, hcharge⟩ := State.charge_eq hc hteam hlive
  have hstep : exec (.energyCharge sett [x]) s = .next (s.charge sett x) := congrArg Host.Outcome.next (if_pos htime)
  rw [hcharge] at hstep
  have hgot := State.ctx?_setCtx_of (State.ctx?_setCtx_of hc (fun v => { v with
    accounts := FMap.set v.accounts sett (c.charged sett x.amount) })) (fun d => { d with
    acct := FMap.set d.acct sett ((FMap.getD d.acct sett { counts := [], sat := [] }).add 15 n) })
  exact ⟨_, _, hstep, hgot, rfl, rfl, FMap.get?_set_same c.accounts sett _⟩

/-- A cluster that is used, off, or not idle for long enough stays as it is (R442). -/
theorem exec_clusterPowerDown_spec (s : State) (sett cl : Nat) :
    ((cl ∈ (s.sett sett).clusterOff ∨ s.gtc < FMap.getD (s.sett sett).clusterIdle cl 0 + 1000000
        ∨ ∃ t ∈ s.teams, t.resident = true ∧ t.sett = sett ∧ clusterOf t.core = cl) → exec (.clusterPowerDown sett cl) s = .next s)
      ∧ (cl ∉ (s.sett sett).clusterOff → FMap.getD (s.sett sett).clusterIdle cl 0 + 1000000 ≤ s.gtc → cl ∈ clustersOf (s.gridRows sett) →
        (∀ t ∈ s.teams, ¬ (t.resident = true ∧ t.sett = sett ∧ clusterOf t.core = cl)) → exec (.clusterPowerDown sett cl) s
          = .next (s.setSett sett (fun x => { x with clusterOff := insertNat cl x.clusterOff }))) := by
  have hbusy : s.teams.any (fun t => t.resident && t.sett == sett && clusterOf t.core == cl) = true
      ↔ ∃ t ∈ s.teams, t.resident = true ∧ t.sett = sett ∧ clusterOf t.core = cl := by
    simp only [List.any_eq_true, Bool.and_eq_true, beq_iff_eq, and_assoc]
  refine ⟨fun hstays => congrArg Host.Outcome.next (if_pos ?_), fun hon hidle hcl hfree => congrArg Host.Outcome.next (if_neg ?_)⟩
  · rcases hstays with hoff | hsoon | hused
    · rw [List.contains_iff_mem.2 hoff, Bool.or_true, Bool.true_or, Bool.true_or]
    · rw [decide_eq_true hsoon, Bool.or_true, Bool.true_or]
    · rw [hbusy.2 hused, Bool.true_or, Bool.true_or, Bool.true_or]
  · have hnone : s.teams.any (fun t => t.resident && t.sett == sett && clusterOf t.core == cl) = false :=
      Bool.eq_false_iff.2 fun h => by
        obtain ⟨t, ht, hmeets⟩ := hbusy.1 h
        exact hfree t ht hmeets
    have hout : (s.sett sett).clusterOff.contains cl = false :=
      Bool.eq_false_iff.2 fun h => hon (List.contains_iff_mem.1 h)
    rw [hnone, hout, decide_eq_false (Nat.not_lt.2 hidle), List.contains_iff_mem.2 hcl]
    decide

/-- The oldest token that is due is released: its cluster is up, and the next request gets a token (R442). -/
theorem exec_inrushTokenRelease_spec {sett : Nat} {k : Nat × Nat} {ks : List (Nat × Nat)} (htokens : (s.sett sett).tokens = k :: ks)
    (hdue : k.2 + 20000 ≤ s.gtc) : ∃ t z, exec (.inrushTokenRelease sett) s = .next t ∧ FMap.get? t.setts sett = some z
      ∧ k.1 ∉ z.clusterOff ∧ t.mem = s.mem ∧ ((s.sett sett).inrush = [] → z.tokens = ks)
      ∧ (∀ w, nextInrush s.gtc (s.sett sett).inrush = some w →
        z.tokens = ks ++ [(w.cluster, s.gtc)] ∧ z.inrush = (s.sett sett).inrush.erase w) := by
  have hfind : (s.sett sett).tokens.find? (fun t => decide (t.2 + 20000 ≤ s.gtc)) = some k := by
    rw [htokens]
    exact List.find?_cons_of_pos (decide_eq_true hdue)
  have herase : (s.sett sett).tokens.erase k = ks := by rw [htokens, List.erase_cons_head]
  have hout : k.1 ∉ (s.sett sett).clusterOff.filter (fun c => c != k.1) := by simp
  have hsett := s.sett_setSett_same sett (fun x => { x with
    tokens := x.tokens.erase k, clusterOff := x.clusterOff.filter (fun c => c != k.1), clusterIdle := FMap.set x.clusterIdle k.1 s.gtc })
  have hget (t : State) (f : Sett → Sett) : FMap.get? (t.setSett sett f).setts sett = some (f (t.sett sett)) := FMap.get?_set_same _ _ _
  show ∃ t z, execInrushTokenRelease sett s = .next t ∧ _
  rw [execInrushTokenRelease, hfind]
  dsimp only
  rw [hsett]
  dsimp only [State.setSett_gtc]
  cases hnext : nextInrush s.gtc (s.sett sett).inrush with
  | none =>
    exact ⟨_, _, rfl, hget s _, hout, rfl, fun _ => herase, fun w h => absurd h (by simp)⟩
  | some w =>
    refine ⟨_, _, rfl, hget _ _, ?_, rfl, fun hempty => ?_, fun v hv => ?_⟩
    · rw [hsett]
      exact hout
    · rw [hempty] at hnext
      cases hnext
    · cases hv
      rw [hsett]
      exact ⟨by rw [herase], rfl⟩

/-! ### The fault queues (R345, R348) -/

/-- Bytes 1 to 31 of an entry. -/
theorem Event.length_bytes (e : Event) : e.bytes.length = 31 := by
  rw [Event.bytes]
  simp only [List.length_append, length_bytesOf]

/-- A loss noted with the groups changes groups alone (R417). -/
theorem State.noteLoss_eq (s : State) (ctx : Nat) (e : Event) : ∃ groups, s.noteLoss ctx e = { s with groups := groups } := by
  rw [State.noteLoss]
  split
  · exact ⟨_, rfl⟩
  · split
    · split
      · exact ⟨s.groups, rfl⟩
      · exact ⟨_, rfl⟩
    · exact ⟨s.groups, rfl⟩

/-- An event goes into its place of the queue where that is free (R345). -/
theorem exec_faultEventPost_spec {e : Event} {es : List Event} {r : Ring} {k : Nat} (hc : s.ctx? ctx = some c) (hevents : c.events = e :: es)
    (hring : c.eventq = some r) (hk : s.devNat ctx (r.base.toNat + 32 * (r.next % 2 ^ r.log2)) 1 = .ok k) :
    (k ≠ 0 → exec (.faultEventPost ctx) s = .next s)
      ∧ (k = 0 → ∃ t : State, exec (.faultEventPost ctx) s = .next t
        ∧ t.mem = ((s.devWrite ctx (r.base.toNat + 32 * (r.next % 2 ^ r.log2) + 1) e.bytes).devWrite ctx
          (r.base.toNat + 32 * (r.next % 2 ^ r.log2)) (bytesOf 1 e.kind)).mem
        ∧ t.ctx? ctx = some { c with events := es, eventq := some { r with next := r.next + 1 } }) := by
  have hstep : exec (.faultEventPost ctx) s = execFaultEventPost ctx s := rfl
  rw [hstep, execFaultEventPost, hc]
  dsimp only
  rw [hevents, hring]
  dsimp only
  rw [hk]
  refine ⟨fun hused => ?_, fun hfree => ?_⟩
  · cases k with
    | zero => exact absurd rfl hused
    | succ k => rfl
  · subst hfree
    generalize hfirst : s.devWrite ctx (r.base.toNat + 32 * (r.next % 2 ^ r.log2) + 1) e.bytes = u
    obtain ⟨_, _, _, _, _, _, hu⟩ := s.devWrite_eq ctx (r.base.toNat + 32 * (r.next % 2 ^ r.log2) + 1) e.bytes
    obtain ⟨_, _, _, _, _, _, hv⟩ := u.devWrite_eq ctx (r.base.toNat + 32 * (r.next % 2 ^ r.log2)) (bytesOf 1 e.kind)
    have hwritten : (u.devWrite ctx (r.base.toNat + 32 * (r.next % 2 ^ r.log2)) (bytesOf 1 e.kind)).ctx? ctx = some c := by
      rw [hv, ← hfirst, hu]
      exact hc
    have hmoved := State.ctx?_setCtx_of hwritten (fun c => { c with events := es, eventq := some { r with next := r.next + 1 } })
    obtain ⟨groups, hloss⟩ := State.noteLoss_eq ((u.devWrite ctx (r.base.toNat + 32 * (r.next % 2 ^ r.log2)) (bytesOf 1 e.kind)).setCtx ctx
      (fun c => { c with events := es, eventq := some { r with next := r.next + 1 } })) ctx e
    rw [hloss]
    by_cases hlast : e.kind = 2 ∧ ¬ Context.retiring { c with events := es, eventq := some r } e.uid
    · rw [if_pos hlast]
      exact ⟨_, rfl, rfl, hmoved⟩
    · rw [if_neg hlast]
      exact ⟨_, rfl, rfl, hmoved⟩

/-- An entry of the completion queue is taken where its place holds one (R348). -/
theorem exec_faultCompletionEntry_spec {r : Ring} {bs : List Byte} (hc : s.ctx? ctx = some c) (hsaved : c.saved = none)
    (hring : c.complq = some r) (hread : s.devRead ctx (r.base.toNat + 16 * (r.next % 2 ^ r.log2)) 16 = .ok bs) :
    (fieldAt bs 0 2 = 0 → exec (.faultCompletionEntry ctx) s = .next s)
      ∧ (fieldAt bs 0 2 ≠ 0 → exec (.faultCompletionEntry ctx) s = .next (State.applyCompletion
        ((s.devWrite ctx (r.base.toNat + 16 * (r.next % 2 ^ r.log2)) (bytesOf 2 0)).setCtx ctx (fun c => { c with
          complq := some { r with next := r.next + 1 } })) ctx bs)) := by
  have htake : s.takeCompletion ctx = if fieldAt bs 0 2 = 0 then none else some (State.applyCompletion
      ((s.devWrite ctx (r.base.toNat + 16 * (r.next % 2 ^ r.log2)) (bytesOf 2 0)).setCtx ctx (fun c => { c with
        complq := some { r with next := r.next + 1 } })) ctx bs) := by
    rw [State.takeCompletion, hc, Option.bind_some, hring, Option.bind_some]
    dsimp only
    rw [hread]
  have hstep : exec (.faultCompletionEntry ctx) s = .next ((s.takeCompletion ctx).getD s) := by
    show execFaultCompletionEntry ctx s = _
    rw [execFaultCompletionEntry, hc]
    dsimp only
    rw [hsaved]
    rfl
  rw [hstep, htake]
  refine ⟨fun hempty => ?_, fun hentry => ?_⟩
  · rw [if_pos hempty]
    rfl
  · rw [if_neg hentry]
    rfl

/-- A completion entry ends the wait of the stream whose page it names (R348). -/
theorem State.applyCompletion_stream {bs : List Byte} {w : Word} (hctx : fieldAt bs 0 2 = ctx)
    (hfind : s.teams.find? (fun t => t.ctx == ctx && t.status == .running && t.ctxSlot == fieldAt bs 2 2) = some s.cur)
    (hgen : s.cur.gen.toNat = fieldAt bs 4 4) (hrun : s.cur.status = .running) (hpaths : s.cur.paths = []) (hwork : s.cur.userWork = none)
    (hwait : s.cur.wait = some (.host w)) (hpage : w.toNat / 2 ^ 16 = fieldAt bs 10 6) (hmapped : fieldAt bs 8 1 % 4 = 0) :
    (s.applyCompletion ctx bs).cur = { s.cur with wait := none } := by
  have hlanes : s.cur.hostedLanes = [] := by
    rw [Team.hostedLanes, hpaths]
    rfl
  have hkept : s.completeLanes (fieldAt bs 10 6) true = s := by
    rw [State.completeLanes, State.onUserWork, hwork]
    simp only [Option.isSome_none, Bool.false_eq_true, if_false, hlanes, List.filter_nil, List.isEmpty_nil, if_true, List.contains_nil,
      Bool.not_false, List.filter_true]
  have hstream : s.completeStream (fieldAt bs 10 6) true = { s with cur := { s.cur with wait := none } } := by
    have hruns : ¬ ((s.cur.status != .running) = true) := by
      rw [hrun]
      decide
    have hits : waitsPage (fieldAt bs 10 6) s.cur.wait = true := by
      rw [hwait]
      exact beq_iff_eq.2 hpage
    rw [State.completeStream, if_neg hruns, if_pos hits]
    rfl
  have hhere : s.cur.uid = s.cur.uid ∧ s.cur.status ≠ .absent := ⟨rfl, by rw [hrun]; decide⟩
  rw [State.applyCompletion, if_neg (not_not.2 hctx), hfind]
  dsimp only
  rw [if_neg (not_not.2 hgen), State.onTeam, if_pos hhere, beq_iff_eq.2 hmapped, hkept, hstream]

/-! ### The stop cut and the save (R352, R353, R358) -/

/-- The stop cut sets `cut` from its time on. -/
theorem exec_stopCut_spec {k : Nat} (hc : s.ctx? ctx = some c) (hstop : c.stopAt = some k) : ∃ t : State, exec (.stopCut ctx) s = .next t
    ∧ { t with ctxs := s.ctxs } = s ∧ t.ctx? ctx = some (if k ≤ s.gtc then { c with cut := true } else c) := by
  have hcut := State.ctx?_setCtx_of hc (fun c => match c.stopAt with
    | some t => if t ≤ s.gtc then { c with cut := true } else c
    | none => c)
  refine ⟨_, rfl, rfl, hcut.trans ?_⟩
  rw [hstop]

/-- A page saved or dropped changes bytes, frames and the team's page table. -/
theorem State.savePage_eq (s : State) (named : Bool) (p : Nat) (e : Stt) : ∃ mem frames stt,
    s.savePage named p e = { s with mem := mem, frames := frames, cur := { s.cur with stt := stt } } := by
  cases named with
  | true => exact ⟨_, _, _, rfl⟩
  | false => exact ⟨_, _, _, rfl⟩

/-- So do all pages of a team. -/
theorem foldl_savePage_eq (named : Nat → Bool) (xs : FMap Stt) (s : State) : ∃ mem frames stt,
    xs.foldl (fun s x => s.savePage (named x.1) x.1 x.2) s
      = { s with mem := mem, frames := frames, cur := { s.cur with stt := stt } } := by
  induction xs generalizing s with
  | nil => exact ⟨s.mem, s.frames, s.cur.stt, rfl⟩
  | cons x xs ih =>
    obtain ⟨_, _, _, hx⟩ := s.savePage_eq (named x.1) x.1 x.2
    obtain ⟨_, _, _, hxs⟩ := ih (s.savePage (named x.1) x.1 x.2)
    rw [List.foldl_cons, hxs, hx]
    exact ⟨_, _, _, rfl⟩

/-- What a saved team keeps beside its registers. -/
def savedWith (s : State) (lanes : List Lane) (sregs : Vector Word 64) (t : State) : Prop :=
  ∃ mem frames stt wait acc, t = { s with
    mem := mem, frames := frames,
    cur := { s.cur with stt := stt, wait := wait, sent := [], replies := [], lanes := lanes, sregs := sregs, acc := acc } }

/-- A team whose records do not name what lives keeps its registers (R355). -/
theorem State.saveTeam_of_none (h : s.liveOf s.cur = none) : savedWith s s.cur.lanes s.cur.sregs s.saveTeam := by
  rw [State.saveTeam, h]
  obtain ⟨_, _, _, hpages⟩ := foldl_savePage_eq (fun _ => true) s.cur.stt s
  dsimp only
  rw [hpages]
  exact ⟨_, _, _, _, _, rfl⟩

/-- A team whose records do keeps what they name (R358). -/
theorem State.saveTeam_of_some {v : Live} (h : s.liveOf s.cur = some v) : savedWith s (s.cur.lanes.map v.lane)
    (Vector.ofFn (fun (i : Fin 64) => if bitAt v.smap i.val then s.cur.sregs[i] else 0)) s.saveTeam := by
  rw [State.saveTeam, h]
  obtain ⟨_, _, _, hpages⟩ := foldl_savePage_eq (inRanges v.pages) s.cur.stt s
  dsimp only
  rw [hpages]
  exact ⟨_, _, _, _, _, rfl⟩

/-- A saved team is the same team of its context, and the contexts and the other teams stay. -/
theorem State.saveTeam_keeps (s : State) : s.saveTeam.ctxs = s.ctxs ∧ s.saveTeam.others = s.others ∧ s.saveTeam.cur.uid = s.cur.uid
    ∧ s.saveTeam.cur.status = s.cur.status ∧ s.saveTeam.cur.ctx = s.cur.ctx := by
  have hkeeps {lanes : List Lane} {sregs : Vector Word 64} {t : State} (h : savedWith s lanes sregs t) : t.ctxs = s.ctxs
      ∧ t.others = s.others ∧ t.cur.uid = s.cur.uid ∧ t.cur.status = s.cur.status ∧ t.cur.ctx = s.cur.ctx := by
    obtain ⟨_, _, _, _, _, rfl⟩ := h
    exact ⟨rfl, rfl, rfl, rfl, rfl⟩
  cases h : s.liveOf s.cur with
  | none => exact hkeeps (State.saveTeam_of_none h)
  | some v => exact hkeeps (State.saveTeam_of_some h)

/-- The s register of a team saved with what lives. -/
theorem State.saveTeam_reg {v : Live} (h : s.liveOf s.cur = some v) (q : Reg) :
    s.saveTeam.cur.s q = if bitAt v.smap q.toNat then s.cur.s q else 0 := by
  obtain ⟨_, _, _, _, _, hsaved⟩ := State.saveTeam_of_some h
  rw [hsaved, Team.s, Team.s]
  by_cases hq : q = 0
  · rw [if_pos hq, if_pos hq, ite_self]
  · rw [if_neg hq, if_neg hq]
    exact Vector.getElem_ofFn _

/-- `nth` within a list is its element. -/
theorem nth_eq_getElem {α : Type} (d : α) (xs : List α) (k : Nat) (h : k < xs.length) : nth d xs k = xs[k] := by
  induction xs generalizing k with
  | nil => exact absurd h (Nat.not_lt_zero k)
  | cons x xs ih =>
    cases k with
    | zero => rfl
    | succ k => exact ih k (Nat.lt_of_succ_lt_succ h)

/-- The lane registers of a team saved with what lives. -/
theorem State.saveTeam_lane {v : Live} (h : s.liveOf s.cur = some v) {l j : Nat} (hl : l < s.cur.lanes.length)
    (hj : j < (s.cur.lane l).regs.length) :
    nth 0 (s.saveTeam.cur.lane l).regs j = if bitAt v.vmap j then nth 0 (s.cur.lane l).regs j else 0 := by
  obtain ⟨_, _, _, _, _, hsaved⟩ := State.saveTeam_of_some h
  have hlane : s.saveTeam.cur.lane l = v.lane (s.cur.lane l) := by
    rw [hsaved, Team.lane, Team.lane, nth_eq_getElem _ _ l (by rw [List.length_map]; exact hl), nth_eq_getElem _ _ l hl, List.getElem_map]
  rw [hlane, Live.lane]
  have hlen : j < (((s.cur.lane l).regs.zip (upTo 0 (s.cur.lane l).regs.length)).map
      (fun r => if bitAt v.vmap r.2 then r.1 else 0)).length := by
    rw [List.length_map, List.length_zip, length_upTo, Nat.min_self]
    exact hj
  rw [nth_eq_getElem _ _ j hlen, nth_eq_getElem _ _ j hj, List.getElem_map, List.getElem_zip, getElem_upTo, Nat.zero_add]

/-- Another team in focus: the contexts stay. -/
theorem State.focus_ctxs (s : State) (uid : Nat) : (s.focus uid).ctxs = s.ctxs := by
  rw [State.focus]
  split
  · rfl
  · split
    · rfl
    · rfl

/-- So does what is done to a team that leaves them. -/
theorem State.onTeam_ctxs {f : State → State} (hf : ∀ s, (f s).ctxs = s.ctxs) (s : State) (uid : Nat) : (s.onTeam uid f).ctxs = s.ctxs := by
  rw [State.onTeam]
  split
  · exact hf s
  · split
    · rw [hf, State.focus_ctxs]
    · dsimp only
      rw [State.focus_ctxs, hf, State.focus_ctxs]

/-- A context is there. -/
def State.HasCtx (s : State) (ctx : Nat) : Prop := (s.ctx? ctx).isSome = true

/-- A context changed, of whatever number, leaves each context there. -/
theorem State.HasCtx.setCtx (h : s.HasCtx ctx) (k : Nat) (f : Context → Context) : (s.setCtx k f).HasCtx ctx := by
  rw [State.HasCtx, State.ctx?, State.setCtx, FMap.get?_modify]
  split
  · rw [Option.isSome_map]
    exact h
  · exact h

/-- So does a fold of steps that do. -/
theorem hasCtx_foldl {α : Type} {f : State → α → State} (hf : ∀ s x, s.HasCtx ctx → (f s x).HasCtx ctx) (xs : List α) (h : s.HasCtx ctx) :
    (xs.foldl f s).HasCtx ctx := by
  induction xs generalizing s with
  | nil => exact h
  | cons x xs ih => exact ih (hf s x h)

/-- Bytes moved into a save leave each context there. -/
theorem State.HasCtx.saveMem (h : s.HasCtx ctx) (k a b n : Nat) : (s.saveMem k a b n).HasCtx ctx :=
  h.setCtx k (fun c => { c with savedMem := c.savedMem.putSlice (s.mem.slice a n) a b })

/-- Gangs saved leave each context there. -/
theorem hasCtx_saveGang (s : State) (t : Team) (h : s.HasCtx ctx) : (s.saveGang t).HasCtx ctx := by
  have hpages := hasCtx_foldl (fun (s : State) (x : Nat × Nat) h => State.HasCtx.saveMem h t.ctx x.1 (saveKeyC t.gangKey x.2) 4096)
    (s.clusterPages t) h
  rw [State.HasCtx, State.ctx?] at hpages ⊢
  exact hpages

/-- So do chip scratchpads saved. -/
theorem hasCtx_saveChip (s : State) (g : Grid) (h : s.HasCtx ctx) : (s.saveChip g).HasCtx ctx := by
  have hchips := hasCtx_foldl (fun (s : State) (x : Nat × Nat) h =>
    State.HasCtx.saveMem h g.ctx (Config.chipKey x.1 x.2) (saveKeyK g.id x.1 0) (4096 * g.pkt.ksppages)) g.kbase h
  rw [State.HasCtx, State.ctx?] at hchips ⊢
  exact hchips

/-- The teams of a context saved, before their gangs and grids. -/
def State.savedTeams (s : State) (ctx : Nat) : State := ((s.running ctx).map Team.uid).foldl (fun s u => s.onTeam u State.saveTeam) s

/-- The gangs of those teams saved too. -/
def State.savedGangs (s : State) (ctx : Nat) : State :=
  (gangHeads ((s.savedTeams ctx).running ctx)).foldl State.saveGang (s.savedTeams ctx)

/-- The context with all that it saves, its teams still on their cores. -/
def State.savedAll (s : State) (ctx : Nat) : State :=
  (((s.savedGangs ctx).gridsOf ctx).foldl State.saveChip (s.savedGangs ctx)).setCtx ctx
    (fun c => { c with saved := some ((s.savedTeams ctx).running ctx) })

/-- Teams taken off their cores. -/
def State.unseat (s : State) (uids : List Nat) : State :=
  { s with
    others := s.others.filter (fun t => !uids.contains t.uid),
    cur := if uids.contains s.cur.uid ∧ s.cur.status ≠ .absent then Team.launch else s.cur }

/-- SAVE of a context that has drained (R353, R358). -/
theorem exec_save_eq (hc : s.ctx? ctx = some c) (hcut : c.cut = true) (hsaved : c.saved = none) (hdrained : s.drained ctx = true)
    (hread : ∀ t ∈ s.running ctx, s.liveUnread t = none) :
    exec (.save ctx) s = .next ((s.savedAll ctx).unseat ((s.running ctx).map Team.uid)) := by
  have hgo : ¬ ((!c.cut || c.saved.isSome || !s.drained ctx) = true) := by
    rw [hcut, hsaved, hdrained]
    decide
  have hnone : (s.running ctx).findSome? (fun t => (s.liveUnread t).map (fun n => (t.uid, n))) = none := by
    rw [List.findSome?_eq_none_iff]
    intro t ht
    rw [hread t ht]
    rfl
  show execSave ctx s = _
  rw [execSave, hc]
  dsimp only
  rw [if_neg hgo, hnone]
  rw [State.unseat, State.savedAll, State.savedGangs, State.savedTeams]

/-- The saved context is there, with its teams. -/
theorem State.savedAll_ctx (hc : s.ctx? ctx = some c) :
    ∃ d : Context, (s.savedAll ctx).ctx? ctx = some d ∧ d.saved = some ((s.savedTeams ctx).running ctx) := by
  have hthere : s.HasCtx ctx := by
    rw [State.HasCtx, hc, Option.isSome_some]
  have hteams : (s.savedTeams ctx).HasCtx ctx := by
    refine hasCtx_foldl (fun s u h => ?_) _ hthere
    rw [State.HasCtx, State.ctx?, State.onTeam_ctxs fun s => s.saveTeam_keeps.1]
    exact h
  have hgangs : (s.savedGangs ctx).HasCtx ctx := hasCtx_foldl hasCtx_saveGang _ hteams
  have hchips : (((s.savedGangs ctx).gridsOf ctx).foldl State.saveChip (s.savedGangs ctx)).HasCtx ctx := hasCtx_foldl hasCtx_saveChip _ hgangs
  obtain ⟨d, hd⟩ := Option.isSome_iff_exists.1 hchips
  exact ⟨_, State.ctx?_setCtx_of hd (fun c => { c with saved := some ((s.savedTeams ctx).running ctx) }), rfl⟩

/-- Contexts stay where teams leave. -/
theorem State.unseat_ctx? (s : State) (uids : List Nat) (k : Nat) : (s.unseat uids).ctx? k = s.ctx? k := rfl

/-- None of the teams that leave is on a core. -/
theorem State.uid_of_mem_unseat {uids : List Nat} {w : Team} (hw : w ∈ (s.unseat uids).teams) : w.uid ∉ uids := by
  have hrest (h : w ∈ s.others.filter (fun t => !uids.contains t.uid)) : w.uid ∉ uids := by
    obtain ⟨-, hout⟩ := List.mem_filter.1 h
    simpa using hout
  rw [State.teams, State.unseat] at hw
  by_cases hgone : uids.contains s.cur.uid = true ∧ s.cur.status ≠ .absent
  · simp only [if_pos hgone] at hw
    exact hrest hw
  · simp only [if_neg hgone] at hw
    split at hw
    next => exact hrest hw
    next hthere =>
      rcases List.mem_cons.1 hw with rfl | hw
      · exact fun h => hgone ⟨List.contains_iff_mem.2 h, hthere⟩
      · exact hrest hw

/-- The only team of the package, saved. -/
theorem State.savedTeams_of_single (hothers : s.others = []) (hrun : s.cur.status = .running) (hctx : s.cur.ctx = ctx) :
    (s.savedTeams ctx).running ctx = [s.saveTeam.cur] := by
  have hone {t : State} (h : t.others = []) (hr : t.cur.status = .running) (hx : t.cur.ctx = ctx) : t.running ctx = [t.cur] := by
    have hthere : ¬ t.cur.status = .absent := by
      rw [hr]
      decide
    rw [State.running, State.teams, if_neg hthere, h]
    exact List.filter_cons_of_pos (by rw [hr, hx]; simp)
  obtain ⟨-, hkept, -, hstatus, hsame⟩ := s.saveTeam_keeps
  have hhere : s.cur.uid = s.cur.uid ∧ s.cur.status ≠ .absent := ⟨rfl, by rw [hrun]; decide⟩
  have hteams : s.savedTeams ctx = s.saveTeam := by
    rw [State.savedTeams, hone hothers hrun hctx]
    show s.onTeam s.cur.uid State.saveTeam = _
    rw [State.onTeam, if_pos hhere]
  rw [hteams]
  exact hone (hkept.trans hothers) (hstatus.trans hrun) (hsame.trans hctx)

end Sys2Proof.Machine
end

section
open Sys2Proof Sys2Proof.Machine

/-- Settles O51: each event of the package by the branch of its test, the save by what it leaves of the teams and of their records. -/
theorem serviceEvents : Obligations.ServiceEvents := by
  unfold Obligations.ServiceEvents
  intro s c ctx sett cl e es r bs x v q bill
  dsimp only
  refine ⟨fun htime => congrArg Host.Outcome.next (if_neg htime), fun htime hc hteam hlive => exec_energyCharge_one htime hc hteam hlive,
    (exec_clusterPowerDown_spec s sett cl).1, (exec_clusterPowerDown_spec s sett cl).2, fun hearly => ?_,
    fun k ks htokens hdue => exec_inrushTokenRelease_spec htokens hdue, fun hc hnone => ?_, fun hc hevents hring k hk =>
      exec_faultEventPost_spec hc hevents hring hk, e.length_bytes, fun hc hnone => ?_, fun hc hsaved hring hread =>
      exec_faultCompletionEntry_spec hc hsaved hring hread, fun w hctx hfind hgen hrun hpaths hwork hwait hpage hmapped =>
      State.applyCompletion_stream hctx hfind hgen hrun hpaths hwork hwait hpage hmapped,
    fun k hc hstop => exec_stopCut_spec hc hstop, fun hc hno => ?_, fun hc hcut hsaved hdrained y hread => ?_,
    fun hc hcut hsaved hdrained hread => ?_, fun hlive => ?_, fun hlive => ⟨State.saveTeam_reg hlive q, fun l j hl hj => State.saveTeam_lane hlive hl hj⟩⟩
  · have hfind : (s.sett sett).tokens.find? (fun t => decide (t.2 + 20000 ≤ s.gtc)) = none := by
      refine List.find?_eq_none.2 fun t ht => ?_
      rw [decide_eq_true_iff]
      exact Nat.not_le.2 (hearly t ht)
    show execInrushTokenRelease sett s = _
    rw [execInrushTokenRelease, hfind]
  · show execFaultEventPost ctx s = _
    rw [execFaultEventPost, hc]
    rcases hnone with hevents | hring
    · simp only [hevents]
    · dsimp only
      rw [hring]
      cases c.events with
      | nil => rfl
      | cons e es => rfl
  · show execFaultCompletionEntry ctx s = _
    rw [execFaultCompletionEntry, hc]
    dsimp only
    rcases hnone with hsaved | hring
    · rw [if_pos (Option.isSome_iff_ne_none.2 hsaved)]
    · rw [State.takeCompletion, hc, Option.bind_some, hring]
      exact congrArg Host.Outcome.next (ite_self s)
  · show execSave ctx s = _
    rw [execSave, hc]
    refine congrArg Host.Outcome.next (if_pos ?_)
    rcases hno with hcut | hsaved | hbusy
    · rw [hcut, Bool.not_false, Bool.true_or, Bool.true_or]
    · rw [Option.isSome_iff_ne_none.2 hsaved, Bool.or_true, Bool.true_or]
    · rw [hbusy, Bool.not_false, Bool.or_true]
  · have hgo : ¬ ((!c.cut || c.saved.isSome || !s.drained ctx) = true) := by
      rw [hcut, hsaved, hdrained]
      decide
    show execSave ctx s = _
    rw [execSave, hc]
    dsimp only
    rw [if_neg hgo, hread]
  · obtain ⟨d, hd, hteams⟩ := State.savedAll_ctx hc
    have hstep := exec_save_eq hc hcut hsaved hdrained hread
    have hgone (w : Team) (hw : w ∈ ((s.savedAll ctx).unseat ((s.running ctx).map Team.uid)).teams) := State.uid_of_mem_unseat hw
    rw [← State.unseat_ctx? _ ((s.running ctx).map Team.uid)] at hd
    generalize (s.savedAll ctx).unseat ((s.running ctx).map Team.uid) = t at hstep hgone hd
    exact ⟨t, d, hstep, hd, by rw [hteams]; exact Option.some_ne_none _, fun k hk w hw huid => hgone w hw (huid ▸ List.mem_map_of_mem hk),
      fun hothers hrun hctx => by rw [hteams, State.savedTeams_of_single hothers hrun hctx]⟩
  · obtain ⟨_, _, _, _, _, hsaved⟩ := State.saveTeam_of_none hlive
    rw [hsaved]
    exact ⟨rfl, rfl⟩

end

section
/-!
SUPPORT. Collective runs (R415, R417 to R420): which of the package's operations leave the groups alone, what the others make of the
group they change, and the steps of a run.
-/

namespace Sys2Proof.Machine

variable {s : State} {id : Nat} {g v : Group}

/-! ### What leaves the groups alone -/

/-- A fold of steps that leave the groups alone. -/
theorem foldl_groups {α : Type} {f : State → α → State} (hf : ∀ s x, (f s x).groups = s.groups) (xs : List α) (s : State) :
    (xs.foldl f s).groups = s.groups := by
  induction xs generalizing s with
  | nil => rfl
  | cons x xs ih => rw [List.foldl_cons, ih, hf]

/-- A write of the collective engine does. -/
theorem State.cleWrite_groups (s : State) (ctx a : Nat) (pkr : Word) (bs : List Byte) : (s.cleWrite ctx a pkr bs).2.groups = s.groups := by
  rw [State.cleWrite]
  split
  · rfl
  split
  · rfl
  split
  · rfl
  split
  · rfl
  next l _ =>
    obtain ⟨_, _, _, _, _, _, h⟩ := s.writeLine_none_eq l.cmp l.key bs
    simp only [h]

/-- So does a status word. -/
theorem State.putStatus_groups (s : State) (g : Group) (a : Word) (st : RunStatus) : (s.putStatus g a st).groups = s.groups :=
  s.cleWrite_groups ..

/-- So does the record of an entry. -/
theorem State.entryRecord_groups (s : State) (e : Entry) (status : Nat) (fl : Flags5) (stamp : Nat) :
    (s.entryRecord e status fl stamp).2.groups = s.groups := by
  rw [State.entryRecord]
  by_cases h : (entryFields e.bytes).recd = 0
  · simp only [h, if_true]
  · simp only [h, if_false]
    exact s.cleWrite_groups ..

/-- So do entries cancelled. -/
theorem cancelEntries_groups (sett : Nat) (es : List Entry) (s : State) : (cancelEntries sett es s).groups = s.groups := by
  induction es generalizing s with
  | nil => rfl
  | cons e es ih => exact (ih _).trans (s.entryRecord_groups e 1 0 s.gtc)

/-- So does a message. -/
theorem State.sendCtl_groups (s : State) (src pkg sett : Nat) (b : CtlBody) : (s.sendCtl src pkg sett b).groups = s.groups := by
  obtain ⟨_, _, _, h, -⟩ := s.sendCtl_eq src pkg sett b
  rw [h]

/-- So does what a change of a counter tells. -/
theorem State.counterSeen_groups (s : State) (sett no : Nat) : (s.counterSeen sett no).groups = s.groups := by
  obtain ⟨_, _, _, h, -⟩ := s.counterSeen_eq sett no
  rw [h]
  rfl

/-- So does an increment. -/
theorem State.increment_groups (s : State) (ctx sett i n : Nat) : (s.increment ctx sett i n).groups = s.groups := by
  rw [State.increment]
  split
  · rw [State.bump]
    exact State.counterSeen_groups _ _ _
  · rfl

/-- So does a counter set. -/
theorem State.setCounter_groups (s : State) (sett no : Nat) (x : BitVec 32) : (s.setCounter sett no x).groups = s.groups := by
  rw [State.setCounter]
  exact (State.counterSeen_groups _ _ _).trans (cancelEntries_groups _ _ _)

/-- So does the end of a run told to a position. -/
theorem State.tellEnd_groups (s : State) (g : Group) (p : Position) : (s.tellEnd g p).groups = s.groups := by
  rw [State.tellEnd]
  split
  · exact s.increment_groups ..
  · exact s.sendCtl_groups ..

/-- So do bytes written to places that no source overlaps. -/
theorem writeSpots_groups (xs : List Spot) (bs : List Byte) (s : State) : (writeSpots [] xs bs s).groups = s.groups := by
  induction xs generalizing bs s with
  | nil => rfl
  | cons x xs ih =>
    rw [writeSpots]
    dsimp only
    split
    · rfl
    · have hfree : s.overlapped [] x.key (bs.take x.n) = (bs.take x.n, s) := rfl
      rw [hfree, ih]
      obtain ⟨_, _, _, _, _, _, h⟩ := s.writeLine_none_eq x.cmp x.key (bs.take x.n)
      rw [h]

/-- So do values that a position's output takes. -/
theorem State.scramble_groups (s : State) (g : Group) (p : Position) : (s.scramble g p).groups = s.groups := by
  rw [State.scramble]
  refine foldl_groups (fun s seg => ?_) _ s
  dsimp only
  split
  · exact writeSpots_groups _ _ _
  · rfl

/-- So do pieces of a record sent to another package. -/
theorem State.sendRecord_groups (s : State) (ctx a : Nat) (bs : List Byte) : (s.sendRecord ctx a bs).groups = s.groups := by
  rw [State.sendRecord]
  generalize lineCut a bs.length = xs
  have hfold (acc : State × List Byte) : (xs.foldl (fun (acc : State × List Byte) x =>
      ({ acc.1 with
        outbox := acc.1.outbox ++ [requestBytes 9 ctx x.1 x.2 0 0 s.gtc (acc.2.take x.2)] }, acc.2.drop x.2)) acc).1.groups
        = acc.1.groups := by
    induction xs generalizing acc with
    | nil => rfl
    | cons x xs ih => exact ih _
  exact hfold (s, bs)

/-- So does a record written for the host. -/
theorem State.writeRecord_groups (s : State) (ctx a : Nat) (bs : List Byte) : (s.writeRecord ctx a bs).2.groups = s.groups := by
  rw [State.writeRecord]
  split
  · rfl
  split
  · split
    · rfl
    · exact writeSpots_groups _ _ _
  split
  next c _ =>
    rw [State.hostWait]
    split
    · rw [State.askFar]
      dsimp only
      split
      · rfl
      · split
        · rfl
        · rfl
        · rfl
    · rfl
  next => exact s.sendRecord_groups ..

/-! ### What changes a group -/

/-- A group that is there is read back changed. -/
theorem State.get?_setGroup (h : FMap.get? s.groups id = some v) (f : Group → Group) :
    FMap.get? (s.setGroup id f).groups id = some (f v) := by
  rw [State.setGroup, FMap.get?_modify, if_pos rfl, h, Option.map_some]

/-- A group all of whose statuses that are not final are a new one. -/
def Group.withStatus (g : Group) (st : RunStatus) : Group :=
  { (g.mapActive (fun p => if p.st.final then p else { p with st := st })) with st := st }

/-- What a status leaves of the group. -/
theorem State.get?_toStatus (h : FMap.get? s.groups id = some v) (st : RunStatus) :
    FMap.get? (s.toStatus id st).groups id = some (v.withStatus st) := by
  rw [State.toStatus, h]
  refine State.get?_setGroup ?_ _
  rw [State.putStatus_groups, foldl_groups fun s (p : Position) => s.putStatus_groups v p.status st]
  exact h

/-- Two groups that differ in the entries that stand elsewhere alone. -/
def Group.ButAway (v w : Group) : Prop := ∃ away, w = { v with away := away }

/-- They have the same run, positions and loss. -/
theorem Group.ButAway.fields {v w : Group} (h : v.ButAway w) : w.run = v.run ∧ w.st = v.st ∧ w.chunk = v.chunk ∧ w.since = v.since
    ∧ w.lost = v.lost ∧ w.n = v.n ∧ w.ctx = v.ctx ∧ w.phase = v.phase ∧ w.positions = v.positions := by
  obtain ⟨_, rfl⟩ := h
  exact ⟨rfl, rfl, rfl, rfl, rfl, rfl, rfl, rfl, rfl⟩

/-- An entry armed changes nothing but the entries elsewhere. -/
theorem State.get?_addLink (h : FMap.get? s.groups id = some v) (g : Group) (x : Nat × Link1) :
    ∃ w, FMap.get? (s.addLink id g x).groups id = some w ∧ v.ButAway w := by
  rw [State.addLink]
  split
  · exact ⟨v, h, v.away, rfl⟩
  · exact ⟨_, State.get?_setGroup (s := { s with tick := s.tick + 1 }) h _, _, rfl⟩

/-- So do entries armed. -/
theorem State.get?_addLinks (h : FMap.get? s.groups id = some v) (g : Group) (xs : List (Nat × Link1)) :
    ∃ w, FMap.get? (s.addLinks id g xs).groups id = some w ∧ v.ButAway w := by
  rw [State.addLinks]
  induction xs generalizing s v with
  | nil => exact ⟨v, h, v.away, rfl⟩
  | cons x xs ih =>
    obtain ⟨_, hx, _, rfl⟩ := State.get?_addLink h g x
    obtain ⟨w, hxs, away, rfl⟩ := ih (s := s.addLink id g x) hx
    exact ⟨_, hxs, away, rfl⟩

/-- A group at the beginning of a chunk. -/
def Group.chunkBegun (g : Group) : Group :=
  { (g.mapActive (fun p => { p with step := 0, out := false })) with part := [], phase := 1 }

/-- What the arming of a chunk leaves of the group. -/
theorem State.get?_armChunk (h : FMap.get? s.groups id = some v) :
    ∃ w, FMap.get? (s.armChunk id).groups id = some w ∧ v.chunkBegun.ButAway w := by
  have hset : FMap.get? (s.setGroup id Group.chunkBegun).groups id = some v.chunkBegun := State.get?_setGroup h Group.chunkBegun
  have harm : s.armChunk id = (s.setGroup id Group.chunkBegun).addLinks id v.chunkBegun
      ((upTo 0 v.chunkBegun.n).map (fun p => (p, if v.chunkBegun.kind = 2 then Link1.out else Link1.ring 1))) := by
    show (match FMap.get? (s.setGroup id Group.chunkBegun).groups id with
      | none => _
      | some g => _) = _
    rw [hset]
    rfl
  rw [harm]
  exact State.get?_addLinks hset _ _

/-- What the cancelling of a run leaves of the group. -/
theorem State.get?_cancelRun (h : FMap.get? s.groups id = some v) (g : Group) :
    FMap.get? (s.cancelRun id g).groups id = some { v with away := [] } := by
  rw [State.cancelRun]
  dsimp only
  rw [foldl_groups]
  · exact State.get?_setGroup (s := { s with
      setts := s.setts.map (fun x => (x.1, { x.2 with entries := x.2.entries.filter (fun e => e.group != some id) })) }) h _
  · intro s p
    split
    · rfl
    · refine foldl_groups (fun s i => ?_) _ s
      split
      · exact s.setCounter_groups ..
      · rfl

/-- The entry of spare `i` where it has position `p`, with the peer of the lost one (R419). -/
def Group.spareAt (g : Group) (p i : Nat) : Position :=
  { g.pos i with
    peer := (g.pos p).peer, st := .paused, base := (g.pos i).base + 1 }

/-- The group once the spare has it. -/
def Group.spared (v g : Group) (p i : Nat) : Group :=
  { ((v.setPos p (fun _ => g.spareAt p i)).setPos i (fun x => { x with used := true })) with phase := 2 }

/-- The state once the spare has it, before its input is copied. -/
def State.spared (s : State) (id : Nat) (g : Group) (p i : Nat) : State :=
  (((s.toStatus id .paused).cancelRun id g).takeSpare id g p i).setGroup id (fun v => { v with phase := 2 })

/-- What the taking of the spare leaves of the group. -/
theorem State.get?_spared (h : FMap.get? s.groups id = some v) (g : Group) (p i : Nat) :
    FMap.get? (s.spared id g p i).groups id = some (Group.spared { v.withStatus .paused with away := [] } g p i) := by
  rw [State.spared]
  refine State.get?_setGroup ?_ _
  rw [State.takeSpare]
  dsimp only
  refine State.get?_setGroup ?_ _
  rw [State.writeRecord_groups]
  exact State.get?_cancelRun (State.get?_toStatus h .paused) g

/-! ### Runs and commits (R415) -/

section
variable (hg : FMap.get? s.groups id = some g)
include hg

/-- A run does not start where one is live or aborting, the context is halted or a position is not ready. -/
theorem exec_collectiveRunStart_stays (h : g.st.live = true ∨ g.aborting = true ∨ s.halted g.ctx = true
    ∨ ¬ g.active.all (s.positionReady g) = true) : exec (.collectiveRunStart id) s = .next s := by
  show execCollectiveRunStart id s = _
  rw [execCollectiveRunStart, hg]
  refine congrArg Host.Outcome.next (if_pos ?_)
  rcases h with h | h | h | h
  · rw [h, Bool.true_or, Bool.true_or, Bool.true_or]
  · rw [h, Bool.or_true, Bool.true_or, Bool.true_or]
  · rw [h, Bool.or_true, Bool.true_or]
  · rw [Bool.eq_false_iff.2 h, Bool.not_false, Bool.or_true]

/-- A group at the beginning of a run. -/
def Group.runBegun (g : Group) (now : Nat) : Group :=
  { (g.mapActive (fun p => { p with base := p.base + 1, st := .idle, applied := false, due := false })) with
    run := g.run + 1, chunk := 0, since := now, phase := 0, lost := none, more := [] }

/-- A run starts with its number one higher, at chunk 0, with no loss. -/
theorem exec_collectiveRunStart_starts (hdead : g.st.live = false) (habort : g.aborting = false) (hhalt : s.halted g.ctx = false)
    (hready : g.active.all (s.positionReady g) = true) : ∃ t v, exec (.collectiveRunStart id) s = .next t ∧ FMap.get? t.groups id = some v
      ∧ v.run = g.run + 1 ∧ v.st = .running ∧ v.chunk = 0 ∧ v.since = s.gtc ∧ v.lost = none ∧ v.n = g.n ∧ v.ctx = g.ctx := by
  have hgo : ¬ ((g.st.live || g.aborting || s.halted g.ctx || !g.active.all (s.positionReady g)) = true) := by
    rw [hdead, habort, hhalt, hready]
    decide
  have hbegun := State.get?_setGroup hg (fun v => v.runBegun s.gtc)
  have hrunning := State.get?_toStatus hbegun .running
  have hstep : exec (.collectiveRunStart id) s = .next (if g.resilient = true
      then ((s.setGroup id (fun v => v.runBegun s.gtc)).toStatus id .running).addLinks id g
        ((upTo 0 g.n).map (fun p => (p, Link1.mirror)))
      else ((s.setGroup id (fun v => v.runBegun s.gtc)).toStatus id .running).armChunk id) := by
    show execCollectiveRunStart id s = _
    rw [execCollectiveRunStart, hg]
    dsimp only
    rw [if_neg hgo]
    rfl
  have hfound : ∃ w, FMap.get? (if g.resilient = true
      then ((s.setGroup id (fun v => v.runBegun s.gtc)).toStatus id .running).addLinks id g
        ((upTo 0 g.n).map (fun p => (p, Link1.mirror)))
      else ((s.setGroup id (fun v => v.runBegun s.gtc)).toStatus id .running).armChunk id).groups id = some w
        ∧ (((g.runBegun s.gtc).withStatus .running).ButAway w
          ∨ ((g.runBegun s.gtc).withStatus .running).chunkBegun.ButAway w) := by
    split
    · obtain ⟨w, hw, hsame⟩ := State.get?_addLinks hrunning g ((upTo 0 g.n).map (fun p => (p, Link1.mirror)))
      exact ⟨w, hw, .inl hsame⟩
    · obtain ⟨w, hw, hsame⟩ := State.get?_armChunk hrunning
      exact ⟨w, hw, .inr hsame⟩
  obtain ⟨w, hw, hsame⟩ := hfound
  refine ⟨_, w, hstep, hw, ?_⟩
  rcases hsame with hsame | hsame <;>
  · obtain ⟨hrun, hst, hchunk, hsince, hlost, hn, hctx, -, -⟩ := hsame.fields
    rw [hrun, hst, hchunk, hsince, hlost, hn, hctx]
    dsimp only [Group.chunkBegun, Group.withStatus, Group.runBegun, Group.mapActive]
    exact ⟨rfl, rfl, rfl, rfl, rfl, rfl, rfl⟩

omit hg in
/-- COMPLETE written for every position whose status is open, and for the run (R415). -/
def State.tellCommitted (s : State) (g : Group) : State :=
  let told := (g.active.filter (fun p => !p.st.final)).foldl (fun s p => (s.putStatus g p.status .complete).tellEnd g p) s
  let shown := (g.active.filter (fun p => p.st == .complete)).foldl (fun s p => s.putStatus g p.status .complete) told
  if g.active.any (fun p => p.st == .aborted) then shown else shown.putStatus g g.ostatus .complete

omit hg in
/-- It leaves the groups alone. -/
theorem State.tellCommitted_groups (s : State) (g : Group) : (s.tellCommitted g).groups = s.groups := by
  have htold := foldl_groups (fun s (p : Position) => (State.tellEnd_groups (s.putStatus g p.status .complete) g p).trans
    (s.putStatus_groups g p.status .complete)) (g.active.filter (fun p => !p.st.final)) s
  have hshown := foldl_groups (fun s (p : Position) => s.putStatus_groups g p.status .complete)
    (g.active.filter (fun p => p.st == .complete))
    ((g.active.filter (fun p => !p.st.final)).foldl (fun s p => (s.putStatus g p.status .complete).tellEnd g p) s)
  rw [State.tellCommitted]
  split
  · exact hshown.trans htold
  · exact (State.putStatus_groups _ _ _ _).trans (hshown.trans htold)

omit hg in
/-- A group whose next chunk is committed. -/
def Group.advanced (g : Group) (now : Nat) : Group := { g with chunk := g.chunk + 1, since := now }

/-- The end of a commit, by whether it is the last. -/
theorem State.commit_eq : s.commit id = if g.chunk + 1 < g.chunks
    then ((s.setGroup id (fun v => v.advanced s.gtc)).toStatus id .running).armChunk id
    else ((s.setGroup id (fun v => v.advanced s.gtc)).tellCommitted (g.advanced s.gtc)).setGroup id (fun v => v.withStatus .complete) := by
  have hset := State.get?_setGroup hg (fun v => v.advanced s.gtc)
  show (match FMap.get? (s.setGroup id (fun v => v.advanced s.gtc)).groups id with
    | none => s.setGroup id (fun v => v.advanced s.gtc)
    | some g => _) = _
  rw [hset]
  rfl

/-- A commit that is not the last goes on with the next chunk; the last completes the run. -/
theorem State.get?_commit : ∃ v, FMap.get? (s.commit id).groups id = some v ∧ v.chunk = g.chunk + 1 ∧ v.run = g.run ∧ v.since = s.gtc
    ∧ (g.chunk + 1 < g.chunks → v.st = .running ∧ v.phase = 1) ∧ (g.chunks ≤ g.chunk + 1 → v.st = .complete) := by
  have hset := State.get?_setGroup hg (fun v => v.advanced s.gtc)
  rw [State.commit_eq hg]
  by_cases hmore : g.chunk + 1 < g.chunks
  · rw [if_pos hmore]
    obtain ⟨w, harm, hsame⟩ := State.get?_armChunk (State.get?_toStatus hset .running)
    obtain ⟨hrun, hst, hchunk, hsince, -, -, -, hphase, -⟩ := hsame.fields
    refine ⟨w, harm, ?_⟩
    rw [hchunk, hrun, hsince, hst, hphase]
    dsimp only [Group.chunkBegun, Group.withStatus, Group.advanced, Group.mapActive]
    exact ⟨rfl, rfl, rfl, fun _ => ⟨rfl, rfl⟩, fun h => absurd hmore (Nat.not_lt.2 h)⟩
  · rw [if_neg hmore]
    rw [← State.tellCommitted_groups _ (g.advanced s.gtc)] at hset
    exact ⟨_, State.get?_setGroup hset _, rfl, rfl, rfl, fun h => absurd h hmore, fun _ => rfl⟩

omit hg in
/-- A chunk is everywhere, as the step tests it. -/
theorem allOut_iff : (g.active.all Position.out && !s.linked id) = true ↔ (∀ x ∈ g.active, x.out = true) ∧ s.linked id = false := by
  rw [Bool.and_eq_true, List.all_eq_true, Bool.not_eq_true']

/-- No commit is made of a run that is not in its chain, or has lost a position. -/
theorem exec_chunkCommit_stays (h : g.st ≠ .running ∨ g.phase ≠ 1 ∨ g.lost ≠ none) : exec (.chunkCommit id) s = .next s := by
  show execChunkCommit id s = _
  rw [execChunkCommit, hg]
  refine congrArg Host.Outcome.next (if_pos ?_)
  rcases h with h | h | h
  · rw [bne_iff_ne.2 h, Bool.true_or, Bool.true_or]
  · rw [bne_iff_ne.2 h, Bool.or_true, Bool.true_or]
  · rw [Option.isSome_iff_ne_none.2 h, Bool.or_true]

/-- What CHUNK_COMMIT does of a chunk under way. -/
theorem exec_chunkCommit_runs (hrun : g.st = .running) (hphase : g.phase = 1) (hlost : g.lost = none) :
    exec (.chunkCommit id) s = .next (if (g.active.all Position.out && !s.linked id) = true then s.commit id
      else if g.chunk + 1 = g.chunks ∧ (!s.halted g.ctx) = true then s.completeEarly id g else s) := by
  show execChunkCommit id s = _
  rw [execChunkCommit, hg]
  refine congrArg Host.Outcome.next (if_neg ?_)
  rw [hrun, hphase, hlost]
  decide

/-- The last chunk's positions that have all of it show COMPLETE before its commit. -/
theorem State.get?_completeEarly : FMap.get? (s.completeEarly id g).groups id
    = some (g.mapActive (fun x => if x.out && !x.st.final then { x with st := .complete } else x)) := by
  rw [State.completeEarly]
  refine State.get?_setGroup ?_ _
  rw [foldl_groups fun s (p : Position) => (State.tellEnd_groups (s.putStatus g p.status .complete) g p).trans
    (s.putStatus_groups g p.status .complete)]
  exact hg

/-! ### Losses and recovery (R417 to R419) -/

/-- No deadline is missed by a run that is not under way, recovers, has lost a position or is halted, or before its time. -/
theorem exec_collectiveDeadlineExpiry_stays (h : g.st ≠ .running ∨ g.phase = 2 ∨ g.lost ≠ none ∨ s.halted g.ctx = true
    ∨ s.gtc < g.since + g.deadline) : exec (.collectiveDeadlineExpiry id) s = .next s := by
  show execCollectiveDeadlineExpiry id s = _
  rw [execCollectiveDeadlineExpiry, hg]
  refine congrArg Host.Outcome.next (if_pos ?_)
  rcases h with h | h | h | h | h
  · rw [bne_iff_ne.2 h, Bool.true_or, Bool.true_or, Bool.true_or, Bool.true_or]
  · rw [h, beq_self_eq_true, Bool.or_true, Bool.true_or, Bool.true_or, Bool.true_or]
  · rw [Option.isSome_iff_ne_none.2 h, Bool.or_true, Bool.true_or, Bool.true_or]
  · rw [h, Bool.or_true, Bool.true_or]
  · rw [decide_eq_true h, Bool.or_true]

/-- A position that misses the deadline is lost. -/
theorem exec_collectiveDeadlineExpiry_loses (hrun : g.st = .running) (hphase : g.phase ≠ 2) (hlost : g.lost = none)
    (hhalt : s.halted g.ctx = false) (hlate : g.since + g.deadline ≤ s.gtc) : ∃ t v, exec (.collectiveDeadlineExpiry id) s = .next t
      ∧ FMap.get? t.groups id = some v ∧ v = { g with lost := some (s.laggard id g) } := by
  have hgo : ¬ ((g.st != .running || g.phase == 2 || g.lost.isSome || s.halted g.ctx || decide (s.gtc < g.since + g.deadline)) = true) := by
    rw [hrun, beq_false_of_ne hphase, hlost, hhalt, decide_eq_false (Nat.not_lt.2 hlate)]
    decide
  have hlose : g.lose (s.laggard id g) = { g with lost := some (s.laggard id g) } := by
    rw [Group.lose, hrun, hlost]
    rfl
  have hset := State.get?_setGroup hg (fun g => g.lose (s.laggard id g))
  refine ⟨s.setGroup id (fun g => g.lose (s.laggard id g)), _, ?_, hset, hlose⟩
  show execCollectiveDeadlineExpiry id s = _
  rw [execCollectiveDeadlineExpiry, hg]
  exact congrArg Host.Outcome.next (if_neg hgo)

/-- Where no position is lost there is no end and no recovery. -/
theorem exec_loss_stays_of_none (hlost : g.lost = none) :
    exec (.collectiveLossEnd id) s = .next s ∧ exec (.collectiveRecovery id) s = .next s := by
  constructor
  · show execCollectiveLossEnd id s = _
    rw [execCollectiveLossEnd, hg]
    dsimp only
    rw [hlost]
  · show execCollectiveRecovery id s = _
    rw [execCollectiveRecovery, hg]
    dsimp only
    rw [hlost]

section
variable {p : Nat} (hlost : g.lost = some p)
include hlost

/-- A loss does not end a run that is over, aborts, recovers, may be recovered, or has data under way. -/
theorem exec_collectiveLossEnd_stays (h : g.st.live = false ∨ g.aborting = true ∨ g.phase = 2 ∨ s.hopeless g p = false
    ∨ s.firedLink id = true) : exec (.collectiveLossEnd id) s = .next s := by
  show execCollectiveLossEnd id s = _
  rw [execCollectiveLossEnd, hg]
  dsimp only
  rw [hlost]
  refine congrArg Host.Outcome.next (if_pos ?_)
  rcases h with h | h | h | h | h
  · rw [h, Bool.not_false, Bool.true_or, Bool.true_or, Bool.true_or, Bool.true_or]
  · rw [h, Bool.or_true, Bool.true_or, Bool.true_or, Bool.true_or]
  · rw [h, beq_self_eq_true, Bool.or_true, Bool.true_or, Bool.true_or]
  · rw [h, Bool.not_false, Bool.or_true, Bool.true_or]
  · rw [h, Bool.or_true]

/-- A loss is not recovered where the run aborts, is past recovery, or has data under way. -/
theorem exec_collectiveRecovery_stays (hphase : g.phase ≠ 2) (h : g.aborting = true ∨ s.hopeless g p = true ∨ s.firedLink id = true) :
    exec (.collectiveRecovery id) s = .next s := by
  have hafter (h : s.hopeless g p = true ∨ s.firedLink id = true) : (s.hopeless g p || s.firedLink id) = true := by
    rw [Bool.or_eq_true]
    exact h
  show execCollectiveRecovery id s = _
  rw [execCollectiveRecovery, hg]
  dsimp only
  rw [hlost]
  dsimp only
  rw [if_neg hphase]
  rcases h with habort | h
  · rw [habort, Bool.or_true, Bool.true_or, if_pos rfl]
  · rw [if_pos (hafter h), ite_self]

/-- A loss that is past recovery ends the run. -/
theorem exec_collectiveLossEnd_ends (hlive : g.st.live = true) (hphase : g.phase ≠ 2) (habort : g.aborting = false)
    (hidle : s.firedLink id = false) (hhope : s.hopeless g p = true) : ∃ t v, exec (.collectiveLossEnd id) s = .next t
      ∧ FMap.get? t.groups id = some v ∧ v.st = .memberLost ∧ v.lost = none ∧ v.more = [] ∧ v.run = g.run := by
  have hgo : ¬ ((!g.st.live || g.aborting || g.phase == 2 || !s.hopeless g p || s.firedLink id) = true) := by
    rw [hlive, habort, beq_false_of_ne hphase, hhope, hidle]
    decide
  have hcancel := State.get?_cancelRun hg g
  rw [← foldl_groups (fun s (x : Position) => s.scramble_groups g x) (g.active.filter (fun x => !x.st.final))] at hcancel
  have hlosing := State.get?_toStatus hcancel .memberLost
  rw [← foldl_groups (fun s (x : Position) => s.tellEnd_groups g x) g.active] at hlosing
  refine ⟨_, _, ?_, State.get?_setGroup hlosing (fun g => { g with lost := none, more := [] }), rfl, rfl, rfl, rfl⟩
  show execCollectiveLossEnd id s = _
  rw [execCollectiveLossEnd, hg]
  dsimp only
  rw [hlost]
  dsimp only
  rw [if_neg hgo]

end

omit hg in
/-- A position of a group read back after one is changed. -/
theorem Group.pos_setPos (g : Group) {k : Nat} (f : Position → Position) (j : Nat) (hk : k < g.positions.length) :
    (g.setPos k f).pos j = if j = k then f (g.pos k) else g.pos j :=
  nth_setNth Position.none (f (g.pos k)) g.positions k j hk

omit hg in
/-- A group has as many positions after one is changed. -/
theorem Group.length_setPos (g : Group) (k : Nat) (f : Position → Position) : (g.setPos k f).positions.length = g.positions.length :=
  length_setNth (f (g.pos k)) g.positions k

omit hg in
/-- So it has after a status. -/
theorem Group.length_withStatus (g : Group) (st : RunStatus) : (g.withStatus st).positions.length = g.positions.length := by
  show (g.active.map _ ++ g.positions.drop g.n).length = _
  rw [List.length_append, List.length_map, Group.active, ← List.length_append, List.take_append_drop]

omit hg in
/-- The run pauses for the copies. -/
theorem Group.run_spared (v g : Group) (p i : Nat) : (v.spared g p i).st = v.st ∧ (v.spared g p i).phase = 2 ∧ (v.spared g p i).lost = v.lost :=
  ⟨rfl, rfl, rfl⟩

omit hg in
/-- The places of the spare and of the lost position then. -/
theorem Group.pos_spared (g : Group) {p i : Nat} (hpi : p ≠ i) (hp : p < v.positions.length) (hi : i < v.positions.length) :
    ((v.spared g p i).pos p).sett = (g.pos i).sett ∧ ((v.spared g p i).pos p).pkg = (g.pos i).pkg
      ∧ ((v.spared g p i).pos p).peer = (g.pos p).peer ∧ ((v.spared g p i).pos i).used = true := by
  have hi' : i < (v.setPos p (fun _ => g.spareAt p i)).positions.length := by
    rw [Group.length_setPos]
    exact hi
  have hlost : (v.spared g p i).pos p = g.spareAt p i :=
    (Group.pos_setPos _ (fun x => { x with used := true }) p hi').trans
      ((if_neg hpi).trans ((Group.pos_setPos v (fun _ => g.spareAt p i) p hp).trans (if_pos rfl)))
  have hspare : (v.spared g p i).pos i = _ := (Group.pos_setPos _ (fun x => { x with used := true }) i hi').trans (if_pos rfl)
  rw [hlost, hspare]
  exact ⟨rfl, rfl, rfl, rfl⟩

/-- A loss that may be recovered: the spare takes the position over, and its input is copied first. -/
theorem exec_collectiveRecovery_takes {p i : Nat} (hlost : g.lost = some p) (hlive : g.st.live = true) (hphase : g.phase ≠ 2)
    (habort : g.aborting = false) (hidle : s.firedLink id = false) (hhope : s.hopeless g p = false) (hhalt : s.halted g.ctx = false)
    (hspare : s.spareOf g = some i) (hp : p < g.n) (hi : g.n ≤ i) (hlen : i < g.positions.length) : ∃ t v,
      exec (.collectiveRecovery id) s = .next t ∧ FMap.get? t.groups id = some v ∧ v.st = .paused ∧ v.phase = 2 ∧ v.lost = some p
        ∧ (v.pos p).sett = (g.pos i).sett ∧ (v.pos p).pkg = (g.pos i).pkg ∧ (v.pos p).peer = (g.pos p).peer ∧ (v.pos i).used = true := by
  have hgo : ¬ ((!g.st.live || g.aborting || s.halted g.ctx) = true) := by
    rw [hlive, habort, hhalt]
    decide
  have htry : ¬ ((s.hopeless g p || s.firedLink id) = true) := by
    rw [hhope, hidle]
    decide
  have hset := State.get?_spared hg g p i
  have hstep : exec (.collectiveRecovery id) s
      = .next ((s.spared id g p i).addLinks id (Group.spared { g.withStatus .paused with away := [] } g p i) [(p, Link1.input)]) := by
    show execCollectiveRecovery id s = _
    rw [execCollectiveRecovery, hg]
    dsimp only
    rw [hlost]
    dsimp only
    rw [if_neg hgo, if_neg hphase, if_neg htry, hspare]
    show Host.Outcome.next (match FMap.get? (s.spared id g p i).groups id with
      | none => s.spared id g p i
      | some v => _) = _
    rw [hset]
    rfl
  have hpi : p ≠ i := Nat.ne_of_lt (Nat.lt_of_lt_of_le hp hi)
  obtain ⟨hsett, hpkg, hpeer, hused⟩ := Group.pos_spared (v := { g.withStatus .paused with away := [] }) g hpi
    (by show p < (g.withStatus .paused).positions.length
        rw [Group.length_withStatus]
        exact Nat.lt_trans (Nat.lt_of_lt_of_le hp hi) hlen)
    (by show i < (g.withStatus .paused).positions.length
        rw [Group.length_withStatus]
        exact hlen)
  obtain ⟨w, hw, hsame⟩ := State.get?_addLinks hset (Group.spared { g.withStatus .paused with away := [] } g p i) [(p, Link1.input)]
  obtain ⟨-, hst, -, -, hl, -, -, hph, hpos⟩ := hsame.fields
  have hpos (k : Nat) : w.pos k = (Group.spared { g.withStatus .paused with away := [] } g p i).pos k := by
    rw [Group.pos, hpos, Group.pos]
  refine ⟨_, w, hstep, hw, ?_⟩
  obtain ⟨hst', hph', hl'⟩ := Group.run_spared { g.withStatus .paused with away := [] } g p i
  rw [hst, hph, hl, hpos, hpos, hst', hph', hl']
  exact ⟨rfl, rfl, hlost, hsett, hpkg, hpeer, hused⟩

/-! ### Aborts (R420) -/

/-- The abort of a run that is over already is not finished, nor one that a position has not applied. -/
theorem exec_abortFinish_stays (h : g.aborting = false ∨ ∃ x ∈ g.active, x.applied = false) : exec (.abortFinish id) s = .next s := by
  show execAbortFinish id s = _
  rw [execAbortFinish, hg]
  refine congrArg Host.Outcome.next (if_pos ?_)
  rcases h with h | ⟨x, hx, h⟩
  · rw [h, Bool.not_false, Bool.true_or]
  · have hall : g.active.all Position.applied = false := List.all_eq_false.2 ⟨x, hx, by rw [h]; decide⟩
    rw [hall, Bool.not_false, Bool.or_true]

omit hg in
/-- The status of a run whose abort every position has applied. -/
def Group.abortStatus (g : Group) : RunStatus :=
  if g.active.any (fun p => p.st == .aborted) then .aborted
  else if g.active.any (fun p => p.st == .memberLost) then .memberLost else .complete

/-- The abort that every position has applied is over. -/
theorem exec_abortFinish_ends (habort : g.aborting = true) (hall : ∀ x ∈ g.active, x.applied = true) : ∃ t v,
    exec (.abortFinish id) s = .next t ∧ FMap.get? t.groups id = some v ∧ v.aborting = false ∧ v.lost = none ∧ v.st = g.abortStatus := by
  have hgo : ¬ ((!g.aborting || !g.active.all Position.applied) = true) := by
    rw [habort, List.all_eq_true.2 hall]
    decide
  have hcancel := State.get?_cancelRun hg g
  rw [← foldl_groups (fun s (x : Position) => s.tellEnd_groups g x) (g.active.filter Position.due),
    ← State.putStatus_groups _ g g.ostatus g.abortStatus] at hcancel
  refine ⟨_, _, ?_, State.get?_setGroup hcancel (fun v => { v with aborting := false, st := g.abortStatus, lost := none, more := [] }),
    rfl, rfl, rfl⟩
  show execAbortFinish id s = _
  rw [execAbortFinish, hg]
  exact congrArg Host.Outcome.next (if_neg hgo)

end

/-- It is ABORTED where a position was aborted. -/
theorem Group.abortStatus_of_aborted (h : ∃ x ∈ g.active, x.st = .aborted) : g.abortStatus = .aborted := by
  obtain ⟨x, hx, hst⟩ := h
  exact if_pos (List.any_eq_true.2 ⟨x, hx, by rw [beq_iff_eq]; exact hst⟩)

/-- It is COMPLETE where none was aborted and none lost. -/
theorem Group.abortStatus_of_complete (h : ∀ x ∈ g.active, x.st ≠ .aborted ∧ x.st ≠ .memberLost) : g.abortStatus = .complete := by
  have hno (st : RunStatus) (hst : ∀ x ∈ g.active, x.st ≠ st) : ¬ g.active.any (fun p => p.st == st) = true := by
    rw [List.any_eq_true]
    rintro ⟨x, hx, heq⟩
    exact hst x hx (beq_iff_eq.1 heq)
  rw [Group.abortStatus, if_neg (hno .aborted fun x hx => (h x hx).1), if_neg (hno .memberLost fun x hx => (h x hx).2)]

/-- An abort applied at positions `ks`, and nothing else changed at the others (R420). -/
structure Group.AbortedIn (v w : Group) (ks : List Nat) : Prop where
  chunk : w.chunk = v.chunk
  chunks : w.chunks = v.chunks
  aborting : w.aborting = v.aborting
  length : w.positions.length = v.positions.length
  others : ∀ j, j ∉ ks → w.pos j = v.pos j
  applied : ∀ k ∈ ks, (w.pos k).applied = true
  status : ∀ k ∈ ks, (v.pos k).applied = false → (v.pos k).st.final = false →
    (w.pos k).st = if v.chunk + 1 = v.chunks ∧ (v.pos k).out = true then .complete else .aborted

/-- A position set to one to which the abort is applied. -/
theorem Group.abortedIn_setPos {k : Nat} (f : Position → Position) (hk : k < v.positions.length) (hf : (f (v.pos k)).applied = true)
    (hst : (v.pos k).applied = false → (v.pos k).st.final = false →
      (f (v.pos k)).st = if v.chunk + 1 = v.chunks ∧ (v.pos k).out = true then .complete else .aborted) : v.AbortedIn (v.setPos k f) [k] where
  chunk := rfl
  chunks := rfl
  aborting := rfl
  length := v.length_setPos k f
  others := fun j hj => by rw [Group.pos_setPos v f j hk, if_neg (fun h => hj (List.mem_singleton.2 h))]
  applied := fun j hj => by rw [Group.pos_setPos v f j hk, if_pos (List.mem_singleton.1 hj)]; exact hf
  status := fun j hj => by
    rw [Group.pos_setPos v f j hk, if_pos (List.mem_singleton.1 hj), List.mem_singleton.1 hj]
    exact hst

/-- The abort applied to one position. -/
theorem State.get?_abortPos (h : FMap.get? s.groups id = some v) {k : Nat} (hk : k < v.positions.length) :
    ∃ w, FMap.get? (s.abortPos id k).groups id = some w ∧ v.AbortedIn w [k] := by
  rw [State.abortPos, h]
  dsimp only
  split
  next happlied =>
    refine ⟨v, h, rfl, rfl, rfl, rfl, fun j _ => rfl, fun j hj => ?_, fun j hj hno => ?_⟩
    · rw [List.mem_singleton.1 hj]
      exact happlied
    · rw [List.mem_singleton.1 hj, happlied] at hno
      cases hno
  next happlied =>
    split
    next hfinal => exact ⟨_, State.get?_setGroup h _, Group.abortedIn_setPos _ hk rfl fun _ hno => absurd hfinal (Bool.eq_false_iff.1 hno)⟩
    next hfinal =>
      refine ⟨_, State.get?_setGroup ?_ _, Group.abortedIn_setPos _ hk rfl fun _ _ => rfl⟩
      have hkept (st : RunStatus) : (if st = .aborted then s.scramble v (v.pos k) else s).groups = s.groups := by
        split
        · exact s.scramble_groups ..
        · rfl
      rw [State.putStatus_groups, hkept]
      exact h

/-- The abort applied to one position after another. -/
theorem State.get?_foldl_abortPos (h : FMap.get? s.groups id = some v) (ks : List Nat) (hks : ∀ k ∈ ks, k < v.positions.length)
    (hone : ks.Nodup) : ∃ w, FMap.get? (ks.foldl (fun s k => s.abortPos id k) s).groups id = some w ∧ v.AbortedIn w ks := by
  induction ks generalizing s v with
  | nil => exact ⟨v, h, rfl, rfl, rfl, rfl, fun _ _ => rfl, fun _ hk => absurd hk List.not_mem_nil, fun _ hk => absurd hk List.not_mem_nil⟩
  | cons k ks ih =>
    obtain ⟨hfresh, hone⟩ := List.nodup_cons.1 hone
    obtain ⟨u, hu, hat⟩ := State.get?_abortPos h (hks k List.mem_cons_self)
    obtain ⟨w, hw, hrest⟩ := ih (s := s.abortPos id k) hu
      (fun j hj => by rw [hat.length]; exact hks j (List.mem_cons_of_mem k hj)) hone
    have hold (j : Nat) (hj : j ∈ ks) : u.pos j = v.pos j :=
      hat.others j fun h => hfresh (List.mem_singleton.1 h ▸ hj)
    refine ⟨w, hw, hrest.chunk.trans hat.chunk, hrest.chunks.trans hat.chunks, hrest.aborting.trans hat.aborting,
      hrest.length.trans hat.length, fun j hj => ?_, fun j hj => ?_, fun j hj => ?_⟩
    · obtain ⟨hjk, hj⟩ := not_or.1 (fun h => hj (List.mem_cons.2 h))
      rw [hrest.others j hj, hat.others j fun h => hjk (List.mem_singleton.1 h)]
    · rcases List.mem_cons.1 hj with rfl | hj
      · rw [hrest.others j hfresh]
        exact hat.applied j (List.mem_singleton.2 rfl)
      · exact hrest.applied j hj
    · rcases List.mem_cons.1 hj with rfl | hj
      · rw [hrest.others j hfresh]
        exact hat.status j (List.mem_singleton.2 rfl)
      · rw [← hold j hj, ← hat.chunk, ← hat.chunks]
        exact hrest.status j hj

/-- `upTo` is the library's range. -/
theorem upTo_eq_range' (a n : Nat) : upTo a n = List.range' a n := by
  induction n generalizing a with
  | zero => rfl
  | succ n ih => rw [upTo, ih, List.range'_succ]

/-- The numbers of a run's positions with a property. -/
def Group.activeWith (g : Group) (f : Position → Bool) : List Nat :=
  ((g.active.zip (upTo 0 g.n)).filter (fun x => f x.1)).map Prod.snd

theorem Group.activeWith_eq (g : Group) (hn : g.n ≤ g.positions.length) (f : Position → Bool) :
    g.activeWith f = (upTo 0 g.n).filter (fun k => f (g.pos k)) := by
  have hlen : g.active.length = g.n := by
    rw [Group.active, List.length_take, Nat.min_eq_left hn]
  have hzip : g.active.zip (upTo 0 g.n) = (upTo 0 g.n).map (fun k => (g.pos k, k)) := by
    refine List.ext_getElem (by rw [List.length_zip, List.length_map, hlen, length_upTo, Nat.min_self]) fun k hk hk' => ?_
    have hkn : k < g.n := by
      rw [List.length_map, length_upTo] at hk'
      exact hk'
    rw [List.getElem_zip, List.getElem_map, getElem_upTo, Nat.zero_add, Group.pos,
      nth_eq_getElem Position.none g.positions k (Nat.lt_of_lt_of_le hkn hn)]
    exact congrArg (·, k) List.getElem_take
  rw [Group.activeWith, hzip, List.filter_map, List.map_map]
  exact List.map_id _

theorem Group.mem_activeWith (g : Group) (hn : g.n ≤ g.positions.length) (f : Position → Bool) (k : Nat) :
    k ∈ g.activeWith f ↔ k < g.n ∧ f (g.pos k) = true := by
  rw [Group.activeWith_eq g hn, List.mem_filter, mem_upTo, Nat.zero_add, and_iff_right (Nat.zero_le k)]

theorem Group.nodup_activeWith (g : Group) (hn : g.n ≤ g.positions.length) (f : Position → Bool) : (g.activeWith f).Nodup := by
  rw [Group.activeWith_eq g hn, upTo_eq_range']
  exact (List.nodup_range' (step := 1) Nat.one_pos).filter _

section
variable (hg : FMap.get? s.groups id = some g)
include hg

/-- A sett's message of an abort, taken out of its inbox. -/
theorem exec_abortApply_stays {sett : Nat} (habort : g.aborting = false) (hno : ∀ r ∈ (s.sett sett).inbox, r.msg.body ≠ .abort g.ctx id) :
    exec (.abortApply id sett) s = .next s := by
  have hnone : (s.sett sett).inbox.find? (fun r => r.msg.body == .abort g.ctx id) = none := by
    refine List.find?_eq_none.2 fun r hr => ?_
    rw [beq_iff_eq]
    exact hno r hr
  show execAbortApply id sett s = _
  rw [execAbortApply, hg]
  dsimp only
  rw [hnone, habort]
  rfl

/-- An abort applied at a sett, to its positions of this package where the message has come, and to those of other packages. -/
theorem exec_abortApply_applies {sett : Nat} (habort : g.aborting = true) (hn : g.n ≤ g.positions.length) : ∃ t w,
    exec (.abortApply id sett) s = .next t ∧ FMap.get? t.groups id = some w
      ∧ g.AbortedIn w (g.activeWith (fun x => x.sett == sett && (x.pkg != s.ownPkg
        || ((s.sett sett).inbox.find? (fun r => r.msg.body == .abort g.ctx id)).isSome))) := by
  generalize hgot : (s.sett sett).inbox.find? (fun r => r.msg.body == .abort g.ctx id) = got
  have hstep (u : State) (hu : FMap.get? u.groups id = some g) (hpkg : u.ownPkg = s.ownPkg) (hexec : exec (.abortApply id sett) s
      = .next (((g.active.zip (upTo 0 g.n)).filter (fun x => x.1.sett == sett && (x.1.pkg != u.ownPkg || got.isSome))).foldl
        (fun s x => s.abortPos id x.2) u)) : ∃ t w, exec (.abortApply id sett) s = .next t ∧ FMap.get? t.groups id = some w
          ∧ g.AbortedIn w (g.activeWith (fun x => x.sett == sett && (x.pkg != s.ownPkg || got.isSome))) := by
    rw [hpkg] at hexec
    obtain ⟨w, hw, hdone⟩ := State.get?_foldl_abortPos hu (g.activeWith (fun x => x.sett == sett && (x.pkg != s.ownPkg || got.isSome)))
      (fun k hk => Nat.lt_of_lt_of_le ((g.mem_activeWith hn _ k).1 hk).1 hn) (g.nodup_activeWith hn _)
    rw [Group.activeWith, List.foldl_map] at hw
    exact ⟨_, w, hexec, hw, hdone⟩
  have hrun : exec (.abortApply id sett) s = execAbortApply id sett s := rfl
  rw [execAbortApply, hg] at hrun
  dsimp only at hrun
  rw [hgot, habort] at hrun
  cases got with
  | none => exact hstep s hg rfl hrun
  | some r => exact hstep (s.setSett sett (fun x => { x with inbox := x.inbox.erase r })) hg rfl hrun

end

end Sys2Proof.Machine
end

section
open Sys2Proof Sys2Proof.Machine

/-- Settles O52: each step of a run by what it makes of its group; what it writes to memory, counters and setts leaves groups alone. -/
theorem collectiveRuns : Obligations.CollectiveRuns := by
  unfold Obligations.CollectiveRuns
  intro s id p i sett g hg
  dsimp only
  refine ⟨exec_collectiveRunStart_stays hg, exec_collectiveRunStart_starts hg, exec_chunkCommit_stays hg,
    fun hrun hphase hlost => ⟨fun hall => ?_, fun hnot hno => ?_, fun hnot hlast hhalt => ?_⟩,
    exec_collectiveDeadlineExpiry_stays hg, exec_collectiveDeadlineExpiry_loses hg, exec_loss_stays_of_none hg,
    fun hlost hphase h => ⟨?_, ?_⟩,
    fun hlost hlive hphase habort hidle hhope => ⟨exec_collectiveLossEnd_ends hg hlost hlive hphase habort hidle hhope,
      exec_collectiveRecovery_stays hg hlost hphase (.inr (.inl hhope))⟩,
    fun hlost hlive hphase habort hidle hhope hhalt hspare hp hi hlen =>
      ⟨exec_collectiveLossEnd_stays hg hlost (.inr (.inr (.inr (.inl hhope)))),
        exec_collectiveRecovery_takes hg hlost hlive hphase habort hidle hhope hhalt hspare hp hi hlen⟩,
    exec_abortApply_stays hg, fun habort hn => ?_, exec_abortFinish_stays hg, fun habort hall => ?_⟩
  · have hready := allOut_iff.2 hall
    obtain ⟨v, hv, hafter⟩ := State.get?_commit hg
    exact ⟨_, v, (exec_chunkCommit_runs hg hrun hphase hlost).trans (congrArg Host.Outcome.next (if_pos hready)), hv, hafter⟩
  · refine (exec_chunkCommit_runs hg hrun hphase hlost).trans (congrArg Host.Outcome.next
      ((if_neg fun h => hnot (allOut_iff.1 h)).trans (if_neg ?_)))
    rintro ⟨hlast, hgoes⟩
    rcases hno with h | h
    · exact h hlast
    · rw [h] at hgoes
      cases hgoes
  · refine ⟨_, _, (exec_chunkCommit_runs hg hrun hphase hlost).trans (congrArg Host.Outcome.next
      ((if_neg fun h => hnot (allOut_iff.1 h)).trans (if_pos ⟨hlast, ?_⟩))), State.get?_completeEarly hg, rfl⟩
    rw [hhalt]
    rfl
  · refine exec_collectiveLossEnd_stays hg hlost ?_
    rcases h with h | h
    · exact .inr (.inl h)
    · exact .inr (.inr (.inr (.inr h)))
  · exact exec_collectiveRecovery_stays hg hlost hphase (h.imp_right .inr)
  · obtain ⟨t, w, hstep, hw, hdone⟩ := exec_abortApply_applies (sett := sett) hg habort hn
    have hmine (k : Nat) (hk : k < g.n) : k ∈ g.activeWith (fun x => x.sett == sett && (x.pkg != s.ownPkg
        || ((s.sett sett).inbox.find? (fun r => r.msg.body == .abort g.ctx id)).isSome))
        ↔ (g.pos k).sett = sett ∧ ((∃ r ∈ (s.sett sett).inbox, r.msg.body = .abort g.ctx id) ∨ (g.pos k).pkg ≠ s.ownPkg) := by
      rw [Group.mem_activeWith g hn, and_iff_right hk, Bool.and_eq_true, Bool.or_eq_true, beq_iff_eq, bne_iff_ne, List.find?_isSome, or_comm]
      simp only [beq_iff_eq]
    exact ⟨t, w, hstep, hw, hdone.aborting.trans habort, fun k hk => ⟨fun hnot => hdone.others k fun h => hnot ((hmine k hk).1 h),
      fun h => ⟨hdone.applied k ((hmine k hk).2 h), hdone.status k ((hmine k hk).2 h)⟩⟩⟩
  · obtain ⟨t, v, hstep, hv, hdone, hlost, hst⟩ := exec_abortFinish_ends hg habort hall
    exact ⟨t, v, hstep, hv, hdone, hlost, fun h => hst.trans (Group.abortStatus_of_aborted h),
      fun h => hst.trans (Group.abortStatus_of_complete h)⟩

end

section
/-!
SUPPORT. Links and flits (R379 to R382, R385, R387 to R390, R395, R396): what a link lets pass, what its loss leaves, how ports retrain,
which queue a port serves, and the operations of Ultra Ethernet.
-/

namespace Sys2Proof.Machine

variable {s : State} {n chip port sett : Nat} {flit : List Byte} {f : QFlit}

/-! ### Links and ports, read back (R381, R387) -/

/-- A link read back after one is changed. -/
theorem State.link_setLink (s : State) (n : Nat) (f : Link → Link) (k : Nat) :
    (s.setLink n f).link k = if k = n then f (s.link n) else s.link k :=
  FMap.getD_set s.links n (f (s.link n)) k Link.init

/-- A port read back after it is changed. -/
theorem State.port_setPort (s : State) (sett p : Nat) (f : Port → Port) : (s.setPort sett p f).port sett p = f (s.port sett p) := by
  rw [State.port, State.setPort, State.sett_setSett_same]
  exact (FMap.getD_set (s.sett sett).ports p (f (s.port sett p)) p Port.init).trans (if_pos rfl)

/-- A chiplet read back after it is changed. -/
theorem State.chip_setChip (s : State) (c : Nat) (f : Chip → Chip) : (s.setChip c f).chip c = f (s.chip c) :=
  (FMap.getD_set s.chips c (f (s.chip c)) c Chip.init).trans (if_pos rfl)

/-- A link that has lost lock. -/
def Link.down (l : Link) : Link := { l with up := false, unacked := [], replays := 0 }

/-- A port whose link has lost lock: it trains again where it has not failed for good. -/
def Port.down (p : Port) (dead : Bool) (now : Nat) : Port :=
  { p with up := false, training := if p.training.isSome || dead then p.training else some (p.rate, p.mask, now) }

/-- The links once one has lost lock. -/
theorem State.dropLink_links (s : State) (n : Nat) : (s.dropLink n).links = (s.setLink n Link.down).links := rfl

/-- The ports then. -/
theorem State.dropLink_setts (s : State) (n : Nat) : (s.dropLink n).setts =
    (s.setPort (portBehind (n % 1024 / 512) (n % 512)).1 (portBehind (n % 1024 / 512) (n % 512)).2 (fun p =>
      p.down (s.portDead (portBehind (n % 1024 / 512) (n % 512)).1 (portBehind (n % 1024 / 512) (n % 512)).2) s.gtc)).setts := rfl

/-- What a link that loses lock leaves of itself and of the port behind it (R381, R387). -/
theorem State.dropLink_spec (s : State) (n : Nat) :
    (s.dropLink n).link n = { s.link n with up := false, unacked := [], replays := 0 }
      ∧ ((s.dropLink n).port (portBehind (n % 1024 / 512) (n % 512)).1 (portBehind (n % 1024 / 512) (n % 512)).2).works = false := by
  generalize hpb : portBehind (n % 1024 / 512) (n % 512) = pb
  have hsetts := s.dropLink_setts n
  rw [hpb] at hsetts
  constructor
  · rw [State.link, State.dropLink_links]
    exact (State.link_setLink s n Link.down n).trans (if_pos rfl)
  · rw [State.port, State.sett, hsetts]
    have hport := State.port_setPort s pb.1 pb.2 (fun p => p.down (s.portDead pb.1 pb.2) s.gtc)
    rw [State.port, State.sett] at hport
    rw [hport, Port.works, Port.down, Bool.false_and]

/-- What a link lets pass (R381). -/
theorem Link.receive_spec {l l' : Link} {p : Bool} (h : l.receive flit = (p, l')) :
    (p = true ↔ l.up = true ∧ flitGood flit = true ∧ flitSeq flit = l.next)
      ∧ (p = true → l' = { l with next := (l.next + 1) % 2 ^ 32, replays := 0 })
      ∧ (l.up = true → flitGood flit = false → l' = { l with replays := l.replays + 1 }) := by
  rw [Link.receive] at h
  cases hup : l.up with
  | false =>
    rw [hup, Bool.not_false, if_pos rfl] at h
    cases h
    exact ⟨by simp, by simp, by simp⟩
  | true => cases hgood : flitGood flit with
    | false =>
      rw [hup, hgood, Bool.not_true, if_neg (by decide), Bool.not_false, if_pos rfl] at h
      cases h
      exact ⟨by simp, by simp, fun _ _ => rfl⟩
    | true =>
      rw [hup, hgood, Bool.not_true, if_neg (by decide), if_neg (by decide)] at h
      by_cases hseq : flitSeq flit = l.next
      · rw [if_neg (not_not.2 hseq)] at h
        cases h
        exact ⟨by simp [hseq], fun _ => rfl, by simp⟩
      · rw [if_pos hseq] at h
        cases h
        exact ⟨by simp [hseq], by simp, by simp⟩

/-! ### Steps of a link (R381, R396) -/

theorem exec_linkLossOfLock_spec : ((s.link n).up = false → exec (.linkLossOfLock n) s = .next s)
    ∧ ((s.link n).up = true → exec (.linkLossOfLock n) s = .next (s.dropLink n)) := by
  have hstep : exec (.linkLossOfLock n) s = .next (if (s.link n).up then s.dropLink n else s) := rfl
  rw [hstep]
  exact ⟨fun h => by rw [h]; rfl, fun h => by rw [h]; rfl⟩

theorem exec_linkDown_spec : ((s.link n).up = false ∨ (s.link n).replays ≤ 8 → exec (.linkDown n) s = .next s)
    ∧ ((s.link n).up = true → 8 < (s.link n).replays → exec (.linkDown n) s = .next (s.dropLink n)) := by
  have hstep : exec (.linkDown n) s = .next (if (s.link n).up && decide (8 < (s.link n).replays) then s.dropLink n else s) := rfl
  rw [hstep]
  refine ⟨fun h => congrArg Host.Outcome.next (if_neg ?_), fun hup hmany => congrArg Host.Outcome.next (if_pos ?_)⟩
  · rw [Bool.and_eq_true, decide_eq_true_iff]
    rintro ⟨hup, hmany⟩
    rcases h with h | h
    · rw [h] at hup
      cases hup
    · exact absurd hmany (Nat.not_lt.2 h)
  · rw [hup, decide_eq_true hmany]
    rfl

/-- A flit that comes over a link whose sender has it no more is let go. -/
theorem exec_linkFlitReceived_none (hnone : (s.link n).unacked.find? (fun f => f.buf == flit) = none) (hgood : flitGood flit = true) :
    exec (.linkFlitReceived n flit) s = .next s := by
  show execLinkFlitReceived n flit s = _
  rw [execLinkFlitReceived]
  dsimp only
  rw [hnone]
  exact congrArg Host.Outcome.next (if_pos hgood)

/-- A flit that a link lets pass is acknowledged, and delivered where the link leads to a sett. -/
theorem exec_linkFlitReceived_passes {l' : Link} (hsome : (s.link n).unacked.find? (fun f => f.buf == flit) = some f)
    (hpass : (s.link n).receive flit = (true, l')) : exec (.linkFlitReceived n flit) s
      = .next (if (decide (n % 512 < 384) && decide (n < 1024)) = true
        then (s.setLink n (fun _ => { l' with unacked := (s.link n).unacked.erase f })).deliverFlit f
        else s.setLink n (fun _ => { l' with unacked := (s.link n).unacked.erase f })) := by
  obtain ⟨hup, -, hseq⟩ := ((Link.receive_spec hpass).1).1 rfl
  show execLinkFlitReceived n flit s = _
  rw [execLinkFlitReceived]
  dsimp only
  rw [hsome, hpass]
  dsimp only
  simp only [hseq, hup, and_self, if_true, Bool.true_and]

/-- A flit delivered at its sett is performed and counted once (R383, R395). -/
theorem State.deliverFlit_spec (s : State) (f : QFlit) :
    let y := s.sett (flitDstSett f.buf)
    let u := s.setSett (flitDstSett f.buf) (fun x => x.deliver f.buf)
    (flitClass f.buf ≠ 3 ∨ y.hasDelivered f.buf = true → s.deliverFlit f = s)
      ∧ (y.deliver f.buf).hasDelivered f.buf = true
      ∧ (flitClass f.buf = 3 → y.hasDelivered f.buf = false → u.performFlit f.buf = none → s.deliverFlit f = u)
      ∧ (∀ v, flitClass f.buf = 3 → y.hasDelivered f.buf = false → u.performFlit f.buf = some v → s.deliverFlit f = v.countFlit f) := by
  dsimp only
  have hfresh (hclass : flitClass f.buf = 3) (hnew : (s.sett (flitDstSett f.buf)).hasDelivered f.buf = false) :
      ¬ ((flitClass f.buf ≠ 3 || (s.sett (flitDstSett f.buf)).hasDelivered f.buf) = true) := by
    rw [hclass, hnew]
    decide
  refine ⟨fun h => if_pos ?_, ?_, fun hclass hnew hperf => ?_, fun v hclass hnew hperf => ?_⟩
  · rw [Bool.or_eq_true, decide_eq_true_iff]
    exact h
  · have hdel := FMap.getD_set (s.sett (flitDstSett f.buf)).delivered (flitIdentity f.buf % 2 ^ 18) ((flitIdentity f.buf / 2 ^ 18
      :: FMap.getD (s.sett (flitDstSett f.buf)).delivered (flitIdentity f.buf % 2 ^ 18) []).take tagWindow) (flitIdentity f.buf % 2 ^ 18) []
    rw [if_pos rfl] at hdel
    rw [Sett.hasDelivered, Sett.deliver, List.contains_iff_mem]
    dsimp only
    rw [hdel, tagWindow, List.take_succ_cons]
    exact List.mem_cons_self
  · rw [State.deliverFlit, if_neg (hfresh hclass hnew)]
    dsimp only
    rw [hperf]
  · rw [State.deliverFlit, if_neg (hfresh hclass hnew)]
    dsimp only
    rw [hperf]

/-! ### Ports retrain (R387, R388) -/

section
variable {rate mask fabric : Nat}

/-- No port retrains at a rate that there is not, with more lanes than it has, or once it has failed for good. -/
theorem exec_retrainRequest_stays (h : rateOk rate = false ∨ 2 ^ 32 ≤ mask ∨ s.portDead sett port = true) :
    exec (.retrainRequest sett port rate mask) s = .next s := by
  refine congrArg Host.Outcome.next (if_pos ?_)
  rcases h with h | h | h
  · rw [h, Bool.not_false, Bool.true_or, Bool.true_or]
  · rw [decide_eq_true h, Bool.or_true, Bool.true_or]
  · rw [h, Bool.or_true]

/-- A port asked to retrain: it trains, joins the requests of a training that has begun less than 2048 lane bits ago, or keeps the
request for later. -/
def Port.asked (p : Port) (rate mask now : Nat) : Port :=
  match p.training with
  | none => { p with training := some (rate, mask, now) }
  | some (r, m, t) =>
    if (now - t) * aggregate p.rate p.mask < 2048 then { p with training := some (min r rate, m &&& mask, t) }
    else { p with pending := p.pending ++ [(rate, mask)] }

theorem exec_retrainRequest_asks (hrate : rateOk rate = true) (hmask : mask < 2 ^ 32) (hlive : s.portDead sett port = false) :
    exec (.retrainRequest sett port rate mask) s = .next (s.setPort sett port (fun p => p.asked rate mask s.gtc)) := by
  refine congrArg Host.Outcome.next (if_neg ?_)
  rw [hrate, decide_eq_false (Nat.not_le.2 hmask), hlive]
  decide

/-- A port whose training ends: it fails, or is up at what both sides agree on, and the next request is taken up. -/
def Port.trained (p : Port) (bad : Bool) (rate mask now : Nat) : Port :=
  { p with
    up := !bad, failed := if bad then p.failed + 1 else 0, rate := if bad then p.rate else rate, mask := if bad then p.mask else mask,
    training := p.pending.head?.map (fun r => (r.1, r.2, now)), pending := p.pending.tail }

/-- A training fails: what is agreed on is too little, or it took too long. -/
def State.trainingBad (s : State) (rate mask fabric k : Nat) : Bool := trainingFails rate mask fabric || decide (k + trainTicks < s.gtc)

/-- The end of a training, by whether it fails. -/
theorem exec_retrainComplete_eq {r m k : Nat} (htrain : (s.port sett port).training = some (r, m, k)) {rt mk : Nat} (hrt : rt = min rate r)
    (hmk : mk = mask &&& m &&& s.goodLanes sett port) : exec (.retrainComplete sett port rate mask fabric) s = .next (
      let bad := s.trainingBad rt mk fabric k
      let v := s.setPort sett port (fun p => p.trained bad rt mk s.gtc)
      let w := if bad then v else
        (v.setLink (outLink (chipPort sett port).1 (chipPort sett port).2) Link.restart).setLink
          (inLink (chipPort sett port).1 (chipPort sett port).2) Link.restart
      if (if bad then (s.port sett port).failed + 1 else 0) = 3 ∧ sett < 48
      then w.setSett sett (fun x => x.append { kind := 5, sett := sett, prow := 0, pcol := 0, index := port }) else w) := by
  subst hrt hmk
  show execRetrainComplete sett port rate mask fabric s = _
  rw [execRetrainComplete]
  dsimp only
  rw [htrain]
  rfl

/-- A training that does not fail leaves the port up at what both sides agree on. -/
theorem exec_retrainComplete_good {r m k rt mk : Nat} (htrain : (s.port sett port).training = some (r, m, k)) (hrt : rt = min rate r)
    (hmk : mk = mask &&& m &&& s.goodLanes sett port) (hgood : s.trainingBad rt mk fabric k = false) : ∃ u : State,
      exec (.retrainComplete sett port rate mask fabric) s = .next u ∧ u.mem = s.mem
        ∧ u.port sett port = (s.port sett port).trained false rt mk s.gtc := by
  have hstep := exec_retrainComplete_eq (fabric := fabric) htrain hrt hmk
  dsimp only at hstep
  rw [hgood, if_neg (show ¬ (false = true) by decide), if_neg (show ¬ (false = true) by decide), if_neg (fun h => absurd h.1 (by decide))] at hstep
  exact ⟨_, hstep, rfl, State.port_setPort s sett port (fun p => p.trained false rt mk s.gtc)⟩

/-- One that fails leaves it down, and a sett's port that has failed three times is a defect. -/
theorem exec_retrainComplete_bad {r m k rt mk : Nat} (htrain : (s.port sett port).training = some (r, m, k)) (hrt : rt = min rate r)
    (hmk : mk = mask &&& m &&& s.goodLanes sett port) (hbad : s.trainingBad rt mk fabric k = true) : ∃ u : State,
      exec (.retrainComplete sett port rate mask fabric) s = .next u ∧ u.mem = s.mem
        ∧ u.port sett port = (s.port sett port).trained true rt mk s.gtc
        ∧ ((s.port sett port).failed = 2 → sett < 48 →
          ∃ y, FMap.get? u.setts sett = some y ∧ { kind := 5, sett := sett, prow := 0, pcol := 0, index := port } ∈ y.delta) := by
  have hstep := exec_retrainComplete_eq (fabric := fabric) htrain hrt hmk
  have hport := State.port_setPort s sett port (fun p => p.trained true rt mk s.gtc)
  dsimp only at hstep
  rw [hbad, if_pos rfl, if_pos rfl] at hstep
  by_cases hthird : (s.port sett port).failed + 1 = 3 ∧ sett < 48
  · rw [if_pos hthird] at hstep
    refine ⟨_, hstep, rfl, ?_, fun _ _ => ⟨_, FMap.get?_set_same _ _ _, List.mem_append_right _ (List.mem_singleton.2 rfl)⟩⟩
    rw [State.port, State.sett_setSett_same]
    exact hport
  · rw [if_neg hthird] at hstep
    exact ⟨_, hstep, rfl, hport, fun hfailed hsett => absurd ⟨by rw [hfailed], hsett⟩ hthird⟩

end

/-! ### Requests that are not answered (R379) -/

/-- What a step does of a request that is found. -/
theorem exec_deliveryTimeout_eq {tag : Nat} {r : GReq}
    (hfind : s.reqs.find? (fun r => r.tag == tag && r.performed == (r.pkg != s.ownPkg)) = some r) : exec (.deliveryTimeout tag) s = .next (
      if r.pkg = s.ownPkg then
        (if (decide (r.sentAt + 100000 ≤ s.gtc) && r.checks.isEmpty && r.done.isEmpty) = true then s.undelivered r else s)
      else if s.overdue (r.core / 256) r.sentAt = true then
        s.onTeam r.uid (fun s => s.reply r (r.accs.map (fun a => { lane := a.lane, code := codeRemoteUnreach, data := [] })))
      else s) := by
  show execDeliveryTimeout tag s = _
  rw [execDeliveryTimeout, hfind]

/-- A request of this package is undelivered where it is late and nothing of it was done. -/
theorem undelivered_iff (s : State) (r : GReq) : (decide (r.sentAt + 100000 ≤ s.gtc) && r.checks.isEmpty && r.done.isEmpty) = true
    ↔ r.sentAt + 100000 ≤ s.gtc ∧ r.checks = [] ∧ r.done = [] := by
  rw [Bool.and_eq_true, Bool.and_eq_true, decide_eq_true_iff, List.isEmpty_iff, List.isEmpty_iff, and_assoc]

/-! ### Flits that arrive (R388, R395, R398) -/

/-- A flit that the slot of its direction takes is put among the arrivals. -/
theorem mem_insertFlit (f : QFlit) (gs : List QFlit) : f ∈ insertFlit f gs := by
  induction gs with
  | nil => exact List.mem_singleton.2 rfl
  | cons g gs ih =>
    rw [insertFlit]
    split
    · exact List.mem_cons_self
    · exact List.mem_cons_of_mem g ih

/-- A flit that leaves the send queue changes that queue alone. -/
theorem State.leave_eq (s : State) (chip port : Nat) (flit : List Byte) : ∃ sendq, s.leave chip port flit = { s with sendq := sendq } := by
  rw [State.leave]
  split
  · exact ⟨s.sendq, rfl⟩
  · split
    · exact ⟨_, rfl⟩
    · exact ⟨s.sendq, rfl⟩

/-- No flit comes in where there is no such port, no room for it, or no working port behind. -/
theorem exec_flitTraversal_stays (h : 2 ≤ chip ∨ 512 ≤ port ∨ (flitGood flit = true ∧ (s.chip chip).room flit = false)
    ∨ (s.port (portBehind chip port).1 (portBehind chip port).2).works = false) : exec (.flitTraversal chip port flit) s = .next s := by
  refine congrArg Host.Outcome.next (if_pos (h.imp_right (Or.imp_right (Or.imp_left ?_))))
  rintro ⟨hgood, hroom⟩
  rw [hgood, hroom]
  rfl

section
variable {l' : Link} (hchip : chip < 2) (hport : port < 512) (hroom : (s.chip chip).room flit = true)
  (hworks : (s.port (portBehind chip port).1 (portBehind chip port).2).works = true)
  (hpass : (s.link (inLink chip port)).receive flit = (true, l'))
include hchip hport hroom hworks hpass

/-- A flit that its link lets pass. -/
theorem exec_flitTraversal_passes : exec (.flitTraversal chip port flit) s = .next (
    let v := s.setLink (inLink chip port) (fun _ => l')
    let f : QFlit := { buf := flit, stamp := s.gtc, port := port, also := [], counts := true, orig := flit }
    if s.foreign port flit = true then v
    else if ((v.leave chip port flit).slotFor chip f).isSome = true
      then (v.leave chip port flit).setChip chip (fun c => { c with arrivals := insertFlit f c.arrivals })
      else (v.leave chip port flit).enqueueFlit chip f) := by
  have hgo : ¬ (2 ≤ chip ∨ 512 ≤ port ∨ (flitGood flit && !(s.chip chip).room flit) = true
      ∨ (s.port (portBehind chip port).1 (portBehind chip port).2).works = false) := by
    rw [hroom, hworks]
    rintro (h | h | h | h)
    · exact absurd hchip (Nat.not_lt.2 h)
    · exact absurd hport (Nat.not_lt.2 h)
    · rw [Bool.not_true, Bool.and_false] at h
      cases h
    · cases h
  have hforeign : State.foreign (s.setLink (inLink chip port) (fun _ => l')) port flit = s.foreign port flit := rfl
  show execFlitTraversal chip port flit s = _
  rw [execFlitTraversal]
  dsimp only
  rw [if_neg hgo, hpass]
  dsimp only
  rw [Bool.not_true, Bool.false_or, hforeign]
  rfl

/-- A flit that no slot takes is the last of its queue. -/
theorem exec_flitTraversal_queued (hmine : s.foreign port flit = false) (hslot : (((s.setLink (inLink chip port) (fun _ => l')).leave chip port flit).slotFor
      chip { buf := flit, stamp := s.gtc, port := port, also := [], counts := true, orig := flit }) = none) :
    ∃ v : State, exec (.flitTraversal chip port flit) s = .next v ∧ v.mem = s.mem
      ∧ FMap.get? (v.chip chip).voqs (voqKey flit) = some (FMap.getD (s.chip chip).voqs (voqKey flit) []
        ++ [{ buf := flit, stamp := s.gtc, port := port, also := [], counts := true, orig := flit }]) := by
  have hstep := exec_flitTraversal_passes hchip hport hroom hworks hpass
  dsimp only at hstep
  rw [hmine, hslot, if_neg (by decide), if_neg (by decide)] at hstep
  obtain ⟨sendq, hleave⟩ := (s.setLink (inLink chip port) (fun _ => l')).leave_eq chip port flit
  rw [hleave] at hstep
  refine ⟨_, hstep, rfl, ?_⟩
  rw [State.enqueueFlit, State.chip_setChip]
  exact FMap.get?_set_same _ _ _

/-- A flit that a slot takes waits for its run. -/
theorem exec_flitTraversal_arrives (hmine : s.foreign port flit = false) (hslot : (((s.setLink (inLink chip port) (fun _ => l')).leave chip port flit).slotFor
      chip { buf := flit, stamp := s.gtc, port := port, also := [], counts := true, orig := flit }) ≠ none) :
    ∃ v : State, exec (.flitTraversal chip port flit) s = .next v
      ∧ { buf := flit, stamp := s.gtc, port := port, also := [], counts := true, orig := flit } ∈ (v.chip chip).arrivals
      ∧ (v.chip chip).voqs = (s.chip chip).voqs := by
  have hstep := exec_flitTraversal_passes hchip hport hroom hworks hpass
  dsimp only at hstep
  rw [hmine, if_neg (by decide), if_pos (Option.isSome_iff_ne_none.2 hslot)] at hstep
  obtain ⟨sendq, hleave⟩ := (s.setLink (inLink chip port) (fun _ => l')).leave_eq chip port flit
  rw [hleave] at hstep
  refine ⟨_, hstep, ?_⟩
  rw [State.chip_setChip]
  exact ⟨mem_insertFlit _ _, rfl⟩

end

/-! ### The queue that a port serves (R389) -/

/-- The class whose turn it is at a port. -/
def Chip.turnOf (c : Chip) (port : Nat) : Nat := FMap.getD c.turn port 2

/-- What the class whose turn it is may still send. -/
def Chip.deficitOf (c : Chip) (port : Nat) : Nat :=
  FMap.getD c.deficit (port * 4 + c.turnOf port) ((quanta.find? (fun q => q.1 == c.turnOf port)).map Prod.snd |>.getD 0)

/-- The turn passed on. -/
def Chip.pass (c : Chip) (port : Nat) : Chip :=
  { c with
    turn := FMap.set c.turn port (nextClass (c.turnOf port)), deficit := FMap.erase c.deficit (port * 4 + c.turnOf port) }

/-- The turn is the next class's. -/
theorem Chip.turnOf_pass (c : Chip) (port : Nat) : (c.pass port).turnOf port = nextClass (c.turnOf port) :=
  (FMap.getD_set c.turn port _ port 2).trans (if_pos rfl)

/-- The deficits left are those of other classes. -/
theorem Chip.deficit_pass (c : Chip) (port k : Nat) : FMap.get? (c.pass port).deficit k
    = if k = port * 4 + c.turnOf port then none else FMap.get? c.deficit k :=
  FMap.get?_erase c.deficit (port * 4 + c.turnOf port) k

/-- A class is served in its turn, or the turn passes on. -/
theorem pickClass_succ (port : Nat) (has : Nat → Bool) (n : Nat) (c : Chip) : pickClass port has (n + 1) c
    = if (has (c.turnOf port) && decide (0 < c.deficitOf port)) = true
      then some (c.turnOf port, { c with deficit := FMap.set c.deficit (port * 4 + c.turnOf port) (c.deficitOf port - 1) })
      else pickClass port has n (c.pass port) := rfl

/-- The class served has a flit, and the queues stay. -/
theorem pickClass_spec {has : Nat → Bool} {c c' : Chip} {cls : Nat} (h : pickClass port has n c = some (cls, c')) :
    has cls = true ∧ c'.voqs = c.voqs := by
  induction n generalizing c with
  | zero => cases h
  | succ n ih =>
    rw [pickClass_succ] at h
    split at h
    next hgo =>
      cases h
      exact ⟨(Bool.and_eq_true _ _ ▸ hgo).1, rfl⟩
    next => exact ih (c := c.pass port) h

/-- Where none is served the turn has passed on in vain. -/
theorem pickClass_pass_none {has : Nat → Bool} {c : Chip} (h : pickClass port has (n + 1) c = none) :
    pickClass port has n (c.pass port) = none ∧ (has (c.turnOf port) && decide (0 < c.deficitOf port)) = false := by
  rw [pickClass_succ] at h
  split at h
  · cases h
  next hno => exact ⟨h, Bool.eq_false_iff.2 hno⟩

/-- A class whose deficit is fresh is served in its turn. -/
theorem served_of_fresh {has : Nat → Bool} {c : Chip} (hk : c.turnOf port = 1 ∨ c.turnOf port = 2 ∨ c.turnOf port = 3)
    (hhas : has (c.turnOf port) = true) (hfresh : FMap.get? c.deficit (port * 4 + c.turnOf port) = none) :
    (has (c.turnOf port) && decide (0 < c.deficitOf port)) = true := by
  have hquantum : c.deficitOf port = ((quanta.find? (fun q => q.1 == c.turnOf port)).map Prod.snd).getD 0 := by
    rw [Chip.deficitOf, FMap.getD, hfresh, Option.getD_none]
  rw [hhas, hquantum]
  rcases hk with h | h | h <;> rw [h] <;> decide

/-- A class is served before the turn has come to it a second time. -/
theorem pickClass_of_turn {has : Nat → Bool} {c : Chip} (hk : c.turnOf port = 1 ∨ c.turnOf port = 2 ∨ c.turnOf port = 3)
    (hhas : has (c.turnOf port) = true) (n : Nat) : pickClass port has (n + 4) c ≠ none := by
  intro h0
  obtain ⟨h1, -⟩ := pickClass_pass_none h0
  obtain ⟨h2, -⟩ := pickClass_pass_none h1
  obtain ⟨h3, -⟩ := pickClass_pass_none h2
  obtain ⟨-, hno⟩ := pickClass_pass_none h3
  have hround : (((c.pass port).pass port).pass port).turnOf port = c.turnOf port := by
    rw [Chip.turnOf_pass, Chip.turnOf_pass, Chip.turnOf_pass]
    rcases hk with h | h | h <;> rw [h] <;> rfl
  have hfresh : FMap.get? (((c.pass port).pass port).pass port).deficit (port * 4 + c.turnOf port) = none := by
    rw [Chip.deficit_pass, Chip.deficit_pass, Chip.deficit_pass, if_pos rfl, ite_self, ite_self]
  rw [served_of_fresh (hround ▸ hk) (hround.symm ▸ hhas) (hround.symm ▸ hfresh)] at hno
  cases hno

/-- After a turn it is that of class 1, 2 or 3. -/
theorem nextClass_cases (k : Nat) : nextClass k = 1 ∨ nextClass k = 2 ∨ nextClass k = 3 := by
  unfold nextClass
  split
  · exact .inl rfl
  · exact .inr (.inr rfl)
  · exact .inr (.inl rfl)

/-- Some class of 1 to 3 is served where one has a flit. -/
theorem pickClass_seven {has : Nat → Bool} {k : Nat} (hk : k = 1 ∨ k = 2 ∨ k = 3) (hhas : has k = true) (c : Chip) :
    pickClass port has 7 c ≠ none := by
  intro h0
  obtain ⟨h1, -⟩ := pickClass_pass_none h0
  obtain ⟨h2, -⟩ := pickClass_pass_none h1
  obtain ⟨h3, -⟩ := pickClass_pass_none h2
  have hno (j : Nat) (d : Chip) (hd : d.turnOf port = k) (h : pickClass port has (j + 4) d = none) : False :=
    pickClass_of_turn (hd.symm ▸ hk) (hd.symm ▸ hhas) j h
  have hturns : (c.pass port).turnOf port = k ∨ ((c.pass port).pass port).turnOf port = k
      ∨ (((c.pass port).pass port).pass port).turnOf port = k := by
    simp only [Chip.turnOf_pass]
    rcases nextClass_cases (c.turnOf port) with h | h | h <;> rw [h] <;> rcases hk with rfl | rfl | rfl <;> decide
  rcases hturns with h | h | h
  · exact hno 2 _ h h1
  · exact hno 1 _ h h2
  · exact hno 0 _ h h3

/-- The only queue that a port may serve is served next. -/
theorem pickDest_one (last : Option Nat) (x : Nat × QFlit) : pickDest last [x] = some x := by
  cases last with
  | none => rfl
  | some k =>
    rw [pickDest, List.find?_cons]
    split
    · rfl
    · rfl

/-- A port with no queue to serve sends nothing. -/
theorem exec_voqTransmit_none (hnone : s.servable chip port = []) : exec (.voqTransmit chip port) s = .next s := by
  have hstep : exec (.voqTransmit chip port) s = execVoqTransmit chip port s := rfl
  rw [execVoqTransmit, hnone] at hstep
  simp only [List.filter_nil, List.isEmpty_nil, Bool.not_true, Bool.false_eq_true, if_false] at hstep
  cases hpick : pickClass port (fun _ => false) 7 (s.chip chip) with
  | none =>
    rw [hpick] at hstep
    exact hstep
  | some r => exact absurd (pickClass_spec hpick).1 (by decide)

/-- A port with one queue to serve serves it. -/
theorem exec_voqTransmit_one {key : Nat} (hone : s.servable chip port = [(key, f)]) (hclass : key / 4096 < 4) : ∃ w : State,
    exec (.voqTransmit chip port) s = .next (w.sendFlit chip port key f) ∧ (w.chip chip).voqs = (s.chip chip).voqs ∧ w.links = s.links := by
  have hof (cls : Nat) : [(key, f)].filter (fun x => x.1 / 4096 == cls) = if key / 4096 = cls then [(key, f)] else [] := by
    by_cases h : key / 4096 = cls <;> simp [h]
  have hstep : exec (.voqTransmit chip port) s = execVoqTransmit chip port s := rfl
  rw [execVoqTransmit, hone] at hstep
  simp only [hof] at hstep
  by_cases hzero : key / 4096 = 0
  · rw [if_pos hzero, List.isEmpty_cons, Bool.not_false, if_pos rfl, pickDest_one] at hstep
    exact ⟨s, hstep, rfl, rfl⟩
  · rw [if_neg hzero, List.isEmpty_nil, Bool.not_true, if_neg (by decide)] at hstep
    cases hpick : pickClass port (fun cls => !(if key / 4096 = cls then [(key, f)] else []).isEmpty) 7 (s.chip chip) with
    | none => exact absurd hpick (pickClass_seven (k := key / 4096) (by omega) (by rw [if_pos rfl]; rfl) (s.chip chip))
    | some r =>
      obtain ⟨cls, c⟩ := r
      obtain ⟨hhas, hvoqs⟩ := pickClass_spec hpick
      have hcls : key / 4096 = cls := by
        by_contra hne
        rw [if_neg hne] at hhas
        cases hhas
      rw [hpick] at hstep
      dsimp only at hstep
      rw [if_pos hcls, pickDest_one] at hstep
      exact ⟨s.setChip chip (fun _ => c), hstep, by rw [State.chip_setChip]; exact hvoqs, rfl⟩

/-- A flit sent under a SEQ, its CRC computed afresh (R380). -/
def QFlit.sent (f : QFlit) (seq : Nat) : QFlit := { f with buf := sealFlit (f.buf.take 8 ++ bytesOf 4 seq ++ f.buf.drop 12) }

/-- What a flit sent leaves (R389): its queue without it, and the link with it, sealed under the link's next SEQ. -/
theorem State.sendFlit_spec (w : State) (chip port : Nat) {key : Nat} (hq : FMap.get? (w.chip chip).voqs key = some [f]) :
    FMap.get? ((w.sendFlit chip port key f).chip chip).voqs key = some []
      ∧ (w.sendFlit chip port key f).link (outLink chip port) = { w.link (outLink chip port) with
        seq := ((w.link (outLink chip port)).seq + 1) % 2 ^ 32,
        unacked := (w.link (outLink chip port)).unacked
          ++ [f.sent (w.link (outLink chip port)).seq] } := by
  rw [State.sendFlit]
  dsimp only
  constructor
  · have hchip := congrArg Chip.voqs (State.chip_setChip w chip (fun c => { c with
      voqs := FMap.modify c.voqs key List.tail, lastTx := FMap.set c.lastTx key port, last := FMap.set c.last (port * 4 + key / 4096) key }))
    have htail := FMap.get?_modify (w.chip chip).voqs key List.tail key
    rw [if_pos rfl, hq] at htail
    exact (congrArg (fun m => FMap.get? m key) hchip).trans htail
  · rw [State.link_setLink, if_pos rfl]
    rfl

/-! ### Circuits and Ultra Ethernet (R385, R396) -/

/-- A circuit that lights lets the paths of the package's only team go on. -/
theorem exec_circuitLit_one {t : Timetable} {pkg : Nat} (hforce : s.inForce = some t) (hlit : t.lit s.gtc pkg = true) (hothers : s.others = [])
    (hrun : s.cur.status = .running) (hhalt : s.halted s.cur.ctx = false) (huser : s.cur.userWork = none) :
    exec (.circuitLit pkg) s = .next s.lightPaths := by
  have hthere : ¬ s.cur.status = .absent := by
    rw [hrun]
    decide
  have hteams : s.teams.filter (fun t => t.status == .running && !s.halted t.ctx) = [s.cur] := by
    rw [State.teams, if_neg hthere, hothers, List.filter_cons, hrun, hhalt]
    rfl
  show execCircuitLit pkg s = _
  rw [execCircuitLit, hforce]
  dsimp only
  have honly (f : State → State) : s.onTeam s.cur.uid f = f s := if_pos ⟨rfl, hthere⟩
  rw [hlit, hteams, List.foldl_cons, List.foldl_nil, honly, huser]
  rfl

section
variable {a : Nat}

/-- An atomic of Ultra Ethernet fails off an 8-byte boundary. -/
theorem State.ueAtomic_of_unaligned (op ctx : Nat) (data : List Byte) (g : Nat → Option Nat) (h : a % 8 ≠ 0) :
    s.ueAtomic op ctx a data g = s.ueAnswer true [] := by
  rw [State.ueAtomic, decide_eq_false h, Bool.false_and, if_neg (by decide), if_neg h]

variable (op ctx : Nat) (data : List Byte) (g : Nat → Option Nat) (h : a % 8 = 0)
include h

/-- It is sent on to another package of the domain. -/
theorem State.ueAtomic_of_away (hoff : s.ueAway a = true) : s.ueAtomic op ctx a data g = s.ueSend op ctx a 8 data := by
  rw [State.ueAtomic, decide_eq_true h, hoff]
  rfl

/-- It fails where its target does. -/
theorem State.ueAtomic_of_none (hoff : s.ueAway a = false) (hnone : s.ueTarget ctx a 8 .atomic = none) :
    s.ueAtomic op ctx a data g = s.ueAnswer true [] := by
  rw [State.ueAtomic, hoff, Bool.and_false, if_neg (by decide), if_pos h, hnone]

/-- It answers the value it found. -/
theorem State.ueAtomic_of_some {xs : List Spot} (hoff : s.ueAway a = false) (hsome : s.ueTarget ctx a 8 .atomic = some xs) :
    s.ueAtomic op ctx a data g = State.ueAnswer ((g (natOf (readSpots xs s).1)).elim (readSpots xs s).2
      (fun x => writeSpots [] xs (bytesOf 8 x) (readSpots xs s).2)) false (readSpots xs s).1 := by
  rw [State.ueAtomic, hoff, Bool.and_false, if_neg (by decide), if_pos h, hsome]
  dsimp only
  cases g (natOf (readSpots xs s).1) <;> rfl

end

/-- An operation is answered with an error where there is no such connection, or it is too long. -/
theorem exec_inboundUe_of_none {op : UeOp} (h : FMap.get? s.ue (sett * 65536 + port) = none ∨ 65536 ≤ port ∨ 2 ^ 32 ≤ ueSize op) :
    exec (.inboundUeOperation { sett := sett, endpoint := port, op := op }) s = .next (s.ueAnswer true []) := by
  refine congrArg Host.Outcome.next (if_pos ?_)
  rcases h with h | h | h
  · rw [h, Option.isNone_none, Bool.true_or, Bool.true_or]
  · rw [decide_eq_true h, Bool.or_true, Bool.true_or]
  · rw [decide_eq_true h, Bool.or_true]

section
variable (hconn : FMap.get? s.ue (sett * 65536 + port) ≠ none) (hport : port < 65536)
include hconn hport

/-- The test of a connection. -/
theorem ueOpen {op : UeOp} (hsize : ueSize op < 2 ^ 32) :
    ¬ (((FMap.get? s.ue (sett * 65536 + port)).isNone || decide (65536 ≤ port) || decide (2 ^ 32 ≤ ueSize op)) = true) := by
  rw [decide_eq_false (Nat.not_le.2 hport), decide_eq_false (Nat.not_le.2 hsize), Bool.or_false, Bool.or_false, Option.isNone_iff_eq_none]
  exact hconn

variable {ctx : Nat} {a : Word}

theorem exec_ueSend {at_ : Option Word} {bs : List Byte} (hsize : bs.length < 2 ^ 32) :
    exec (.inboundUeOperation { sett := sett, endpoint := port, op := .send ctx at_ bs }) s = .next (s.ueAnswer false bs) :=
  congrArg Host.Outcome.next (if_neg (ueOpen hconn hport (op := .send ctx at_ bs) hsize))

theorem exec_ueWrite {bs : List Byte} (hsize : bs.length < 2 ^ 32) :
    exec (.inboundUeOperation { sett := sett, endpoint := port, op := .write ctx a bs }) s = .next (
      if s.ueAway a.toNat then s.ueSend 2 ctx a.toNat bs.length bs
      else (s.ueTarget ctx a.toNat bs.length .store).elim (s.ueAnswer true []) (fun xs => (writeSpots [] xs bs s).ueAnswer false [])) := by
  refine congrArg Host.Outcome.next ((if_neg (ueOpen hconn hport (op := .write ctx a bs) hsize)).trans ?_)
  dsimp only
  cases s.ueTarget ctx a.toNat bs.length .store <;> rfl

theorem exec_ueRead {k : Nat} (hsize : k < 2 ^ 32) :
    exec (.inboundUeOperation { sett := sett, endpoint := port, op := .read ctx a k }) s = .next (
      if s.ueAway a.toNat then s.ueSend 1 ctx a.toNat k []
      else (s.ueTarget ctx a.toNat k .load).elim (s.ueAnswer true [])
        (fun xs => State.ueAnswer (readSpots xs s).2 false (readSpots xs s).1)) := by
  refine congrArg Host.Outcome.next ((if_neg (ueOpen hconn hport (op := .read ctx a k) hsize)).trans ?_)
  dsimp only
  cases s.ueTarget ctx a.toNat k .load <;> rfl

theorem exec_ueFetchAdd {x : Word} : exec (.inboundUeOperation { sett := sett, endpoint := port, op := .fetchAdd ctx a x }) s
    = .next (s.ueAtomic 3 ctx a.toNat (bytesOf 8 x.toNat) (fun o => some ((o + x.toNat) % 2 ^ 64))) :=
  congrArg Host.Outcome.next (if_neg (ueOpen hconn hport (op := .fetchAdd ctx a x) (show 8 < 2 ^ 32 by decide)))

theorem exec_ueCompareSwap {e x : Word} : exec (.inboundUeOperation { sett := sett, endpoint := port, op := .compareSwap ctx a e x }) s
    = .next (s.ueAtomic 4 ctx a.toNat (bytesOf 8 e.toNat ++ bytesOf 8 x.toNat) (fun o => if o = e.toNat then some x.toNat else none)) :=
  congrArg Host.Outcome.next (if_neg (ueOpen hconn hport (op := .compareSwap ctx a e x) (show 8 < 2 ^ 32 by decide)))

end

end Sys2Proof.Machine
end

section
open Sys2Proof Sys2Proof.Machine

/-- Settles O53: links by what they let pass, ports by the end of their training, flits by the queue or the slot that takes them, the
service of one queue by the turn of its class, and each operation of Ultra Ethernet by its target. -/
theorem linksAndFlits : Obligations.LinksAndFlits := by
  unfold Obligations.LinksAndFlits
  intro s n chip port sett tag rate mask pkg key fabric flit f l' r ctx a x e bs xs mode t op
  dsimp only
  refine ⟨exec_linkLossOfLock_spec.1, exec_linkLossOfLock_spec.2, exec_linkDown_spec.1, exec_linkDown_spec.2, s.dropLink_spec n,
    fun p l' h => Link.receive_spec h, exec_linkFlitReceived_none, fun hsome hpass hport hn => ?_, fun hsome hpass hout => ?_,
    s.deliverFlit_spec f, exec_retrainRequest_stays, fun hrate hmask hlive => ?_, fun hidle => ?_, fun r m k htrain => ?_,
    fun hfind => ?_, ⟨exec_flitTraversal_stays, fun hchip hport hroom hworks hpass => ⟨fun hforeign => ?_,
      exec_flitTraversal_queued hchip hport hroom hworks hpass, exec_flitTraversal_arrives hchip hport hroom hworks hpass⟩⟩,
    fun hnone => ?_, fun hone hclass hq => ?_, fun c hlen => ⟨flitGood_sealFlit c hlen, ?_⟩, fun hno => ?_, fun hforce hdark => ?_,
    fun hforce hlit hothers hrun hhalt huser => exec_circuitLit_one hforce hlit hothers hrun hhalt huser,
    fun hbad => congrArg Host.Outcome.next (if_pos hbad), fun hsett hport hmode => congrArg Host.Outcome.next (if_neg ?_),
    exec_inboundUe_of_none, fun hconn hport hbs hpkg => ?_⟩
  · refine (exec_linkFlitReceived_passes hsome hpass).trans (congrArg Host.Outcome.next (if_pos ?_))
    rw [decide_eq_true hport, decide_eq_true hn]
    rfl
  · refine (exec_linkFlitReceived_passes hsome hpass).trans (congrArg Host.Outcome.next (if_neg ?_))
    rw [Bool.and_eq_true, decide_eq_true_iff, decide_eq_true_iff]
    omega
  · refine ⟨_, _, exec_retrainRequest_asks hrate hmask hlive, State.port_setPort _ _ _ _, fun h => ?_, fun r m k h hfew => ?_, fun r m k h hmany => ?_⟩
    · rw [Port.asked, h]
    · rw [Port.asked, h]
      exact if_pos hfew
    · rw [Port.asked, h]
      exact if_neg (Nat.not_lt.2 hmany)
  · show execRetrainComplete sett port rate mask fabric s = _
    rw [execRetrainComplete]
    dsimp only
    rw [hidle]
  · have hbad : s.trainingBad (min rate r) (mask &&& m &&& s.goodLanes sett port) fabric k = true
        ↔ trainingFails (min rate r) (mask &&& m &&& s.goodLanes sett port) fabric = true ∨ k + 20000 < s.gtc := by
      rw [State.trainingBad, Bool.or_eq_true, decide_eq_true_iff, trainTicks]
    cases hfails : s.trainingBad (min rate r) (mask &&& m &&& s.goodLanes sett port) fabric k with
    | false =>
      obtain ⟨u, hstep, hmem, hport⟩ := exec_retrainComplete_good htrain rfl rfl hfails
      have hgood (h : trainingFails (min rate r) (mask &&& m &&& s.goodLanes sett port) fabric = true ∨ k + 20000 < s.gtc) : False :=
        Bool.eq_false_iff.1 hfails (hbad.2 h)
      refine ⟨u, hstep, hmem, fun _ hnone => ?_, fun h => (hgood h).elim, fun h => (hgood h).elim⟩
      rw [hport, Port.trained, hnone]
      rfl
    | true =>
      obtain ⟨u, hstep, hmem, hport, hdefect⟩ := exec_retrainComplete_bad htrain rfl rfl hfails
      refine ⟨u, hstep, hmem, fun h => absurd (hbad.1 hfails) h, fun _ => ?_, fun _ => hdefect⟩
      rw [hport, Port.trained]
      exact ⟨rfl, rfl⟩
  · have hstep := exec_deliveryTimeout_eq hfind
    refine ⟨fun haway hsoon => ?_, fun haway hlate => ?_, fun hown hno => ?_, fun hown hlate hchecks hdone => ?_⟩
    · rw [if_neg haway, if_neg (Bool.eq_false_iff.1 hsoon)] at hstep
      exact hstep
    · rw [if_neg haway, if_pos hlate] at hstep
      exact hstep
    · rw [if_pos hown, if_neg (fun h => ?_)] at hstep
      · exact hstep
      · obtain ⟨hlate, hchecks, hdone⟩ := (undelivered_iff s r).1 h
        rcases hno with h | h | h
        · exact absurd hlate (Nat.not_le.2 h)
        · exact h hchecks
        · exact h hdone
    · rw [if_pos hown, if_pos ((undelivered_iff s r).2 ⟨hlate, hchecks, hdone⟩)] at hstep
      exact hstep
  · exact (exec_flitTraversal_passes hchip hport hroom hworks hpass).trans (congrArg Host.Outcome.next (if_pos hforeign))
  · exact exec_voqTransmit_none hnone
  · obtain ⟨w, hstep, hvoqs, hlinks⟩ := exec_voqTransmit_one hone hclass
    rw [← hvoqs] at hq
    obtain ⟨hempty, hlink⟩ := w.sendFlit_spec chip port hq
    have hsame : w.link (outLink chip port) = s.link (outLink chip port) := by
      rw [State.link, hlinks, State.link]
    rw [hsame] at hlink
    refine ⟨_, f.sent (s.link (outLink chip port)).seq, hstep, hempty, ?_⟩
    rw [hlink]
    exact ⟨rfl, rfl, rfl, rfl, rfl⟩
  · rw [sealFlit, List.take_left' (by simp [hlen])]
  · show execCircuitLit pkg s = _
    rw [execCircuitLit, hno]
  · show execCircuitLit pkg s = _
    rw [execCircuitLit, hforce]
    dsimp only
    rw [hdark]
    rfl
  · rintro (h | h | h)
    · exact absurd hsett (Nat.not_lt.2 h)
    · exact absurd hport (Nat.not_lt.2 h)
    · exact hmode h
  · have hsend (at_ : Option Word) := exec_ueSend (ctx := ctx) (at_ := at_) hconn hport hbs
    have hwrite := exec_ueWrite (ctx := ctx) (a := a) hconn hport hbs
    have hread := exec_ueRead (ctx := ctx) (a := a) hconn hport hpkg
    have hadd := exec_ueFetchAdd (ctx := ctx) (a := a) (x := x) hconn hport
    have hswap := exec_ueCompareSwap (ctx := ctx) (a := a) (e := e) (x := x) hconn hport
    refine ⟨hsend _, hsend _, fun hoff => ⟨?_, ?_⟩, fun hoff hnone => ?_, fun hoff hsome => ?_, fun hoff hnone => ?_, fun hoff hsome => ?_,
      fun hodd => ⟨?_, ?_⟩, fun hat hoff => ⟨?_, ?_⟩, fun hat hoff hnone => ⟨?_, ?_⟩, fun hat hoff hsome => ⟨?_, fun hsame => ?_, fun hdiff => ?_⟩⟩
    · exact hwrite.trans (congrArg Host.Outcome.next (if_pos hoff))
    · exact hread.trans (congrArg Host.Outcome.next (if_pos hoff))
    · rw [hoff, hnone] at hwrite
      exact hwrite
    · rw [hoff, hsome] at hwrite
      exact hwrite
    · rw [hoff, hnone] at hread
      exact hread
    · rw [hoff, hsome] at hread
      exact hread
    · exact hadd.trans (congrArg Host.Outcome.next (State.ueAtomic_of_unaligned _ _ _ _ hodd))
    · exact hswap.trans (congrArg Host.Outcome.next (State.ueAtomic_of_unaligned _ _ _ _ hodd))
    · exact hadd.trans (congrArg Host.Outcome.next (State.ueAtomic_of_away _ _ _ _ hat hoff))
    · exact hswap.trans (congrArg Host.Outcome.next (State.ueAtomic_of_away _ _ _ _ hat hoff))
    · exact hadd.trans (congrArg Host.Outcome.next (State.ueAtomic_of_none _ _ _ _ hat hoff hnone))
    · exact hswap.trans (congrArg Host.Outcome.next (State.ueAtomic_of_none _ _ _ _ hat hoff hnone))
    · exact hadd.trans (congrArg Host.Outcome.next (State.ueAtomic_of_some _ _ _ _ hat hoff hsome))
    · rw [State.ueAtomic_of_some _ _ _ _ hat hoff hsome, if_pos hsame] at hswap
      exact hswap
    · rw [State.ueAtomic_of_some _ _ _ _ hat hoff hsome, if_neg hdiff] at hswap
      exact hswap

end

section
/-!
SUPPORT. The timetable and Sumac (R391 to R393, R397, R398, R402 to R410): where a run goes on, what an instruction that does not end
it leaves, flows, traps, and the ends of runs.
-/

namespace Sys2Proof.Machine

variable {s : State} {x : Slot} {chip slot : Nat}

/-! ### Where a run goes on (R408) -/

/-- At the end of a REPEAT body the run goes to its head, or past it; elsewhere where it is told. -/
theorem Run.goTo_spec (z : Run) (m : Nat) : (z.rep = Option.none → z.goTo m = { z with pc := m })
    ∧ ∀ first last left, z.rep = some (first, last, left) → (z.pc ≠ last → z.goTo m = { z with pc := m })
      ∧ (z.pc = last → 1 < left → z.goTo m = { z with pc := first, rep := some (first, last, left - 1) })
      ∧ (z.pc = last → left ≤ 1 → z.goTo m = { z with pc := last + 1, rep := Option.none }) := by
  refine ⟨fun h => ?_, fun first last left h => ⟨fun hpc => ?_, fun hpc hmore => ?_, fun hpc hlast => ?_⟩⟩ <;> rw [Run.goTo, h]
  · exact if_neg hpc
  · exact (if_pos hpc).trans (if_pos hmore)
  · exact (if_pos hpc).trans (if_neg (Nat.not_lt.2 hlast))

/-- The state in which an instruction that makes `v` of the run goes on. -/
def State.nowRun (s : State) (v : Run) : State := { s with run := v.goTo (s.run.pc + 1) }

/-- An instruction that does not end the run changes the run alone. -/
theorem runStep_of_active (h : s.run.active = true) (f : Run → Run) : s.runStep f = .next { s with run := (f s.run).goTo (s.run.pc + 1) } :=
  congrArg Host.Outcome.next (if_pos h)

/-- What a condition of XCMP says of two words (R407). -/
def xcondHolds (k : XCond) (a y : Word32) : Prop :=
  match k with
  | .eq => a = y
  | .ne => a ≠ y
  | .lt => a.toInt < y.toInt
  | .ge => y.toInt ≤ a.toInt
  | .ltn => a.toNat < y.toNat
  | .gen => y.toNat ≤ a.toNat

theorem xHolds_iff (k : XCond) (a y : Word32) : xHolds k a y = true ↔ xcondHolds k a y := by
  cases k with
  | eq => exact beq_iff_eq
  | ne => exact bne_iff_ne
  | lt => exact BitVec.slt_iff_toInt_lt
  | ge => rw [xHolds, Bool.not_eq_true', ← Bool.not_eq_true, BitVec.slt_iff_toInt_lt, Int.not_lt, xcondHolds]
  | ltn => exact BitVec.ult_iff_toNat_lt
  | gen => rw [xHolds, Bool.not_eq_true', ← Bool.not_eq_true, BitVec.ult_iff_toNat_lt, Nat.not_lt, xcondHolds]

/-- XLI.U writes the high half and keeps the low one (R408). -/
theorem highHalf_eq (i : BitVec 16) (v : Word32) : i ++ v.extractLsb' 0 16 = BitVec.ofNat 32 (i.toNat * 65536 + v.toNat % 65536) := by
  refine BitVec.eq_of_toNat_eq ?_
  have hlow : v.toNat % 2 ^ 16 < 2 ^ 16 := Nat.mod_lt _ (by decide)
  have hi := i.isLt
  rw [BitVec.toNat_append, BitVec.extractLsb'_toNat, BitVec.toNat_ofNat, Nat.shiftRight_zero, ← Nat.shiftLeft_add_eq_or_of_lt hlow,
    Nat.shiftLeft_eq]
  omega

/-! ### Slots and their records (R397, R398, R406) -/

/-- A slot read back after it is changed. -/
theorem State.slot_setSlot {f : Slot → Slot} (h : FMap.get? (s.chip chip).slots slot = some x) :
    FMap.get? ((s.setSlot chip slot f).chip chip).slots slot = some (f x) := by
  rw [State.setSlot, State.chip_setChip]
  dsimp only
  rw [FMap.get?_modify, if_pos rfl, h, Option.map_some]

/-- A flit queued leaves the slots alone. -/
theorem State.slots_enqueueFlit (s : State) (c chip : Nat) (f : QFlit) : ((s.enqueueFlit c f).chip chip).slots = (s.chip chip).slots := by
  by_cases h : chip = c
  · subst h
    rw [State.enqueueFlit, State.chip_setChip]
  · have hother := FMap.getD_set s.chips c { s.chip c with
      voqs := FMap.set (s.chip c).voqs (voqKey f.buf) (FMap.getD (s.chip c).voqs (voqKey f.buf) [] ++ [f]) } chip Chip.init
    rw [if_neg h] at hother
    exact congrArg Chip.slots hother

/-- A record counted in its slot. -/
def Slot.recorded (x : Slot) : Slot := { x with records := x.records + 1 }

/-- A record of a slot is counted in the slot and sent (R406). -/
theorem State.slotRecord_eq (hx : FMap.get? (s.chip chip).slots slot = some x) (cause pc arg : Nat) (flit : List Byte) :
    ∃ setts transit outbox, s.slotRecord chip slot cause pc arg flit = { s.setSlot chip slot Slot.recorded with
      setts := setts, transit := transit, outbox := outbox } := by
  obtain ⟨setts, transit, outbox, hsend, -⟩ := (s.setSlot chip slot Slot.recorded).sendCtl_eq (48 + chip) s.ownPkg (bitsNat x.tqbase.toNat 53 48)
    (.record x.ctx (x.tqbase + BitVec.ofNat 64 (32 * (x.records % 2 ^ x.tqlog2)))
      (bytesOf 1 cause ++ bytesOf 1 x.slotByte ++ bytesOf 2 pc ++ bytesOf 2 arg ++ bytesOf 1 x.flags.toNat ++ bytesOf 1 0
        ++ bytesOf 8 s.gtc ++ (flit.drop 16).take 16) x.tqctr)
  refine ⟨setts, transit, outbox, ?_⟩
  rw [State.slotRecord, hx]
  exact hsend

/-- Records of held packets change no memory. -/
theorem State.slotRecord_mem (s : State) (chip slot cause pc arg : Nat) (flit : List Byte) :
    (s.slotRecord chip slot cause pc arg flit).mem = s.mem := by
  cases hx : FMap.get? (s.chip chip).slots slot with
  | none => rw [State.slotRecord, hx]
  | some x =>
    obtain ⟨_, _, _, h⟩ := State.slotRecord_eq hx cause pc arg flit
    rw [h]
    rfl

/-- A slot does not unload before its time, or while a run of it is in progress. -/
theorem exec_slotUnload_stays (hx : FMap.get? (s.chip chip).slots slot = some x)
    (h : x.unloadAt = none ∨ (∃ m, x.unloadAt = some m ∧ s.gtc < m) ∨ s.slotBusy chip slot = true) :
    exec (.slotUnloadTakesEffect chip slot) s = .next s := by
  show execSlotUnloadTakesEffect chip slot s = _
  rw [execSlotUnloadTakesEffect, hx]
  refine congrArg Host.Outcome.next (if_pos ?_)
  rcases h with h | ⟨m, h, hm⟩ | h
  · rw [h, Bool.not_false, Bool.true_or]
  · rw [h]
    dsimp only
    rw [decide_eq_false (Nat.not_le.2 hm), Bool.not_false, Bool.true_or]
  · rw [h, Bool.or_true]

/-- The packets that a slot holds, each with its record (R398). -/
def State.recordHeld (s : State) (chip slot : Nat) (hs : FMap QFlit) : State :=
  hs.foldl (fun s h => s.slotRecord chip slot 4 0 0 h.2.orig) s

theorem State.recordHeld_mem (s : State) (chip slot : Nat) (hs : FMap QFlit) : (s.recordHeld chip slot hs).mem = s.mem := by
  rw [State.recordHeld]
  induction hs generalizing s with
  | nil => rfl
  | cons h hs ih => rw [List.foldl_cons, ih, State.slotRecord_mem]

/-- A slot that unloads is gone; its held packets leave records. -/
theorem exec_slotUnload_unloads {m : Nat} (hx : FMap.get? (s.chip chip).slots slot = some x) (hat : x.unloadAt = some m) (hm : m ≤ s.gtc)
    (hidle : s.slotBusy chip slot = false) : ∃ v : State, exec (.slotUnloadTakesEffect chip slot) s = .next v
      ∧ FMap.get? (v.chip chip).slots slot = none ∧ v.mem = s.mem := by
  have hgo : ¬ ((!decide (m ≤ s.gtc) || s.slotBusy chip slot) = true) := by
    rw [decide_eq_true hm, hidle]
    decide
  refine ⟨(s.recordHeld chip slot x.holds).setChip chip (fun c => { c with slots := FMap.erase c.slots slot }), ?_, ?_,
    s.recordHeld_mem chip slot x.holds⟩
  · show execSlotUnloadTakesEffect chip slot s = _
    rw [execSlotUnloadTakesEffect, hx]
    dsimp only
    rw [hat]
    exact congrArg Host.Outcome.next (if_neg hgo)
  · rw [State.chip_setChip]
    dsimp only
    rw [FMap.get?_erase, if_pos rfl]

/-! ### Flows, traps and flags of a run (R406, R408, R410) -/

section
variable (hx : s.runSlot = some x)
include hx

/-- A trap ends the run with a record in its slot (R404, R406). -/
theorem State.runTrap_spec (hroom : x.policy ≠ 1 ∨ s.runRoom [s.run.orig.buf] = true) (cause arg : Nat) :
    (s.runTrap cause arg).run = Run.none ∧ (s.runTrap cause arg).mem = s.mem
      ∧ ∃ z, FMap.get? ((s.runTrap cause arg).chip s.run.chip).slots s.run.slot = some z ∧ z.records = x.records + 1 := by
  have hgo : ¬ ((x.policy = 1 && !s.runRoom [s.run.orig.buf]) = true) := by
    rw [Bool.and_eq_true, decide_eq_true_iff, Bool.not_eq_true']
    rintro ⟨hpolicy, hfull⟩
    rcases hroom with h | h
    · exact h hpolicy
    · rw [hfull] at h
      cases h
  have hrecorded := State.slot_setSlot (f := Slot.recorded) hx
  obtain ⟨setts, transit, outbox, hrec⟩ := State.slotRecord_eq hx cause s.run.pc arg s.run.orig.buf
  rw [State.runTrap, hx]
  dsimp only
  rw [if_neg hgo, State.endRun, hrec]
  by_cases hpolicy : x.policy = 1
  · rw [if_pos hpolicy]
    refine ⟨rfl, rfl, x.recorded, ?_, rfl⟩
    exact (congrArg (fun m => FMap.get? m s.run.slot) (State.slots_enqueueFlit _ _ _ _)).trans hrecorded
  · rw [if_neg hpolicy]
    exact ⟨rfl, rfl, _, hrecorded, rfl⟩

/-- The flags and the count of elements of an instruction change slot and account. -/
theorem State.runFlags_eq (fl : Flags5) (n : Nat) : ∃ ctxs, s.runFlags fl n = { s.setSlot s.run.chip s.run.slot (fun x => { x with
    flags := x.flags ||| fl }) with ctxs := ctxs } := by
  rw [State.runFlags, hx]
  exact ⟨_, rfl⟩

variable (hrun : s.run.active = true)
include hrun

/-- A flow number out of range traps (R408). -/
theorem State.withFlow_of_range {f : BitVec 3} (k : Slot → Nat → State → State) (hf : x.flows ≤ (s.run.xGet f).toNat) :
    s.withFlow f k = s.runTrap 1 ((s.run.xGet f).toNat % 2 ^ 16) := by
  rw [State.withFlow, hx]
  dsimp only
  rw [hrun, if_neg (by decide), if_pos hf]

/-- A flow in range is used. -/
theorem State.withFlow_of_flow {f : BitVec 3} (k : Slot → Nat → State → State) (hf : (s.run.xGet f).toNat < x.flows) :
    s.withFlow f k = k x (s.run.xGet f).toNat s := by
  rw [State.withFlow, hx]
  dsimp only
  rw [hrun, if_neg (by decide), if_neg (Nat.not_le.2 hf)]

/-- The instructions that name a flow trap where it is out of range. -/
theorem exec_flow_range {f : BitVec 3} {d a : BitVec 4} {w : BitVec 3} {n : BitVec 7} (hf : x.flows ≤ (s.run.xGet f).toNat) (j : Instr)
    (hj : j ∈ [Instr.ldpH d f w, .ldf d f n, .stf a f n, .fwdC f, .dropC f, .hold f]) :
    exec j s = .next (s.runTrap 1 ((s.run.xGet f).toNat % 2 ^ 16)) := by
  have htrap (k : Slot → Nat → State → State) : (.next (s.withFlow f k) : Out) = .next (s.runTrap 1 ((s.run.xGet f).toNat % 2 ^ 16)) :=
    congrArg Host.Outcome.next (State.withFlow_of_range hx hrun k hf)
  simp only [List.mem_cons, List.not_mem_nil, or_false] at hj
  rcases hj with rfl | rfl | rfl | rfl | rfl | rfl
  · exact htrap _
  · exact htrap _
  · exact htrap _
  · exact htrap _
  · exact htrap _
  · exact htrap _

/-- KCVT leaves its word in the run (R410). -/
theorem exec_kcvt_spec {d a : BitVec 4} {dt st : KFmt} {part : BitVec 2} : ∃ v : State, exec (.kcvt d a dt st part) s = .next v
    ∧ v.run = (s.run.kPut d (kcvtWord dt st part.toNat (s.run.kGet d) (s.run.kGet a)).1).goTo (s.run.pc + 1) ∧ v.mem = s.mem := by
  obtain ⟨ctxs, hflags⟩ := State.runFlags_eq hx (kcvtWord dt st part.toNat (s.run.kGet d) (s.run.kGet a)).2
    (32 / max (kFmtBytes dt) (kFmtBytes st))
  have hstep : exec (.kcvt d a dt st part) s = .next (State.setRun (s.runFlags (kcvtWord dt st part.toNat (s.run.kGet d) (s.run.kGet a)).2
      (32 / max (kFmtBytes dt) (kFmtBytes st))) (fun r => (r.kPut d (kcvtWord dt st part.toNat (s.run.kGet d) (s.run.kGet a)).1).goTo (r.pc + 1))) := by
    show execKcvt d a dt st part s = _
    rw [execKcvt, hrun]
    rfl
  rw [hflags] at hstep
  exact ⟨_, hstep, rfl, rfl⟩

end

/-- The elements of KADD, KMAX and KMIN with their flags. -/
def Run.reduced (r : Run) (rop : Nat) (a b : BitVec 4) (y : KType) : List (Nat × Flags5) :=
  ((wordElems (fmtBytes (kTypeFmt y)) (r.kGet a)).zip (wordElems (fmtBytes (kTypeFmt y)) (r.kGet b))).map
    (fun z => reduceElem rop (kTypeFmt y) z.1 z.2)

/-- KADD, KMAX and KMIN leave their elements in the run and their flags in the slot (R410). -/
theorem runReduce_spec (hx : s.runSlot = some x) (hrun : s.run.active = true) (rop : Nat) (d a b : BitVec 4) (y : KType) :
    ∃ v : State, s.runReduce rop d a b y = .next v
      ∧ v.run = (s.run.kPut d (elemsWord (fmtBytes (kTypeFmt y)) ((s.run.reduced rop a b y).map Prod.fst))).goTo (s.run.pc + 1) ∧ v.mem = s.mem
      ∧ ∃ z, FMap.get? (v.chip s.run.chip).slots s.run.slot = some z ∧ ∀ m : Nat, z.flags.getLsbD m = true ↔ x.flags.getLsbD m = true
        ∨ ∃ e ∈ s.run.reduced rop a b y, e.2.getLsbD m = true := by
  obtain ⟨ctxs, hflags⟩ := State.runFlags_eq hx ((s.run.reduced rop a b y).foldl (fun (acc : Flags5) r => acc ||| r.2) 0)
    (s.run.reduced rop a b y).length
  have hstep : s.runReduce rop d a b y = .next (State.setRun (s.runFlags ((s.run.reduced rop a b y).foldl (fun (acc : Flags5) r => acc ||| r.2) 0)
      (s.run.reduced rop a b y).length) (fun r => (r.kPut d (elemsWord (fmtBytes (kTypeFmt y)) ((s.run.reduced rop a b y).map Prod.fst))).goTo
        (r.pc + 1))) := by
    rw [State.runReduce, hrun]
    rfl
  rw [hflags] at hstep
  refine ⟨_, hstep, rfl, rfl, _, State.slot_setSlot hx, fun m => ?_⟩
  rw [BitVec.getLsbD_or, Bool.or_eq_true, getLsbD_foldl_or Prod.snd]
  simp

/-! ### The ends of runs (R388, R404) -/

/-- FWD of a buffer that may go where it is addressed waits for room, and then ends the run. -/
theorem State.runForward_spec (merged : List Nat) (k : State → State) :
    (x.mayGo s.run.buf (flitDstPkg s.run.buf) (flitDstSett s.run.buf) = false → s.runForward x merged k = s.runTrap 2 0)
      ∧ (x.mayGo s.run.buf (flitDstPkg s.run.buf) (flitDstSett s.run.buf) = true → ¬ s.runRoom (s.run.emits ++ [s.run.buf]) = true →
          s.runForward x merged k = s)
      ∧ (x.mayGo s.run.buf (flitDstPkg s.run.buf) (flitDstSett s.run.buf) = true → s.runRoom (s.run.emits ++ [s.run.buf]) = true →
          s.runForward x merged k = { k (s.runLeaves.enqueueFlit s.run.chip { s.run.orig with
            buf := s.run.buf, also := s.run.orig.also ++ merged }) with run := Run.none }) := by
  rw [State.runForward]
  refine ⟨fun h => ?_, fun h hfull => ?_, fun h hroom => ?_⟩
  · rw [h]
    rfl
  · rw [h, Bool.not_true, if_neg (by decide), Bool.eq_false_iff.2 hfull]
    rfl
  · rw [h, Bool.not_true, if_neg (by decide), hroom]
    rfl

/-! ### Instructions by their cases (R404, R408) -/

/-- What waits for room does not wait where there is. -/
theorem not_full {b : Bool} (h : b = true) : ¬ ((!b) = true) := by
  rw [h]
  decide

theorem full_of_not {b : Bool} (h : ¬ b = true) : (!b) = true := by
  rw [Bool.eq_false_iff.2 h]
  rfl

/-- BRF goes on where its condition does not hold. -/
theorem exec_brf_of_active (hrun : s.run.active = true) (u : Bool) (o : BitVec 10) : exec (.brf u o) s = .next (if s.run.f = u
    then { s with run := s.run.goTo (s.run.pc + 1) } else { s with run := { s.run with pc := s.run.pc + o.toNat } }) := by
  refine congrArg Host.Outcome.next ((if_pos hrun).trans ?_)
  by_cases h : s.run.f = u
  · have hgo : ¬ ((s.run.f != u) = true) := fun hne => bne_iff_ne.1 hne h
    rw [if_pos h, State.setRun, if_neg hgo]
  · rw [if_neg h, State.setRun, if_pos (bne_iff_ne.2 h)]

/-- FWD of a run that is active. -/
theorem exec_fwd_of_active (hx : s.runSlot = some x) (hrun : s.run.active = true) : exec .fwd s = .next (s.runForward x [] id) := by
  show execFwd s = _
  rw [execFwd, hx]
  exact congrArg Host.Outcome.next (if_pos hrun)

/-- A destination that EMIT names. -/
def Run.emitTo (r : Run) (x : Slot) (v : Nat) : Bool := x.mayGo r.buf (bitsNat v 11 6) (bitsNat v 5 0)

/-- EMIT of a run that is active. -/
theorem exec_emit_of_active (hx : s.runSlot = some x) (hrun : s.run.active = true) (f : BitVec 3) : exec (.emit f) s = .next (
    if (s.run.xGet f).toNat / 2 ^ 12 ≠ 0 ∨ (!s.run.emitTo x (s.run.xGet f).toNat) = true then s.runTrap 2 0
    else { s with run := Run.goTo { s.run with emits := s.run.emits ++ [spliceBytes s.run.buf 4 (bytesOf 2 ((s.run.xGet f).toNat % 2 ^ 12))] } (s.run.pc + 1) }) := by
  have hgo : ¬ ((!s.run.active) = true) := by
    rw [hrun]
    decide
  show execEmit f s = _
  rw [execEmit, hx]
  exact congrArg Host.Outcome.next (if_neg hgo)

end Sys2Proof.Machine
end

section
open Sys2Proof Sys2Proof.Machine

/-- Settles O54: an instruction that does not end a run by `runStep`, the ones that name a flow by whether it is in range, and the ends of
runs by room and destination. -/
theorem sumacRuns : Obligations.SumacRuns := by
  unfold Obligations.SumacRuns
  intro s chip slot x t d a b w f g h i n u k o l c y dt st part fd r imm now flow holds bytes put reduced
    reduces ends room buffer dst copyTo toDst
  refine ⟨Run.goTo_spec, fun hpend hearly => ?_, fun hpend hdue => ?_, rfl, fun hx h => ?_, fun m hx _ _ hbusy =>
    exec_slotUnload_stays hx (.inr (.inr hbusy)), fun m hx hat hm hidle => exec_slotUnload_unloads hx hat hm hidle, fun hrun => ?_,
    fun hrun hx => ?_⟩
  · show execTimetableTakesEffect s = _
    rw [execTimetableTakesEffect, hpend]
    exact congrArg Host.Outcome.next (if_neg (Nat.not_le.2 hearly))
  · show execTimetableTakesEffect s = _
    rw [execTimetableTakesEffect, hpend]
    exact congrArg Host.Outcome.next (if_pos hdue)
  · exact exec_slotUnload_stays hx (h.imp_right .inl)
  · refine ⟨runStep_of_active hrun _, runStep_of_active hrun _, runStep_of_active hrun _, runStep_of_active hrun _, runStep_of_active hrun _,
      runStep_of_active hrun _, runStep_of_active hrun _, runStep_of_active hrun _, runStep_of_active hrun _, ?_,
      ⟨_, runStep_of_active hrun _, (xHolds_iff k _ _).trans ?_⟩, ⟨_, runStep_of_active hrun _, (xHolds_iff k _ _).trans ?_⟩, ?_, ?_, ?_, ?_⟩
    · refine (runStep_of_active hrun _).trans ?_
      rw [highHalf_eq]
    · cases k <;> exact Iff.rfl
    · cases k <;> exact Iff.rfl
    · exact exec_brf_of_active hrun u o
    · exact congrArg Host.Outcome.next (if_pos hrun)
    · show execDrop s = _
      rw [execDrop, hrun, Bool.true_and]
      rfl
    · exact congrArg Host.Outcome.next (if_pos hrun)
  · have hflow (hf : flow f < x.flows) (q : Slot → Nat → State → State) : (.next (s.withFlow f q) : Out) = .next (q x (flow f) s) :=
      congrArg Host.Outcome.next (State.withFlow_of_flow hx hrun q hf)
    have hfwd := State.runForward_spec (s := s) (x := x) [] id
    refine ⟨fun j hj hf => exec_flow_range hx hrun hf j hj, fun hf => ⟨fun hnone => ?_, fun m hheld => ?_, fun hclean => ?_, hflow hf _, fun hroom => ?_,
        fun hfull => ?_, fun hdst hfull => ?_, fun hdst hroom => ?_, fun hdst => ?_, fun hnone hfull => ?_, fun m hheld hfull => ?_,
        fun hnone hroom => ?_, fun m hheld hroom => ?_⟩,
      runReduce_spec hx hrun 0 d a b y, runReduce_spec hx hrun 1 d a b y, runReduce_spec hx hrun 2 d a b y, exec_kcvt_spec hx hrun,
      fun hroom cause m => State.runTrap_spec hx hroom cause m, fun hdst hfull => ?_, fun hdst hroom => ?_, fun hdst => ?_, fun hbad => ?_,
      fun hsmall hdst => ?_⟩
    · refine (hflow hf _).trans ?_
      rw [hnone]
      rfl
    · refine (hflow hf _).trans ?_
      rw [hheld]
      rfl
    · have hbytes : flowBytes x s.run (4096 * flow f + 32 * n.toNat) = x.store.getBytes (4096 * flow f + 32 * n.toNat) 32 := by
        rw [flowBytes, show s.run.stf = [] from hclean]
        rfl
      exact (hflow hf _).trans (congrArg (fun bs => (Host.Outcome.next (now (r.kPut d (BitVec.ofNat 256 (natOf bs)))) : Out)) hbytes)
    · exact (hflow hf _).trans (congrArg Host.Outcome.next (if_neg (not_full hroom)))
    · exact (hflow hf _).trans (congrArg Host.Outcome.next (if_pos (full_of_not hfull)))
    · exact (hflow hf _).trans (congrArg Host.Outcome.next ((State.runForward_spec _ _).2.1 hdst hfull))
    · exact (hflow hf _).trans (congrArg Host.Outcome.next ((State.runForward_spec _ _).2.2 hdst hroom))
    · exact (hflow hf _).trans (congrArg Host.Outcome.next ((State.runForward_spec _ _).1 hdst))
    · refine (hflow hf _).trans ?_
      rw [hnone, List.append_nil]
      exact congrArg Host.Outcome.next (if_pos (full_of_not hfull))
    · refine (hflow hf _).trans ?_
      rw [hheld]
      exact congrArg Host.Outcome.next (if_pos (full_of_not hfull))
    · refine (hflow hf _).trans ?_
      rw [hnone, List.append_nil]
      exact congrArg Host.Outcome.next (if_neg (not_full hroom))
    · refine (hflow hf _).trans ?_
      rw [hheld]
      exact congrArg Host.Outcome.next (if_neg (not_full hroom))
    · exact (exec_fwd_of_active hx hrun).trans (congrArg Host.Outcome.next (hfwd.2.1 hdst hfull))
    · exact (exec_fwd_of_active hx hrun).trans (congrArg Host.Outcome.next (hfwd.2.2 hdst hroom))
    · exact (exec_fwd_of_active hx hrun).trans (congrArg Host.Outcome.next (hfwd.1 hdst))
    · refine (exec_emit_of_active hx hrun f).trans (congrArg Host.Outcome.next (if_pos (hbad.imp_right fun h => ?_)))
      exact full_of_not (Bool.eq_false_iff.1 h)
    · refine (exec_emit_of_active hx hrun f).trans (congrArg Host.Outcome.next (if_neg ?_))
      rintro (h | h)
      · exact h hsmall
      · exact not_full (b := s.run.emitTo x (s.run.xGet f).toNat) hdst h

end

section
/-!
SUPPORT. Bring-up, sett reset, time and errors of the register file (R108, R110, R374, R376, R424, R425, R440, R446).
-/

namespace Sys2Proof.Machine

variable {s : State} {sett : Nat}

/-! ### Seams and sett reset (R373, R374, R376) -/

/-- A map by keys read back. -/
theorem FMap.get?_mapKey {α : Type} (m : FMap α) (g : Nat → α → α) (k : Nat) :
    FMap.get? (m.map (fun x => (x.1, g x.1 x.2)) : List (Nat × α)) k = (FMap.get? m k).map (g k) := by
  induction m with
  | nil => rfl
  | cons x m ih =>
    rw [List.map_cons, FMap.get?, FMap.get?, ih]
    split
    next h =>
      rw [← h]
      rfl
    next => rfl

/-- A sett whose reset cuts its seams. -/
def Sett.cut (s : State) (ns : List Nat) (n : Nat) (x : Sett) : Sett := if ns.contains n then { x with seamCut := seamRows s n } else x

/-- A sett with its seams cut, read back. -/
theorem State.get?_cutSeams (s : State) (ns : List Nat) (n : Nat) :
    FMap.get? (s.cutSeams ns).setts n = (FMap.get? s.setts n).map (Sett.cut s ns n) := by
  rw [← FMap.get?_mapKey s.setts (Sett.cut s ns)]
  refine congrArg (fun m : FMap Sett => FMap.get? m n) (List.map_congr_left fun x _ => ?_)
  rw [Sett.cut]
  split <;> rfl

/-- Its defects stay. -/
theorem State.merged_cutSeams (s : State) (ns : List Nat) (n : Nat) : ((s.cutSeams ns).sett n).merged = (s.sett n).merged := by
  rw [State.sett, State.sett, FMap.getD, FMap.getD, State.get?_cutSeams]
  cases FMap.get? s.setts n with
  | none => rfl
  | some x =>
    rw [Option.map_some, Option.getD_some, Option.getD_some, Sett.cut]
    split <;> rfl

/-- The rows that a seam takes do not depend on the rows taken already. -/
theorem seamFailed_cutSeams (s : State) (ns : List Nat) (k : Nat) : seamFailed (s.cutSeams ns) k = seamFailed s k := by
  simp only [seamFailed, State.merged_cutSeams]

/-- The rows then. -/
theorem seamRows_cutSeams (s : State) (ns : List Nat) (n : Nat) : seamRows (s.cutSeams ns) n = seamRows s n := by
  rw [seamRows, seamFailed_cutSeams, seamFailed_cutSeams, seamRows]

/-- An entry appended, or not, loses none. -/
theorem Sett.appendUnless_spec (x : Sett) (e : Defect) (p : Prop) [Decidable p] : (if p then x else x.append e).factory = x.factory
    ∧ ∀ d ∈ x.delta, d ∈ (if p then x else x.append e).delta := by
  split
  · exact ⟨rfl, fun d hd => hd⟩
  · exact ⟨rfl, fun d hd => List.mem_append_left _ hd⟩

/-- A self-test appends to the delta log and changes nothing else that a reset keeps. -/
theorem Sett.selfTest_spec (n : Nat) (x : Sett) (ds : List Defect) :
    (x.selfTest n ds).factory = x.factory ∧ ∀ d ∈ x.delta, d ∈ (x.selfTest n ds).delta := by
  rw [Sett.selfTest]
  generalize ds.filter _ = ds
  induction ds generalizing x with
  | nil => exact ⟨rfl, fun d hd => hd⟩
  | cons e ds ih =>
    rw [List.foldl_cons]
    obtain ⟨hfactory, hdelta⟩ := ih _
    exact ⟨hfactory.trans (x.appendUnless_spec e _).1, fun d hd => hdelta d ((x.appendUnless_spec e _).2 d hd)⟩

/-- A merge changes what is in force, not the log. -/
theorem Sett.merge_spec (x : Sett) : x.merge.factory = x.factory ∧ x.merge.delta = x.delta := by
  rw [Sett.merge]
  split
  · exact ⟨rfl, rfl⟩
  · split <;> exact ⟨rfl, rfl⟩

/-- What a reset leaves of a sett (R374, R376). -/
theorem Sett.reset_spec (x : Sett) (n : Nat) (ds : List Defect) : (x.reset n ds).counters = [] ∧ (x.reset n ds).entries = []
    ∧ (x.reset n ds).regcorr = [] ∧ (x.reset n ds).factory = x.factory ∧ ∀ d ∈ x.delta, d ∈ (x.reset n ds).delta := by
  obtain ⟨hfactory, hdelta⟩ := Sett.selfTest_spec n x ds
  obtain ⟨hfactory', hdelta'⟩ := (x.selfTest n ds).merge_spec
  exact ⟨rfl, rfl, rfl, hfactory'.trans hfactory, fun d hd => hdelta' ▸ hdelta d hd⟩

/-- No sett is reset that there is not, before power, or with a context on it. -/
theorem exec_settReset_stays {ds : List Defect} (h : 48 ≤ sett ∨ s.bringup < 2 ∨ s.settFree sett = false) :
    exec (.settReset sett ds) s = .next s := by
  refine congrArg Host.Outcome.next (if_pos (h.imp_right (Or.imp_right fun h => ?_)))
  rw [h]
  rfl

/-- A reset sett, with the others as they were. -/
theorem exec_settReset_resets {ds : List Defect} (hsett : sett < 48) (hpower : 2 ≤ s.bringup) (hfree : s.settFree sett = true) :
    exec (.settReset sett ds) s = .next ((s.setSett sett (Sett.reset sett ds)).cutSeams [sett])
      ∧ FMap.get? ((s.setSett sett (Sett.reset sett ds)).cutSeams [sett]).setts sett = some { (s.sett sett).reset sett ds with
        seamCut := seamRows ((s.setSett sett (Sett.reset sett ds)).cutSeams [sett]) sett }
      ∧ ∀ n, n ≠ sett → FMap.get? ((s.setSett sett (Sett.reset sett ds)).cutSeams [sett]).setts n = FMap.get? s.setts n := by
  refine ⟨congrArg Host.Outcome.next (if_neg ?_), ?_, fun n hn => ?_⟩
  · rw [hfree]
    rintro (h | h | h)
    · exact absurd hsett (Nat.not_lt.2 h)
    · exact absurd hpower (Nat.not_le.2 h)
    · cases h
  · rw [State.get?_cutSeams, seamRows_cutSeams, State.setSett, FMap.get?_set_same, Option.map_some, Sett.cut,
      if_pos (List.contains_iff_mem.2 (List.mem_singleton.2 rfl))]
  · have hid : Sett.cut (s.setSett sett (Sett.reset sett ds)) [sett] n = id := by
      funext x
      exact if_neg fun h => hn (List.mem_singleton.1 (List.contains_iff_mem.1 h))
    rw [State.get?_cutSeams, hid, Option.map_id, State.setSett, FMap.get?_set_other _ _ hn]
    rfl

/-! ### Power and bring-up (R440, R446) -/

/-- The setts of a package that comes up, in a list by number. -/
theorem get?_upTo (g : Nat → Sett) (a n k : Nat) (ha : a ≤ k) (hk : k < a + n) :
    FMap.get? ((upTo a n).map (fun m => (m, g m)) : FMap Sett) k = some (g k) := by
  induction n generalizing a with
  | zero => exact absurd hk (Nat.not_lt.2 ha)
  | succ n ih =>
    rw [upTo, List.map_cons, FMap.get?]
    split
    next heq => rw [heq]
    next hne => exact ih (a + 1) (by omega) (by omega)

/-- The package as its bring-up leaves it, before the seams are cut. -/
def State.measured (s : State) (ds : List Defect) : State :=
  { s with setts := (upTo 0 48).map (fun n => (n, ((s.sett n).measureAll n).reset n ds)), bringup := 4 }

/-- POWER_ON where every sett's images verify (R445, R446). -/
theorem exec_powerOn_up {ds : List Defect} (hoff : s.bringup = 0) (hok : ∀ n, n < 48 → (s.sett n).imagesOk = true) :
    exec (.powerOn ds) s = .next ((s.measured ds).cutSeams (upTo 0 48)) := by
  have hall : (upTo 0 48).all (fun n => (s.sett n).imagesOk) = true :=
    List.all_eq_true.2 fun n hn => hok n (by rw [mem_upTo] at hn; omega)
  show execPowerOn ds s = _
  rw [execPowerOn, if_neg (not_not.2 hoff), hall]
  rfl

/-- Each sett is measured and reset, its seams cut. -/
theorem State.get?_powered (s : State) (ds : List Defect) {n : Nat} (hn : n < 48) :
    FMap.get? ((s.measured ds).cutSeams (upTo 0 48)).setts n = some { ((s.sett n).measureAll n).reset n ds with
      seamCut := seamRows ((s.measured ds).cutSeams (upTo 0 48)) n } := by
  have hin : (upTo 0 48).contains n = true := List.contains_iff_mem.2 ((mem_upTo 0 48 n).2 ⟨Nat.zero_le n, by omega⟩)
  rw [State.get?_cutSeams, seamRows_cutSeams, State.measured, get?_upTo _ 0 48 n (Nat.zero_le n) (by omega), Option.map_some, Sett.cut, if_pos hin]

/-- POWER_ON with an image of which no copy verifies. -/
theorem exec_powerOn_stops {ds : List Defect} (hoff : s.bringup = 0) (hbad : ∃ n, n < 48 ∧ (s.sett n).imagesOk = false) :
    exec (.powerOn ds) s = .next { s with bringup := 1 } := by
  obtain ⟨n, hn, hno⟩ := hbad
  have hall : (upTo 0 48).all (fun n => (s.sett n).imagesOk) = false :=
    List.all_eq_false.2 ⟨n, (mem_upTo 0 48 n).2 ⟨Nat.zero_le n, by omega⟩, by rw [hno]; decide⟩
  show execPowerOn ds s = _
  rw [execPowerOn, if_neg (not_not.2 hoff), hall]
  rfl

/-- POWER_LOSS leaves the stores that need no power, and nothing else (R374). -/
theorem exec_powerLoss_spec (s : State) (torn : List Nat) : ∃ t : State, exec (.powerLoss torn) s = .next t ∧ t.bringup = 0 ∧ t.mem = []
    ∧ t.ctxs = [] ∧ t.sites = [] ∧ t.others = [] ∧ t.cur.status = .absent
    ∧ ∀ n y, FMap.get? s.setts n = some y → n ∉ torn → FMap.get? t.setts n = some y.kept := by
  refine ⟨_, rfl, rfl, rfl, rfl, rfl, rfl, rfl, fun n y hy hn => ?_⟩
  have hkept := FMap.get?_mapKey s.setts (fun n x => if torn.contains n then x.tear.kept else x.kept) n
  rw [hy, Option.map_some, if_neg (fun h => hn (List.contains_iff_mem.1 h))] at hkept
  exact hkept

section
variable {site lo hi : Nat}

/-- No site comes up without a level in common, or before step 4. -/
theorem exec_ucieLinkUp_stays (h : 2 < lo ∨ hi < 1 ∨ hi < lo ∨ 4 ≤ site ∨ s.bringup < 4) : exec (.ucieLinkUp site lo hi) s = .next s := by
  show execUcieLinkUp site lo hi s = _
  rw [execUcieLinkUp, hlpLevel]
  by_cases hlevel : max 1 lo ≤ min 2 hi
  · rw [if_pos hlevel]
    exact congrArg Host.Outcome.next (if_pos (by omega))
  · rw [if_neg hlevel]

/-- A site that comes up has its ring with both indices 0. -/
theorem exec_ucieLinkUp_up (hlevel : max 1 lo ≤ min 2 hi) (hsite : site < 4) (hpower : 4 ≤ s.bringup) (hnone : FMap.get? s.sites site = none) :
    exec (.ucieLinkUp site lo hi) s = .next { s with
      sites := FMap.set s.sites site { level := min 2 hi, rd := 0, db := 0, seen := [] }, bringup := max s.bringup 6 } := by
  show execUcieLinkUp site lo hi s = _
  rw [execUcieLinkUp, hlpLevel, if_pos hlevel]
  dsimp only
  rw [hnone]
  refine congrArg Host.Outcome.next (if_neg ?_)
  rintro (h | h | h)
  · exact absurd hsite (Nat.not_lt.2 h)
  · exact absurd hpower (Nat.not_le.2 h)
  · cases h

end

/-! ### Time (R424, R425) -/

/-- A rate within the servo's bound. -/
theorem boundRate_spec (r : Int) : -100 ≤ boundRate r ∧ boundRate r ≤ 100 := by
  rw [boundRate]
  omega

section
variable {m : PtpMsg}

/-- No message of the servo counts before step 7, or at the grandmaster. -/
theorem exec_ptpMessage_stays (h : s.bringup < 7 ∨ s.grandmaster = s.ownPkg) : exec (.ptpMessage m) s = .next s :=
  congrArg Host.Outcome.next (if_pos h)

/-- The servo's rate, before it locks or steps. -/
def State.rated (s : State) (m : PtpMsg) : State := { s with rate := boundRate (Config.servoRate (PtpOffset m)) }

/-- A message changes the rate; a servo that is not locked locks within its error, or steps forward once where no context is there. -/
theorem exec_ptpMessage_eq (hstep : 7 ≤ s.bringup) (hslave : s.grandmaster ≠ s.ownPkg) : exec (.ptpMessage m) s = .next (
    if s.locked = true then s.rated m
    else if PtpOffset m < -5 ∧ (!s.stepped) = true ∧ s.ctxs.isEmpty = true
      then State.lockServo { s.rated m with gtc := s.gtc + (-PtpOffset m).toNat }
    else if -5 ≤ PtpOffset m ∧ PtpOffset m ≤ 5 then (s.rated m).lockServo
    else s.rated m) := by
  refine congrArg Host.Outcome.next (if_neg ?_)
  rintro (h | h)
  · exact absurd hstep (Nat.not_le.2 h)
  · exact hslave h

/-- What a message leaves of rate, time and lock. -/
theorem exec_ptpMessage_spec (hstep : 7 ≤ s.bringup) (hslave : s.grandmaster ≠ s.ownPkg) : ∃ t : State, exec (.ptpMessage m) s = .next t
    ∧ -100 ≤ t.rate ∧ t.rate ≤ 100 ∧ (s.locked = true → t.gtc = s.gtc ∧ t.locked = true) ∧ (0 ≤ PtpOffset m → t.gtc = s.gtc) ∧ s.gtc ≤ t.gtc
    ∧ (s.locked = false → -5 ≤ PtpOffset m → PtpOffset m ≤ 5 → t.locked = true ∧ t.gtc = s.gtc ∧ 8 ≤ t.bringup)
    ∧ (s.locked = false → 5 < PtpOffset m → t.locked = false ∧ t.gtc = s.gtc)
    ∧ (s.locked = false → PtpOffset m < -5 → s.stepped = false → s.ctxs = [] → t.locked = true ∧ (t.gtc : Int) = s.gtc - PtpOffset m)
    ∧ (s.locked = false → PtpOffset m < -5 → (s.stepped = true ∨ s.ctxs ≠ []) → t.locked = false ∧ t.gtc = s.gtc) := by
  have hrate : -100 ≤ (s.rated m).rate ∧ (s.rated m).rate ≤ 100 := boundRate_spec _
  have hexec := exec_ptpMessage_eq (m := m) hstep hslave
  cases hlocked : s.locked with
  | true =>
    rw [if_pos hlocked] at hexec
    exact ⟨_, hexec, hrate.1, hrate.2, fun _ => ⟨rfl, hlocked⟩, fun _ => rfl, Nat.le_refl _, by simp, by simp, by simp, by simp⟩
  | false =>
    rw [if_neg (Bool.eq_false_iff.1 hlocked)] at hexec
    by_cases hjump : PtpOffset m < -5 ∧ (!s.stepped) = true ∧ s.ctxs.isEmpty = true
    · rw [if_pos hjump] at hexec
      obtain ⟨ho, hfresh, hempty⟩ := hjump
      refine ⟨_, hexec, hrate.1, hrate.2, by simp, fun h => by omega, Nat.le_add_right _ _, fun _ h => by omega, fun _ h => by omega,
        fun _ _ _ _ => ⟨rfl, ?_⟩, fun _ _ h => ?_⟩
      · show ((s.gtc + (-PtpOffset m).toNat : Nat) : Int) = s.gtc - PtpOffset m
        omega
      · rcases h with h | h
        · rw [h] at hfresh
          cases hfresh
        · exact absurd (List.isEmpty_iff.1 hempty) h
    · rw [if_neg hjump] at hexec
      have hno (ho : PtpOffset m < -5) (hfresh : s.stepped = false) (hempty : s.ctxs = []) : False :=
        hjump ⟨ho, by rw [hfresh]; rfl, by rw [hempty]; rfl⟩
      by_cases hnear : -5 ≤ PtpOffset m ∧ PtpOffset m ≤ 5
      · rw [if_pos hnear] at hexec
        exact ⟨_, hexec, hrate.1, hrate.2, by simp, fun _ => rfl, Nat.le_refl _, fun _ _ _ => ⟨rfl, rfl, Nat.le_max_right _ _⟩,
          fun _ h => by omega, fun _ h => by omega, fun _ h => by omega⟩
      · rw [if_neg hnear] at hexec
        exact ⟨_, hexec, hrate.1, hrate.2, by simp, fun _ => rfl, Nat.le_refl _, fun _ h h' => absurd ⟨h, h'⟩ hnear,
          fun _ _ => ⟨hlocked, rfl⟩, fun _ ho hfresh hempty => (hno ho hfresh hempty).elim, fun _ _ _ => ⟨hlocked, rfl⟩⟩

end

/-! ### Errors (R108, R110, R373) -/

/-- A bank joins the delta log once a word of it has been corrected four times. -/
theorem exec_registerWordCorrectionLimit_spec (s : State) (sett core col bank : Nat) :
    ((∀ y ∈ (s.sett sett).corrected, y.1 / 512 = (core * 32 + col) * 12 + bank → y.2 < 4) →
        exec (.registerWordCorrectionLimit sett core col bank) s = .next s)
      ∧ (col < 32 → bank < 12 → (∃ y ∈ (s.sett sett).corrected, y.1 / 512 = (core * 32 + col) * 12 + bank ∧ 4 ≤ y.2) →
        { kind := 3, sett := sett, prow := (s.physical sett core).1, pcol := (s.physical sett core).2, index := col * 12 + bank }
          ∉ (s.sett sett).delta → exec (.registerWordCorrectionLimit sett core col bank) s = .next (s.setSett sett (fun x => x.append
            { kind := 3, sett := sett, prow := (s.physical sett core).1, pcol := (s.physical sett core).2, index := col * 12 + bank }))) := by
  have hworn : (s.sett sett).corrected.any (fun y => y.1 / 512 == (core * 32 + col) * 12 + bank && decide (4 ≤ y.2)) = true
      ↔ ∃ y ∈ (s.sett sett).corrected, y.1 / 512 = (core * 32 + col) * 12 + bank ∧ 4 ≤ y.2 := by
    simp only [List.any_eq_true, Bool.and_eq_true, beq_iff_eq, decide_eq_true_iff]
  refine ⟨fun hfew => congrArg Host.Outcome.next (if_neg ?_), fun hcol hbank hmany hnew => congrArg Host.Outcome.next (if_pos ?_)⟩
  · rw [Bool.and_eq_true, Bool.and_eq_true, Bool.and_eq_true, hworn]
    rintro ⟨⟨⟨⟨y, hy, hat, hmany⟩, -⟩, -⟩, -⟩
    exact absurd (hfew y hy hat) (Nat.not_lt.2 hmany)
  · rw [Bool.and_eq_true, Bool.and_eq_true, Bool.and_eq_true, hworn, decide_eq_true_iff, decide_eq_true_iff, Bool.not_eq_true',
      List.contains_eq_mem, decide_eq_false_iff_not]
    exact ⟨⟨⟨hmany, hcol⟩, hbank⟩, hnew⟩

section
variable {seam link : Nat}

/-- The losses of a sett's seams with one more. -/
def Sett.lost (x : Sett) (seam link now : Nat) : Sett :=
  { x with seamLosses := (seam, link, now) :: x.seamLosses.filter (fun l => decide (now ≤ l.2.2 + hourTicks)) }

/-- A seam that there is loses lock: the loss is noted, and a third one is a defect. -/
theorem exec_seamLinkLockLoss_loses (hseam : seamOk seam = true) (hlink : link < 18) : ∃ t y, exec (.seamLinkLockLoss seam link) s = .next t
    ∧ FMap.get? t.setts (seam / 4) = some y ∧ (seam, link, s.gtc) ∈ y.seamLosses ∧ t.mem = s.mem
    ∧ ((s.sett (seam / 4)).seamLosses = [] → y.delta = (s.sett (seam / 4)).delta) := by
  have hgo : ¬ ((!seamOk seam) = true ∨ 18 ≤ link) := by
    rw [hseam]
    rintro (h | h)
    · cases h
    · exact absurd hlink (Nat.not_lt.2 h)
  refine ⟨_, _, congrArg Host.Outcome.next (if_neg hgo), FMap.get?_set_same _ _ _, ?_, rfl, fun hnone => ?_⟩
  · dsimp only
    split
    · exact List.mem_cons_self
    · exact List.mem_cons_self
  · dsimp only
    rw [if_neg]
    rintro ⟨hthird, -⟩
    rw [hnone, List.filter_nil] at hthird
    exact absurd (hthird.trans (List.length_filter_le _ _)) (show ¬ 3 ≤ 1 by decide)

end

/-- An error of a clean lane's word is noted in the lane, and nothing is seen of it (R108). -/
theorem exec_registerWordError_spec {lane w : Nat} (double : Bool) (hlane : lane < s.cur.lanes.length) (hw : w < (s.cur.lane lane).regs.length)
    (hclean : (s.cur.lane lane).clean) : ∃ t : State, exec (.registerWordError lane (some w) double) s = .next t
      ∧ (∀ l, l ≠ lane → t.cur.lane l = s.cur.lane l) ∧ (t.cur.lane lane).regs = (s.cur.lane lane).regs ∧ t.mem = s.mem
      ∧ (t.cur.lane lane).bad = (if double then [w] else []) ∧ (t.cur.lane lane).soft = (if double then [] else [w]) := by
  obtain ⟨hbad, hsoft, -, -⟩ := hclean
  have hset (l : Nat) : (s.cur.setLane lane (fun x => x.strike (some w) double)).lane l
      = if l = lane then (s.cur.lane lane).strike (some w) double else s.cur.lane l := Team.lane_setLane s.cur lane l _ hlane
  refine ⟨_, congrArg Host.Outcome.next (if_neg (Nat.not_le.2 hlane)), fun l hl => (hset l).trans (if_neg hl), ?_⟩
  have hself := (hset lane).trans (if_pos rfl)
  show ((s.cur.setLane lane (fun x => x.strike (some w) double)).lane lane).regs = _ ∧ s.mem = s.mem
    ∧ ((s.cur.setLane lane (fun x => x.strike (some w) double)).lane lane).bad = _
    ∧ ((s.cur.setLane lane (fun x => x.strike (some w) double)).lane lane).soft = _
  rw [hself, Lane.strike]
  rw [if_neg (Nat.not_le.2 hw)]
  cases double with
  | true => exact ⟨rfl, rfl, by simp [hbad, insertOnce], by simp [hsoft]⟩
  | false => simp [hbad, hsoft, insertOnce]

end Sys2Proof.Machine
end

section
open Sys2Proof Sys2Proof.Machine

/-- Settles O55: power and bring-up by the setts that they leave, the servo by the offset of a message, errors by the log they join. -/
theorem bringupAndTime : Obligations.BringupAndTime := by
  unfold Obligations.BringupAndTime
  intro s ds torn site lo hi sett core col bank seam link lane w asym m double
  dsimp only
  have hlimit := exec_registerWordCorrectionLimit_spec s sett core col bank
  refine ⟨fun hon => congrArg Host.Outcome.next (if_pos hon), exec_powerOn_stops, fun hoff hok => ⟨_, exec_powerOn_up hoff hok, rfl, rfl, fun n hn =>
      s.get?_powered ds hn⟩, exec_powerLoss_spec s torn, exec_ucieLinkUp_stays, exec_ucieLinkUp_up, exec_ptpMessage_stays, exec_ptpMessage_spec,
    fun hlocked => congrArg Host.Outcome.next (if_pos hlocked), fun hfree => congrArg Host.Outcome.next (if_neg (Bool.eq_false_iff.1 hfree)),
    fun hlocked hslave => congrArg Host.Outcome.next (if_pos ⟨hlocked, hslave⟩), fun h => congrArg Host.Outcome.next (if_neg ?_),
    fun hfree hlate => congrArg Host.Outcome.next (if_pos ⟨by rw [hfree]; rfl, hlate⟩), fun h => congrArg Host.Outcome.next (if_neg ?_),
    exec_settReset_stays, fun hsett hpower hfree => ?_, hlimit.1, hlimit.2, fun h => congrArg Host.Outcome.next (if_pos (h.imp_left fun h => ?_)),
    exec_seamLinkLockLoss_loses, fun hlane => congrArg Host.Outcome.next (if_pos hlane), exec_registerWordError_spec double⟩
  · rintro ⟨hlocked, hslave⟩
    rcases h with h | h
    · rw [h] at hlocked
      cases hlocked
    · exact hslave h
  · rintro ⟨hfree, hlate⟩
    rcases h with h | h
    · rw [h] at hfree
      cases hfree
    · exact absurd hlate (Nat.not_le.2 h)
  · obtain ⟨hstep, hself, hothers⟩ := exec_settReset_resets (ds := ds) hsett hpower hfree
    obtain ⟨hcounters, hentries, hregcorr, hfactory, hdelta⟩ := (s.sett sett).reset_spec sett ds
    exact ⟨_, _, hstep, hself, hcounters, hentries, hregcorr, hfactory, hdelta, rfl, rfl, hothers, rfl, rfl⟩
  · rw [h]
    rfl

end

section
/-!
SUPPORT. Memory keeps its canonical form (log entry 1). For each function of the model that gives a state, one lemma: `_mem`
where it leaves memory alone, `_wf` where it writes through the operations of memory, which keep the form. Here: the
accessors of the state, caches, frames and the accesses of the scalar stream (R191 to R235).
-/

namespace Sys2Proof.Machine

/-! ### Memory of a state and of an answer -/

/-- The state that an answer holds, if it holds one, has memory in its canonical form. -/
def NextWf (o : Out) : Prop := ∀ t, o = .next t → t.mem.wf = true

@[simp] theorem nextWf_next (s : State) : NextWf (.next s) ↔ s.mem.wf = true :=
  ⟨fun h => h s rfl, fun h _ ht => by cases ht; exact h⟩

theorem NextWf.ite {c : Prop} [Decidable c] {o p : Out} (ho : NextWf o) (hp : NextWf p) : NextWf (if c then o else p) := by
  split <;> assumption

@[simp] theorem mem_ite {c : Prop} [Decidable c] (s t : State) : (if c then s else t).mem = if c then s.mem else t.mem :=
  apply_ite _ _ _ _

@[simp] theorem wf_ite {c : Prop} [Decidable c] (m n : Memory) :
    (if c then m else n).wf = if c then m.wf else n.wf := apply_ite _ _ _ _

theorem wf_of_ite {c : Prop} [Decidable c] {s t : State} (hs : s.mem.wf = true) (ht : t.mem.wf = true) :
    (if c then s else t).mem.wf = true := by
  split <;> assumption

/-- Steps that each leave memory alone leave it alone one after another. -/
theorem foldl_mem {α : Type} {f : State → α → State} (hf : ∀ s x, (f s x).mem = s.mem) (xs : List α) (s : State) :
    (xs.foldl f s).mem = s.mem := by
  induction xs generalizing s with
  | nil => rfl
  | cons x xs ih => rw [List.foldl_cons, ih, hf]

/-- Steps that each keep the form keep it one after another. -/
theorem foldl_wf {α : Type} {f : State → α → State} (hf : ∀ s x, s.mem.wf = true → (f s x).mem.wf = true) (xs : List α)
    {s : State} (h : s.mem.wf = true) : (xs.foldl f s).mem.wf = true := by
  induction xs generalizing s with
  | nil => exact h
  | cons x xs ih => exact ih (hf s x h)

@[simp] theorem State.mapTeams_mem (s : State) (f : Team → Team) : (s.mapTeams f).mem = s.mem := by
  rfl

@[simp] theorem State.setTeam_mem (s : State) (uid : Nat) (f : Team → Team) : (s.setTeam uid f).mem = s.mem := by
  rfl

@[simp] theorem State.focus_mem (s : State) (uid : Nat) : (s.focus uid).mem = s.mem := by
  unfold State.focus
  (repeat' split) <;> rfl

@[simp] theorem State.drawBytes_mem (s : State) (n : Nat) : (s.drawBytes n).2.mem = s.mem := by
  rfl

@[simp] theorem State.l1Room_mem (s : State) (sett core line : Nat) : (s.l1Room sett core line).mem = s.mem := by
  simp only [State.l1Room]
  split
  · rfl
  split
  · rfl
  split <;> rfl

@[simp] theorem State.l1Put_mem (s : State) (sett core key : Nat) (x : Sector) : (s.l1Put sett core key x).mem = s.mem := by
  simp [State.l1Put]

@[simp] theorem State.setStt_mem (s : State) (uid page : Nat) (f : Stt → Stt) : (s.setStt uid page f).mem = s.mem := by
  rfl

@[simp] theorem State.evict_wf {s : State} (h : s.mem.wf = true) (fr : Nat) : (s.evict fr).mem.wf = true := by
  unfold State.evict
  split
  · exact h
  next f _ =>
    cases f.owner with
    | none => exact h
    | some o => simp [h, Memory.wf_copy]

theorem State.takeFrame_wf {s : State} {sett core fr : Nat} {t : State} (ht : s.takeFrame sett core = some (fr, t))
    (h : s.mem.wf = true) : t.mem.wf = true := by
  unfold State.takeFrame at ht
  split at ht
  · cases ht; exact h
  · obtain ⟨v, _, hv⟩ := Option.map_eq_some_iff.1 ht
    cases hv
    exact State.evict_wf h _

theorem State.service_wf {s : State} {page fr : Nat} {e : Stt} {t : State} (ht : s.service page e = some (fr, t))
    (h : s.mem.wf = true) : t.mem.wf = true := by
  simp only [State.service, Option.ite_none_left_eq_some] at ht
  obtain ⟨_, ht⟩ := ht
  split at ht
  · cases ht
  next hu =>
    have hv := State.takeFrame_wf hu h
    cases ht
    simp only
    (repeat' split) <;> simp [hv, Memory.wf_copy, Memory.wf_clear]

@[simp] theorem State.touch_mem (s : State) (fr page : Nat) (wr : Bool) : (s.touch fr page wr).mem = s.mem := by
  rfl

@[simp] theorem State.locate_wf {s : State} (h : s.mem.wf = true) (who : Who) (a w : Nat) (aligned wr : Bool) :
    (s.locate who a w aligned wr).1.mem.wf = true := by
  unfold State.locate
  split
  · exact h
  simp only
  (repeat' split) <;> simp [h]
  next hserv => exact State.service_wf hserv h

theorem breakBytes_mem (s : State) (ranges : List (Nat × Nat)) (k : Nat) (bs : List Byte) :
    (breakBytes s ranges k bs).2.mem = s.mem := by
  induction bs generalizing s k with
  | nil => rfl
  | cons b bs ih =>
    simp only [breakBytes, ih]
    split <;> rfl

@[simp] theorem State.freeTiles_mem (s : State) (ts : List (Nat × Nat)) : (s.freeTiles ts).mem = s.mem := by
  induction ts generalizing s with
  | nil => rfl
  | cons x ts ih => exact ih _

@[simp] theorem State.poke_wf {s : State} (h : s.mem.wf = true) (own : Option Nat) (k : Nat) (bs : List Byte) :
    (s.poke own k bs).mem.wf = true := by
  simp only [State.poke]
  refine Memory.wf_setBytes ?_ _ _
  have hd : (if s.calm own k bs.length = true then (bs, s)
      else breakBytes s (s.hotRanges own) (s.logKey k) bs).2.mem.wf = true := by
    split
    · exact h
    · rwa [breakBytes_mem]
  rw [mem_ite, wf_ite, State.freeTiles_mem]
  simp only [hd, ite_self]

@[simp] theorem State.setPack_mem (s : State) (k v : Nat) : (s.setPack k v).mem = s.mem := by
  rfl

@[simp] theorem State.readLine_mem (s : State) (cmp : Bool) (k n : Nat) : (s.readLine cmp k n).2.mem = s.mem := by
  simp only [State.readLine]
  split <;> rfl

@[simp] theorem State.writeLine_wf {s : State} (hs : s.mem.wf = true) (own : Option Nat) (cmp : Bool) (k : Nat) (bs : List Byte)
    : (s.writeLine own cmp k bs).mem.wf = true := by
  simp [State.writeLine, hs]

@[simp] theorem State.writeSpan_wf {s : State} (h : s.mem.wf = true) (own : Option Nat) (cmp : Bool) (k : Nat) (bs : List Byte)
    : (s.writeSpan own cmp k bs).mem.wf = true :=
  foldl_wf (fun _ _ h => State.writeLine_wf h _ _ _ _) _ h

@[simp] theorem State.sectorAt_mem (s : State) (ctx a : Nat) (l : Leaf) : (s.sectorAt ctx a l).2.mem = s.mem := by
  simp [State.sectorAt]

@[simp] theorem State.l1Fill_mem (s : State) (ctx sett core a prio : Nat) (l : Leaf) :
    (s.l1Fill ctx sett core a prio l).mem = s.mem := by
  simp [State.l1Fill]

@[simp] theorem State.l1Refresh_mem (s : State) (ctx sett core a : Nat) (l : Leaf) :
    (s.l1Refresh ctx sett core a l).mem = s.mem := by
  simp [State.l1Refresh]

@[simp] theorem State.l1Store_mem (s : State) (ctx sett core a : Nat) (bs : List Byte) :
    (s.l1Store ctx sett core a bs).mem = s.mem := by
  rfl

@[simp] theorem State.staleLine_mem (s : State) (ctx sett core a : Nat) : (s.staleLine ctx sett core a).mem = s.mem := by
  simp [State.staleLine]

@[simp] theorem State.l1Written_mem (s : State) (ctx sett core a : Nat) (bs : List Byte) :
    (s.l1Written ctx sett core a bs).mem = s.mem := by
  rfl

@[simp] theorem State.l1Through_mem (s : State) (ctx sett core a : Nat) (bs : List Byte) :
    (s.l1Through ctx sett core a bs).mem = s.mem := by
  simp [State.l1Through, foldl_mem]

@[simp] theorem State.l1Drop_mem (s : State) (ctx sett core a : Nat) : (s.l1Drop ctx sett core a).mem = s.mem := by
  rfl

@[simp] theorem State.l1Discard_mem (s : State) (sett core : Nat) : (s.l1Discard sett core).mem = s.mem := by
  rfl

@[simp] theorem State.discardCores_mem (s : State) : (s.discardCores).mem = s.mem := by
  simp [State.discardCores]

@[simp] theorem State.devWrite_wf {s : State} (hs : s.mem.wf = true) (ctx a : Nat) (bs : List Byte) :
    (s.devWrite ctx a bs).mem.wf = true := by
  unfold State.devWrite
  split <;> simp [hs]

@[simp] theorem State.askFar_mem (s : State) (who : Asker) (c : Nat) : (s.askFar who c).mem = s.mem := by
  simp only [State.askFar]
  split
  · rfl
  split <;> rfl

@[simp] theorem State.dropFar_mem (s : State) (who : Asker) : (s.dropFar who).mem = s.mem := by
  rfl

@[simp] theorem State.clearRemote_mem (s : State) : (s.clearRemote).mem = s.mem := by
  rfl

end Sys2Proof.Machine
end

section
/-!
SUPPORT. Memory keeps its canonical form (log entry 1): paths, traps, slots of the handler area and teams that end (R78 to
R90, R33, R337 to R345).
-/

namespace Sys2Proof.Machine

@[simp] theorem State.resolvePack_wf {s : State} (hs : s.mem.wf = true) (ip : Nat) : (s.resolvePack ip).mem.wf = true := by
  simp only [State.resolvePack]
  (repeat' split) <;> simp [hs]

@[simp] theorem State.turnBlocks_mem (s : State) : (s.turnBlocks).mem = s.mem := by
  simp [State.turnBlocks]

@[simp] theorem State.settle_wf {s : State} (hs : s.mem.wf = true) : (s.settle).mem.wf = true := by
  unfold State.settle
  split <;> simp [hs]

@[simp] theorem State.whenReady_wf {s : State} (h : s.mem.wf = true) {regs : List Reg} {f : State → State}
    (hf : (f s).mem.wf = true) : (s.whenReady regs f).mem.wf = true := by
  unfold State.whenReady
  split <;> assumption

@[simp] theorem State.writeSlot_wf {s : State} (hs : s.mem.wf = true) (i : Nat) (bs : List Byte) :
    (s.writeSlot i bs).mem.wf = true := by
  simp [State.writeSlot, hs]

@[simp] theorem State.setSlotByte_wf {s : State} (hs : s.mem.wf = true) (i off x : Nat) :
    (s.setSlotByte i off x).mem.wf = true := by
  simp [State.setSlotByte, hs]

@[simp] theorem State.teamEvent_mem (s : State) (kind code count : Nat) (addr : Word) :
    (s.teamEvent kind code count addr).mem = s.mem := by
  rfl

@[simp] theorem State.ctxEvent_mem (s : State) (ctx kind code : Nat) (grid addr : Word) :
    (s.ctxEvent ctx kind code grid addr).mem = s.mem := by
  rfl

@[simp] theorem State.freeFrames_wf {s : State} (h : s.mem.wf = true) (uid : Nat) : (s.freeFrames uid).mem.wf = true :=
  foldl_wf (fun _ _ h => State.evict_wf h _) _ h

@[simp] theorem State.freeGang_mem (s : State) : (s.freeGang).mem = s.mem := by
  simp [State.freeGang]

@[simp] theorem State.endTeam_wf {s : State} (hs : s.mem.wf = true) (st : Status) : (s.endTeam st).mem.wf = true := by
  simp [State.endTeam, hs]

@[simp] theorem State.stopTeam_wf {s : State} (hs : s.mem.wf = true) (code count : Nat) :
    (s.stopTeam code count).mem.wf = true := by
  simp [State.stopTeam, hs]

@[simp] theorem State.faultsRead_mem (s : State) : (s.faultsRead).mem = s.mem := by
  rfl

@[simp] theorem State.takeTrap_wf {s : State} (hs : s.mem.wf = true) (f : FaultInfo) : (s.takeTrap f).mem.wf = true := by
  simp only [State.takeTrap]
  (repeat' split) <;> simp [hs]

@[simp] theorem State.trap_wf {s : State} (hs : s.mem.wf = true) (code : Nat) (addr : Word) :
    (s.trap code addr).mem.wf = true := by
  simp [State.trap, hs]

@[simp] theorem State.illegal_wf {s : State} (hs : s.mem.wf = true) : (s.illegal).mem.wf = true := by
  simp [State.illegal, hs]

@[simp] theorem State.supervisorOnly_wf {s : State} (h : s.mem.wf = true) {f : State → State} (hf : (f s).mem.wf = true) :
    (s.supervisorOnly f).mem.wf = true := by
  unfold State.supervisorOnly
  split
  · exact State.trap_wf h _ _
  · exact hf

@[simp] theorem State.jump_wf {s : State} (hs : s.mem.wf = true) (target : Word) (reg : Bool) (f : Team → Team) :
    (s.jump target reg f).mem.wf = true := by
  unfold State.jump
  split <;> simp [hs]

@[simp] theorem writeLaneSlots_wf (disp : LaneFault → Nat) (fs : List LaneFault) {s : State} (h : s.mem.wf = true) :
    (writeLaneSlots disp fs s).mem.wf = true := by
  induction fs generalizing s with
  | nil => exact h
  | cons f fs ih => exact ih (State.writeSlot_wf h _ _)

@[simp] theorem retiredEvents_mem (lanes : List (Nat × Nat)) (cs : List Nat) (s : State) :
    (retiredEvents lanes cs s).mem = s.mem := by
  induction cs generalizing s with
  | nil => rfl
  | cons c cs ih => simp [retiredEvents, ih]

@[simp] theorem State.retireLanes_mem (s : State) (lanes : List (Nat × Nat)) : (s.retireLanes lanes).mem = s.mem :=
  retiredEvents_mem _ _ _

@[simp] theorem State.laneFaults_wf {s : State} (h : s.mem.wf = true) (inHandler : Bool) (fs : List LaneFault) :
    (s.laneFaults inHandler fs).mem.wf = true := by
  unfold State.laneFaults
  split
  · exact h
  split
  · simp [h]
  simp only
  split
  · apply writeLaneSlots_wf
    split <;> simp [h]
  · split <;> simp [h]

@[simp] theorem disposeLanes_wf (v : Invocation) (i : Option Instr) (ls : List Nat) (a : Disposed) {s : State}
    (h : s.mem.wf = true) : (disposeLanes v i ls a s).2.mem.wf = true := by
  induction ls generalizing a s with
  | nil => exact h
  | cons l ls ih =>
    simp only [disposeLanes]
    split
    · exact ih _ h
    · refine ih _ ?_
      split
      · split <;> exact h
      · exact h
    · exact ih _ h
    · refine ih _ (State.setSlotByte_wf ?_ _ _ _)
      split <;> simp [h]

@[simp] theorem pageRequests_mem (pages ps : List Nat) (s : State) : (pageRequests pages ps s).mem = s.mem := by
  induction ps generalizing s with
  | nil => rfl
  | cons p ps ih => simp [pageRequests, ih]

@[simp] theorem returnHeld_wf (v : Invocation) (hs : List Path) {s : State} (h : s.mem.wf = true) :
    (returnHeld v hs s).2.2.mem.wf = true := by
  induction hs generalizing s with
  | nil => exact h
  | cons p hs ih => exact ih (disposeLanes_wf _ _ _ _ h)

@[simp] theorem State.leaveHandler_mem (s : State) : (s.leaveHandler).mem = s.mem := by
  unfold State.leaveHandler
  (repeat' split) <;> rfl

@[simp] theorem State.completeScalar_wf {s : State} (hs : s.mem.wf = true) : (s.completeScalar).mem.wf = true := by
  unfold State.completeScalar
  split <;> simp [hs]

@[simp] theorem State.trapReturn_wf {s : State} (h : s.mem.wf = true) : s.trapReturn.mem.wf = true := by
  unfold State.trapReturn
  split
  · simp [h]
  next v _ =>
    simp only
    split
    · (repeat' split) <;> simp [h]
    · rw [State.leaveHandler_mem]
      refine State.settle_wf ?_
      rw [pageRequests_mem]
      split <;> simp [h]

end Sys2Proof.Machine
end

section
/-!
SUPPORT. Memory keeps its canonical form (log entry 1): lane words that compute (R98 to R187).
-/

namespace Sys2Proof.Machine

@[simp] theorem State.corrected_mem (s : State) (l w : Nat) : (s.corrected l w).mem = s.mem := by
  rfl

@[simp] theorem State.correctLane_mem (s : State) (l : Nat) (words : List Nat) : (s.correctLane l words).mem = s.mem := by
  simp only [State.correctLane]
  rw [foldl_mem fun s w => State.corrected_mem s l w]
  split <;> rfl

@[simp] theorem State.correctPreds_mem (s : State) (l : Nat) : (s.correctPreds l).mem = s.mem := by
  simp [State.correctPreds]

@[simp] theorem State.correct_mem (s : State) (i : Instr) (words ls : List Nat) : (s.correct i words ls).mem = s.mem := by
  induction ls generalizing s with
  | nil => rfl
  | cons l ls ih =>
    simp only [State.correct, ih]
    split <;> simp

@[simp] theorem State.faultPath_wf {s : State} (hs : s.mem.wf = true) (p : Path) (code : Nat) (addr : Word) :
    (s.faultPath p code addr).mem.wf = true := by
  simp [State.faultPath, hs]

theorem State.laneParts_wf {s : State} (h : s.mem.wf = true) {i : Instr} {ok : Team → Bool} {f : LaneRun → State → State}
    (hf : ∀ r, (f r s).mem.wf = true) : (s.laneParts i ok f).mem.wf = true := by
  unfold State.laneParts
  split
  · split
    · exact State.faultPath_wf h _ _ _
    split
    · exact h
    · exact hf _
  · exact h

@[simp] theorem State.spend_mem (s : State) (r : LaneRun) : (s.spend r).mem = s.mem := by
  rfl

theorem State.laneWord_wf {s : State} (h : s.mem.wf = true) {i : Instr} {ok : Team → Bool} {f : LaneRun → State → State}
    (hf : ∀ r, (f r s).mem.wf = true) : (s.laneWord i ok f).mem.wf = true := by
  refine State.laneParts_wf h fun r => ?_
  split
  · exact hf r
  · rwa [State.spend_mem]

@[simp] theorem State.lateFaults_mem (s : State) : s.lateFaults.2.mem = s.mem := by
  simp only [State.lateFaults]
  split <;> rfl

@[simp] theorem State.boundary_wf {s : State} (h : s.mem.wf = true) (inHandler : Bool) (faults : List LaneFault) :
    (s.boundary inHandler faults).mem.wf = true := by
  have hl : s.lateFaults.2.mem.wf = true := by rwa [State.lateFaults_mem]
  simp only [State.boundary]
  split
  · exact hl
  · exact State.settle_wf (State.laneFaults_wf hl _ _)

@[simp] theorem State.finishWord_wf {s : State} (hs : s.mem.wf = true) (r : LaneRun) (changed : Bool) (faults : List LaneFault)
    : (s.finishWord r changed faults).mem.wf = true := by
  simp [State.finishWord, hs]

@[simp] theorem State.cutWord_mem (s : State) (r : LaneRun) (changed : Bool) (fl : Flags5) (faults : List LaneFault) :
    (s.cutWord r changed fl faults).mem = s.mem := by
  rfl

@[simp] theorem State.laneEach_wf {s : State} (h : s.mem.wf = true) (r : LaneRun) (cls n : Nat) (eff : LaneEff) :
    (s.laneEach r cls n eff).mem.wf = true := by
  simp only [State.laneEach, State.countCur_mem]
  split <;> simp [h]

@[simp] theorem State.laneResult_wf {s : State} (h : s.mem.wf = true) (i : Instr) (cls n : Nat) (d : Operand)
    (f : LaneEnv → Nat → Nat × Flags5) : (s.laneResult i cls n d f).mem.wf = true :=
  State.laneParts_wf h fun _ => State.laneEach_wf h _ _ _ _

theorem State.laneCross_wf {s : State} (h : s.mem.wf = true) {r : LaneRun} {reads : List (Nat × List Nat)} {f : State → State}
    (hf : ∀ u, u.mem.wf = true → (f u).mem.wf = true) : (s.laneCross r reads f).mem.wf = true := by
  have hu : ∀ (xs : List (Nat × List Nat)) (g : Nat → Bool), (xs.foldl (fun (s : State) x =>
      if g x.1 then s.correct r.i x.2 [x.1] else s.correctLane x.1 x.2) s).mem.wf = true := fun xs g => by
    rw [foldl_mem fun s x => by split <;> simp]
    exact h
  simp only [State.laneCross]
  split
  · exact State.finishWord_wf (hu _ _) _ _ _
  · exact hf _ (hu _ _)

@[simp] theorem laneInt_wf (i : Instr) (h : LaneHead) (sat : Bool) (f : Nat → Int → Int → Int → Int) {s : State}
    (hs : s.mem.wf = true) : (laneInt i h sat f s).mem.wf = true :=
  State.laneResult_wf hs _ _ _ _ _

@[simp] theorem laneBits_wf (i : Instr) (h : LaneHead) (f : Nat → Nat → Nat → Nat) {s : State} (hs : s.mem.wf = true) :
    (laneBits i h f s).mem.wf = true :=
  State.laneResult_wf hs _ _ _ _ _

@[simp] theorem laneShift_wf (i : Instr) (h : LaneHead) (f : Nat → Nat → Nat → Nat) {s : State} (hs : s.mem.wf = true) :
    (laneShift i h f s).mem.wf = true :=
  State.laneResult_wf hs _ _ _ _ _

theorem execVcmp_wf {s : State} (hs : s.mem.wf = true) (h : LaneHead) (x : AuxC) : NextWf (execVcmp h x s) :=
  (nextWf_next _).2 (State.laneParts_wf hs fun _ => State.laneEach_wf hs _ _ _ _)

theorem execPlop_wf {s : State} (hs : s.mem.wf = true) (h : LaneHead) (x : AuxC) : NextWf (execPlop h x s) :=
  (nextWf_next _).2 (State.laneParts_wf hs fun _ => State.laneEach_wf hs _ _ _ _)

@[simp] theorem State.crossResult_wf {s : State} (hs : s.mem.wf = true) (i : Instr) (h : LaneHead) (cls : Nat)
    (ok : Team → Bool) (src : LaneRun → Nat → List Nat) (f : LaneRun → LaneEnv → Nat → Nat × Flags5) :
    (s.crossResult i h cls ok src f).mem.wf = true :=
  State.laneWord_wf hs fun _ => State.laneCross_wf hs fun u hu => by simp [hu]

@[simp] theorem State.crossScalar_wf {s : State} (hs : s.mem.wf = true) (r : LaneRun) (d : Reg) (v : Word) (fl : Flags5)
    (cls : Nat) : (s.crossScalar r d v fl cls).mem.wf = true := by
  simp [State.crossScalar, hs]

theorem execVreduce_wf {s : State} (hs : s.mem.wf = true) (h : LaneHead) (x : AuxX) : NextWf (execVreduce h x s) := by
  refine (nextWf_next _).2 ?_
  split
  · exact State.laneWord_wf hs fun _ => State.laneCross_wf hs fun u hu => by simp [hu]
  · exact State.crossResult_wf hs _ _ _ _ _ _

theorem execVvote_wf {s : State} (hs : s.mem.wf = true) (h : LaneHead) (x : AuxX) : NextWf (execVvote h x s) := by
  refine (nextWf_next _).2 ?_
  split
  · exact State.laneWord_wf hs fun _ => State.laneCross_wf hs fun u hu => by simp [hu]
  · exact State.crossResult_wf hs _ _ _ _ _ _

@[simp] theorem laneFp_wf (i : Instr) (h : LaneHead) (ops : Nat)
    (f : Block → Fmt → FV → FV → FV → Nat × Flags5) {s : State} (hs : s.mem.wf = true) : (laneFp i h ops f s).mem.wf = true :=
  State.laneParts_wf hs fun _ => State.laneEach_wf hs _ _ _ _

@[simp] theorem laneFn_wf (i : Instr) (h : LaneHead) (f : FV → Nat × Flags5) {s : State} (hs : s.mem.wf = true) :
    (laneFn i h f s).mem.wf = true :=
  State.laneParts_wf hs fun _ => State.laneEach_wf hs _ _ _ _

@[simp] theorem laneProbe_wf (i : Instr) (h : LaneHead) (f : Fmt → FV → Nat) {s : State} (hs : s.mem.wf = true) :
    (laneProbe i h f s).mem.wf = true :=
  State.laneParts_wf hs fun _ => State.laneEach_wf hs _ _ _ _

@[simp] theorem laneConvert_wf (i : Instr) (h : LaneHead) (x : AuxA) (st dt vt : LType) (k ns nd : Nat) {s : State}
    (hs : s.mem.wf = true) : (laneConvert i h x st dt vt k ns nd s).mem.wf = true :=
  State.laneParts_wf hs fun _ => State.laneEach_wf hs _ _ _ _

theorem execVcvt_wf {s : State} (hs : s.mem.wf = true) (h : LaneHead) (x : AuxA) : NextWf (execVcvt h x s) := by
  refine (nextWf_next _).2 ?_
  split <;> simp [hs]

@[simp] theorem lanePack_wf (i : Instr) (h : LaneHead) (x : AuxA) (out : Bool) {s : State} (hs : s.mem.wf = true) :
    (lanePack i h x out s).mem.wf = true := by
  unfold lanePack
  split
  · exact hs
  split
  · exact hs
  simp only
  split <;> exact laneConvert_wf _ _ _ _ _ _ _ _ _ hs

theorem execFmma_wf {s : State} (hs : s.mem.wf = true) (h : LaneHead) : NextWf (execFmma h s) := by
  refine (nextWf_next _).2 (State.laneWord_wf hs fun r => ?_)
  simp only [State.countCur_mem]
  apply State.finishWord_wf
  rw [foldl_mem fun s l => State.correctLane_mem s l _, State.correct_mem]
  exact hs

end Sys2Proof.Machine
end

section
/-!
SUPPORT. Memory keeps its canonical form (log entry 1): scalar accesses and the scalar instructions (R47 to R58).
-/

namespace Sys2Proof.Machine

/-! ### Scalar accesses -/

/-- Memory is in its canonical form in the state that an access leaves. -/
@[simp] def Acc.Wf : Acc (List Byte) → Prop
  | .ok _ s => s.mem.wf = true
  | .trap _ s => s.mem.wf = true
  | .wait s => s.mem.wf = true

theorem State.remoteKeep_wf {s : State} (hs : s.mem.wf = true) (op a w : Nat) (data : List Byte) :
    (s.remoteKeep op a w data).Wf := by
  unfold State.remoteKeep
  (repeat' split) <;> exact hs

theorem State.remoteScalar_wf {s : State} (hs : s.mem.wf = true) (op a w : Nat) (data : List Byte) :
    (s.remoteScalar op a w data).Wf := by
  have h := State.remoteKeep_wf hs op a w data
  unfold State.remoteScalar
  generalize s.remoteKeep op a w data = r at h
  cases r <;> simpa using h

theorem State.scalarGlobal_wf {s : State} (hs : s.mem.wf = true) {k : Kind} {op a w pkg sett off : Nat} {data : List Byte}
    {onSend : State → State} {here : Leaf → State → Acc (List Byte)} (hsend : (onSend s).mem.wf = true)
    (hhere : ∀ l, (here l s).Wf) : (s.scalarGlobal k op a w pkg sett off data onSend here).Wf := by
  unfold State.scalarGlobal
  repeat' split
  · exact State.remoteScalar_wf hs _ _ _ _
  · exact hs
  · exact hs
  · exact hs
  · exact hhere _
  · exact State.remoteScalar_wf hsend _ _ _ _
  · exact hs
  · exact hs

theorem State.scalarLoad_wf {s : State} (hs : s.mem.wf = true) (a w : Nat) : (s.scalarLoad a w).Wf := by
  have h := State.locate_wf hs .scalar a w (a % w == 0) false
  unfold State.scalarLoad
  split <;> rename_i heq <;> rw [heq] at h
  · exact h
  · exact h
  · exact h
  · split
    next hok =>
      have hg := hok ▸ State.scalarGlobal_wf h h fun l => by simpa using h
      simp only [Acc.Wf] at hg ⊢
      split
      · exact hg
      · rwa [State.l1Through_mem]
    next r _ => exact State.scalarGlobal_wf h h fun l => by simpa using h

theorem State.scalarStore_wf {s : State} (hs : s.mem.wf = true) (a : Nat) (bs : List Byte) : (s.scalarStore a bs).Wf := by
  have h := State.locate_wf hs .scalar a bs.length (a % bs.length == 0) true
  unfold State.scalarStore
  split <;> rename_i heq <;> rw [heq] at h
  · exact h
  · exact h
  · exact State.poke_wf h _ _ _
  · exact State.scalarGlobal_wf h (by simpa using h) fun l => by simp [State.writeLine_wf, h]

theorem State.scalarAtomic_wf {s : State} (hs : s.mem.wf = true) (acq : Bool) (a w : Nat) (sent : List Byte)
    (f : Nat → Option Nat) : (s.scalarAtomic acq a w sent f).Wf := by
  have h := State.locate_wf hs .scalar a w (a % w == 0) true
  unfold State.scalarAtomic
  split <;> rename_i heq <;> rw [heq] at h
  · exact h
  · exact h
  · dsimp only
    split
    · exact State.poke_wf h _ _ _
    · exact h
  · refine State.scalarGlobal_wf h (by simpa using h) fun l => ?_
    simp only [Acc.Wf, State.l1Drop_mem]
    split <;> simp [h]

theorem State.loadWords_wf {s : State} (hs : s.mem.wf = true) (a n : Nat) : (s.loadWords a n).Wf := by
  induction n generalizing s a with
  | zero => exact hs
  | succ n ih =>
    have h := State.scalarLoad_wf hs a 8
    unfold State.loadWords
    split <;> rename_i heq <;> rw [heq] at h
    · exact h
    · exact h
    · have h' := ih h (a + 8)
      split <;> rename_i heq' <;> rw [heq'] at h' <;> exact h'

theorem State.readWords_wf {s : State} (hs : s.mem.wf = true) (a n : Nat) : (s.readWords a n).Wf := by
  unfold State.readWords
  split
  · split
    · exact hs
    split
    · exact hs
    have hk := State.remoteKeep_wf hs Kind.load.op a (8 * n) []
    split
    · split
      next heq => simpa [heq] using hk
      · exact hk
    · split
      next heq => simpa [heq] using hk
      · exact hk
    · exact hs
    · exact hs
  · exact State.loadWords_wf hs _ _

/-! ### Loads, stores and atomics of the scalar stream -/

theorem aluRR_wf {s : State} (hs : s.mem.wf = true) (f : Word → Word → Word) (d a b : Reg) :
    (aluRR f d a b s).mem.wf = true :=
  State.whenReady_wf hs (by simpa using hs)

theorem aluR_wf {s : State} (hs : s.mem.wf = true) (f : Word → Word) (d a : Reg) (len : Nat) :
    (aluR f d a len s).mem.wf = true :=
  State.whenReady_wf hs (by simpa using hs)

@[simp] theorem compare_mem (k : Cond) (c : Bit3) (a : Reg) (y : State → Word) (len : Nat) (s : State) :
    (compare k c a y len s).mem = s.mem :=
  State.resultC_mem _ _ _ _

theorem load_wf {s : State} (hs : s.mem.wf = true) (w : Nat) (d a : Reg) (x : Word) (len : Nat) :
    (load w d a x len s).mem.wf = true := by
  refine State.whenReady_wf hs ?_
  have h := State.scalarLoad_wf hs (s.cur.s a + x).toNat w
  dsimp only
  split <;> rename_i heq <;> rw [heq] at h <;> simp only [Acc.Wf] at h <;> simp [h]

theorem store_wf {s : State} (hs : s.mem.wf = true) (w : Nat) (d a : Reg) (x : Word) (len : Nat) :
    (store w d a x len s).mem.wf = true := by
  refine State.whenReady_wf hs ?_
  have h := State.scalarStore_wf hs (s.cur.s a + x).toNat (bytesOf w (s.cur.s d).toNat)
  dsimp only
  split <;> rename_i heq <;> rw [heq] at h <;> simp only [Acc.Wf] at h <;> simp [h]

theorem State.scalarAcquire_mem (s : State) (ord : Ordering4) (a : Nat) : (s.scalarAcquire ord a).mem = s.mem := by
  unfold State.scalarAcquire
  split <;> simp

theorem execSatom_wf {s : State} (hs : s.mem.wf = true) (d a b : Reg) (ord : Ordering4) (word : Bool) (op : AtomOp) :
    NextWf (execSatom d a b ord word op s) := by
  refine (nextWf_next _).2 (State.whenReady_wf hs ?_)
  dsimp only
  split
  · exact hs
  split <;> rename_i heq <;> have h := heq ▸ State.scalarAtomic_wf hs _ _ _ _ _ <;> simp only [Acc.Wf] at h <;>
    simp [h, State.scalarAcquire_mem]

theorem execSloop_wf {s : State} (hs : s.mem.wf = true) (l : BitVec 2) (c : Reg) (o : BitVec 17) :
    NextWf (execSloop l c o s) := by
  refine (nextWf_next _).2 (State.whenReady_wf hs ?_)
  dsimp only
  (repeat' split) <;> simp [hs]

theorem execSleave_wf {s : State} (hs : s.mem.wf = true) : NextWf (execSleave s) := by
  refine (nextWf_next _).2 ?_
  split <;> simp [hs]

end Sys2Proof.Machine
end

section
/-!
SUPPORT. Memory keeps its canonical form (log entry 1): system registers, waits, the SEXT prefix, mapping and energy (R31,
R59 to R69).
-/

namespace Sys2Proof.Machine

@[simp] theorem sysRead_wf {s : State} (hs : s.mem.wf = true) (d : Reg) (n : BitVec 12) (len : Nat) :
    (sysRead d n len s).mem.wf = true := by
  unfold sysRead
  split <;> simp [hs]

@[simp] theorem sysWrite_wf {s : State} (hs : s.mem.wf = true) (a : Reg) (n : BitVec 12) (len : Nat) :
    (sysWrite a n len s).mem.wf = true := by
  unfold sysWrite
  split <;> simp [hs]

@[simp] theorem userWrite_wf {s : State} (hs : s.mem.wf = true) (a : Reg) (f : Team → Word → Team) (len : Nat) :
    (userWrite a f len s).mem.wf = true :=
  State.whenReady_wf hs (by simpa using hs)

theorem prefixed_wf {hi : BitVec 25} {i : Instr} {f : State → State} (h : prefixed hi i = some f) {s : State}
    (hs : s.mem.wf = true) : (f s).mem.wf = true := by
  have guarded {g : State → State} (hg : (g s).mem.wf = true) {f : State → State}
      (h : some (if hi = 0 then g else State.illegal) = some f) : (f s).mem.wf = true := by
    cases h
    split
    · exact hg
    · exact State.illegal_wf hs
  cases i with
  | saddi | sandi | sori | sxori => cases h; exact aluR_wf hs _ _ _ _
  | sshli | sshri | ssrai => exact guarded (aluR_wf hs _ _ _ _) h
  | scmpi => cases h; exact State.whenReady_wf hs (by simpa using hs)
  | sldw | sldd => cases h; exact load_wf hs _ _ _ _ _
  | sstw | sstd => cases h; exact store_wf hs _ _ _ _ _
  | srd => exact guarded (sysRead_wf hs _ _ _) h
  | swr => exact guarded (sysWrite_wf hs _ _ _) h
  | fstatWrite | fmodeWrite | srseedWrite | pkrWrite | loopRegisterWrite => exact guarded (userWrite_wf hs _ _ _) h
  | _ => exact nomatch h

theorem execSext_wf {s : State} (hs : s.mem.wf = true) (hi : BitVec 25) : NextWf (execSext hi s) := by
  refine (nextWf_next _).2 ?_
  split
  · simp [hs]
  split
  · split <;> simp [hs]
  split
  · simp [hs]
  split
  next hf => exact prefixed_wf hf hs
  · simp [hs]

theorem execLgo_wf {s : State} (hs : s.mem.wf = true) (i : BitVec 19) : NextWf (execLgo i s) := by
  simp [execLgo, hs]

theorem execLwait_wf {s : State} (hs : s.mem.wf = true) : NextWf (execLwait s) := by
  simp [execLwait, hs]

@[simp] theorem State.endWait_mem (s : State) : (s.endWait).mem = s.mem := by
  rfl

theorem execWaitt_wf {s : State} (hs : s.mem.wf = true) (a : Reg) : NextWf (execWaitt a s) := by
  refine (nextWf_next _).2 (State.whenReady_wf hs ?_)
  simp [hs]

theorem execWaittGtcReached_wf {s : State} (hs : s.mem.wf = true) : NextWf (execWaittGtcReached s) := by
  refine (nextWf_next _).2 ?_
  split <;> simp [hs]

theorem execTfence_wf {s : State} (hs : s.mem.wf = true) : NextWf (execTfence s) := by
  simp [execTfence, hs]

theorem execTret_wf {s : State} (hs : s.mem.wf = true) : NextWf (execTret s) := by
  refine (nextWf_next _).2 (State.supervisorOnly_wf hs ?_)
  simp [hs]

theorem execHandlerEntry_wf {s : State} (hs : s.mem.wf = true) : NextWf (execHandlerEntry s) := by
  simp [execHandlerEntry, hs]

theorem execPhint_wf {s : State} (hs : s.mem.wf = true) (i : BitVec 19) : NextWf (execPhint i s) := by
  simp [execPhint, hs]

theorem execShalt_wf {s : State} (hs : s.mem.wf = true) : NextWf (execShalt s) := by
  simp [execShalt, hs]

@[simp] theorem State.rawLines_mem (s : State) (k n : Nat) : (s.rawLines k n).mem = s.mem := by
  rfl

theorem linkTables_wf {m : Memory} (h : m.wf = true) (sett off log2 leaf : Nat) (ls : List (Nat × Nat × Bool)) (k : Nat)
    (slots : List Nat) : (linkTables m sett off log2 leaf ls k slots).1.wf = true := by
  induction ls generalizing m k slots with
  | nil => exact h
  | cons l ls ih =>
    unfold linkTables
    split
    · exact Memory.wf_setNat h _ _ _
    split
    · exact ih (Memory.wf_setNat (Memory.wf_clear h _ _) _ _ _) _ _
    · exact h

theorem State.mapPage_wf {s : State} (hs : s.mem.wf = true) (ctx sett off : Nat) (size : PageSize) (key : BitVec 5)
    (x w r : Bool) : (s.mapPage ctx sett off size key x w r).2.mem.wf = true := by
  unfold State.mapPage
  dsimp only
  split
  · exact hs
  split
  · exact hs
  split
  · exact hs
  split
  · exact hs
  · exact hs
  split
  · exact hs
  · rw [State.setCtx_mem, State.rawLines_mem]
    exact linkTables_wf (Memory.wf_clear hs _ _) _ _ _ _ _ _ _

theorem mapAll_wf (ctx sett : Nat) (key : BitVec 5) (x w r : Bool) (ps : List Nat) {s : State} (hs : s.mem.wf = true) :
    (mapAll ctx sett key x w r ps s).mem.wf = true := by
  induction ps generalizing s with
  | nil => exact hs
  | cons p ps ih => exact ih (State.mapPage_wf hs _ _ _ _ _ _ _ _)

theorem widen_wf (ctx sett page : Nat) (key : BitVec 5) (x w r : Bool) (bs : List Nat) {s : State} (hs : s.mem.wf = true) :
    (widen ctx sett page key x w r bs s).mem.wf = true := by
  induction bs generalizing s with
  | nil => exact hs
  | cons b bs ih =>
    simp only [widen]
    exact wf_of_ite hs (ih (mapAll_wf _ _ _ _ _ _ _ hs))

theorem State.pgmapHere_wf {s : State} (hs : s.mem.wf = true) (sett off : Nat) (size : PageSize) (key : BitVec 5) (x w r : Bool)
    : (s.pgmapHere sett off size key x w r).2.mem.wf = true := by
  have h := State.mapPage_wf hs s.cur.ctx sett off size key x w r
  unfold State.pgmapHere
  dsimp only
  split
  · exact widen_wf _ _ _ _ _ _ _ _ h
  · exact h

theorem execPgmap_wf {s : State} (hs : s.mem.wf = true) (a b : Reg) (x w r : Bool) (key : BitVec 5) (size : PageSize) :
    NextWf (execPgmap a b x w r key size s) := by
  refine (nextWf_next _).2 (State.supervisorOnly_wf hs (State.whenReady_wf hs ?_))
  dsimp only
  split
  · simp [hs]
  split
  · simp [hs]
  split
  · simp [State.pgmapHere_wf, hs]
  · exact hs
  · simp [hs]
  · split <;> rename_i heq <;> have h := heq ▸ State.remoteScalar_wf hs _ _ _ _ <;> simp only [Acc.Wf] at h <;> simp [h]

@[simp] theorem State.setAccount_mem (s : State) (f : Account → Account) : (s.setAccount f).mem = s.mem := by
  rfl

theorem State.reserveEnergy_mem {s t : State} {amt : Nat} (h : s.reserveEnergy amt = some t) : t.mem = s.mem := by
  unfold State.reserveEnergy at h
  split at h
  · cases h
    simp
  split at h
  · cases h
    simp
  · cases h

theorem execEnres_wf {s : State} (hs : s.mem.wf = true) (a : Reg) : NextWf (execEnres a s) := by
  refine (nextWf_next _).2 (State.whenReady_wf hs ?_)
  split
  next h => simp [State.reserveEnergy_mem h, hs]
  · exact hs

theorem execEnresNowait_wf {s : State} (hs : s.mem.wf = true) (a : Reg) (c : Bit3) : NextWf (execEnresNowait a c s) := by
  refine (nextWf_next _).2 (State.whenReady_wf hs ?_)
  dsimp only
  split
  next h => split <;> simp [State.reserveEnergy_mem h, hs]
  · simp [hs]

end Sys2Proof.Machine
end

section
/-!
SUPPORT. Memory keeps its canonical form (log entry 1): engine instructions at their issue (R297 to R315).
-/

namespace Sys2Proof.Machine

@[simp] theorem State.reject_wf {s : State} (hs : s.mem.wf = true) (addr : Nat) : (s.reject addr).mem.wf = true := by
  simp [State.reject, hs]

@[simp] theorem State.holdStruct_mem (s : State) (bs : List Byte) : (s.holdStruct bs).mem = s.mem := by
  rfl

@[simp] theorem State.dropStruct_mem (s : State) : (s.dropStruct).mem = s.mem := by
  unfold State.dropStruct
  split <;> rfl

theorem State.withStruct_wf {s : State} (hs : s.mem.wf = true) (a : Nat) {f : List Byte → State → State}
    (hf : ∀ bs u, u.mem.wf = true → (f bs u).mem.wf = true) : (s.withStruct a f).mem.wf = true := by
  have h := State.readWords_wf hs a 8
  unfold State.withStruct
  split
  · exact hf _ _ hs
  split
  · simp [hs]
  split <;> rename_i heq <;> rw [heq] at h
  · exact hf _ _ (by simpa using h)
  · exact State.reject_wf h _
  · exact h

/-- Memory is in its canonical form in the state that a verdict on an extent holds. -/
@[simp] def Extent.Wf : Extent → Prop
  | .good s => s.mem.wf = true
  | .bad _ s => s.mem.wf = true
  | .wait s => s.mem.wf = true

theorem State.unitCheck_wf {s : State} (hs : s.mem.wf = true) (a n : Nat) (wr dec : Bool) : (s.unitCheck a n wr dec).Wf := by
  unfold State.unitCheck
  dsimp only
  repeat' split
  any_goals exact hs
  all_goals
    rename_i heq
    have h := heq ▸ State.remoteKeep_wf hs _ _ _ _
    exact h

theorem extentCheck_wf (wr dec : Bool) (fuel a n : Nat) {s : State} (hs : s.mem.wf = true) :
    (extentCheck wr dec fuel a n s).Wf := by
  induction fuel generalizing a n s with
  | zero => exact hs
  | succ fuel ih =>
    have h := State.unitCheck_wf hs a (min n (unitLeft a)) wr dec
    unfold extentCheck
    split
    · exact hs
    dsimp only
    split
    next heq => exact ih _ _ (show (Extent.good _).Wf from heq ▸ h)
    · exact h

theorem extentsCheck_wf (wr dec : Bool) (xs : List (Nat × Nat)) (low : Option Nat) {s : State} (hs : s.mem.wf = true) :
    (extentsCheck wr dec xs low s).Wf := by
  induction xs generalizing low s with
  | nil => cases low <;> exact hs
  | cons x xs ih =>
    have h := extentCheck_wf wr dec (x.2 / 4096 + 3) x.1 x.2 hs
    unfold extentsCheck
    split <;> rename_i heq <;> rw [heq] at h
    · exact h
    · exact ih _ h
    · exact ih _ h

theorem execChdef_wf {s : State} (hs : s.mem.wf = true) (a b : Reg) (l : BitVec 4) (h : BitVec 5) :
    NextWf (execChdef a b l h s) := by
  refine (nextWf_next _).2 (State.whenReady_wf hs ?_)
  dsimp only
  split
  · simp [hs]
  split <;> rename_i heq <;> have h := heq ▸ extentCheck_wf _ _ _ _ _ hs <;> simp only [Extent.Wf] at h <;> simp [h]

theorem execChadvP_wf {s : State} (hs : s.mem.wf = true) (a : Reg) (h : BitVec 5) : NextWf (execChadvP a h s) := by
  refine (nextWf_next _).2 (State.whenReady_wf hs ?_)
  split <;> simp [hs]

theorem execChadvC_wf {s : State} (hs : s.mem.wf = true) (a : Reg) (h : BitVec 5) : NextWf (execChadvC a h s) := by
  refine (nextWf_next _).2 (State.whenReady_wf hs ?_)
  split <;> simp [hs]

@[simp] theorem chwait_wf {s : State} (hs : s.mem.wf = true) (quantity : Chan → Nat) (a : Reg) (h : BitVec 5) :
    (chwait quantity a h s).mem.wf = true := by
  refine State.whenReady_wf hs ?_
  split <;> simp [hs]

@[simp] theorem State.enqueueCmd_mem (s : State) (matrix : Bool) (cmd : EngCmd) : (s.enqueueCmd matrix cmd).mem = s.mem := by
  simp [State.enqueueCmd]

theorem State.issue_wf {s : State} (hs : s.mem.wf = true) {regs : List Reg} {f : State → State} (hf : (f s).mem.wf = true) :
    (s.issue regs f).mem.wf = true := by
  unfold State.issue
  split
  · simp [hs]
  · exact State.whenReady_wf hs hf

theorem execTarrive_wf {s : State} (hs : s.mem.wf = true) : NextWf (execTarrive s) := by
  simp [execTarrive, hs]

theorem execTwait_wf {s : State} (hs : s.mem.wf = true) (d : Reg) (w : WaitSel) : NextWf (execTwait d w s) := by
  refine (nextWf_next _).2 (State.whenReady_wf hs ?_)
  simp [hs]

theorem State.issueMover_wf {s : State} (hs : s.mem.wf = true) (k : MvKind) (d : MvDesc) :
    (s.issueMover k d).mem.wf = true := by
  have src := extentsCheck_wf false (k == .dec) (moverExtents k d).1 none hs
  have dst {t : State} (ht : t.mem.wf = true) (low : Option Nat) :
      (match extentsCheck true false (moverExtents k d).2 low t with
        | .wait s => s
        | .bad a s => s.reject a
        | .good s =>
          if 64 < (moverPages s.cur k d).length + sidePages s.cur d.inch d.incnt + sidePages s.cur d.outch d.outcnt then s.reject 0
          else s.enqueueCmd false (s.command (.mover k d))).mem.wf = true := by
    have h := extentsCheck_wf true false (moverExtents k d).2 low ht
    split <;> rename_i heq <;> rw [heq] at h
    · exact h
    · exact State.reject_wf h _
    · exact wf_of_ite (State.reject_wf h _) (by simpa using h)
  unfold State.issueMover
  dsimp only
  generalize extentsCheck false (k == .dec) (moverExtents k d).1 none s = r at src
  cases r with
  | wait t => exact src
  | bad a t => exact dst src _
  | good t => exact dst src _

theorem State.moverInstr_wf {s : State} (hs : s.mem.wf = true) (a : Reg) {ok : List Byte → MvDesc → Bool}
    {run : MvDesc → Nat → State → State} (hrun : ∀ d at_ u, u.mem.wf = true → (run d at_ u).mem.wf = true) :
    (s.moverInstr a ok run).mem.wf = true := by
  refine State.issue_wf hs (State.withStruct_wf hs _ fun bs u hu => ?_)
  split
  · exact State.reject_wf hu _
  split
  · exact hrun _ _ _ hu
  · exact State.reject_wf hu _

theorem execMvcopy_wf {s : State} (hs : s.mem.wf = true) (a : Reg) (dec : Bool) : NextWf (execMvcopy a dec s) :=
  (nextWf_next _).2 (State.moverInstr_wf hs _ fun _ _ _ hu => State.issueMover_wf hu _ _)

theorem execMvgath_wf {s : State} (hs : s.mem.wf = true) (a : Reg) : NextWf (execMvgath a s) := by
  refine (nextWf_next _).2 (State.moverInstr_wf hs _ fun d _ u hu => ?_)
  dsimp only
  split
  · split
    · exact State.issueMover_wf hu _ _
    have hc := extentCheck_wf false false (d.rows + 3) d.aux.toNat (8 * d.rows) hu
    split <;> rename_i heq <;> rw [heq] at hc
    · exact hc
    · exact State.reject_wf hc _
    · have hr := State.readWords_wf hc d.aux.toNat d.rows
      split <;> rename_i heq <;> rw [heq] at hr
      · exact hr
      · exact State.reject_wf hr _
      · exact State.issueMover_wf (by simpa using hr) _ _
  · exact hu

theorem execMvfill_wf {s : State} (hs : s.mem.wf = true) (a : Reg) : NextWf (execMvfill a s) :=
  (nextWf_next _).2 (State.moverInstr_wf hs _ fun _ _ _ hu => State.issueMover_wf hu _ _)

theorem execTmma_wf {s : State} (hs : s.mem.wf = true) (a : Reg) (bord aord zero : Bool) (hb ha : BitVec 5) :
    NextWf (execTmma a bord aord zero hb ha s) := by
  refine (nextWf_next _).2 (State.issue_wf hs ?_)
  dsimp only
  (repeat' split) <;> simp [hs]

@[simp] theorem taccInstr_wf (op : TaccOp) (scaled : Bool) (a : Reg) (h : Nat) {s : State} (hs : s.mem.wf = true) :
    (taccInstr op scaled a h s).mem.wf = true := by
  refine State.issue_wf hs ?_
  dsimp only
  split
  · simp [hs]
  · exact wf_of_ite (by simp [hs]) (by simp [hs])

theorem execSpanopen_wf {s : State} (hs : s.mem.wf = true) (a : Reg) : NextWf (execSpanopen a s) := by
  refine (nextWf_next _).2 ?_
  (repeat' split) <;> simp [hs]

theorem execSpanmma_wf {s : State} (hs : s.mem.wf = true) (a : Reg) (keep zero : Bool) (ha hb : BitVec 5) :
    NextWf (execSpanmma a keep zero ha hb s) := by
  refine (nextWf_next _).2 (State.issue_wf hs ?_)
  dsimp only
  (repeat' split) <;> simp [hs]

theorem execSpanclose_wf {s : State} (hs : s.mem.wf = true) : NextWf (execSpanclose s) := by
  refine (nextWf_next _).2 (State.issue_wf hs ?_)
  (repeat' split) <;> simp [hs]

theorem rawRange_mem (ctx sett n off : Nat) (s : State) : (rawRange ctx sett n off s).mem = s.mem := by
  induction n generalizing off s with
  | zero => rfl
  | succ n ih =>
    unfold rawRange
    dsimp only
    rw [ih]
    split <;> simp

@[simp] theorem State.discardWhere_mem (s : State) (core : Nat) (f : Nat → Bool) : (s.discardWhere core f).mem = s.mem := by
  rfl

@[simp] theorem State.discardViews_mem (s : State) (pkg sett : Nat) (lines : List Nat) :
    (s.discardViews pkg sett lines).mem = s.mem := by
  simp [State.discardViews]

theorem execDfence_wf {s : State} (hs : s.mem.wf = true) (a b : Reg) : NextWf (execDfence a b s) := by
  refine (nextWf_next _).2 (State.whenReady_wf hs ?_)
  dsimp only
  split
  · simp [hs]
  split
  · exact hs
  split
  · simp [rawRange_mem, hs]
  · split <;> rename_i heq <;> have h := heq ▸ State.remoteScalar_wf hs _ _ _ _ <;> simp only [Acc.Wf] at h <;> simp [h]
  · exact hs
  · simp [hs]

@[simp] theorem State.sendData_mem (s : State) (sett ctx a op ropfmt kind : Nat) (bs : List Byte) :
    (s.sendData sett ctx a op ropfmt kind bs).mem = s.mem := by
  rfl

end Sys2Proof.Machine
end

section
/-!
SUPPORT. Memory keeps its canonical form (log entry 1): lane control, barriers and the memory words of lanes (R162 to R165,
R241 to R254).
-/

namespace Sys2Proof.Machine

theorem State.control_wf {s : State} (hs : s.mem.wf = true) (r : LaneRun) {f : Path → State → State}
    (hf : ∀ p u, u.mem.wf = true → (f p u).mem.wf = true) : (s.control r f).mem.wf = true := by
  unfold State.control
  extract_lets bad s₁ s₂
  have h₂ : s₂.mem.wf = true := wf_of_ite (by simp [s₁, hs]) (by simp [s₁, hs])
  split
  · exact h₂
  split
  · exact State.settle_wf h₂
  · exact State.settle_wf (hf _ _ h₂)

@[simp] theorem laneBranch_wf (i : Instr) (pack : Bool) {s : State} (hs : s.mem.wf = true) :
    (laneBranch i pack s).mem.wf = true :=
  State.laneWord_wf hs fun _ => State.control_wf hs _ fun _ _ hu => wf_of_ite hu hu

theorem execSkip_wf {s : State} (hs : s.mem.wf = true) (h : LaneHead) (x : AuxB) : NextWf (execSkip h x s) := by
  refine (nextWf_next _).2 (State.laneWord_wf hs fun r => ?_)
  dsimp only
  split
  · simp [hs]
  · exact wf_of_ite (State.faultPath_wf hs _ _ _) (State.control_wf hs _ fun _ _ hu => hu)

theorem execJoin_wf {s : State} (hs : s.mem.wf = true) (h : LaneHead) : NextWf (execJoin h s) := by
  refine (nextWf_next _).2 (State.laneWord_wf hs fun r => ?_)
  dsimp only
  split
  · exact hs
  · exact State.settle_wf hs

theorem execLend_wf {s : State} (hs : s.mem.wf = true) (h : LaneHead) : NextWf (execLend h s) :=
  (nextWf_next _).2 (State.laneWord_wf hs fun _ => State.settle_wf hs)

theorem execYieldl_wf {s : State} (hs : s.mem.wf = true) (h : LaneHead) : NextWf (execYieldl h s) :=
  (nextWf_next _).2 (State.laneWord_wf hs fun _ => hs)

theorem execLtrap_wf {s : State} (hs : s.mem.wf = true) (h : LaneHead) (x : AuxB) : NextWf (execLtrap h x s) :=
  (nextWf_next _).2 (State.laneWord_wf hs fun _ => State.finishWord_wf (by simpa using hs) _ _ _)

theorem execBar_wf {s : State} (hs : s.mem.wf = true) (h : LaneHead) (x : AuxX) : NextWf (execBar h x s) :=
  (nextWf_next _).2 (State.laneWord_wf hs fun _ => wf_of_ite (by simpa using hs) hs)

theorem execSliceExpiry_wf {s : State} (hs : s.mem.wf = true) : NextWf (execSliceExpiry s) := by
  refine (nextWf_next _).2 ?_
  split <;> simp [hs]

theorem execSpinDetectorFlag_wf {s : State} (hs : s.mem.wf = true) : NextWf (execSpinDetectorFlag s) := by
  simp [execSpinDetectorFlag, hs]

theorem execWatchdogFire_wf {s : State} (hs : s.mem.wf = true) (path : Nat) : NextWf (execWatchdogFire path s) := by
  refine (nextWf_next _).2 ?_
  (repeat' split) <;> simp [hs]

@[simp] theorem State.discardLanes_mem (s : State) (lanes : List Nat) : (s.discardLanes lanes).mem = s.mem := by
  simp [State.discardLanes, foldl_mem]

@[simp] theorem State.sawEarly_mem (s : State) (l : Nat) (tags : List Nat) : (s.sawEarly l tags).mem = s.mem := by
  simp [State.sawEarly]

theorem locateAll_wf (l : Nat) (wr : Bool) (ps : List (Nat × Nat)) {s : State} (hs : s.mem.wf = true) :
    (locateAll l wr ps s).1.mem.wf = true := by
  induction ps generalizing s with
  | nil => exact hs
  | cons p ps ih => exact ih (State.locate_wf hs _ _ _ _ _)

theorem State.locateLane_wf {s : State} (hs : s.mem.wf = true) (i : Instr) (pkr : Word) (m : MemOp) :
    (s.locateLane i pkr m).1.mem.wf = true := by
  unfold State.locateLane
  split
  · exact hs
  split
  · exact hs
  · exact locateAll_wf _ _ _ hs

theorem pokeAll_wf (arr : Nat) (ks : List (Nat × Nat)) (bs : List Byte) {s : State} (hs : s.mem.wf = true) :
    (pokeAll arr ks bs s).mem.wf = true := by
  induction ks generalizing bs s with
  | nil => exact hs
  | cons k ks ih => exact ih _ (State.poke_wf hs _ _ _)

@[simp] theorem State.l1Write_mem (s : State) (i : Instr) (m : MemOp) : (s.l1Write i m).mem = s.mem := by
  simp [State.l1Write, foldl_mem]

theorem runPass_wf (r : LaneRun) (xs : List (MemOp × LaneAccess)) (o : PassOut) {s : State} (hs : s.mem.wf = true) :
    (runPass r xs o s).2.mem.wf = true := by
  induction xs generalizing o s with
  | nil => exact hs
  | cons y rest ih =>
    obtain ⟨m, x⟩ := y
    cases x with
    | fault c | wait on | dark => exact ih _ hs
    | hit bs => exact ih _ (by simpa using hs)
    | here ks =>
      unfold runPass
      dsimp only
      split
      · exact ih _ (pokeAll_wf _ _ _ hs)
      split
      · exact ih _ hs
      · refine ih _ ?_
        split
        · exact pokeAll_wf _ _ _ hs
        · exact hs
    | request pkg sett => exact ih _ (by simpa using hs)

theorem sendAll_mem (r : LaneRun) (batch : Nat) (ks : List (Nat × Nat × Nat)) (xs : List (Nat × Nat × LaneAcc)) (s : State) :
    (sendAll r batch ks xs s).mem = s.mem := by
  induction ks generalizing s with
  | nil => rfl
  | cons k ks ih => exact ih _

theorem locatePass_wf (i : Instr) (pkr : Word) (ms : List MemOp) {s : State} (hs : s.mem.wf = true) :
    (locatePass i pkr ms s).1.mem.wf = true := by
  induction ms generalizing s with
  | nil => exact hs
  | cons m ms ih => exact ih (State.locateLane_wf hs _ _ _)

theorem sweepPasses_wf (r : LaneRun) (h : LaneHead) (x : AuxM) (words : List Nat) (lss : List (List Nat)) (slots : Nat)
    (claimed : List (Nat × Nat)) {s : State} (hs : s.mem.wf = true) :
    (sweepPasses r h x words lss slots claimed s).1.mem.wf = true := by
  induction lss generalizing slots claimed s with
  | nil => exact hs
  | cons ls rest ih =>
    cases slots with
    | zero => exact hs
    | succ slots =>
      have hl := locatePass_wf r.i r.b.snap.pkr
        ((ls.filter (fun l => ((s.cur.lane l).error r.i words).isNone)).map (memOp r h x)) hs
      unfold sweepPasses
      dsimp only
      split
      · exact hl
      split
      · exact hl
      split
      · exact hl
      · exact ih _ _ hl

theorem State.issueLanes_wf {s : State} (hs : s.mem.wf = true) (r : LaneRun) (words lanes : List Nat)
    (xs : List (MemOp × LaneAccess)) : (s.issueLanes r words lanes xs).2.mem.wf = true := by
  unfold State.issueLanes
  dsimp only
  rw [sendAll_mem]
  exact runPass_wf _ _ _ (by simpa using hs)

@[simp] theorem State.wordFlags_mem (s : State) (word : Nat) (fl : Flags5) : (s.wordFlags word fl).mem = s.mem := by
  unfold State.wordFlags
  split <;> simp

@[simp] theorem State.memDone_wf {s : State} (hs : s.mem.wf = true) (r : LaneRun) (passes : Nat) (changed : Bool) (fl : Flags5)
    (faults : List (Nat × FaultInfo)) : (s.memDone r passes changed fl faults).mem.wf = true := by
  simp [State.memDone, hs]

@[simp] theorem State.memCut_mem (s : State) (r : LaneRun) (w : Sweep) (changed : Bool) (fl : Flags5)
    (faults : List (Nat × FaultInfo)) (done_ : List Nat) : (s.memCut r w changed fl faults done_).mem = s.mem := by
  unfold State.memCut
  (repeat' split) <;> rfl

theorem State.memSweep_wf {s : State} (hs : s.mem.wf = true) (r : LaneRun) (h : LaneHead) (x : AuxM) :
    (s.memSweep r h x).mem.wf = true := by
  have hw := sweepPasses_wf r h x (wordsOf s.cur.code.mview (readOperands r.i)) (memLanes r) r.p.slice [] hs
  unfold State.memSweep
  dsimp only
  split
  · exact State.memDone_wf (State.issueLanes_wf hw _ _ _ _) _ _ _ _ _
  · rw [State.memCut_mem]
    exact State.issueLanes_wf hw _ _ _ _

@[simp] theorem laneMemory_wf (i : Instr) (h : LaneHead) (x : AuxM) {s : State} (hs : s.mem.wf = true) :
    (laneMemory i h x s).mem.wf = true := by
  refine State.laneParts_wf hs fun r => ?_
  have hd : (if acquires i && offCore s.cur x.scope then s.discardLanes r.act else s).mem.wf = true :=
    wf_of_ite (by simpa using hs) hs
  dsimp only
  generalize (if acquires i && offCore s.cur x.scope then s.discardLanes r.act else s) = u at hd
  exact wf_of_ite (State.memSweep_wf hd _ _ _) (State.memSweep_wf (by exact hd) _ _ _)

@[simp] theorem State.wantPage_wf {s : State} (hs : s.mem.wf = true) (page : Nat) : (s.wantPage page).mem.wf = true := by
  unfold State.wantPage
  split
  · exact hs
  split
  · exact hs
  split
  next ht => exact State.service_wf ht hs
  · exact wf_of_ite hs hs

@[simp] theorem State.prefetch_wf {s : State} (hs : s.mem.wf = true) (cache : Cache) (l a : Nat) (claimed : List (Nat × Nat)) :
    (s.prefetch cache l a claimed).1.mem.wf = true := by
  simp only [State.prefetch]
  (repeat' split) <;> simp [hs]

theorem prefetchAll_wf (r : LaneRun) (x : AuxM) (h : LaneHead) (ls : List Nat) (out : List (Nat × Nat × LaneAcc)) {s : State}
    (hs : s.mem.wf = true) : (prefetchAll r x h ls out s).2.mem.wf = true := by
  induction ls generalizing out s with
  | nil => exact hs
  | cons l ls ih =>
    have hp := State.prefetch_wf hs x.cache l (laneEa r.e h x l) (out.map fun y => (y.2.1, y.2.2.ea.toNat / 32 * 32))
    unfold prefetchAll
    dsimp only
    split <;> rename_i heq <;> rw [heq] at hp <;> exact ih _ hp

theorem execVpref_wf {s : State} (hs : s.mem.wf = true) (h : LaneHead) (x : AuxM) : NextWf (execVpref h x s) := by
  refine (nextWf_next _).2 (State.laneWord_wf hs fun r => State.finishWord_wf ?_ _ _ _)
  rw [sendAll_mem]
  exact prefetchAll_wf _ _ _ _ _ (by simpa using hs)

theorem execFence_wf {s : State} (hs : s.mem.wf = true) (h : LaneHead) (x : AuxM) : NextWf (execFence h x s) := by
  refine (nextWf_next _).2 (State.laneWord_wf hs fun r => State.finishWord_wf ?_ _ _ _)
  exact wf_of_ite (by simpa using hs) (by simpa using hs)

@[simp] theorem State.setReq_mem (s : State) (tag : Nat) (f : GReq → GReq) : (s.setReq tag f).mem = s.mem := by
  rfl

@[simp] theorem State.checkReq_wf {s : State} (hs : s.mem.wf = true) (r : GReq) : (s.checkReq r).mem.wf = true := by
  simp [State.checkReq, hs]

@[simp] theorem State.performPiece_wf {s : State} (hs : s.mem.wf = true) (g : Nat) (x : Nat × LaneAcc) :
    (s.performPiece g x).mem.wf = true := by
  simp only [State.performPiece]
  (repeat' split) <;> simp [hs]

theorem State.performGranule_wf {s : State} (hs : s.mem.wf = true) (r : GReq) (g : Nat) :
    (s.performGranule r g).mem.wf = true := by
  unfold State.performGranule
  refine wf_of_ite ?_ hs
  dsimp only
  rw [foldl_mem fun s q => State.setReq_mem s _ _]
  exact foldl_wf (fun u x hu => State.performPiece_wf hu _ _) _ (foldl_wf (fun u q hu => State.checkReq_wf hu _) _ hs)

@[simp] theorem State.endReq_mem (s : State) (tag : Nat) : (s.endReq tag).mem = s.mem := by
  unfold State.endReq
  (repeat' split) <;> rfl

@[simp] theorem State.focusTag_mem (s : State) (tag : Nat) : (s.focusTag tag).mem = s.mem := by
  unfold State.focusTag
  (repeat' split) <;> simp

theorem execGlobalRequest_wf {s : State} (hs : s.mem.wf = true) (x : ReqPart) : NextWf (execGlobalRequest x s) := by
  have hf : (s.focusTag x.tag).mem.wf = true := by simpa using hs
  refine (nextWf_next _).2 ?_
  dsimp only
  split
  · exact hf
  · split
    · rw [foldl_mem State.endReq_mem]
      exact foldl_wf (fun u g hu => State.performGranule_wf hu _ _) _ (State.checkReq_wf hf _)
    split
    · exact hf
    · simpa using hs

@[simp] theorem State.takeFill_mem (s : State) (r : GReq) (f : Fill) : (s.takeFill r f).mem = s.mem := by
  unfold State.takeFill
  dsimp only
  split
  · split <;> simp
  · split <;> simp

@[simp] theorem State.takeFills_mem (s : State) (r : GReq) (answers : List Answer) : (s.takeFills r answers).mem = s.mem := by
  simp [State.takeFills, foldl_mem]

@[simp] theorem State.takeAnswers_mem (s : State) (r : GReq) (answers : List Answer) :
    (s.takeAnswers r answers).mem = s.mem := by
  simp [State.takeAnswers]

@[simp] theorem State.keepFaults_mem (s : State) (r : GReq) (ls : List Nat) (answers : List Answer) :
    (s.keepFaults r ls answers).mem = s.mem := by
  simp [State.keepFaults]

@[simp] theorem State.takeReply_wf {s : State} (hs : s.mem.wf = true) (r : GReq) (answers : List Answer) :
    (s.takeReply r answers).mem.wf = true := by
  unfold State.takeReply
  (repeat' split) <;> simp [hs]

@[simp] theorem State.joinLines_mem (s : State) (r : GReq) (answers : List Answer) : (s.joinLines r answers).2.mem = s.mem := by
  have h (acc : List Answer × State) : (answers.foldl (fun acc x =>
      match acc.2.awaited r x.lane with
      | some q => (acc.1, acc.2.setReq q.tag (fun y =>
          { y with early := y.early ++ r.early.filter (fun e => e.2.lane == x.lane) ++ [(r.line, x)] }))
      | none => (acc.1 ++ [if (r.early.filter (fun e => e.2.lane == x.lane)).isEmpty then x
          else joinParts (r.early.filter (fun e => e.2.lane == x.lane) ++ [(r.line, x)]) x.lane], acc.2)) acc).2.mem = acc.2.mem := by
    induction answers generalizing acc with
    | nil => rfl
    | cons x xs ih =>
      rw [List.foldl_cons, ih]
      split
      · simp
      · rfl
  exact h ([], s)

@[simp] theorem State.reply_wf {s : State} (hs : s.mem.wf = true) (r : GReq) (answers : List Answer) :
    (s.reply r answers).mem.wf = true := by
  simp only [State.reply]
  (repeat' split) <;> simp [hs]

@[simp] theorem State.scalarReply_mem (s : State) (tag : Nat) (ext : List Answer) : (s.scalarReply tag ext).mem = s.mem := by
  unfold State.scalarReply
  split <;> simp

@[simp] theorem State.ueAnswer_mem (s : State) (bad : Bool) (bs : List Byte) : (s.ueAnswer bad bs).mem = s.mem := by
  rfl

@[simp] theorem State.farAnswer_mem (s : State) (tag code : Nat) (bs : List Byte) : (s.farAnswer tag code bs).mem = s.mem := by
  unfold State.farAnswer
  cases s.far.find? (fun x => x.tag == tag && x.code.isNone) with
  | none => rfl
  | some x =>
    dsimp only
    cases x.who with
    | signal grid addr =>
      dsimp only
      by_cases h : code % 256 = 0
      · rw [if_pos h]
      · rw [if_neg h, State.ctxEvent_mem]
    | ue =>
      dsimp only
      rw [State.ueAnswer_mem]
    | _ => rfl

theorem execGlobalReply_wf {s : State} (hs : s.mem.wf = true) (tag : Nat) (ext : List Answer) :
    NextWf (execGlobalReply tag ext s) := by
  refine (nextWf_next _).2 ?_
  (repeat' split) <;> simp [hs]

theorem State.lightPath_wf {s : State} (hs : s.mem.wf = true) (p : Path) : (s.lightPath p).mem.wf = true := by
  unfold State.lightPath
  split
  · split
    · split
      · dsimp only
        refine wf_of_ite (locatePass_wf _ _ _ hs) ?_
        have h := fun r words xs => State.issueLanes_wf (locatePass_wf (s := s) r.i r.b.snap.pkr xs hs) r words []
        exact wf_of_ite (h _ _ _ _) (h _ _ _ _)
      · exact hs
    · exact hs
  · exact hs

theorem State.repark_wf {s : State} (hs : s.mem.wf = true) (p : Path) : (s.repark p).mem.wf = true := by
  unfold State.repark
  split
  · split
    · split
      · dsimp only
        split <;> exact locatePass_wf _ _ _ hs
      · exact hs
    · exact hs
  · split
    · split
      · dsimp only
        split <;> exact locatePass_wf _ _ _ hs
      · exact hs
    · exact hs
  · exact hs

@[simp] theorem State.reparkAll_wf {s : State} (hs : s.mem.wf = true) : s.reparkAll.mem.wf = true :=
  foldl_wf (fun _ _ hu => State.repark_wf hu _) _ hs

@[simp] theorem State.lightPaths_wf {s : State} (hs : s.mem.wf = true) : s.lightPaths.mem.wf = true :=
  foldl_wf (fun _ _ hu => State.lightPath_wf hu _) _ hs

@[simp] theorem State.wantPages_wf {s : State} (hs : s.mem.wf = true) : s.wantPages.mem.wf = true := by
  refine foldl_wf (fun u t hu => ?_) _ hs
  have hf : (u.focus t.uid).mem.wf = true := by simpa using hu
  exact foldl_wf (fun _ _ hv => State.wantPage_wf (by exact hv) _) _ hf

@[simp] theorem State.wakeMemory_wf {s : State} (hs : s.mem.wf = true) : (s.wakeMemory).mem.wf = true := by
  simp [State.wakeMemory, hs]

end Sys2Proof.Machine
end

section
/-!
SUPPORT. Memory keeps its canonical form (log entry 1): engine commands that fire and complete (R264 to R280).
-/

namespace Sys2Proof.Machine

@[simp] theorem State.engUse_mem (s : State) (a : Nat) : (s.engUse a).mem = s.mem := by
  unfold State.engUse
  split <;> rfl

theorem State.engRead_mem {s t : State} {a n : Nat} {pkr : Word} {bs : List Byte} (h : s.engRead a n pkr = some (bs, t)) :
    t.mem = s.mem := by
  unfold State.engRead at h
  dsimp only at h
  split at h
  · obtain ⟨_, -, h⟩ := Option.map_eq_some_iff.1 h
    obtain rfl : _ = t := congrArg Prod.snd h
    simp
  · obtain ⟨_, -, h⟩ := Option.map_eq_some_iff.1 h
    obtain rfl : _ = t := congrArg Prod.snd h
    simp

@[simp] theorem State.useRange_mem (s : State) (a n : Nat) : (s.useRange a n).mem = s.mem := by
  simp [State.useRange, foldl_mem]

@[simp] theorem State.bringPages_wf {s : State} (hs : s.mem.wf = true) (pages : List Nat) :
    (s.bringPages pages).1.mem.wf = true := by
  unfold State.bringPages
  refine foldl_wf (fun u p hu => ?_) _ (foldl_wf (fun u p hu => ?_) _ hs)
  · split
    · split
      · exact hu
      split
      next hserv => exact State.service_wf hserv hu
      · exact hu
    · exact hu
  · split
    · exact wf_of_ite (by simpa using hu) hu
    · exact hu

@[simp] theorem State.pin_mem (s : State) (frames : List Nat) : (s.pin frames).mem = s.mem := by
  rfl

@[simp] theorem State.unpin_mem (s : State) (frames : List Nat) : (s.unpin frames).mem = s.mem := by
  rfl

@[simp] theorem State.dirtyPages_mem (s : State) (pages : List Nat) : (s.dirtyPages pages).mem = s.mem := by
  rfl

theorem State.srcRead_mem {s t : State} {f : Fired} {a n : Nat} {bs : List Byte} (h : s.srcRead f a n = some (bs, t)) :
    t.mem = s.mem := by
  unfold State.srcRead at h
  dsimp only at h
  split at h
  · obtain ⟨_, -, h⟩ := Option.map_eq_some_iff.1 h
    obtain rfl : _ = t := congrArg Prod.snd h
    simp
  · exact State.engRead_mem h

theorem State.segBytes_mem {s t : State} {f : Fired} {ext : List Answer} {g : Seg} {bs : List Byte}
    (h : s.segBytes f ext g = some (bs, t)) : t.mem = s.mem := by
  unfold State.segBytes at h
  split at h
  · cases h
    rfl
  split at h
  · obtain ⟨_, -, h⟩ := Option.map_eq_some_iff.1 h
    cases h
    simp
  split at h
  · cases h
    rfl
  split at h
  · exact State.srcRead_mem h
  · cases h

theorem keepSegs_mem {f : Fired} {gs : List Seg} {s t : State} {xs : List (Nat × Nat × List Byte)}
    (h : keepSegs f gs s = some (xs, t)) : t.mem = s.mem := by
  induction gs generalizing s t xs with
  | nil =>
    cases h
    rfl
  | cons g gs ih =>
    unfold keepSegs at h
    split at h
    · exact ih h
    split at h
    · cases h
    split at h
    · cases h
    next hr =>
      obtain ⟨r, hk, h⟩ := Option.map_eq_some_iff.1 h
      cases h
      exact (ih hk).trans (State.srcRead_mem hr)

theorem State.keepSources_mem {s t : State} {f f' : Fired} {segs : List Seg} (h : s.keepSources f segs = some (f', t)) :
    t.mem = s.mem := by
  unfold State.keepSources at h
  split at h
  · cases h
    rfl
  · obtain ⟨r, hk, h⟩ := Option.map_eq_some_iff.1 h
    obtain rfl : _ = t := congrArg Prod.snd h
    exact keepSegs_mem (xs := r.1) (t := r.2) hk

@[simp] theorem State.overlapped_mem (s : State) (srcs : List (Nat × Nat)) (k : Nat) (bs : List Byte) :
    (s.overlapped srcs k bs).2.mem = s.mem := by
  unfold State.overlapped
  split
  · exact breakBytes_mem _ _ _ _
  · rfl

theorem landSegs_wf {f : Fired} {ext : List Answer} {srcs : List (Nat × Nat)} {gs : List Seg} {s t : State}
    (h : landSegs f ext srcs gs s = some t) (hs : s.mem.wf = true) : t.mem.wf = true := by
  induction gs generalizing s with
  | nil =>
    cases h
    exact hs
  | cons g gs ih =>
    unfold landSegs at h
    dsimp only at h
    split at h
    · exact ih h hs
    split at h
    next hb _ =>
      refine ih h (State.poke_wf ?_ _ _ _)
      simp [State.segBytes_mem hb, hs]
    · cases h

@[simp] theorem State.clearLines_mem (s : State) (op : Nat) (lines : List (Nat × Nat)) :
    (s.clearLines op lines).mem = s.mem := by
  rfl

@[simp] theorem State.arrived_mem (s : State) (op fr line : Nat) : (s.arrived op fr line).mem = s.mem := by
  rfl

theorem State.onTeam_wf {s : State} (hs : s.mem.wf = true) (uid : Nat) {f : State → State}
    (hf : ∀ u, u.mem.wf = true → (f u).mem.wf = true) : (s.onTeam uid f).mem.wf = true := by
  have hu : (f (s.focus uid)).mem.wf = true := hf _ (by simpa using hs)
  unfold State.onTeam
  split
  · exact hf _ hs
  split
  · exact hu
  · simpa using hu

@[simp] theorem State.copyLine_wf {s : State} (hs : s.mem.wf = true) (op fr line : Nat) :
    (s.copyLine op fr line).mem.wf = true := by
  unfold State.copyLine
  split
  · simpa using hs
  dsimp only
  split
  · exact hs
  next hk =>
    have hk := (congrArg Memory.wf (State.keepSources_mem hk)).trans hs
    split
    next hl => simpa using landSegs_wf hl hk
    · exact hk

theorem execLineArrival_wf {s : State} (hs : s.mem.wf = true) (frame line : Nat) : NextWf (execLineArrival frame line s) := by
  have hc (uid op : Nat) : (s.onTeam uid fun s => s.copyLine op frame line).mem.wf = true :=
    State.onTeam_wf hs _ fun _ hu => State.copyLine_wf hu _ _ _
  unfold execLineArrival
  (repeat' split) <;> simp [hs, hc]

theorem breakLogged_wf (ranges : List (Nat × Nat)) (ws : List (Nat × Nat × Nat)) {s : State} (hs : s.mem.wf = true) :
    (breakLogged ranges ws s).mem.wf = true := by
  induction ws generalizing s with
  | nil => exact hs
  | cons w ws ih =>
    refine ih (Memory.wf_setBytes ?_ _ _)
    rwa [breakBytes_mem]

@[simp] theorem State.fire_wf {s : State} (hs : s.mem.wf = true) (matrix : Bool) (c : EngCmd) (frames : List Nat) :
    (s.fire matrix c frames).mem.wf = true := by
  unfold State.fire
  dsimp only
  split
  · simpa using hs
  · exact breakLogged_wf _ _ (by simpa using hs)
  · simpa using hs

@[simp] theorem State.closeSpan_mem (s : State) : (s.closeSpan).mem = s.mem := by
  rfl

theorem execEngineCommandFire_wf {s : State} (hs : s.mem.wf = true) (matrix : Bool) :
    NextWf (execEngineCommandFire matrix s) := by
  refine (nextWf_next _).2 ?_
  (repeat' split) <;> simp [hs]

@[simp] theorem State.retireOp_wf {s : State} (hs : s.mem.wf = true) (f : Fired) : (s.retireOp f).mem.wf = true := by
  simp [State.retireOp, hs]

theorem putSegs_wf {f : Fired} {ext : List Answer} {srcs far : List (Nat × Nat)} {gs : List Seg} {s t : State}
    (h : putSegs f ext srcs far gs s = some t) (hs : s.mem.wf = true) : t.mem.wf = true := by
  induction gs generalizing s with
  | nil =>
    cases h
    exact hs
  | cons g gs ih =>
    unfold putSegs at h
    dsimp only at h
    split at h
    · exact ih h hs
    split at h
    · cases h
    next hb =>
      have hb := (congrArg Memory.wf (State.segBytes_mem hb)).trans hs
      split at h
      · split at h
        · exact ih h (by simpa using hb)
        split at h
        · exact ih h hb
        · exact ih h (by simp [hb])
      · split at h
        · exact ih h (by simp [hb])
        · exact ih h hb

@[simp] theorem State.settleLines_mem (s : State) (pkr : Word) (segs : List Seg) : (s.settleLines pkr segs).mem = s.mem := by
  unfold State.settleLines
  refine foldl_mem (fun s n => ?_) _ _
  dsimp only
  split
  · split <;> simp
  · rfl

@[simp] theorem State.setFired_mem (s : State) (id : Nat) (g : Fired → Fired) : (s.setFired id g).mem = s.mem := by
  rfl

@[simp] theorem State.askRows_mem (s : State) (f : Fired) (gs : List Seg) : (s.askRows f gs).mem = s.mem := by
  induction gs generalizing s with
  | nil => rfl
  | cons g gs ih =>
    simp only [State.askRows, ih]
    split
    · rfl
    · split <;> simp

@[simp] theorem State.finishMover_wf {s : State} (hs : s.mem.wf = true) (f : Fired) : (s.finishMover f).mem.wf = true := by
  simp [State.finishMover, hs]

@[simp] theorem State.landMover_wf {s : State} (hs : s.mem.wf = true) (f : Fired) (segs : List Seg) (ext : List Answer) :
    (s.landMover f segs ext).mem.wf = true := by
  unfold State.landMover
  dsimp only
  split
  · exact hs
  split
  · exact hs
  split
  · exact hs
  next hk =>
    have hk := (congrArg Memory.wf (State.keepSources_mem hk)).trans hs
    split
    · exact hs
    next hl =>
      have hl := landSegs_wf hl hk
      split
      · exact hs
      next hp =>
        have hp := putSegs_wf hp hl
        have ha : ∀ (lines : List (Nat × Nat)) (op : Nat) (u : State), u.mem.wf = true →
            (lines.foldl (fun (s : State) x => s.arrived op x.1 x.2) u).mem.wf = true := fun lines op u hu => by
          rwa [foldl_mem fun s x => State.arrived_mem s _ _ _]
        exact wf_of_ite (by simpa using ha _ _ _ hp) (State.finishMover_wf (by simpa using ha _ _ _ hp) _)

theorem execMoverOperationComplete_wf {s : State} (hs : s.mem.wf = true) (op : Nat) (ext : List Answer) :
    NextWf (execMoverOperationComplete op ext s) := by
  refine (nextWf_next _).2 ?_
  split
  · exact hs
  · exact wf_of_ite (wf_of_ite (by simp [hs]) hs) (wf_of_ite (by simp [hs]) (by simp [hs]))

@[simp] theorem State.useRanges_mem (s : State) (es : List (Nat × Nat)) : (s.useRanges es).mem = s.mem := by
  refine foldl_mem (fun s e => ?_) _ _
  split <;> simp

@[simp] theorem State.completeTmma_wf {s : State} (hs : s.mem.wf = true) (f : Fired) (sh : Shape) (zero aord bord : Bool)
    (ha hb : Nat) : (s.completeTmma f sh zero aord bord ha hb).mem.wf = true := by
  simp only [State.completeTmma]
  split <;> simp [hs]

@[simp] theorem State.writeRange_wf {s : State} (hs : s.mem.wf = true) (a : Nat) (bs : List Byte) :
    (s.writeRange a bs).mem.wf = true := by
  refine foldl_wf (fun s x h => ?_) _ hs
  split <;> simp [h]

@[simp] theorem State.completeTacc_wf {s : State} (hs : s.mem.wf = true) (f : Fired) (op : TaccOp) (tw : TileWord) (h : Nat) :
    (s.completeTacc f op tw h).mem.wf = true := by
  unfold State.completeTacc
  (repeat' split) <;> simp [hs]

theorem execMatrixOperationComplete_wf {s : State} (hs : s.mem.wf = true) (op : Nat) :
    NextWf (execMatrixOperationComplete op s) := by
  refine (nextWf_next _).2 ?_
  (repeat' split) <;> simp [hs]

theorem execSpanRendezvous_wf {s : State} (hs : s.mem.wf = true) : NextWf (execSpanRendezvous s) := by
  refine (nextWf_next _).2 ?_
  split <;> simp [hs]

theorem State.fireRound_wf {s t : State} {head : Bool} (h : s.fireRound head = some t) (hs : s.mem.wf = true) :
    t.mem.wf = true := by
  unfold State.fireRound at h
  split at h
  · cases h
  dsimp only at h
  split at h
  · cases h
  · rw [← Option.some.inj h, State.pin_mem]
    exact State.bringPages_wf hs _

theorem fireMembers_wf {us : List (Nat × Bool)} {s t : State} (h : fireMembers us s = some t) (hs : s.mem.wf = true) :
    t.mem.wf = true := by
  induction us generalizing s with
  | nil =>
    cases h
    exact hs
  | cons u us ih =>
    unfold fireMembers at h
    split at h
    next hr => exact ih h (State.fireRound_wf hr (by simpa using hs))
    · cases h

theorem bringMembers_wf (us : List (Nat × Bool)) {s : State} (hs : s.mem.wf = true) : (bringMembers us s).mem.wf = true := by
  induction us generalizing s with
  | nil => exact hs
  | cons u us ih =>
    refine ih (State.onTeam_wf hs _ fun u hu => ?_)
    split
    · exact hu
    · exact State.bringPages_wf hu _

theorem execSpanRoundFire_wf {s : State} (hs : s.mem.wf = true) : NextWf (execSpanRoundFire s) := by
  refine (nextWf_next _).2 ?_
  split
  · dsimp only
    refine wf_of_ite hs (wf_of_ite hs (wf_of_ite hs (wf_of_ite (by simpa using hs) (wf_of_ite hs ?_))))
    split
    next hf => simpa using fireMembers_wf hf hs
    · exact bringMembers_wf _ hs
  · exact hs

theorem retireRound_wf (afmt : Nat) (us : List Nat) {s : State} (hs : s.mem.wf = true) :
    (retireRound afmt us s).mem.wf = true := by
  induction us generalizing s with
  | nil => exact hs
  | cons u us ih =>
    refine ih ?_
    split <;> simp [hs]

theorem execSpanRoundComplete_wf {s : State} (hs : s.mem.wf = true) (op : Nat) : NextWf (execSpanRoundComplete op s) := by
  refine (nextWf_next _).2 ?_
  split
  · dsimp only
    split
    · split
      · split
        · exact hs
        · rw [State.focus_mem]
          exact retireRound_wf _ _ (by simpa using hs)
      · exact hs
    · exact hs
  · exact hs

end Sys2Proof.Machine
end

section
/-!
SUPPORT. Memory keeps its canonical form (log entry 1): the collective engines, counters and barriers (R290 to R296, R317 to
R321).
-/

namespace Sys2Proof.Machine

@[simp] theorem State.sendCtl_mem (s : State) (src pkg sett : Nat) (b : CtlBody) : (s.sendCtl src pkg sett b).mem = s.mem := by
  simp only [State.sendCtl]
  split <;> simp

@[simp] theorem State.mapWaits_mem (s : State) (f : Wait → Wait) : (s.mapWaits f).mem = s.mem := by
  rfl

@[simp] theorem State.counterSeen_mem (s : State) (sett no : Nat) : (s.counterSeen sett no).mem = s.mem := by
  simp only [State.counterSeen]
  rw [foldl_mem fun s m => State.sendCtl_mem s _ _ _ _]
  exact (State.setSett_mem _ _ _).trans (State.mapWaits_mem _ _)

@[simp] theorem State.bump_wf {s : State} (hs : s.mem.wf = true) (sett no n : Nat) : (s.bump sett no n).mem.wf = true := by
  simp [State.bump, hs]

@[simp] theorem State.increment_wf {s : State} (hs : s.mem.wf = true) (ctx sett i n : Nat) :
    (s.increment ctx sett i n).mem.wf = true := by
  unfold State.increment
  split <;> simp [hs]

@[simp] theorem State.cleWrite_wf {s : State} (hs : s.mem.wf = true) (ctx a : Nat) (pkr : Word) (bs : List Byte) :
    (s.cleWrite ctx a pkr bs).2.mem.wf = true := by
  unfold State.cleWrite
  (repeat' split) <;> simp [hs]

@[simp] theorem State.arm_mem (s : State) (sett : Nat) (e : Entry) : (s.arm sett e).mem = s.mem := by
  rfl

@[simp] theorem State.postEntry_wf {s : State} (hs : s.mem.wf = true) (at_ : Nat) (arrive : Bool) (bs : List Byte) :
    (s.postEntry at_ arrive bs).mem.wf = true := by
  simp [State.postEntry, hs]

theorem State.entryExtents_wf {s : State} (hs : s.mem.wf = true) (at_ : Nat) (f : EntryFields) : (s.entryExtents at_ f).Wf := by
  have src (xs : List (Nat × Nat)) : (extentsCheck false false xs none s).Wf := extentsCheck_wf _ _ _ _ hs
  unfold State.entryExtents
  dsimp only
  split
  · exact hs
  split
  · exact hs
  generalize hr : extentsCheck false false _ none s = r
  have hr := hr ▸ src _
  cases r with
  | wait t => exact hr
  | bad a t => exact extentsCheck_wf _ _ _ _ hr
  | good t => exact extentsCheck_wf _ _ _ _ hr

theorem execQpost_wf {s : State} (hs : s.mem.wf = true) (a : Reg) (arrive : Bool) : NextWf (execQpost a arrive s) := by
  refine (nextWf_next _).2 ?_
  split
  · exact State.postEntry_wf hs _ _ _
  refine State.whenReady_wf hs (State.withStruct_wf hs _ fun bs u hu => ?_)
  have he := State.entryExtents_wf hu (s.cur.s a).toNat (entryFields bs)
  dsimp only
  split
  · exact State.reject_wf hu _
  split <;> rename_i heq <;> rw [heq] at he
  · exact he
  · exact State.reject_wf he _
  · exact State.postEntry_wf he _ _ _

@[simp] theorem armReady_mem (sett : Nat) (es : List Entry) (s : State) : (armReady sett es s).mem = s.mem := by
  induction es generalizing s with
  | nil => rfl
  | cons e es ih =>
    simp only [armReady, ih]
    split
    · split <;> simp
    · rfl

theorem readSpots_mem (xs : List Spot) (s : State) : (readSpots xs s).2.mem = s.mem := by
  induction xs generalizing s with
  | nil => rfl
  | cons x xs ih => exact (ih _).trans (State.readLine_mem _ _ _ _)

theorem writeSpots_wf (srcs : List (Nat × Nat)) (xs : List Spot) (bs : List Byte) {s : State} (hs : s.mem.wf = true) :
    (writeSpots srcs xs bs s).mem.wf = true := by
  induction xs generalizing bs s with
  | nil => exact hs
  | cons x xs ih =>
    unfold writeSpots
    dsimp only
    split
    · exact hs
    · exact ih _ (State.writeLine_wf (by simpa using hs) _ _ _ _)

@[simp] theorem State.countWrites_mem (s : State) (e : Entry) (src pkg dst n : Nat) :
    (s.countWrites e src pkg dst n).mem = s.mem := by
  simp only [State.countWrites]
  split <;> simp

@[simp] theorem State.setEntry_mem (s : State) (sett id : Nat) (f : Entry → Entry) : (s.setEntry sett id f).mem = s.mem := by
  rfl

theorem State.askFrom_mem {s t : State} {sett : Nat} {e : Entry} {srcs : List (Nat × Nat)} (h : s.askFrom sett e srcs = some t)
    : t.mem = s.mem := by
  unfold State.askFrom at h
  dsimp only at h
  split at h
  · cases h
  · rw [← Option.some.inj h]
    refine foldl_mem (fun u x => ?_) _ _
    rw [State.setEntry_mem]

theorem State.cleSource_mem {s t : State} {e : Entry} {sett : Nat} {f : EntryFields} {ext : List Answer} {bs : List Byte}
    {code : Nat} (h : s.cleSource e sett f ext = some (bs, code, t)) : t.mem = s.mem := by
  unfold State.cleSource at h
  dsimp only at h
  split at h
  · obtain rfl : _ = t := congrArg (fun r => r.2.2) (Option.some.inj h)
    exact readSpots_mem _ _
  split at h
  · obtain ⟨_, -, h⟩ := Option.map_eq_some_iff.1 h
    obtain rfl : _ = t := congrArg (fun r => r.2.2) h
    rfl
  split at h
  · obtain rfl : _ = t := congrArg (fun r => r.2.2) (Option.some.inj h)
    rfl
  · cases h

@[simp] theorem State.sendEntry_mem (s : State) (sett : Nat) (e : Entry) (f : EntryFields) (bs : List Byte) :
    (s.sendEntry sett e f bs).1.mem = s.mem := by
  simp [State.sendEntry, foldl_mem]

/-- Memory is in its canonical form in the state that a movement of a collective engine leaves, if it leaves one. -/
@[simp] def Moved.Wf : Moved → Prop
  | .wait => True
  | .sent _ s => s.mem.wf = true
  | .failed _ _ s => s.mem.wf = true
  | .done _ _ s => s.mem.wf = true

theorem State.cleApply_wf {s : State} (hs : s.mem.wf = true) (e : Entry) (sett : Nat) (f : EntryFields) (src : List Byte)
    (code : Nat) (ext : List Answer) : (s.cleApply e sett f src code ext).Wf := by
  have write (srcs : List (Nat × Nat)) (xs : List Spot) (bs : List Byte) {u : State} (hu : u.mem.wf = true) (p n d : Nat) :
      ((writeSpots srcs xs bs u).countWrites e sett p d n).mem.wf = true := by
    rw [State.countWrites_mem]
    exact writeSpots_wf _ _ _ hu
  have old (xs : List Spot) : (readSpots xs s).2.mem.wf = true := by rwa [readSpots_mem]
  unfold State.cleApply
  split
  · split
    · exact hs
    dsimp only
    have finish (fl : Flags5) (c : Nat) {u : State} (hu : u.mem.wf = true) :
        (if code ≠ 0 then Moved.failed code fl u else if c ≠ 0 then .failed c fl u else .done fl u.gtc u).Wf := by
      split
      · exact hu
      split
      · exact hu
      · exact hu
    by_cases hk : f.kind = 1
    · simp only [if_pos hk]
      exact finish _ _ (write _ _ _ (old _) _ _ _)
    · simp only [if_neg hk]
      exact finish _ _ (write _ _ _ hs _ _ _)
  split
  · split
    · trivial
    · dsimp only
      split
      · exact hs
      · exact hs
  split
  · exact hs
  split
  · exact hs
  · trivial
  · dsimp only [Moved.Wf]
    simpa using hs

theorem State.cleMove_wf {s : State} (hs : s.mem.wf = true) (sett : Nat) (e : Entry) (ext : List Answer) :
    (s.cleMove sett e ext).Wf := by
  unfold State.cleMove
  dsimp only
  split
  · exact hs
  split
  · exact State.cleApply_wf hs _ _ _ _ _ _
  split
  · trivial
  split
  · trivial
  next h => exact State.cleApply_wf ((congrArg Memory.wf (State.cleSource_mem h)).trans hs) _ _ _ _ _ _

@[simp] theorem State.entryRecord_wf {s : State} (hs : s.mem.wf = true) (e : Entry) (status : Nat) (fl : Flags5) (stamp : Nat) :
    (s.entryRecord e status fl stamp).2.mem.wf = true := by
  simp only [State.entryRecord]
  split <;> simp [hs]

@[simp] theorem State.dropEntry_mem (s : State) (sett id : Nat) : (s.dropEntry sett id).mem = s.mem := by
  rfl

@[simp] theorem State.entryIncrement_wf {s : State} (hs : s.mem.wf = true) (sett : Nat) (e : Entry) :
    (s.entryIncrement sett e).mem.wf = true := by
  simp [State.entryIncrement, hs]

@[simp] theorem State.endEntry_wf {s : State} (hs : s.mem.wf = true) (sett : Nat) (e : Entry) (r : Nat × Flags5 × Nat × Nat)
    (code : Nat) : (s.endEntry sett e r code).mem.wf = true := by
  simp [State.endEntry, hs]

@[simp] theorem State.recordEntry_wf {s : State} (hs : s.mem.wf = true) (sett : Nat) (e : Entry) (r : Nat × Flags5 × Nat × Nat)
    (ext : List Answer) : (s.recordEntry sett e r ext).mem.wf = true := by
  simp only [State.recordEntry]
  (repeat' split) <;> simp [hs]

@[simp] theorem State.faultEntry_wf {s : State} (hs : s.mem.wf = true) (sett : Nat) (e : Entry) (code : Nat) (fl : Flags5) :
    (s.faultEntry sett e code fl).mem.wf = true := by
  simp [State.faultEntry, hs]

theorem State.finishEntry_wf {s : State} (hs : s.mem.wf = true) (sett : Nat) (e : Entry) {m : Moved} (hm : m.Wf) :
    (s.finishEntry sett e m).mem.wf = true := by
  cases m with
  | wait =>
    unfold State.finishEntry
    cases h : s.askFrom sett e [((entryFields e.bytes).src, (entryFields e.bytes).len)] with
    | none => exact hs
    | some t =>
      exact (congrArg Memory.wf (State.askFrom_mem h)).trans hs
  | sent fl t => simpa [State.finishEntry] using hm
  | failed c fl t => exact State.faultEntry_wf hm _ _ _ _
  | done fl stamp t => exact State.recordEntry_wf hm _ _ _ _

@[simp] theorem cancelEntries_wf (sett : Nat) (es : List Entry) {s : State} (hs : s.mem.wf = true) :
    (cancelEntries sett es s).mem.wf = true := by
  induction es generalizing s with
  | nil => exact hs
  | cons e es ih => exact ih (by simp [hs])

@[simp] theorem State.setCounter_wf {s : State} (hs : s.mem.wf = true) (sett no : Nat) (v : BitVec 32) :
    (s.setCounter sett no v).mem.wf = true := by
  simp only [State.setCounter, State.counterSeen_mem]
  exact cancelEntries_wf _ _ (by simpa using hs)

theorem execCntset_wf {s : State} (hs : s.mem.wf = true) (a b : Reg) : NextWf (execCntset a b s) := by
  refine (nextWf_next _).2 (State.whenReady_wf hs ?_)
  split <;> simp [hs]

@[simp] theorem State.makeIncrement_wf {s : State} (hs : s.mem.wf = true) (i : Increment) (remote : Bool) :
    (s.makeIncrement i remote).mem.wf = true := by
  simp [State.makeIncrement, hs]

theorem execCntadd_wf {s : State} (hs : s.mem.wf = true) (a b : Reg) (arrive remote : Bool) :
    NextWf (execCntadd a b arrive remote s) := by
  refine (nextWf_next _).2 (State.whenReady_wf hs ?_)
  simp [hs]

theorem makeReady_wf (ns : List Increment) {s : State} (hs : s.mem.wf = true) : (makeReady ns s).mem.wf = true := by
  induction ns generalizing s with
  | nil => exact hs
  | cons n ns ih => exact ih (wf_of_ite (State.makeIncrement_wf (by exact hs) _ _) hs)

theorem State.arriveReady_wf {s : State} (hs : s.mem.wf = true) : s.arriveReady.mem.wf = true := by
  have h : (s.setts.foldl (fun (s : State) x => if x.2.entries.any (fun e => e.waitBlocks.isSome) then armReady x.1 x.2.entries s
      else s) s).mem.wf = true := by
    rw [foldl_mem fun s x => by split <;> simp]
    exact hs
  exact wf_of_ite h (makeReady_wf _ h)

@[simp] theorem State.acquire_mem (s : State) : (s.acquire).mem = s.mem := by
  simp [State.acquire]

theorem execCntwait_wf {s : State} (hs : s.mem.wf = true) (a b : Reg) : NextWf (execCntwait a b s) := by
  refine (nextWf_next _).2 ?_
  split
  · split <;> simp [hs]
  · refine State.whenReady_wf hs ?_
    dsimp only
    (repeat' split) <;> simp [hs]

theorem execCntwaitNowait_wf {s : State} (hs : s.mem.wf = true) (a b : Reg) (c : Bit3) :
    NextWf (execCntwaitNowait a b c s) := by
  refine (nextWf_next _).2 (State.whenReady_wf hs ?_)
  split <;> simp [hs]

@[simp] theorem State.barxArrive_wf {s : State} (hs : s.mem.wf = true) (bs : List Byte) : (s.barxArrive bs).mem.wf = true := by
  simp [State.barxArrive, hs]

theorem execBarx_wf {s : State} (hs : s.mem.wf = true) (a : Reg) (sc : BarScope) : NextWf (execBarx a sc s) := by
  refine (nextWf_next _).2 ?_
  split
  · simp [hs]
  · exact hs
  · simp [hs]
  · simp [hs]
  · exact hs
  · refine State.whenReady_wf hs (State.withStruct_wf hs _ fun bs u hu => ?_)
    dsimp only
    split
    · exact State.reject_wf hu _
    have he := extentsCheck_wf true false (if fieldAt bs 16 8 = 0 then [] else [(fieldAt bs 16 8, 64 + 144 * fieldAt bs 4 4)])
      none hu
    split <;> rename_i heq <;> rw [heq] at he
    · exact he
    · exact State.reject_wf he _
    · exact State.barxArrive_wf he _

@[simp] theorem State.stragglerWrite_wf {s : State} (hs : s.mem.wf = true) (ctx a : Nat) (bs : List Byte) :
    (s.stragglerWrite ctx a bs).mem.wf = true := by
  simp [State.stragglerWrite, hs]

@[simp] theorem stragglerMember_wf {s : State} (hs : s.mem.wf = true) (ctx recd k lag first : Nat) (m : Nat) :
    (stragglerMember ctx recd k lag first s m).mem.wf = true := by
  simp [stragglerMember, hs]

@[simp] theorem State.straggler_wf {s : State} (hs : s.mem.wf = true) (ctx members index lag recd v stamp : Nat) :
    (s.straggler ctx members index lag recd v stamp).mem.wf = true := by
  simp only [State.straggler]
  split
  · exact hs
  split
  · exact hs
  have hw : (((s.stragglerWrite ctx recd (bytesOf 4 members)).stragglerWrite ctx (recd + 8) (bytesOf 4 lag)).stragglerWrite ctx
      (recd + 64 + 144 * index + 8 * (v / members % 16)) (bytesOf 8 stamp)).mem.wf = true :=
    State.stragglerWrite_wf (by simp [hs]) _ _ _
  generalize (s.stragglerWrite ctx recd (bytesOf 4 members)).stragglerWrite ctx (recd + 8) (bytesOf 4 lag) = u at hw
  split
  · exact hw
  · exact State.stragglerWrite_wf (foldl_wf (fun _ _ h => stragglerMember_wf h _ _ _ _ _ _) _ hw) _ _ _

@[simp] theorem State.setAny_mem (s : State) (uid : Nat) (f : Team → Team) : (s.setAny uid f).mem = s.mem := by
  rfl

@[simp] theorem State.barxAnswer_mem (s : State) (uid : Nat) (home : Option (Nat × Nat)) (v : Option Nat) :
    (s.barxAnswer uid home v).mem = s.mem := by
  rfl

@[simp] theorem State.answerArrival_wf {s : State} (hs : s.mem.wf = true) (sett ctx members : Nat) (m : CtlMsg) (team : Nat)
    (home : Option (Nat × Nat)) (v : Option Nat) : (s.answerArrival sett ctx members m team home v).mem.wf = true := by
  unfold State.answerArrival
  (repeat' split) <;> simp [hs]

@[simp] theorem State.applyArrival_wf {s : State} (hs : s.mem.wf = true) (sett : Nat) (r : Receipt) :
    (s.applyArrival sett r).mem.wf = true := by
  unfold State.applyArrival
  split
  · split
    · simp [hs]
    · exact State.answerArrival_wf (by simp [hs]) _ _ _ _ _ _ _
  · exact hs

theorem State.takeReceipt_wf {s : State} (hs : s.mem.wf = true) (sett : Nat) (kind : CtlBody → Bool)
    {f : Receipt → State → State} (hf : ∀ r u, u.mem.wf = true → (f r u).mem.wf = true) :
    (s.takeReceipt sett kind f).mem.wf = true := by
  unfold State.takeReceipt
  split
  · exact hs
  · exact hf _ _ (by simpa using hs)

theorem execBarxArrival_wf {s : State} (hs : s.mem.wf = true) (sett : Nat) : NextWf (execBarxArrival sett s) :=
  (nextWf_next _).2 (State.takeReceipt_wf hs _ _ fun _ _ hu => State.applyArrival_wf hu _ _)

theorem execRemoteCounterIncrement_wf {s : State} (hs : s.mem.wf = true) (sett : Nat) :
    NextWf (execRemoteCounterIncrement sett s) := by
  refine (nextWf_next _).2 (State.takeReceipt_wf hs _ _ fun r u hu => ?_)
  split <;> simp [hu]

@[simp] theorem State.trapRecord_wf {s : State} (hs : s.mem.wf = true) (sett ctx : Nat) (a : Word) (bs : List Byte) (ctr : Nat)
    : (s.trapRecord sett ctx a bs ctr).mem.wf = true := by
  simp [State.trapRecord, hs]

@[simp] theorem State.barxRemote_mem (s : State) (uid : Nat) (v : Option Nat) : (s.barxRemote uid v).mem = s.mem := by
  simp [State.barxRemote]

@[simp] theorem State.receive_wf {s : State} (hs : s.mem.wf = true) (sett : Nat) (m : CtlMsg) :
    (s.receive sett m).mem.wf = true := by
  unfold State.receive
  split <;> simp [hs]

theorem execControlMessageReceived_wf {s : State} (hs : s.mem.wf = true) (sett : Nat) (m : CtlMsg) :
    NextWf (execControlMessageReceived sett m s) := by
  simp [execControlMessageReceived, hs]

theorem execControlMessageTimeout_wf {s : State} (hs : s.mem.wf = true) (sett : Nat) (m : CtlMsg) :
    NextWf (execControlMessageTimeout sett m s) := by
  simp [execControlMessageTimeout, hs]

theorem execReleaseFlagApply_wf {s : State} (hs : s.mem.wf = true) (sett : Nat) : NextWf (execReleaseFlagApply sett s) := by
  refine (nextWf_next _).2 ?_
  (repeat' split) <;> simp [hs]

end Sys2Proof.Machine
end

section
/-!
SUPPORT. Memory keeps its canonical form (log entry 1): scratchpad pages, packets, grids and gangs (R285 to R287, R322 to
R325).
-/

namespace Sys2Proof.Machine

theorem execSpmap_wf {s : State} (hs : s.mem.wf = true) (a b : Reg) (we : Bool) : NextWf (execSpmap a b we s) := by
  refine (nextWf_next _).2 (State.whenReady_wf hs ?_)
  simp [hs]

theorem State.unmapPage_wf {s : State} (hs : s.mem.wf = true) (p : Nat) : (s.unmapPage p).mem.wf = true := by
  unfold State.unmapPage
  split
  · exact hs
  · exact Memory.wf_clear hs _ _

theorem execSpunmap_wf {s : State} (hs : s.mem.wf = true) (a b : Reg) : NextWf (execSpunmap a b s) := by
  refine (nextWf_next _).2 (State.whenReady_wf hs ?_)
  have hf (ps : List Nat) : (ps.foldl State.unmapPage s).mem.wf = true := foldl_wf (fun _ _ h => State.unmapPage_wf h _) _ hs
  dsimp only
  (repeat' split) <;> simp [hs, hf]

@[simp] theorem State.migrate_mem (s : State) (core : Nat) : (s.migrate core).mem = s.mem := by
  rfl

theorem execSpmig_wf {s : State} (hs : s.mem.wf = true) (a : Reg) (c : Bit3) : NextWf (execSpmig a c s) := by
  refine (nextWf_next _).2 (State.whenReady_wf hs ?_)
  simp [hs]

theorem allocChip_wf {gid n : Nat} {ts : List Nat} {s t : State} {m : FMap Nat} (h : allocChip gid n ts s = some (m, t))
    (hs : s.mem.wf = true) : t.mem.wf = true := by
  induction ts generalizing s t m with
  | nil =>
    cases h
    exact hs
  | cons x ts ih =>
    unfold allocChip at h
    split at h
    · cases h
    · obtain ⟨r, hr, h⟩ := Option.map_eq_some_iff.1 h
      obtain rfl : r.2 = t := congrArg Prod.snd h
      exact ih (m := r.1) hr (Memory.wf_clear (by simpa using hs) _ _)

theorem State.chipReady_wf {s t : State} {g : Grid} (h : s.chipReady g = some t) (hs : s.mem.wf = true) : t.mem.wf = true := by
  unfold State.chipReady at h
  split at h
  · cases h
    exact hs
  · obtain ⟨r, hr, rfl⟩ := Option.map_eq_some_iff.1 h
    rw [State.setGrid_mem]
    exact allocChip_wf (m := r.1) hr hs

@[simp] theorem State.startGrid_wf {s : State} (hs : s.mem.wf = true) (ctx site : Nat) (queue : Option (Nat × Nat))
    (parent : Option Nat) (prio : Nat) (p : Packet) (k : Kernel) :
    (s.startGrid ctx site queue parent prio p k).mem.wf = true := by
  unfold State.startGrid
  extract_lets g u
  cases h : u.chipReady g with
  | none => exact hs
  | some t => exact State.chipReady_wf h hs

@[simp] theorem State.signalDown_wf {s : State} (hs : s.mem.wf = true) (ctx : Nat) (grid a : Word) :
    (s.signalDown ctx grid a).mem.wf = true := by
  simp only [State.signalDown]
  (repeat' split) <;> simp [hs]

@[simp] theorem State.setQueue_mem (s : State) (key : Nat) (f : UserQueue → UserQueue) : (s.setQueue key f).mem = s.mem := by
  rfl

@[simp] theorem State.readHeaders_wf {s : State} (hs : s.mem.wf = true) (key a n : Nat) :
    (s.readHeaders key a n).mem.wf = true := by
  simp [State.readHeaders, hs]

@[simp] theorem State.promote_mem (s : State) (key : Nat) : (s.promote key).mem = s.mem := by
  unfold State.promote
  split <;> simp

theorem execUserQueueDoorbell_wf {s : State} (hs : s.mem.wf = true) (site queue value : Nat) :
    NextWf (execUserQueueDoorbell site queue value s) := by
  refine (nextWf_next _).2 ?_
  split <;> simp [hs]

@[simp] theorem State.nextPacket_wf {s : State} (hs : s.mem.wf = true) (key : Nat) : (s.nextPacket key).mem.wf = true := by
  simp only [State.nextPacket]
  split <;> simp [hs]

@[simp] theorem State.endPacket_wf {s : State} (hs : s.mem.wf = true) (key : Nat) (p : Packet) (status : Nat) (grid : Word) :
    (s.endPacket key p status grid).mem.wf = true := by
  unfold State.endPacket
  split
  · exact hs
  · exact State.nextPacket_wf (by simp [hs]) _

theorem execPacketStart_wf {s : State} (hs : s.mem.wf = true) (site : Nat) : NextWf (execPacketStart site s) := by
  refine (nextWf_next _).2 ?_
  dsimp only
  (repeat' split) <;> simp [hs]

@[simp] theorem State.wakeCluster_mem (s : State) (sett cl prio source : Nat) :
    (s.wakeCluster sett cl prio source).2.mem = s.mem := by
  simp only [State.wakeCluster]
  split
  · rfl
  split
  · rfl
  split <;> simp

theorem execInrushTokenRelease_wf {s : State} (hs : s.mem.wf = true) (sett : Nat) : NextWf (execInrushTokenRelease sett s) := by
  refine (nextWf_next _).2 ?_
  dsimp only
  (repeat' split) <;> simp [hs]

theorem execClusterPowerDown_wf {s : State} (hs : s.mem.wf = true) (sett cluster : Nat) :
    NextWf (execClusterPowerDown sett cluster s) := by
  simp [execClusterPowerDown, hs]

@[simp] theorem State.placeTeam_mem (s : State) (g : Grid) (sett cl cbase gang size idx area : Nat) (u : List Nat) :
    (s.placeTeam g sett cl cbase gang size idx area u).mem = s.mem := by
  simp [State.placeTeam, foldl_mem]

theorem State.devZero_wf {s : State} (hs : s.mem.wf = true) (ctx a n : Nat) : (s.devZero ctx a n).mem.wf = true :=
  foldl_wf (fun _ _ h => State.devWrite_wf h _ _ _) _ hs

theorem clearPages_wf {f : Nat → Nat} (ps : List Nat) {m : Memory} (hm : m.wf = true) :
    (ps.foldl (fun (m : Memory) p => m.clear (f p) 4096) m).wf = true := by
  induction ps generalizing m with
  | nil => exact hm
  | cons p ps ih => exact ih (Memory.wf_clear hm _ _)

theorem State.placeGang_wf {s : State} (hs : s.mem.wf = true) (g : Grid) (sett cl base : Nat) (us : List (List Nat))
    (areas : List Nat) (r : Region) : (s.placeGang g sett cl base us areas r).mem.wf = true := by
  simp only [State.placeGang, State.setGrid_mem]
  rw [foldl_mem fun s x => State.placeTeam_mem s _ _ _ _ _ _ _ _ _]
  refine foldl_wf (fun u a hu => State.devZero_wf hu _ _ _) _ ?_
  rw [State.setCtx_mem, State.setSett_mem]
  exact clearPages_wf _ hs

theorem execGangPlacement_wf {s : State} (hs : s.mem.wf = true) (grid : Nat) : NextWf (execGangPlacement grid s) := by
  refine (nextWf_next _).2 ?_
  split
  · exact hs
  split
  · exact hs
  split
  · exact hs
  next hr =>
    have hr := State.chipReady_wf hr hs
    dsimp only
    split
    · exact hr
    · exact wf_of_ite (State.placeGang_wf (by simpa using hr) _ _ _ _ _ _ _) (by simpa using hr)

theorem execTlaunch_wf {s : State} (hs : s.mem.wf = true) (a : Reg) : NextWf (execTlaunch a s) := by
  refine (nextWf_next _).2 (State.whenReady_wf hs (State.withStruct_wf hs _ fun bs u hu => ?_))
  split
  · dsimp only
    (repeat' split) <;> simp [hu]
  · simp [hu]

theorem execTailChildStart_wf {s : State} (hs : s.mem.wf = true) (grid : Nat) : NextWf (execTailChildStart grid s) := by
  refine (nextWf_next _).2 ?_
  (repeat' split) <;> simp [hs]

@[simp] theorem State.cancelChip_wf {s : State} (hs : s.mem.wf = true) (id : Nat) : (s.cancelChip id).mem.wf = true :=
  foldl_wf (fun _ _ h => cancelEntries_wf _ _ h) _ hs

@[simp] theorem State.freeGrid_wf {s : State} (hs : s.mem.wf = true) (g : Grid) : (s.freeGrid g).mem.wf = true := by
  simp [State.freeGrid, hs]

theorem execGridComplete_wf {s : State} (hs : s.mem.wf = true) (grid : Nat) : NextWf (execGridComplete grid s) := by
  refine (nextWf_next _).2 ?_
  split
  · exact hs
  next g _ =>
    have hf : ((g.tail.foldl (fun (s : State) e => s.signalDown g.ctx (BitVec.ofNat 64 grid) e.pkt.signal) s).freeGrid g).mem.wf = true :=
      State.freeGrid_wf (foldl_wf (fun _ _ h => State.signalDown_wf h _ _ _) _ hs) _
    refine wf_of_ite hs ?_
    dsimp only
    split
    · exact State.endPacket_wf hf _ _ _ _
    · exact State.signalDown_wf hf _ _ _

end Sys2Proof.Machine
end

section
/-!
SUPPORT. Memory keeps its canonical form (log entry 1): faults of lanes, the host link and the commands that make up a
context (R333 to R348, R438, R439).
-/

namespace Sys2Proof.Machine

@[simp] theorem State.noteLoss_mem (s : State) (ctx : Nat) (e : Event) : (s.noteLoss ctx e).mem = s.mem := by
  unfold State.noteLoss
  (repeat' split) <;> rfl

theorem execFaultEventPost_wf {s : State} (hs : s.mem.wf = true) (ctx : Nat) : NextWf (execFaultEventPost ctx s) := by
  refine (nextWf_next _).2 ?_
  dsimp only
  (repeat' split) <;> simp [hs]

theorem State.onUserWork_wf {s : State} (hs : s.mem.wf = true) {f : State → State}
    (hf : ∀ u, u.mem.wf = true → (f u).mem.wf = true) : (s.onUserWork f).mem.wf = true := by
  unfold State.onUserWork
  split
  · exact hf _ hs
  · exact hf _ hs

@[simp] theorem State.setAreaByte_wf {s : State} (hs : s.mem.wf = true) (slot off x : Nat) :
    (s.setAreaByte slot off x).mem.wf = true := by
  simp [State.setAreaByte, hs]

@[simp] theorem State.retireHeld_wf {s : State} (hs : s.mem.wf = true) (lanes : List (Nat × Nat)) :
    (s.retireHeld lanes).mem.wf = true := by
  refine State.settle_wf ?_
  rw [State.retireLanes_mem]
  exact foldl_wf (fun u x hu => State.setAreaByte_wf hu _ _ _) _ hs

@[simp] theorem State.stopHeld_wf {s : State} (hs : s.mem.wf = true) (lanes : List Nat) (code : Nat) :
    (s.stopHeld lanes code).mem.wf = true :=
  State.stopTeam_wf (foldl_wf (fun _ _ hu => State.setAreaByte_wf hu _ _ _) _ hs) _ _

@[simp] theorem State.completeLanes_wf {s : State} (hs : s.mem.wf = true) (page : Nat) (mapped : Bool) :
    (s.completeLanes page mapped).mem.wf = true := by
  refine State.onUserWork_wf hs fun u hu => ?_
  extract_lets ls t v
  have hv : v.mem.wf = true := hu
  clear_value v ls
  split
  · exact hv
  split
  · exact State.settle_wf hv
  split
  · exact State.retireHeld_wf hv _
  · exact State.stopHeld_wf hv _ _

@[simp] theorem State.completeStream_wf {s : State} (hs : s.mem.wf = true) (page : Nat) (mapped : Bool) :
    (s.completeStream page mapped).mem.wf = true := by
  simp [State.completeStream, hs]

@[simp] theorem State.applyCompletion_wf {s : State} (hs : s.mem.wf = true) (ctx : Nat) (bs : List Byte) :
    (s.applyCompletion ctx bs).mem.wf = true := by
  unfold State.applyCompletion
  dsimp only
  split
  · exact hs
  split
  · exact hs
  split
  · exact hs
  · exact State.onTeam_wf hs _ fun _ hu => State.completeStream_wf (State.completeLanes_wf hu _ _) _ _

theorem State.takeCompletion_wf {s t : State} {ctx : Nat} (h : s.takeCompletion ctx = some t) (hs : s.mem.wf = true) :
    t.mem.wf = true := by
  unfold State.takeCompletion at h
  obtain ⟨c, -, h⟩ := Option.bind_eq_some_iff.1 h
  obtain ⟨r, -, h⟩ := Option.bind_eq_some_iff.1 h
  dsimp only at h
  split at h
  · cases h
  split at h
  · cases h
  · rw [← Option.some.inj h]
    exact State.applyCompletion_wf (by simpa using State.devWrite_wf hs _ _ _) _ _

theorem execFaultCompletionEntry_wf {s : State} (hs : s.mem.wf = true) (ctx : Nat) :
    NextWf (execFaultCompletionEntry ctx s) := by
  refine (nextWf_next _).2 ?_
  split
  · exact hs
  refine wf_of_ite hs ?_
  cases h : s.takeCompletion ctx with
  | none => exact hs
  | some t => exact State.takeCompletion_wf h hs

theorem takeCompletions_wf (ctx n : Nat) {s : State} (hs : s.mem.wf = true) : (takeCompletions ctx n s).mem.wf = true := by
  induction n generalizing s with
  | zero => exact hs
  | succ n ih =>
    unfold takeCompletions
    split
    · exact hs
    next h => exact ih (State.takeCompletion_wf h hs)

@[simp] theorem State.resolvePending_wf {s : State} (hs : s.mem.wf = true) : s.resolvePending.mem.wf = true := by
  unfold State.resolvePending
  extract_lets codes
  split
  · exact hs
  split
  · simpa using hs
  rw [State.faultsRead_mem]
  refine State.onUserWork_wf hs fun u hu => ?_
  extract_lets ls t v fs how
  have hv : v.mem.wf = true := hu
  clear_value v fs how
  split
  · exact State.stopHeld_wf hv _ _
  · exact wf_of_ite hv (State.retireHeld_wf hv _)

@[simp] theorem State.setSite_mem (s : State) (site : Nat) (f : Site → Site) : (s.setSite site f).mem = s.mem := by
  rfl

@[simp] theorem State.readSlots_mem (s : State) (site a n : Nat) : (s.readSlots site a n).mem = s.mem := by
  rfl

theorem execHostRingDoorbell_wf {s : State} (hs : s.mem.wf = true) (site value : Nat) :
    NextWf (execHostRingDoorbell site value s) := by
  refine (nextWf_next _).2 ?_
  split <;> simp [hs]

@[simp] theorem State.hostDone_wf {s : State} (hs : s.mem.wf = true) (status : Nat) : (s.hostDone status).mem.wf = true := by
  unfold State.hostDone
  dsimp only
  split
  · simpa using hs
  · refine wf_of_ite ?_ ?_ <;> simp [Memory.wf_setNat, hs]

theorem State.command8_wf {s : State} (hs : s.mem.wf = true) (n : Nat) {f : State → Nat × State} (hf : (f s).2.mem.wf = true) :
    (s.command8 n f).mem.wf = true := by
  unfold State.command8
  exact wf_of_ite (State.hostDone_wf hs _) (wf_of_ite (State.hostDone_wf hs _) (wf_of_ite hf (State.hostDone_wf hf _)))

theorem State.ctxCommand_wf {s : State} (hs : s.mem.wf = true) (n : Nat) {f : Nat → Context → State → Nat × State}
    (hf : ∀ ctx c, (f ctx c s).2.mem.wf = true) : (s.ctxCommand n f).mem.wf = true := by
  refine State.command8_wf hs _ ?_
  split
  · exact hs
  · exact hf _ _

@[simp] theorem State.hostWait_mem (s : State) (c st : Nat) : (s.hostWait c st).2.mem = s.mem := by
  unfold State.hostWait
  split <;> simp

theorem execCtxCreate_wf {s : State} (hs : s.mem.wf = true) : NextWf (execCtxCreate s) := by
  refine (nextWf_next _).2 (State.command8_wf hs _ ?_)
  extract_lets setts count places id
  clear_value setts count places id
  split
  · exact hs
  split
  · exact hs
  · split
    · exact hs
    · exact Memory.wf_setNat hs _ _ _

theorem execCtxDestroy_wf {s : State} (hs : s.mem.wf = true) : NextWf (execCtxDestroy s) := by
  refine (nextWf_next _).2 (State.ctxCommand_wf hs _ fun _ _ => ?_)
  split <;> simp [hs]

theorem execBind_wf {s : State} (hs : s.mem.wf = true) : NextWf (execBind s) := by
  refine (nextWf_next _).2 (State.ctxCommand_wf hs _ fun _ _ => ?_)
  dsimp only
  split <;> simp [hs]

theorem execPagetable_wf {s : State} (hs : s.mem.wf = true) : NextWf (execPagetable s) := by
  refine (nextWf_next _).2 (State.ctxCommand_wf hs _ fun _ _ => ?_)
  split <;> simp [hs]

theorem execPoolAdd_wf {s : State} (hs : s.mem.wf = true) : NextWf (execPoolAdd s) := by
  refine (nextWf_next _).2 (State.ctxCommand_wf hs _ fun _ _ => ?_)
  dsimp only
  split <;> simp [hs]

theorem execQueue_wf {s : State} (hs : s.mem.wf = true) : NextWf (execQueue s) := by
  refine (nextWf_next _).2 (State.ctxCommand_wf hs _ fun _ _ => ?_)
  dsimp only
  (repeat' split) <;> simp [hs]

theorem execHandlers_wf {s : State} (hs : s.mem.wf = true) : NextWf (execHandlers s) := by
  refine (nextWf_next _).2 (State.ctxCommand_wf hs _ fun _ _ => ?_)
  split <;> simp [hs]

theorem execEventq_wf {s : State} (hs : s.mem.wf = true) : NextWf (execEventq s) := by
  refine (nextWf_next _).2 (State.ctxCommand_wf hs _ fun _ _ => ?_)
  split <;> simp [hs]

theorem execComplq_wf {s : State} (hs : s.mem.wf = true) : NextWf (execComplq s) := by
  refine (nextWf_next _).2 (State.ctxCommand_wf hs _ fun _ _ => ?_)
  split <;> simp [hs]

theorem execWatchdog_wf {s : State} (hs : s.mem.wf = true) : NextWf (execWatchdog s) := by
  refine (nextWf_next _).2 (State.ctxCommand_wf hs _ fun _ _ => ?_)
  simp [hs]

theorem execHarea_wf {s : State} (hs : s.mem.wf = true) : NextWf (execHarea s) := by
  refine (nextWf_next _).2 (State.ctxCommand_wf hs _ fun _ _ => ?_)
  dsimp only
  split <;> simp [hs]

@[simp] theorem State.hostReply_mem (s : State) (bad : Bool) (bs : List Byte) : (s.hostReply bad bs).mem = s.mem := by
  rfl

@[simp] theorem State.hostWindow_wf {s : State} (hs : s.mem.wf = true) (off : Nat) (acc : HostAccess) :
    (s.hostWindow off acc).mem.wf = true := by
  generalize h : s.hostWindow off acc = t
  have hdef : @State.hostWindow = @State.hostWindow := rfl
  conv at hdef => rhs; delta State.hostWindow
  rw [hdef] at h
  clear hdef
  beta_reduce at h
  extract_lets a n units ctx at h
  clear_value a n units ctx
  cases ctx with
  | none =>
    dsimp only at h
    rwa [← h, State.hostReply_mem]
  | some c =>
    dsimp only at h
    cases acc with
    | read n =>
      dsimp only at h
      split at h
      · rwa [← h, State.hostReply_mem]
      · rwa [← h, State.hostReply_mem, readSpots_mem]
    | write bs =>
      dsimp only at h
      split at h
      · rwa [← h, State.hostReply_mem]
      · rw [← h, State.hostReply_mem]
        exact writeSpots_wf _ _ _ hs

theorem ringDoorbell_wf {s : State} (hs : s.mem.wf = true) (site page value : Nat) :
    NextWf (ringDoorbell site page value s) := by
  unfold ringDoorbell
  split
  · exact execHostRingDoorbell_wf hs _ _
  · exact execUserQueueDoorbell_wf hs _ _ _

@[simp] theorem State.areaWrite_wf {s : State} (hs : s.mem.wf = true) (site o : Nat) (bs : List Byte) :
    (s.areaWrite site o bs).mem.wf = true :=
  wf_of_ite (Memory.wf_setBytes hs _ _) hs

theorem execHostMemoryAccess_wf {s : State} (hs : s.mem.wf = true) (site off : Nat) (acc : HostAccess) :
    NextWf (execHostMemoryAccess site off acc s) := by
  have here : NextWf (.next s) := (nextWf_next _).2 hs
  unfold execHostMemoryAccess
  cases FMap.get? s.sites site with
  | none => exact here
  | some x =>
    refine NextWf.ite here (NextWf.ite ((nextWf_next _).2 (State.hostWindow_wf hs _ _)) ?_)
    cases acc with
    | read n => exact (nextWf_next _).2 (by simpa using hs)
    | write bs =>
      exact NextWf.ite (NextWf.ite (ringDoorbell_wf hs _ _ _) here) ((nextWf_next _).2 (State.areaWrite_wf hs _ _ _))

theorem execGrant_wf {s : State} (hs : s.mem.wf = true) : NextWf (execGrant s) := by
  refine (nextWf_next _).2 (State.ctxCommand_wf hs _ fun _ _ => ?_)
  split <;> simp [hs]

@[simp] theorem State.charge_mem (s : State) (sett : Nat) (x : Charge) : (s.charge sett x).mem = s.mem := by
  unfold State.charge
  (repeat' split) <;> simp

theorem execEnergyCharge_wf {s : State} (hs : s.mem.wf = true) (sett : Nat) (bill : List Charge) :
    NextWf (execEnergyCharge sett bill s) := by
  refine (nextWf_next _).2 (wf_of_ite ?_ hs)
  rwa [foldl_mem fun s x => State.charge_mem s _ _]

@[simp] theorem State.sendRecord_mem (s : State) (ctx a : Nat) (bs : List Byte) : (s.sendRecord ctx a bs).mem = s.mem := by
  have h (xs : List (Nat × Nat)) (acc : State × List Byte) : (xs.foldl (fun (acc : State × List Byte) x =>
      ({ acc.1 with
        outbox := acc.1.outbox ++ [requestBytes 9 ctx x.1 x.2 0 0 s.gtc (acc.2.take x.2)] }, acc.2.drop x.2)) acc).1.mem = acc.1.mem := by
    induction xs generalizing acc with
    | nil => rfl
    | cons x xs ih => exact ih _
  exact h _ _

@[simp] theorem State.writeRecord_wf {s : State} (hs : s.mem.wf = true) (ctx a : Nat) (bs : List Byte) :
    (s.writeRecord ctx a bs).2.mem.wf = true := by
  unfold State.writeRecord
  split
  · exact hs
  split
  · split
    · exact hs
    · exact writeSpots_wf _ _ _ hs
  · split <;> simp [hs]

theorem execSnapshot_wf {s : State} (hs : s.mem.wf = true) : NextWf (execSnapshot s) := by
  refine (nextWf_next _).2 (State.ctxCommand_wf hs _ fun _ _ => ?_)
  split <;> simp [hs]

theorem execStatement_wf {s : State} (hs : s.mem.wf = true) : NextWf (execStatement s) := by
  refine (nextWf_next _).2 (State.ctxCommand_wf hs _ fun _ _ => ?_)
  split <;> simp [hs]

theorem execQuote_wf {s : State} (hs : s.mem.wf = true) : NextWf (execQuote s) := by
  refine (nextWf_next _).2 (State.ctxCommand_wf hs _ fun _ _ => ?_)
  split <;> simp [hs]

end Sys2Proof.Machine
end

section
/-!
SUPPORT. Memory keeps its canonical form (log entry 1): stop, save and restore (R350 to R360).
-/

namespace Sys2Proof.Machine

theorem execStop_wf {s : State} (hs : s.mem.wf = true) : NextWf (execStop s) := by
  refine (nextWf_next _).2 (State.ctxCommand_wf hs _ fun _ _ => ?_)
  (repeat' split) <;> simp [hs]

theorem execStopCut_wf {s : State} (hs : s.mem.wf = true) (ctx : Nat) : NextWf (execStopCut ctx s) := by
  simp [execStopCut, hs]

theorem State.savePage_wf {s : State} (hs : s.mem.wf = true) (named : Bool) (p : Nat) (e : Stt) :
    (s.savePage named p e).mem.wf = true := by
  have hc (a b : Nat) {c : Prop} [Decidable c] : (if c then s.mem.copy a b 4096 else s.mem).wf = true := by
    split
    · exact Memory.wf_copy hs _ _ _
    · exact hs
  exact wf_of_ite (hc _ _) (Memory.wf_clear hs _ _)

theorem State.saveTeam_wf {s : State} (hs : s.mem.wf = true) : s.saveTeam.mem.wf = true :=
  foldl_wf (fun _ _ h => State.savePage_wf h _ _ _) _ hs

theorem State.saveMem_wf {s : State} (hs : s.mem.wf = true) (ctx a b n : Nat) : (s.saveMem ctx a b n).mem.wf = true :=
  Memory.wf_clear (by simpa using hs) _ _

theorem State.loadMem_wf {s : State} (hs : s.mem.wf = true) (ctx a b n : Nat) : (s.loadMem ctx a b n).mem.wf = true := by
  unfold State.loadMem
  split
  · exact hs
  · exact Memory.wf_putSlice (Memory.wf_clear hs _ _) _ _ _

theorem State.saveGang_wf {s : State} (hs : s.mem.wf = true) (t : Team) : (s.saveGang t).mem.wf = true := by
  unfold State.saveGang
  rw [State.setSett_mem]
  exact foldl_wf (fun _ _ h => State.saveMem_wf h _ _ _ _) _ hs

theorem State.saveChip_wf {s : State} (hs : s.mem.wf = true) (g : Grid) : (s.saveChip g).mem.wf = true :=
  foldl_wf (fun _ _ h => State.saveMem_wf h _ _ _ _) _ hs

theorem execSave_wf {s : State} (hs : s.mem.wf = true) (ctx : Nat) : NextWf (execSave ctx s) := by
  refine (nextWf_next _).2 ?_
  split
  · exact hs
  split
  · exact hs
  split
  · simpa using hs
  extract_lets uids s₁ teams s₂ s₃ s₄
  have h₁ : s₁.mem.wf = true := foldl_wf (fun _ _ h => State.onTeam_wf h _ fun _ h => State.saveTeam_wf h) _ hs
  have h₂ : s₂.mem.wf = true := foldl_wf (fun _ _ h => State.saveGang_wf h _) _ h₁
  have h₃ : s₃.mem.wf = true := foldl_wf (fun _ _ h => State.saveChip_wf h _) _ h₂
  have h₄ : s₄.mem.wf = true := (congrArg Memory.wf (State.setCtx_mem _ _ _)).trans h₃
  clear_value s₄
  exact h₄

theorem State.restoreGang_wf {s : State} (hs : s.mem.wf = true) (h : Team) (ts : List Team) (cl base : Nat)
    (us : List (List Nat)) : (s.restoreGang h ts cl base us).mem.wf = true := by
  unfold State.restoreGang
  extract_lets placed s₁ s₂ s₃ s₄
  have h₂ : s₂.mem = s.mem := State.setSett_mem _ _ _
  have h₃ : s₃.mem = s₂.mem := foldl_mem (fun _ _ => State.l1Discard_mem _ _ _) _ _
  exact foldl_wf (fun _ _ h => State.loadMem_wf h _ _ _ _) _ (by rwa [h₃, h₂])

theorem restoreGangs_wf {all hs : List Team} {s t : State} {homes : List (Nat × Nat)}
    (h : restoreGangs all hs s = some (homes, t)) (hw : s.mem.wf = true) : t.mem.wf = true := by
  induction hs generalizing s homes with
  | nil =>
    cases h
    exact hw
  | cons x hs ih =>
    unfold restoreGangs at h
    dsimp only at h
    split at h
    · cases h
    · obtain ⟨r, hr, h⟩ := Option.map_eq_some_iff.1 h
      obtain rfl : r.2 = t := congrArg Prod.snd h
      exact ih (homes := r.1) hr (State.restoreGang_wf hw _ _ _ _ _)

theorem restoreChips_wf {gs : List Grid} {s t : State} (h : restoreChips gs s = some t) (hw : s.mem.wf = true) :
    t.mem.wf = true := by
  induction gs generalizing s with
  | nil =>
    cases h
    exact hw
  | cons g gs ih =>
    unfold restoreChips at h
    dsimp only at h
    split at h
    · exact ih h hw
    split at h
    · cases h
    next ha =>
      refine ih h ?_
      rw [State.setGrid_mem]
      exact foldl_wf (fun _ _ h => State.loadMem_wf h _ _ _ _) _ (allocChip_wf ha hw)

theorem State.resume_wf {s : State} (hs : s.mem.wf = true) (ctx : Nat) : (s.resume ctx).mem.wf = true := by
  unfold State.resume
  extract_lets waits t s₁ s₂
  have h₂ : s₂.mem.wf = true := State.lightPaths_wf (State.reparkAll_wf hs)
  exact wf_of_ite (State.onUserWork_wf h₂ fun _ hu => State.lightPaths_wf (State.reparkAll_wf hu)) h₂

@[simp] theorem State.testEntries_mem (s : State) (ctx : Nat) : (s.testEntries ctx).mem = s.mem := by
  rfl

theorem execRestore_wf {s : State} (hs : s.mem.wf = true) : NextWf (execRestore s) := by
  refine (nextWf_next _).2 (wf_of_ite (State.hostDone_wf hs _) (wf_of_ite (State.hostDone_wf hs _) ?_))
  split
  · exact State.hostDone_wf hs _
  extract_lets id
  split
  · exact State.hostDone_wf hs _
  · exact State.hostDone_wf hs _
  split
  · exact State.hostDone_wf hs _
  next hg =>
    have hg := restoreGangs_wf hg hs
    extract_lets off
    refine wf_of_ite ?_ ?_
    · rwa [foldl_mem fun s h => State.wakeCluster_mem s _ _ _ _]
    split
    · exact State.hostDone_wf hs _
    next hc =>
      have hc := restoreChips_wf hc hg
      refine State.hostDone_wf ?_ _
      rw [State.testEntries_mem]
      refine foldl_wf (fun u t hu => State.onTeam_wf hu _ fun v hv => State.resume_wf (State.resolvePending_wf hv) _) _ ?_
      exact takeCompletions_wf _ _ (by simpa using hc)

end Sys2Proof.Machine
end

section
/-!
SUPPORT. Memory keeps its canonical form (log entry 1): collective runs (R412 to R420).
-/

namespace Sys2Proof.Machine

@[simp] theorem State.putStatus_wf {s : State} (hs : s.mem.wf = true) (g : Group) (a : Word) (st : RunStatus) :
    (s.putStatus g a st).mem.wf = true := by
  simp [State.putStatus, hs]

@[simp] theorem State.toStatus_wf {s : State} (hs : s.mem.wf = true) (gid : Nat) (st : RunStatus) :
    (s.toStatus gid st).mem.wf = true := by
  unfold State.toStatus
  split
  · exact hs
  · rw [State.setGroup_mem]
    exact State.putStatus_wf (foldl_wf (fun _ _ h => State.putStatus_wf h _ _ _) _ hs) _ _ _

@[simp] theorem State.tellEnd_wf {s : State} (hs : s.mem.wf = true) (g : Group) (p : Position) :
    (s.tellEnd g p).mem.wf = true := by
  simp [State.tellEnd, hs]

/-- A command of a context that does not run ends with a status and leaves memory in its canonical form. -/
theorem State.ctxCommand_wf_of_runs {s : State} (hs : s.mem.wf = true) {i : Instr} {n : Nat}
    {f : Nat → Context → State → Nat × State} (hi : exec i s = .next (s.ctxCommand n f))
    (h : ∀ c, s.Runs n c → NextWf (exec i s)) : NextWf (exec i s) := by
  rcases Nat.lt_or_ge s.bringup 8 with hb | hb
  · rw [hi, State.ctxCommand, State.command8_early _ hb]
    exact (nextWf_next _).2 (State.hostDone_wf hs _)
  by_cases hp : s.ParamsEnd n
  · cases hc : s.ctx? s.hcmd.ctx with
    | none =>
      rw [hi, State.ctxCommand_gone _ hb hp hc]
      exact (nextWf_next _).2 (State.hostDone_wf hs _)
    | some c => exact h c ⟨hb, hp, hc⟩
  · rw [hi, State.ctxCommand, State.command8_further _ hb hp]
    exact (nextWf_next _).2 (State.hostDone_wf hs _)

theorem execCollective_wf {s : State} (hs : s.mem.wf = true) : NextWf (execCollective s) := by
  refine State.ctxCommand_wf_of_runs (i := .collective) hs rfl fun c hruns => ?_
  have done {u : State} (hu : u.mem.wf = true) (x : Nat) : NextWf (.next (u.hostDone x)) := (nextWf_next _).2 (State.hostDone_wf hu _)
  have wait (k : Nat) : NextWf (.next (if isAwait k = true then s.askFar (.host s.hcmd.site) k else s.hostDone 7)) :=
    (nextWf_next _).2 (wf_of_ite (by simpa using hs) (State.hostDone_wf hs _))
  cases hhdr : s.anyRead (.host s.hcmd.site) s.hcmd.ctx .load (s.param 0) 64 with
  | error k =>
    rw [(exec_collective_unread (hdr := []) hruns).1 k hhdr]
    exact wait k
  | ok hdr =>
    obtain ⟨hbad, hgood⟩ := (exec_collective_unread hruns).2 hhdr
    cases hok : headerOk (parseGroup s.hcmd.ctx 0 hdr) hdr with
    | false =>
      rw [hbad hok]
      exact done hs _
    | true =>
      cases hrows : s.anyRead (.host s.hcmd.site) s.hcmd.ctx .load (s.param 0) (64 + 48 * (fieldAt hdr 0 2 + fieldAt hdr 2 2)) with
      | error k =>
        rw [hgood hok k hrows]
        exact wait k
      | ok bs =>
        obtain ⟨hawait, hrefused, hfine⟩ := exec_collective_read hruns hhdr hok hrows rfl
        cases hunread : s.extentsUnread s.hcmd.ctx (parseGroup s.hcmd.ctx (BitVec.ofNat 64 (s.param 0)) bs) with
        | some k =>
          rw [hawait k hunread]
          exact wait k
        | none =>
          by_cases hf : s.GroupFine c (parseGroup s.hcmd.ctx (BitVec.ofNat 64 (s.param 0)) bs) (fieldAt hdr 0 2 + fieldAt hdr 2 2) bs
          · by_cases hlive : ∃ y ∈ s.groups, y.2.ctx = s.hcmd.ctx ∧
              y.2.addr = (parseGroup s.hcmd.ctx (BitVec.ofNat 64 (s.param 0)) bs).addr ∧ y.2.st.live = true
            · rw [(hfine hunread hf).1 hlive]
              exact done hs _
            · rw [(hfine hunread hf).2 fun y hy hctx haddr => Bool.eq_false_iff.2 fun h => hlive ⟨y, hy, hctx, haddr, h⟩]
              exact (nextWf_next _).2 (State.hostDone_wf (by exact hs) _)
          · rw [hrefused hunread hf]
            exact done hs _

@[simp] theorem State.addLink_mem (s : State) (gid : Nat) (g : Group) (x : Nat × Link1) : (s.addLink gid g x).mem = s.mem := by
  simp [State.addLink]

@[simp] theorem State.addLinks_mem (s : State) (gid : Nat) (g : Group) (xs : List (Nat × Link1)) :
    (s.addLinks gid g xs).mem = s.mem := by
  simp [State.addLinks, foldl_mem]

@[simp] theorem State.armChunk_wf {s : State} (hs : s.mem.wf = true) (gid : Nat) : (s.armChunk gid).mem.wf = true := by
  simp only [State.armChunk]
  split <;> simp [hs]

/-- Memory is in its canonical form in the state that a step of a chain leaves, if it leaves one. -/
@[simp] def Done.Wf : Done → Prop
  | .wait => True
  | .sent s => s.mem.wf = true
  | .failed s => s.mem.wf = true
  | .ok _ s => s.mem.wf = true

theorem State.linkCopy_wf {s : State} (hs : s.mem.wf = true) (sett : Nat) (e : Entry) (g : Group) (src dst len : Nat)
    (ext : List Answer) : (s.linkCopy sett e g src dst len ext).Wf := by
  unfold State.linkCopy
  split
  · trivial
  next bs c u hb =>
    have hm : u.mem = s.mem := by
      split at hb
      · cases hb
        rfl
      · exact State.cleSource_mem hb
    split <;> rename_i heq <;> have h := heq ▸ State.cleApply_wf ((congrArg Memory.wf hm).trans hs) _ _ _ _ _ _ <;> exact h

theorem State.linkRing_wf {s : State} (hs : s.mem.wf = true) (sett : Nat) (e : Entry) (g : Group) (p i : Nat)
    (ext : List Answer) : (s.linkRing sett e g p i ext).Wf := by
  unfold State.linkRing
  dsimp only
  split
  · trivial
  next hb =>
    have hb := (congrArg Memory.wf (State.cleSource_mem hb)).trans hs
    split
    · exact hb
    · exact wf_of_ite (by simpa using hb) hb

theorem linkWrites_wf (sett : Nat) (e : Entry) (g : Group) (ext : List Answer) (xs : List (Nat × List Byte)) {s : State}
    (hs : s.mem.wf = true) : (linkWrites sett e g ext xs s).Wf := by
  induction xs generalizing s with
  | nil => exact hs
  | cons x xs ih =>
    have h := State.cleApply_wf hs e sett (copyFields x.1 x.1 x.2.length) x.2 0 ext
    unfold linkWrites
    split <;> rename_i heq <;> rw [heq] at h
    · trivial
    · have h := ih h
      split <;> rename_i heq
      · simpa [heq] using h
      · exact h
    · exact h
    · exact ih h

theorem gatherAll_mem {sett : Nat} {e : Entry} {g : Group} {k : Nat} {ext : List Answer} {src : Nat → Nat} {ps : List Nat}
    {s t : State} {xs : List (Nat × List Byte)} {c : Nat} (h : gatherAll sett e g k ext src ps s = some (xs, c, t)) :
    t.mem = s.mem := by
  induction ps generalizing s xs c with
  | nil =>
    cases h
    rfl
  | cons p ps ih =>
    unfold gatherAll at h
    dsimp only at h
    split at h
    · cases h
    next hb =>
      obtain ⟨r, hr, h⟩ := Option.map_eq_some_iff.1 h
      obtain rfl : r.2.2 = t := congrArg (fun r => r.2.2) h
      exact (ih (xs := r.1) (c := r.2.1) hr).trans (State.cleSource_mem hb)

theorem State.linkOut_wf {s : State} (hs : s.mem.wf = true) (sett : Nat) (e : Entry) (g : Group) (p : Nat) (ext : List Answer) :
    (s.linkOut sett e g p ext).Wf := by
  unfold State.linkOut
  extract_lets at_ fin
  have hfin (xs : List (Nat × List Byte)) {u : State} (hu : u.mem.wf = true) : (fin (linkWrites sett e g ext xs u)).Wf := by
    have h := linkWrites_wf sett e g ext xs hu
    generalize linkWrites sett e g ext xs u = d at h
    cases d <;> exact h
  split
  · exact hfin _ hs
  split
  · split
    · trivial
    next hb =>
      have hb := (congrArg Memory.wf (gatherAll_mem hb)).trans hs
      split
      · exact hb
      · exact hfin _ hb
  split
  · exact hfin _ hs
  · exact hfin _ hs

theorem State.linkRedo_wf {s : State} (hs : s.mem.wf = true) (sett : Nat) (e : Entry) (g : Group) (p k : Nat)
    (ext : List Answer) : (s.linkRedo sett e g p k ext).Wf := by
  unfold State.linkRedo
  dsimp only
  split
  · exact linkWrites_wf _ _ _ _ _ hs
  split
  · trivial
  next hb =>
    have hb := (congrArg Memory.wf (gatherAll_mem hb)).trans hs
    split
    · exact hb
    · exact linkWrites_wf _ _ _ _ _ hb

theorem State.linkMove_wf {s : State} (hs : s.mem.wf = true) (sett : Nat) (e : Entry) (g : Group) (ext : List Answer) :
    (s.linkMove sett e g ext).Wf := by
  unfold State.linkMove
  dsimp only
  split
  · exact State.linkCopy_wf hs _ _ _ _ _ _ _
  · exact State.linkRing_wf hs _ _ _ _ _ _
  · exact State.linkOut_wf hs _ _ _ _ _
  · exact State.linkCopy_wf hs _ _ _ _ _ _ _
  · exact State.linkCopy_wf hs _ _ _ _ _ _ _
  · exact State.linkRedo_wf hs _ _ _ _ _ _

@[simp] theorem State.linkNext_wf {s : State} (hs : s.mem.wf = true) (gid : Nat) (g : Group) (p : Nat) (l : Link1) :
    (s.linkNext gid g p l).mem.wf = true := by
  cases l with
  | mirror => exact wf_of_ite hs (by simp [hs])
  | ring i => exact wf_of_ite (by simpa using hs) (wf_of_ite (by simpa using hs) (wf_of_ite (by simpa using hs) hs))
  | input => simpa [State.linkNext] using hs
  | out | output seg k | redo k => exact hs

@[simp] theorem State.dropChained_mem (s : State) (sett gid id : Nat) : (s.dropChained sett gid id).mem = s.mem := by
  rfl

@[simp] theorem State.linkIncrement_wf {s : State} (hs : s.mem.wf = true) (sett : Nat) (g : Group) (p : Nat) (x : Link1) :
    (s.linkIncrement sett g p x).mem.wf = true := by
  simp [State.linkIncrement, hs]

@[simp] theorem State.linkComplete_wf {s : State} (hs : s.mem.wf = true) (sett gid : Nat) (e : Entry) (ext : List Answer)
    (fail : Bool) : (s.linkComplete sett gid e ext fail).mem.wf = true := by
  unfold State.linkComplete
  split
  · simpa using hs
  next g _ =>
    extract_lets away srcs failed s₁
    have hfailed {u : State} (hu : u.mem.wf = true) : (failed u).mem.wf = true := by simpa [failed] using hu
    have h₁ : s₁.mem.wf = true := wf_of_ite hs (by simpa using hs)
    clear_value failed s₁
    refine wf_of_ite hs ?_
    split
    next ha =>
      refine wf_of_ite (hfailed h₁) ?_
      split at ha
      · cases ha
      · exact (congrArg Memory.wf (State.askFrom_mem ha)).trans h₁
    · split <;> rename_i heq <;> have hm := heq ▸ State.linkMove_wf h₁ sett _ g ext
      · exact wf_of_ite (hfailed h₁) h₁
      · simpa using hm
      · exact hfailed hm
      · exact wf_of_ite h₁ (State.linkNext_wf (State.linkIncrement_wf (by simpa using hm) _ _ _ _) _ _ _ _)

theorem execCleEntryComplete_wf {s : State} (hs : s.mem.wf = true) (sett entry : Nat) (ext : List Answer) :
    NextWf (execCleEntryComplete sett entry ext s) := by
  refine (nextWf_next _).2 ?_
  split
  · exact State.linkComplete_wf hs _ _ _ _ _
  split
  · exact hs
  split
  · exact State.recordEntry_wf hs _ _ _ _
  · exact State.finishEntry_wf hs _ _ (State.cleMove_wf hs _ _ _)

theorem execCleEntryFaulted_wf {s : State} (hs : s.mem.wf = true) (sett entry : Nat) :
    NextWf (execCleEntryFaulted sett entry s) := by
  refine (nextWf_next _).2 ?_
  split
  · exact State.linkComplete_wf hs _ _ _ _ _
  split
  · exact hs
  next e _ =>
    have hm := State.cleMove_wf hs sett e []
    dsimp only
    split
    · exact wf_of_ite (State.endEntry_wf hs _ _ _ _) hs
    split <;> rename_i heq
    · rw [heq] at hm
      exact State.faultEntry_wf hm _ _ _ _
    · exact wf_of_ite (State.faultEntry_wf hs _ _ _ _) hs
    · exact hs

theorem execCollectiveRunStart_wf {s : State} (hs : s.mem.wf = true) (group : Nat) :
    NextWf (execCollectiveRunStart group s) := by
  refine (nextWf_next _).2 ?_
  split <;> simp [hs]

@[simp] theorem State.commit_wf {s : State} (hs : s.mem.wf = true) (gid : Nat) : (s.commit gid).mem.wf = true := by
  unfold State.commit
  extract_lets s₁
  have h₁ : s₁.mem.wf = true := by simpa [s₁] using hs
  clear_value s₁
  split
  · exact h₁
  next g _ =>
    refine wf_of_ite (by simp [h₁]) ?_
    extract_lets open_ s₂ s₃ s₄
    have h₂ : s₂.mem.wf = true := foldl_wf (fun _ _ h => State.tellEnd_wf (State.putStatus_wf h _ _ _) _ _) _ h₁
    have h₃ : s₃.mem.wf = true := foldl_wf (fun _ _ h => State.putStatus_wf h _ _ _) _ h₂
    have h₄ : s₄.mem.wf = true := wf_of_ite h₃ (State.putStatus_wf h₃ _ _ _)
    simpa using h₄

@[simp] theorem State.completeEarly_wf {s : State} (hs : s.mem.wf = true) (gid : Nat) (g : Group) :
    (s.completeEarly gid g).mem.wf = true := by
  unfold State.completeEarly
  rw [State.setGroup_mem]
  exact foldl_wf (fun _ _ h => State.tellEnd_wf (State.putStatus_wf h _ _ _) _ _) _ hs

theorem execChunkCommit_wf {s : State} (hs : s.mem.wf = true) (group : Nat) : NextWf (execChunkCommit group s) := by
  refine (nextWf_next _).2 ?_
  split <;> simp [hs]

@[simp] theorem State.cancelRun_wf {s : State} (hs : s.mem.wf = true) (gid : Nat) (g : Group) :
    (s.cancelRun gid g).mem.wf = true := by
  refine foldl_wf (fun u p hu => wf_of_ite hu (foldl_wf (fun v i hv => ?_) _ hu)) _ (by simpa using hs)
  split
  · exact State.setCounter_wf hv _ _ _
  · exact hv

@[simp] theorem State.scramble_wf {s : State} (hs : s.mem.wf = true) (g : Group) (p : Position) :
    (s.scramble g p).mem.wf = true := by
  refine foldl_wf (fun u seg hu => ?_) _ hs
  dsimp only
  split
  · exact writeSpots_wf _ _ _ (by simpa using hu)
  · exact hu

theorem execCollectiveDeadlineExpiry_wf {s : State} (hs : s.mem.wf = true) (group : Nat) :
    NextWf (execCollectiveDeadlineExpiry group s) := by
  refine (nextWf_next _).2 ?_
  split <;> simp [hs]

theorem execCollectiveLossEnd_wf {s : State} (hs : s.mem.wf = true) (group : Nat) : NextWf (execCollectiveLossEnd group s) := by
  refine (nextWf_next _).2 ?_
  split
  · exact hs
  split
  · exact hs
  next g _ _ _ _ =>
    refine wf_of_ite hs ?_
    have hscr (ps : List Position) : (ps.foldl (fun (s : State) p => s.scramble g p) (s.cancelRun group g)).mem.wf = true :=
      foldl_wf (fun _ _ h => State.scramble_wf h _ _) _ (State.cancelRun_wf hs _ _)
    rw [State.setGroup_mem]
    exact foldl_wf (fun _ _ h => State.tellEnd_wf h _ _) _ (State.toStatus_wf (hscr _) _ _)

@[simp] theorem State.takeSpare_wf {s : State} (hs : s.mem.wf = true) (gid : Nat) (g : Group) (p i : Nat) :
    (s.takeSpare gid g p i).mem.wf = true := by
  simp [State.takeSpare, hs]

theorem execCollectiveRecovery_wf {s : State} (hs : s.mem.wf = true) (group : Nat) :
    NextWf (execCollectiveRecovery group s) := by
  refine (nextWf_next _).2 ?_
  split
  · exact hs
  split
  · exact hs
  refine wf_of_ite hs (wf_of_ite (wf_of_ite hs (wf_of_ite (by simpa using hs) ?_)) (wf_of_ite hs ?_))
  · simp [hs]
  split
  · exact hs
  next g _ _ p _ _ i _ =>
    have ht : (((s.toStatus group .paused).cancelRun group g).takeSpare group g p i).mem.wf = true :=
      State.takeSpare_wf (by simp [hs]) _ _ _ _
    dsimp only
    split
    · simpa using ht
    · simpa using ht

theorem execAbort_wf {s : State} (hs : s.mem.wf = true) : NextWf (execAbort s) := by
  refine (nextWf_next _).2 (State.ctxCommand_wf hs _ fun id c => ?_)
  split
  · exact hs
  split
  · exact hs
  · rw [foldl_mem fun s h => State.sendCtl_mem s _ _ _ _, State.setGroup_mem]
    exact hs

@[simp] theorem State.abortPos_wf {s : State} (hs : s.mem.wf = true) (gid p : Nat) : (s.abortPos gid p).mem.wf = true := by
  unfold State.abortPos
  split <;> simp [hs]

theorem execAbortApply_wf {s : State} (hs : s.mem.wf = true) (group sett : Nat) : NextWf (execAbortApply group sett s) := by
  refine (nextWf_next _).2 ?_
  split
  · exact hs
  next g _ =>
    extract_lets got s₁
    have h₁ : s₁.mem.wf = true := by
      cases hg : got with
      | none => simpa [s₁, hg] using hs
      | some r => simpa [s₁, hg] using hs
    exact wf_of_ite h₁ (foldl_wf (fun _ _ h => State.abortPos_wf h _ _) _ h₁)

theorem execAbortFinish_wf {s : State} (hs : s.mem.wf = true) (group : Nat) : NextWf (execAbortFinish group s) := by
  refine (nextWf_next _).2 ?_
  split
  · exact hs
  · refine wf_of_ite hs ?_
    rw [State.setGroup_mem]
    exact State.putStatus_wf (foldl_wf (fun _ _ h => State.tellEnd_wf h _ _) _ (State.cancelRun_wf hs _ _)) _ _ _

end Sys2Proof.Machine
end

section
/-!
SUPPORT. Memory keeps its canonical form (log entry 1): links, flits and the fabric (R379 to R400).
-/

namespace Sys2Proof.Machine

@[simp] theorem State.setPort_mem (s : State) (sett p : Nat) (f : Port → Port) : (s.setPort sett p f).mem = s.mem := by
  rfl

@[simp] theorem State.dropLink_mem (s : State) (n : Nat) : (s.dropLink n).mem = s.mem := by
  rfl

theorem execLinkDown_wf {s : State} (hs : s.mem.wf = true) (link : Nat) : NextWf (execLinkDown link s) := by
  simp [execLinkDown, hs]

theorem execLinkLossOfLock_wf {s : State} (hs : s.mem.wf = true) (link : Nat) : NextWf (execLinkLossOfLock link s) := by
  simp [execLinkLossOfLock, hs]

theorem execRetrainRequest_wf {s : State} (hs : s.mem.wf = true) (sett port rate mask : Nat) :
    NextWf (execRetrainRequest sett port rate mask s) := by
  simp [execRetrainRequest, hs]

theorem execRetrainComplete_wf {s : State} (hs : s.mem.wf = true) (sett port rate mask fabric : Nat) :
    NextWf (execRetrainComplete sett port rate mask fabric s) := by
  refine (nextWf_next _).2 ?_
  dsimp only
  split <;> simp [hs]

theorem State.performFlit_wf {s t : State} {bs : List Byte} (h : s.performFlit bs = some t) (hs : s.mem.wf = true) :
    t.mem.wf = true := by
  unfold State.performFlit at h
  extract_lets data packed n k at h
  split at h
  · cases h
  · obtain ⟨xs, -, h⟩ := Option.map_eq_some_iff.1 h
    split at h
    · rw [← h]
      exact writeSpots_wf _ _ _ (by rwa [readSpots_mem])
    · rw [← h]
      exact writeSpots_wf _ _ _ hs

@[simp] theorem State.countFlit_mem (s : State) (f : QFlit) : (s.countFlit f).mem = s.mem := by
  rfl

@[simp] theorem State.deliverFlit_wf {s : State} (hs : s.mem.wf = true) (f : QFlit) : (s.deliverFlit f).mem.wf = true := by
  unfold State.deliverFlit
  refine wf_of_ite hs ?_
  dsimp only
  split
  next hp =>
    have hp := State.performFlit_wf hp (by simpa using hs)
    simpa using hp
  · simpa using hs

theorem execLinkFlitReceived_wf {s : State} (hs : s.mem.wf = true) (link : Nat) (flit : List Byte) :
    NextWf (execLinkFlitReceived link flit s) := by
  refine (nextWf_next _).2 ?_
  dsimp only
  split <;> simp [hs]

@[simp] theorem State.undelivered_mem (s : State) (r : GReq) : (s.undelivered r).mem = s.mem := by
  simp [State.undelivered, foldl_mem]

theorem execDeliveryTimeout_wf {s : State} (hs : s.mem.wf = true) (tag : Nat) : NextWf (execDeliveryTimeout tag s) := by
  refine (nextWf_next _).2 ?_
  split
  · exact wf_of_ite (wf_of_ite (by simpa using hs) hs)
      (wf_of_ite (State.onTeam_wf hs _ fun _ hu => State.reply_wf hu _ _) hs)
  · split
    · exact wf_of_ite (State.onTeam_wf hs _ fun _ hu => by simpa using hu) hs
    · exact wf_of_ite (by simpa using hs) hs

theorem execUeConnectionSetup_wf {s : State} (hs : s.mem.wf = true) (sett endpoint : Nat) (mode : UeMode) :
    NextWf (execUeConnectionSetup sett endpoint mode s) := by
  simp [execUeConnectionSetup, hs]

@[simp] theorem State.ueAtomic_wf {s : State} (hs : s.mem.wf = true) (op ctx a : Nat) (data : List Byte) (f : Nat → Option Nat)
    : (s.ueAtomic op ctx a data f).mem.wf = true := by
  unfold State.ueAtomic
  refine wf_of_ite hs ?_
  split
  · exact hs
  next xs _ =>
    have hr : (readSpots xs s).2.mem.wf = true := by rwa [readSpots_mem]
    dsimp only
    rw [State.ueAnswer_mem]
    split
    · exact writeSpots_wf _ _ _ hr
    · exact hr

theorem execInboundUeOperation_wf {s : State} (hs : s.mem.wf = true) (x : UeArrival) : NextWf (execInboundUeOperation x s) := by
  refine (nextWf_next _).2 (wf_of_ite hs ?_)
  split
  · refine wf_of_ite hs ?_
    split
    · exact hs
    · exact writeSpots_wf _ _ _ hs
  · refine wf_of_ite hs ?_
    split
    · exact hs
    · exact (congrArg Memory.wf (readSpots_mem _ s)).trans hs
  · exact State.ueAtomic_wf hs _ _ _ _ _
  · exact State.ueAtomic_wf hs _ _ _ _ _
  · exact hs

@[simp] theorem State.enqueueFlit_mem (s : State) (chip : Nat) (f : QFlit) : (s.enqueueFlit chip f).mem = s.mem := by
  rfl

@[simp] theorem State.leave_mem (s : State) (chip port : Nat) (flit : List Byte) : (s.leave chip port flit).mem = s.mem := by
  unfold State.leave
  dsimp only
  split
  · rfl
  split <;> rfl

theorem execFlitTraversal_wf {s : State} (hs : s.mem.wf = true) (chip port : Nat) (flit : List Byte) :
    NextWf (execFlitTraversal chip port flit s) := by
  refine (nextWf_next _).2 ?_
  dsimp only
  (repeat' split) <;> simp [hs]

@[simp] theorem State.sendFlit_mem (s : State) (chip port key : Nat) (f : QFlit) :
    (s.sendFlit chip port key f).mem = s.mem := by
  rfl

theorem execVoqTransmit_wf {s : State} (hs : s.mem.wf = true) (chip port : Nat) : NextWf (execVoqTransmit chip port s) := by
  refine (nextWf_next _).2 ?_
  dsimp only
  (repeat' split) <;> simp [hs]

theorem execTimetable_wf {s : State} (hs : s.mem.wf = true) : NextWf (execTimetable s) := by
  refine (nextWf_next _).2 (State.command8_wf hs _ ?_)
  dsimp only
  (repeat' split) <;> simp [hs]

theorem execTimetableTakesEffect_wf {s : State} (hs : s.mem.wf = true) : NextWf (execTimetableTakesEffect s) := by
  refine (nextWf_next _).2 ?_
  split <;> simp [hs]

theorem execPhaseChange_wf {s : State} (hs : s.mem.wf = true) : NextWf (execPhaseChange s) := by
  simp [execPhaseChange, hs]

theorem execCircuitLit_wf {s : State} (hs : s.mem.wf = true) (pkg : Nat) : NextWf (execCircuitLit pkg s) := by
  refine (nextWf_next _).2 ?_
  split
  · exact hs
  · exact wf_of_ite hs (foldl_wf (fun _ _ hu => State.onTeam_wf hu _ fun v hv =>
      State.lightPaths_wf (wf_of_ite (State.onUserWork_wf hv fun _ hw => State.lightPaths_wf hw) hv)) _ hs)

end Sys2Proof.Machine
end

section
/-!
SUPPORT. Memory keeps its canonical form (log entry 1): Sumac runs (R402 to R410).
-/

namespace Sys2Proof.Machine

theorem execSumacLoad_wf {s : State} (hs : s.mem.wf = true) : NextWf (execSumacLoad s) := by
  refine (nextWf_next _).2 (State.ctxCommand_wf hs _ fun _ _ => ?_)
  dsimp only
  (repeat' split) <;> simp [hs]

theorem execSumacUnload_wf {s : State} (hs : s.mem.wf = true) : NextWf (execSumacUnload s) := by
  refine (nextWf_next _).2 (State.ctxCommand_wf hs _ fun _ _ => ?_)
  split <;> simp [hs]

theorem execSlotUnloadTakesEffect_wf {s : State} (hs : s.mem.wf = true) (chip slot : Nat) :
    NextWf (execSlotUnloadTakesEffect chip slot s) := by
  refine (nextWf_next _).2 ?_
  split
  · exact hs
  · refine wf_of_ite hs ?_
    rw [State.setChip_mem, foldl_mem fun s h => State.slotRecord_mem s _ _ _ _ _ _]
    exact hs

@[simp] theorem State.focusRun_mem (s : State) (n : Nat) : (s.focusRun n).mem = s.mem := by
  rfl

@[simp] theorem State.nextRun_mem (s : State) (n : Nat) : (s.nextRun n).mem = s.mem := by
  unfold State.nextRun
  dsimp only
  split
  · rfl
  · split
    · simp
    · simp

theorem State.runStep_wf {s : State} (hs : s.mem.wf = true) (f : Run → Run) : NextWf (s.runStep f) :=
  (nextWf_next _).2 (wf_of_ite hs hs)

theorem State.endRun_mem (s : State) (f : State → State) : (s.endRun f).mem = (f s).mem := rfl

@[simp] theorem State.runTrap_wf {s : State} (hs : s.mem.wf = true) (cause arg : Nat) :
    (s.runTrap cause arg).mem.wf = true := by
  unfold State.runTrap
  split
  · exact hs
  · refine wf_of_ite hs ?_
    rw [State.endRun_mem]
    exact wf_of_ite (by simpa [State.slotRecord_mem] using hs) (by simpa [State.slotRecord_mem] using hs)

theorem State.withFlow_wf {s : State} (hs : s.mem.wf = true) (f : BitVec 3) {k : Slot → Nat → State → State}
    (hk : ∀ x v, (k x v s).mem.wf = true) : (s.withFlow f k).mem.wf = true := by
  unfold State.withFlow
  split
  · exact hs
  · exact wf_of_ite hs (wf_of_ite (State.runTrap_wf hs _ _) (hk _ _))

@[simp] theorem State.runLeaves_mem (s : State) : s.runLeaves.mem = s.mem := by
  unfold State.runLeaves
  dsimp only
  rw [foldl_mem fun s bs => State.enqueueFlit_mem s _ _, State.setSlot_mem]

theorem State.runForward_wf {s : State} (hs : s.mem.wf = true) (x : Slot) (merged : List Nat) {f : State → State}
    (hf : ∀ u, (f u).mem = u.mem) : (s.runForward x merged f).mem.wf = true := by
  unfold State.runForward
  refine wf_of_ite (State.runTrap_wf hs _ _) (wf_of_ite hs ?_)
  rw [State.endRun_mem, hf, State.enqueueFlit_mem, State.runLeaves_mem]
  exact hs

@[simp] theorem State.unhold_mem (s : State) (flow : Nat) : (s.unhold flow).mem = s.mem := by
  rfl

theorem execBrf_wf {s : State} (hs : s.mem.wf = true) (n : Bool) (o : BitVec 10) : NextWf (execBrf n o s) := by
  simp [execBrf, hs]

theorem execRepeatN_wf {s : State} (hs : s.mem.wf = true) (c : BitVec 5) (l : BitVec 10) : NextWf (execRepeatN c l s) := by
  simp [execRepeatN, hs]

theorem State.runFlags_mem (s : State) (fl : Flags5) (n : Nat) : (s.runFlags fl n).mem = s.mem := by
  unfold State.runFlags
  split <;> simp

theorem State.runReduce_wf {s : State} (hs : s.mem.wf = true) (rop : Nat) (d a b : BitVec 4) (t : KType) :
    NextWf (s.runReduce rop d a b t) := by
  refine (nextWf_next _).2 (wf_of_ite hs ?_)
  rw [State.setRun_mem, State.runFlags_mem]
  exact hs

theorem execKcvt_wf {s : State} (hs : s.mem.wf = true) (d a : BitVec 4) (dt st : KFmt) (p : BitVec 2) :
    NextWf (execKcvt d a dt st p s) := by
  refine (nextWf_next _).2 (wf_of_ite hs ?_)
  rw [State.setRun_mem, State.runFlags_mem]
  exact hs

theorem execFwd_wf {s : State} (hs : s.mem.wf = true) : NextWf (execFwd s) := by
  refine (nextWf_next _).2 ?_
  split
  · exact hs
  · exact wf_of_ite (State.runForward_wf hs _ _ fun _ => rfl) hs

theorem execFwdC_wf {s : State} (hs : s.mem.wf = true) (f : BitVec 3) : NextWf (execFwdC f s) :=
  (nextWf_next _).2 (State.withFlow_wf hs _ fun _ _ => State.runForward_wf hs _ _ fun u => State.unhold_mem u _)

theorem execDrop_wf {s : State} (hs : s.mem.wf = true) : NextWf (execDrop s) := by
  refine (nextWf_next _).2 (wf_of_ite ?_ hs)
  rw [State.endRun_mem, State.runLeaves_mem]
  exact hs

theorem execDropC_wf {s : State} (hs : s.mem.wf = true) (f : BitVec 3) : NextWf (execDropC f s) := by
  refine (nextWf_next _).2 (State.withFlow_wf hs _ fun _ _ => wf_of_ite hs ?_)
  rw [State.endRun_mem, State.unhold_mem, State.runLeaves_mem]
  exact hs

theorem execEmit_wf {s : State} (hs : s.mem.wf = true) (a : BitVec 3) : NextWf (execEmit a s) := by
  refine (nextWf_next _).2 ?_
  split <;> simp [hs]

theorem execHold_wf {s : State} (hs : s.mem.wf = true) (f : BitVec 3) : NextWf (execHold f s) := by
  refine (nextWf_next _).2 (State.withFlow_wf hs _ fun _ _ => wf_of_ite hs ?_)
  rw [State.endRun_mem, State.setSlot_mem]
  split <;> simp [hs]

theorem execKtrap_wf {s : State} (hs : s.mem.wf = true) (c : BitVec 16) : NextWf (execKtrap c s) := by
  simp [execKtrap, hs]

end Sys2Proof.Machine
end

section
/-!
SUPPORT. Memory keeps its canonical form (log entry 1): bring-up, power, reset and time (R374, R376, R424, R425, R446).
-/

namespace Sys2Proof.Machine

@[simp] theorem State.cutSeams_mem (s : State) (ns : List Nat) : (s.cutSeams ns).mem = s.mem := by
  rfl

theorem execSettReset_wf {s : State} (hs : s.mem.wf = true) (sett : Nat) (selfTest : List Defect) :
    NextWf (execSettReset sett selfTest s) := by
  simp [execSettReset, hs]

theorem execRegisterWordCorrectionLimit_wf {s : State} (hs : s.mem.wf = true) (sett core column bank : Nat) :
    NextWf (execRegisterWordCorrectionLimit sett core column bank s) := by
  simp [execRegisterWordCorrectionLimit, hs]

theorem execSeamLinkLockLoss_wf {s : State} (hs : s.mem.wf = true) (seam link : Nat) :
    NextWf (execSeamLinkLockLoss seam link s) := by
  simp [execSeamLinkLockLoss, hs]

theorem execPowerOn_wf {s : State} (hs : s.mem.wf = true) (selfTest : List Defect) : NextWf (execPowerOn selfTest s) := by
  simp [execPowerOn, hs]

theorem execPowerLoss_wf (s : State) (torn : List Nat) : NextWf (execPowerLoss torn s) :=
  (nextWf_next _).2 rfl

theorem execUcieLinkUp_wf {s : State} (hs : s.mem.wf = true) (site lo hi : Nat) : NextWf (execUcieLinkUp site lo hi s) := by
  refine (nextWf_next _).2 ?_
  split <;> simp [hs]

@[simp] theorem State.lockServo_mem (s : State) : (s.lockServo).mem = s.mem := by
  rfl

theorem execGrandmaster_wf {s : State} (hs : s.mem.wf = true) : NextWf (execGrandmaster s) := by
  simp [execGrandmaster, hs]

theorem execPtpMessage_wf {s : State} (hs : s.mem.wf = true) (p : PtpMsg) : NextWf (execPtpMessage p s) := by
  simp [execPtpMessage, hs]

theorem execGtcskewRecompute_wf {s : State} (hs : s.mem.wf = true) (asymmetry : Nat) :
    NextWf (execGtcskewRecompute asymmetry s) := by
  simp [execGtcskewRecompute, hs]

theorem execPtpLockLost_wf {s : State} (hs : s.mem.wf = true) : NextWf (execPtpLockLost s) := by
  simp [execPtpLockLost, hs]

theorem execGtcskewHoldover_wf {s : State} (hs : s.mem.wf = true) : NextWf (execGtcskewHoldover s) := by
  simp [execGtcskewHoldover, hs]

theorem execRegisterWordError_wf {s : State} (hs : s.mem.wf = true) (lane : Nat) (word : Option Nat) (double : Bool) :
    NextWf (execRegisterWordError lane word double s) := by
  simp [execRegisterWordError, hs]

end Sys2Proof.Machine
end

section
/-!
SUPPORT. Memory keeps its canonical form (log entry 1): every instruction, every fetch and every turn.
-/

namespace Sys2Proof.Machine

/-- What an instruction leaves has memory in its canonical form, where the state it runs in has. -/
theorem exec_wf {s : State} (hs : s.mem.wf = true) (i : Instr) : NextWf (exec i s) := by
  cases i with
  | sadd | ssub | smul | smulh | smulhn | sdiv | sdivn | srem | sremn | sand | sor | sxor | sshl | sshr | ssra | smin
  | smax | sminn | smaxn => exact (nextWf_next _).2 (aluRR_wf hs _ _ _ _)
  | scmp | ssel | scmpi | sli => exact (nextWf_next _).2 (State.whenReady_wf hs (by simpa using hs))
  | sclz | spopc | saddi | sandi | sori | sxori | sshli | sshri | ssrai => exact (nextWf_next _).2 (aluR_wf hs _ _ _ _)
  | sext => exact execSext_wf hs _
  | sbr => exact (nextWf_next _).2 (wf_of_ite (State.jump_wf hs _ _ _) (by simpa using hs))
  | sjmp => exact (nextWf_next _).2 (State.jump_wf hs _ _ _)
  | scall | sret | sjmpr => exact (nextWf_next _).2 (State.whenReady_wf hs (State.jump_wf hs _ _ _))
  | sloop => exact execSloop_wf hs _ _ _
  | sldw | sldd => exact (nextWf_next _).2 (load_wf hs _ _ _ _ _)
  | sstw | sstd => exact (nextWf_next _).2 (store_wf hs _ _ _ _ _)
  | satom => exact execSatom_wf hs _ _ _ _ _ _
  | lgo => exact execLgo_wf hs _
  | srd => exact (nextWf_next _).2 (sysRead_wf hs _ _ _)
  | swr => exact (nextWf_next _).2 (sysWrite_wf hs _ _ _)
  | trap => exact (nextWf_next _).2 (State.takeTrap_wf hs _)
  | waitt => exact execWaitt_wf hs _
  | chdef => exact execChdef_wf hs _ _ _ _
  | chadvP => exact execChadvP_wf hs _ _
  | chadvC => exact execChadvC_wf hs _ _
  | chwaitCnt | chwaitRoom => exact (nextWf_next _).2 (chwait_wf hs _ _ _)
  | mvcopy => exact execMvcopy_wf hs _ _
  | mvgath => exact execMvgath_wf hs _
  | mvfill => exact execMvfill_wf hs _
  | tmma => exact execTmma_wf hs _ _ _ _ _ _
  | taccZero | taccLoad | taccStore | taccStoreBf16 | taccStoreE4m3 =>
    exact (nextWf_next _).2 (taccInstr_wf _ _ _ _ hs)
  | twait => exact execTwait_wf hs _ _
  | spanopen => exact execSpanopen_wf hs _
  | spanmma => exact execSpanmma_wf hs _ _ _ _ _
  | dfence => exact execDfence_wf hs _ _
  | qpost => exact execQpost_wf hs _ _
  | cntset => exact execCntset_wf hs _ _
  | cntadd => exact execCntadd_wf hs _ _ _ _
  | cntwait => exact execCntwait_wf hs _ _
  | cntwaitNowait => exact execCntwaitNowait_wf hs _ _ _
  | barx => exact execBarx_wf hs _ _
  | spmap => exact execSpmap_wf hs _ _ _
  | spunmap => exact execSpunmap_wf hs _ _
  | spmig => exact execSpmig_wf hs _ _
  | tlaunch => exact execTlaunch_wf hs _
  | phint => exact execPhint_wf hs _
  | pgmap => exact execPgmap_wf hs _ _ _ _ _ _ _
  | enres => exact execEnres_wf hs _
  | enresNowait => exact execEnresNowait_wf hs _ _
  | fstatWrite | fmodeWrite | srseedWrite | pkrWrite | loopRegisterWrite =>
    exact (nextWf_next _).2 (userWrite_wf hs _ _ _)
  | vadd | vsub | vmul | vmulh | vmad | vmin | vmax | vabs | vneg => exact (nextWf_next _).2 (laneInt_wf _ _ _ _ hs)
  | vand | vor | vxor | vnot | vclz | vpopc => exact (nextWf_next _).2 (laneBits_wf _ _ _ hs)
  | vshl | vshr | vsra | vrol => exact (nextWf_next _).2 (laneShift_wf _ _ _ hs)
  | vbfx | vbfi | vdot4 | vsel | vmov | vli | vfsgn => exact (nextWf_next _).2 (State.laneResult_wf hs _ _ _ _ _)
  | vcmp => exact execVcmp_wf hs _ _
  | plop => exact execPlop_wf hs _ _
  | vshfl | vbcast | vscan => exact (nextWf_next _).2 (State.crossResult_wf hs _ _ _ _ _ _)
  | vreduce => exact execVreduce_wf hs _ _
  | vvote => exact execVvote_wf hs _ _
  | bra | brx => exact (nextWf_next _).2 (laneBranch_wf _ _ hs)
  | skip => exact execSkip_wf hs _ _
  | join => exact execJoin_wf hs _
  | lend => exact execLend_wf hs _
  | yieldl => exact execYieldl_wf hs _
  | ltrap => exact execLtrap_wf hs _ _
  | vfadd | vfsub | vfmul | vfma | vfmin | vfmax | vfdiv | vfsqrt | vfrnd =>
    exact (nextWf_next _).2 (laneFp_wf _ _ _ _ hs)
  | vfrcp | vfrsq | vfexp2 | vflog2 | vfsin | vfcos => exact (nextWf_next _).2 (laneFn_wf _ _ _ hs)
  | vfclass | vfexpo => exact (nextWf_next _).2 (laneProbe_wf _ _ _ hs)
  | vcvt => exact execVcvt_wf hs _ _
  | vpack | vunpk => exact (nextWf_next _).2 (lanePack_wf _ _ _ _ hs)
  | vld | vst | vatom | vcas | fld | fst => exact (nextWf_next _).2 (laneMemory_wf _ _ _ hs)
  | vpref => exact execVpref_wf hs _ _
  | fence => exact execFence_wf hs _ _
  | bar => exact execBar_wf hs _ _
  | fmma => exact execFmma_wf hs _
  | watchdogFire => exact execWatchdogFire_wf hs _
  | lineArrival => exact execLineArrival_wf hs _ _
  | globalRequest => exact execGlobalRequest_wf hs _
  | globalReply => exact execGlobalReply_wf hs _ _
  | engineCommandFire => exact execEngineCommandFire_wf hs _
  | moverOperationComplete => exact execMoverOperationComplete_wf hs _ _
  | matrixOperationComplete => exact execMatrixOperationComplete_wf hs _
  | spanRoundComplete => exact execSpanRoundComplete_wf hs _
  | cleEntryComplete => exact execCleEntryComplete_wf hs _ _ _
  | cleEntryFaulted => exact execCleEntryFaulted_wf hs _ _
  | remoteCounterIncrement => exact execRemoteCounterIncrement_wf hs _
  | barxArrival => exact execBarxArrival_wf hs _
  | releaseFlagApply => exact execReleaseFlagApply_wf hs _
  | controlMessageReceived => exact execControlMessageReceived_wf hs _ _
  | faultEventPost => exact execFaultEventPost_wf hs _
  | faultCompletionEntry => exact execFaultCompletionEntry_wf hs _
  | stopCut => exact execStopCut_wf hs _
  | save => exact execSave_wf hs _
  | userQueueDoorbell => exact execUserQueueDoorbell_wf hs _ _ _
  | packetStart => exact execPacketStart_wf hs _
  | gangPlacement => exact execGangPlacement_wf hs _
  | gridComplete => exact execGridComplete_wf hs _
  | tailChildStart => exact execTailChildStart_wf hs _
  | hostMemoryAccess => exact execHostMemoryAccess_wf hs _ _ _
  | hostRingDoorbell => exact execHostRingDoorbell_wf hs _ _
  | energyCharge => exact execEnergyCharge_wf hs _ _
  | clusterPowerDown => exact execClusterPowerDown_wf hs _ _
  | inrushTokenRelease => exact execInrushTokenRelease_wf hs _
  | collectiveRunStart => exact execCollectiveRunStart_wf hs _
  | chunkCommit => exact execChunkCommit_wf hs _
  | collectiveDeadlineExpiry => exact execCollectiveDeadlineExpiry_wf hs _
  | collectiveLossEnd => exact execCollectiveLossEnd_wf hs _
  | collectiveRecovery => exact execCollectiveRecovery_wf hs _
  | abortApply => exact execAbortApply_wf hs _ _
  | abortFinish => exact execAbortFinish_wf hs _
  | linkFlitReceived => exact execLinkFlitReceived_wf hs _ _
  | linkDown => exact execLinkDown_wf hs _
  | linkLossOfLock => exact execLinkLossOfLock_wf hs _
  | retrainRequest => exact execRetrainRequest_wf hs _ _ _ _
  | retrainComplete => exact execRetrainComplete_wf hs _ _ _ _ _
  | deliveryTimeout => exact execDeliveryTimeout_wf hs _
  | controlMessageTimeout => exact execControlMessageTimeout_wf hs _ _
  | flitTraversal => exact execFlitTraversal_wf hs _ _ _
  | voqTransmit => exact execVoqTransmit_wf hs _ _
  | circuitLit => exact execCircuitLit_wf hs _
  | slotUnloadTakesEffect => exact execSlotUnloadTakesEffect_wf hs _ _
  | ldp | stp | ldh | xadd | xaddImm | xsub | xsubImm | xand | xandImm | xli | xcmp | xcmpImm =>
    exact State.runStep_wf hs _
  | ldpH | ldf | stf => exact (nextWf_next _).2 (State.withFlow_wf hs _ fun _ _ => hs)
  | brf => exact execBrf_wf hs _ _
  | repeatN => exact execRepeatN_wf hs _ _
  | kadd | kmax | kmin => exact State.runReduce_wf hs _ _ _ _ _
  | kcvt => exact execKcvt_wf hs _ _ _ _ _
  | fwdC => exact execFwdC_wf hs _
  | dropC => exact execDropC_wf hs _
  | emit => exact execEmit_wf hs _
  | hold => exact execHold_wf hs _
  | ktrap => exact execKtrap_wf hs _
  | inboundUeOperation => exact execInboundUeOperation_wf hs _
  | ueConnectionSetup => exact execUeConnectionSetup_wf hs _ _ _
  | ptpMessage => exact execPtpMessage_wf hs _
  | gtcskewRecompute => exact execGtcskewRecompute_wf hs _
  | settReset => exact execSettReset_wf hs _ _
  | registerWordCorrectionLimit => exact execRegisterWordCorrectionLimit_wf hs _ _ _ _
  | seamLinkLockLoss => exact execSeamLinkLockLoss_wf hs _ _
  | ucieLinkUp => exact execUcieLinkUp_wf hs _ _ _
  | registerWordError => exact execRegisterWordError_wf hs _ _ _
  | powerOn => exact execPowerOn_wf hs _
  | powerLoss => exact execPowerLoss_wf _ _
  | sleave => exact execSleave_wf hs
  | shalt => exact execShalt_wf hs
  | lwait => exact execLwait_wf hs
  | tret => exact execTret_wf hs
  | tfence => exact execTfence_wf hs
  | tarrive => exact execTarrive_wf hs
  | spanclose => exact execSpanclose_wf hs
  | sliceExpiry => exact execSliceExpiry_wf hs
  | spinDetectorFlag => exact execSpinDetectorFlag_wf hs
  | spanRendezvous => exact execSpanRendezvous_wf hs
  | spanRoundFire => exact execSpanRoundFire_wf hs
  | handlerEntry => exact execHandlerEntry_wf hs
  | ctxCreate => exact execCtxCreate_wf hs
  | ctxDestroy => exact execCtxDestroy_wf hs
  | bind => exact execBind_wf hs
  | pagetable => exact execPagetable_wf hs
  | poolAdd => exact execPoolAdd_wf hs
  | queue => exact execQueue_wf hs
  | handlers => exact execHandlers_wf hs
  | eventq => exact execEventq_wf hs
  | complq => exact execComplq_wf hs
  | stop => exact execStop_wf hs
  | restore => exact execRestore_wf hs
  | timetable => exact execTimetable_wf hs
  | sumacLoad => exact execSumacLoad_wf hs
  | sumacUnload => exact execSumacUnload_wf hs
  | collective => exact execCollective_wf hs
  | abort => exact execAbort_wf hs
  | grandmaster => exact execGrandmaster_wf hs
  | grant => exact execGrant_wf hs
  | snapshot => exact execSnapshot_wf hs
  | statement => exact execStatement_wf hs
  | quote => exact execQuote_wf hs
  | watchdog => exact execWatchdog_wf hs
  | harea => exact execHarea_wf hs
  | timetableTakesEffect => exact execTimetableTakesEffect_wf hs
  | phaseChange => exact execPhaseChange_wf hs
  | fwd => exact execFwd_wf hs
  | drop => exact execDrop_wf hs
  | ptpLockLost => exact execPtpLockLost_wf hs
  | gtcskewHoldover => exact execGtcskewHoldover_wf hs
  | waittGtcReached => exact execWaittGtcReached_wf hs

/-! ### Turns -/

/-- Memory is in its canonical form in the state that a fetch leaves, if it leaves one. -/
@[simp] def Fetched.Wf : Fetched → Prop
  | .run _ s => s.mem.wf = true
  | .stay s => s.mem.wf = true
  | .nobody => True

theorem Fetched.Wf.ite {c : Prop} [Decidable c] {x y : Fetched} (hx : x.Wf) (hy : y.Wf) : (if c then x else y).Wf := by
  split <;> assumption

theorem runFetched_wf {x : Fetched} (hx : x.Wf) : NextWf (runFetched x) := by
  cases x with
  | run i s => exact exec_wf hx i
  | stay s => exact (nextWf_next _).2 hx
  | nobody => exact fun _ h => nomatch h

theorem State.fetchScalar_wf {s : State} (hs : s.mem.wf = true) : s.fetchScalar.Wf := by
  unfold State.fetchScalar
  refine Fetched.Wf.ite hs (Fetched.Wf.ite (State.resolvePending_wf hs) (Fetched.Wf.ite hs ?_))
  split
  · exact hs
  split
  · exact wf_of_ite (by simpa using hs) (State.trap_wf hs _ _)
  split
  · exact State.illegal_wf hs
  · exact hs

theorem State.fetchLaneWord_wf {s : State} (hs : s.mem.wf = true) (part : Option Nat) : (s.fetchLaneWord part).Wf := by
  unfold State.fetchLaneWord
  extract_lets u t
  have hu : u.mem.wf = true := by simpa [u] using hs
  clear_value u t
  refine Fetched.Wf.ite hu (Fetched.Wf.ite (State.resolvePending_wf hu) (Fetched.Wf.ite (State.boundary_wf hu _ _) ?_))
  split
  · exact State.settle_wf hu
  refine Fetched.Wf.ite hu (Fetched.Wf.ite hu (Fetched.Wf.ite hu ?_))
  split
  · exact wf_of_ite (by simpa using hu) (State.faultPath_wf hu _ _ _)
  split
  · exact State.faultPath_wf hu _ _ _
  · exact Fetched.Wf.ite (State.faultPath_wf hu _ _ _) hu

theorem State.fetchCommand_wf {s : State} (hs : s.mem.wf = true) (site : Nat) : (s.fetchCommand site).Wf := by
  unfold State.fetchCommand
  split
  · trivial
  refine Fetched.Wf.ite hs ?_
  extract_lets k w u
  have hu : u.mem.wf = true := hs
  clear_value u
  split
  · exact State.hostDone_wf hu _
  · exact Fetched.Wf.ite (State.hostDone_wf hu _) (Fetched.Wf.ite (State.hostDone_wf hu _) hu)

theorem State.fetchSumac_wf {s : State} (hs : s.mem.wf = true) (n : Nat) : (s.fetchSumac n).Wf := by
  have hf : (s.focusRun n).mem.wf = true := by simpa using hs
  unfold State.fetchSumac
  refine Fetched.Wf.ite trivial (Fetched.Wf.ite ?_ (by simpa using hf))
  split <;> exact hf

theorem State.fetchAct_wf {s : State} (hs : s.mem.wf = true) (a : Act) : (s.fetchAct a).Wf := by
  have hf (uid : Nat) : (s.focus uid).mem.wf = true := by simpa using hs
  cases a with
  | scalar uid => exact Fetched.Wf.ite (State.fetchScalar_wf (hf uid)) trivial
  | lanes uid => exact Fetched.Wf.ite (State.fetchLaneWord_wf (hf uid) none) trivial
  | lanePart uid n => exact Fetched.Wf.ite (State.fetchLaneWord_wf (hf uid) (some n)) trivial
  | sumac n => exact State.fetchSumac_wf hs n
  | ring site => exact State.fetchCommand_wf hs site
  | event uid i => exact Fetched.Wf.ite trivial (Fetched.Wf.ite (Fetched.Wf.ite (hf uid) trivial) hs)
  | idle => exact hs

theorem State.nextTurn_mem (s : State) : s.nextTurn.2.mem = s.mem := by
  unfold State.nextTurn
  split <;> rfl

/-- A turn taken where memory is in its canonical form leaves it so. -/
theorem step_wf {s : State} (hs : s.mem.wf = true) : NextWf (step s) :=
  runFetched_wf (State.fetchAct_wf (State.arriveReady_wf (by rwa [State.elapse, State.nextTurn_mem])) _)

end Sys2Proof.Machine
end

section

open Sys2Proof Sys2Proof.Machine

/-- Settles O60: every instruction leaves memory in its canonical form, and so does every fetch. -/
theorem stepKeepsMemory : Obligations.StepKeepsMemory := by
  unfold Obligations.StepKeepsMemory
  exact fun _ _ hs hstep => step_wf hs _ hstep

end
